-- ==== Sys2Proof/Word.lean ====
section
/-!
DEFINITION. Word types of the Ovlen architecture (R5): a byte is 8 bits, a word 32 bits, and a 64-bit value
occupies an even-odd register pair.
-/

namespace Sys2Proof

/-- A register or memory word (R5). -/
abbrev Word := BitVec 32

/-- A byte (R5). -/
abbrev Byte := BitVec 8

/-- A 64-bit value, held in registers as an even-odd pair (R5). -/
abbrev DWord := BitVec 64

end Sys2Proof
end

