-- ==== Sys2Proof/Machine/Bits.lean ====
section
/-!
DEFINITION. Bytes, words and bit fields: little-endian order (R4, R5), sign and zero extension (R324).
-/

namespace Sys2Proof

/-- A word from its four bytes, the first the least significant (R4). -/
def leWord (b0 b1 b2 b3 : Byte) : Word :=
  BitVec.ofNat 32 (b0.toNat + 0x100 * b1.toNat + 0x10000 * b2.toNat + 0x1000000 * b3.toNat)

/-- The number that a list of bytes holds, the first byte the least significant (R4). -/
def leNat : List Byte → Nat
  | [] => 0
  | b :: bs => b.toNat + 0x100 * leNat bs

/-- The `n` low bytes of a number, least significant first (R4). -/
def leBytes : Nat → Nat → List Byte
  | 0, _ => []
  | n + 1, x => BitVec.ofNat 8 x :: leBytes n (x / 0x100)

/-- The low `w` bits of `x`, sign-extended to 32 bits (R324). -/
def sextW (w : Nat) (x : Nat) : Word :=
  if x % 2 ^ w < 2 ^ (w - 1) then BitVec.ofNat 32 (x % 2 ^ w)
  else BitVec.ofNat 32 (x % 2 ^ w + (2 ^ 32 - 2 ^ w))

/-- The low `w` bits of `x` as a signed integer. -/
def sintOf (w : Nat) (x : Nat) : Int :=
  if x % 2 ^ w < 2 ^ (w - 1) then (x % 2 ^ w : Nat) else ((x % 2 ^ w : Nat) : Int) - (2 ^ w : Nat)

/-- A word as a signed integer (R210). -/
def sint (x : Word) : Int := sintOf 32 x.toNat

/-- Bit field `h:l` of a number (R4). -/
def bits (x h l : Nat) : Nat := x / 2 ^ l % 2 ^ (h - l + 1)

/-- One bit of a number. -/
def bitAt (x n : Nat) : Bool := x / 2 ^ n % 2 == 1

/-- The 64-bit value of a register pair: the even register holds bits 31:0 (R5). -/
def pairNat (lo hi : Word) : Nat := lo.toNat + 0x100000000 * hi.toNat

/-- Ceiling division. -/
def ceilDiv (a b : Nat) : Nat := (a + b - 1) / b

/-- Replaces element `n` of a list; a list too short is unchanged. -/
def setAt {α : Type} : List α → Nat → α → List α
  | [], _, _ => []
  | _ :: xs, 0, y => y :: xs
  | x :: xs, n + 1, y => x :: setAt xs n y

/-- The bits of a natural number that are set, ascending, among the lowest `n`. -/
def setBits (n x : Nat) : List Nat := (List.range n).filter (bitAt x)

end Sys2Proof
end

