-- ==== Sys2Proof/Syntax.lean ====
section
/-!
DEFINITION. The instructions and the device events of the Ovlen architecture: one constructor of `Instr` for each row of
the opcode table. Rows with a word carry its operand fields; the ten two-word rows carry the extension word (R306); the
61 event rows have no word and carry the plain data that says which unit the event happens to.
-/

namespace Sys2Proof

/-! ### Named codes of instruction fields -/

/-- Bits 24:22 and 21 of a word: a predicate and its negation (R303). -/
structure Guard where
  p : Fin 8
  neg : Bool
deriving DecidableEq, Repr

/-- The B source of an LR word: a v register, or a k register of the thread's crew when KB = 1 (R309). -/
inductive Src where
  | v (n : Fin 64)
  | k (n : Fin 64)
deriving DecidableEq, Repr

/-- Conditions of `ICMP` and `KCMP` (R312). -/
inductive Cond where
  | eq | ne | ltS | leS | gtS | geS | ltN | geN
deriving DecidableEq, Repr

/-- Conditions of `FCMP` (R312). -/
inductive FCond where
  | eq | ne | lt | le | gt | ge | num | nan
deriving DecidableEq, Repr

/-- How a compare combines with its destination predicate (R312). -/
inductive Comb where
  | set | and | or
deriving DecidableEq, Repr

/-- Function codes of `FSFN` (R219). -/
inductive SfnCode where
  | rcp | rsq | sqrt | exp2 | log2 | sinpi | cospi | tanh
deriving DecidableEq, Repr

/-- Conversion codes of `CVT` (R217). -/
inductive CvtCode where
  | s32F32 | n32F32 | f32S32 | f32N32 | f16F32 | f32F16 | bf16F32 | f32Bf16
  | f16x2F32 | bf16x2F32 | bf16x4E4m3 | f16x4E5m2 | f16x8E2m1 | f16x4S8
deriving DecidableEq, Repr

/-- Rounding modes (R211, R216). -/
inductive RMode where
  | rn | rz | rm | rp
deriving DecidableEq, Repr

/-- Forms of `SHFL` (R405). -/
inductive ShflMode where
  | idx | up | down | xor
deriving DecidableEq, Repr

/-- Forms of `CREDUCE` (R345). -/
inductive RedForm where
  | reduce | inc | exc
deriving DecidableEq, Repr

/-- Operations of `CREDUCE` (R345). -/
inductive RedOp where
  | add | minS | maxS | minN | maxN | and | or | xor | addF32 | maxF32 | minF32
deriving DecidableEq, Repr

/-- Operations of `ATOM` and `RED`, the AOP field (R311, R329). -/
inductive AtomOp where
  | add | minS | maxS | minN | maxN | and | or | xor | exch | addF32 | maxF32
deriving DecidableEq, Repr

/-- Scopes of atomics, the SC field (R123, R304). -/
inductive Scope where
  | team | cluster | device | system
deriving DecidableEq, Repr

/-- Levels of `CMT` and `ACQ` (R128). -/
inductive CmtLevel where
  | team | cluster | device | system
deriving DecidableEq, Repr

/-- Levels of `ABT` (R128). -/
inductive AbtLevel where
  | crew | team | cluster
deriving DecidableEq, Repr

/-- Levels of `BAR` (R149). -/
inductive BarLevel where
  | crew | team | cluster | grid
deriving DecidableEq, Repr

/-- Tests of `BSTAT` (R314). -/
inductive BTest where
  | nan | inf | sat | snan | any | clean
deriving DecidableEq, Repr

/-- Special registers, by the table of R315. -/
inductive SReg where
  | lane | tid | crew | ncrew | teamX | teamY | teamZ | nteamX | nteamY | nteamZ | role | core | cluster | speed
  | share | depth | clockLo | clockHi | fdepth | prio | sat | cflict | stragId | stragWait | cause | trapc | trapv
  | copies | gen | node
  | bphaseT (n : Fin 16) | bphaseC (n : Fin 32) | bphaseG (n : Fin 4)
deriving DecidableEq, Repr

/-! ### Operand shapes -/

/-- LR word with destination, A source and B source (R304, R309). -/
structure OpReg3 where
  g : Guard
  d : Fin 64
  a : Fin 64
  b : Src
deriving DecidableEq, Repr

/-- LR word with destination and A source. -/
structure OpReg2 where
  g : Guard
  d : Fin 64
  a : Fin 64
deriving DecidableEq, Repr

/-- LR word with destination and B source (`MOV`). -/
structure OpMov where
  g : Guard
  d : Fin 64
  b : Src
deriving DecidableEq, Repr

/-- LR word that names one v register in A. -/
structure OpReg1 where
  g : Guard
  a : Fin 64
deriving DecidableEq, Repr

/-- LI or UI word with a direct signed immediate (R304, R306). -/
structure OpImm9 where
  g : Guard
  d : Fin 64
  a : Fin 64
  imm : BitVec 9
deriving DecidableEq, Repr

/-- LI or UI word whose immediate stands in the extension word (R306). -/
structure OpExt where
  g : Guard
  d : Fin 64
  a : Fin 64
  imm : Word
deriving DecidableEq, Repr

/-- Shift by an immediate amount (R311, R313). -/
structure OpShift where
  g : Guard
  d : Fin 64
  a : Fin 64
  s : Fin 32
deriving DecidableEq, Repr

/-- LW or UW word with a direct signed 15-bit immediate. -/
structure OpImm15 where
  g : Guard
  d : Fin 64
  imm : BitVec 15
deriving DecidableEq, Repr

/-- LW or UW word whose immediate stands in the extension word. -/
structure OpExt15 where
  g : Guard
  d : Fin 64
  imm : Word
deriving DecidableEq, Repr

/-- Integer compare of a register with the B source (R363). -/
structure OpCmp where
  g : Guard
  comb : Comb
  cond : Cond
  pd : Fin 8
  a : Fin 64
  b : Src
deriving DecidableEq, Repr

/-- FP32 compare (R353). -/
structure OpFcmp where
  g : Guard
  comb : Comb
  cond : FCond
  pd : Fin 8
  a : Fin 64
  b : Src
deriving DecidableEq, Repr

/-- Integer compare with a direct immediate (R363). -/
structure OpCmpImm where
  g : Guard
  cond : Cond
  pd : Fin 8
  a : Fin 64
  imm : BitVec 9
deriving DecidableEq, Repr

/-- Integer compare with an extension word (R363). -/
structure OpCmpExt where
  g : Guard
  cond : Cond
  pd : Fin 8
  a : Fin 64
  imm : Word
deriving DecidableEq, Repr

/-- `FSFN` (R219). -/
structure OpSfn where
  g : Guard
  d : Fin 64
  a : Fin 64
  fn : SfnCode
deriving DecidableEq, Repr

/-- `CVT` (R216). -/
structure OpCvt where
  g : Guard
  mode : RMode
  d : Fin 64
  a : Fin 64
  code : CvtCode
deriving DecidableEq, Repr

/-- `QSCL` (R218); `e5m2` is FN = 1. -/
structure OpQscl where
  g : Guard
  e5m2 : Bool
  d : Fin 64
  a : Fin 64
  b : Src
deriving DecidableEq, Repr

/-- `LEA` (R383); `s` is the FN field, the shift code. -/
structure OpLea where
  g : Guard
  s : Fin 4
  d : Fin 64
  a : Fin 64
  b : Src
deriving DecidableEq, Repr

/-- `SHFL` (R405). -/
structure OpShfl where
  g : Guard
  mode : ShflMode
  d : Fin 64
  a : Fin 64
  b : Src
deriving DecidableEq, Repr

/-- `VOTE.ALL` and `VOTE.ANY` (R418). -/
structure OpVote where
  g : Guard
  any : Bool
  pd : Fin 8
  pa : Fin 8
deriving DecidableEq, Repr

/-- `VOTE.BALLOT` (R418). -/
structure OpBallot where
  g : Guard
  d : Fin 64
  pa : Fin 8
deriving DecidableEq, Repr

/-- `CREDUCE` (R345). -/
structure OpCreduce where
  g : Guard
  form : RedForm
  d : Fin 64
  a : Fin 64
  op : RedOp
deriving DecidableEq, Repr

/-- An LR word whose only operand is a destination predicate (`ELECT`, R348). -/
structure OpPred where
  g : Guard
  pd : Fin 8
deriving DecidableEq, Repr

/-- `SRD` and `KSRD` (R376, R409). -/
structure OpSrd where
  g : Guard
  d : Fin 64
  sr : SReg
deriving DecidableEq, Repr

/-- LM word: data register, address register, size code and scaled offset (R304, R305). -/
structure OpMem where
  g : Guard
  d : Fin 64
  a : Fin 64
  sz : Fin 8
  off : Fin 64
deriving DecidableEq, Repr

/-- LM word without a data register (`PREF`, R396). -/
structure OpPref where
  g : Guard
  a : Fin 64
  sz : Fin 8
  off : Fin 64
deriving DecidableEq, Repr

/-- `TRAV` (R415): result or node register, first query register, even k pair of the base. -/
structure OpTrav where
  g : Guard
  d : Fin 64
  a : Fin 64
  b : Fin 64
deriving DecidableEq, Repr

/-- Blocking `SPAWN` (R167). -/
structure OpSpawn where
  g : Guard
  a : Fin 64
  b : Src
deriving DecidableEq, Repr

/-- `SPAWN.NB` (R167). -/
structure OpSpawnNb where
  g : Guard
  pd : Fin 8
  a : Fin 64
  b : Src
deriving DecidableEq, Repr

/-- `RECLD` (R174): `n` is the FN field, the number of words minus one. -/
structure OpRecld where
  g : Guard
  n : Fin 4
  d : Fin 64
  w : Fin 16
deriving DecidableEq, Repr

/-- LA word of `ATOM` and `RED` (R304, R329, R400). -/
structure OpAtom where
  g : Guard
  d : Fin 64
  a : Fin 64
  op : AtomOp
  sc : Scope
  w : Bool
deriving DecidableEq, Repr

/-- LA word of `CAS` (R341). -/
structure OpCas where
  g : Guard
  d : Fin 64
  a : Fin 64
  sc : Scope
  w : Bool
deriving DecidableEq, Repr

/-- `CMT` (R128). -/
structure OpCmt where
  g : Guard
  level : CmtLevel
  x : Bool
  pd : Fin 8
deriving DecidableEq, Repr

/-- `ABT` (R128). -/
structure OpAbt where
  g : Guard
  level : AbtLevel
deriving DecidableEq, Repr

/-- `ACQ` (R128). -/
structure OpAcq where
  g : Guard
  level : CmtLevel
deriving DecidableEq, Repr

/-- `BAR` (R149). -/
structure OpBar where
  g : Guard
  level : BarLevel
  id : Fin 64
  cmt : Bool
  acq : Bool
deriving DecidableEq, Repr

/-- `BARA` (R155). -/
structure OpBara where
  g : Guard
  level : BarLevel
  id : Fin 64
  d : Fin 64
  b : Src
deriving DecidableEq, Repr

/-- `BARW` (R156). -/
structure OpBarw where
  g : Guard
  a : Fin 64
  acq : Bool
deriving DecidableEq, Repr

/-- LB or UB word: a signed 21-bit word offset (R304). -/
structure OpBra where
  g : Guard
  off : BitVec 21
deriving DecidableEq, Repr

/-- LC word: link register and signed 15-bit word offset (R304). -/
structure OpCall where
  g : Guard
  d : Fin 64
  off : BitVec 15
deriving DecidableEq, Repr

/-- `TRAP` with a direct number (R272). -/
structure OpTrap where
  g : Guard
  n : BitVec 15
deriving DecidableEq, Repr

/-- `TRAP` with the number in the extension word (R272). -/
structure OpTrapExt where
  g : Guard
  n : Word
deriving DecidableEq, Repr

/-- UR word with three k registers. -/
structure OpK3 where
  g : Guard
  d : Fin 64
  a : Fin 64
  b : Fin 64
deriving DecidableEq, Repr

/-- `KCMP` (R370). -/
structure OpKcmp where
  g : Guard
  comb : Comb
  cond : Cond
  qd : Fin 8
  a : Fin 64
  b : Fin 64
deriving DecidableEq, Repr

/-- `KMOV kd, kb` and `KMOV.V kd, vb` (R373). -/
structure OpKmov where
  g : Guard
  d : Fin 64
  b : Fin 64
deriving DecidableEq, Repr

/-- `KLD` and `KST` (R371); `wide` is SZ = 3. -/
structure OpKmem where
  g : Guard
  d : Fin 64
  a : Fin 64
  wide : Bool
  off : Fin 64
deriving DecidableEq, Repr

/-- `BSTAT` (R339). -/
structure OpBstat where
  g : Guard
  a : Fin 64
  t : BTest
  off : BitVec 12
deriving DecidableEq, Repr

/-- UE word that carries a block address and a guard slot (R225). -/
structure OpBlock where
  g : Guard
  kp : Fin 64
  gs : Fin 8
  ge : Bool
deriving DecidableEq, Repr

/-- UE word that names one k register and nothing else (`CPYQ`, `LAUNCH`). -/
structure OpKp where
  g : Guard
  kp : Fin 64
deriving DecidableEq, Repr

/-- `CPYQ.W` (R344). -/
structure OpCpyqW where
  g : Guard
  kp : Fin 64
  n : Fin 256
deriving DecidableEq, Repr

/-- `MMAZ` and `MMAZ.REL` (R388). -/
structure OpMmaz where
  g : Guard
  gs : Fin 8
  ge : Bool
  bank : Fin 2
deriving DecidableEq, Repr

/-- `FILLDONE` and `FILLFAIL` (R195): `n` is entries minus one. -/
structure OpFill where
  g : Guard
  kp : Fin 64
  n : Fin 8
deriving DecidableEq, Repr

/-- `GSET` and `GSET.NOT` (R228). -/
structure OpGset where
  g : Guard
  gs : Fin 8
  qa : Fin 8
deriving DecidableEq, Repr

/-- `GSET.CLR` (R228). -/
structure OpGsetClr where
  g : Guard
  gs : Fin 8
deriving DecidableEq, Repr

/-- `PHASE kb` (R278). -/
structure OpPhase where
  g : Guard
  kb : Fin 64
deriving DecidableEq, Repr

/-- `SATARM` (R215): FN[0] is `.OFF`, FN[1] is `.CLR`. -/
structure OpSatarm where
  g : Guard
  clr : Bool
  off : Bool
deriving DecidableEq, Repr

/-! ### Names of units that events happen to -/

/-- A thread, by its team and its index within the team. -/
structure ThreadId where
  team : Nat
  tid : Nat
deriving DecidableEq, Repr

/-- A crew, by its team and its index within the team. -/
structure CrewId where
  team : Nat
  crew : Nat
deriving DecidableEq, Repr

/-- A byte at device reach: a physical address (R75), or a byte of an envelope line by context and line name (R181). -/
inductive Loc where
  | pa (a : Nat)
  | env (ctx : Nat) (n : Nat)
deriving DecidableEq, Repr

/-- Which barrier completes (R145). -/
inductive BarUnit where
  | team (team : Nat) (id : Nat)
  | cluster (grid : Nat) (unit : Nat) (id : Nat)
  | grid (grid : Nat) (id : Nat)
deriving DecidableEq, Repr

/-- Which of a team's three engine queues an event concerns (R227, R262). -/
inductive Queue where
  | copy | matrix | pairs
deriving DecidableEq, Repr

/-- What leaves a cache: a line of the last-level cache (R185, R277), a line of one core's L1 (R108), a record of one
cluster's layout-record cache (R100), or a line of one core's instruction cache (R102). -/
inductive EvictTarget where
  | llc (line : Loc)
  | l1 (core : Nat) (line : Loc)
  | lrec (cluster : Nat) (ctx : Nat) (handle : Nat)
  | icache (core : Nat) (grid : Nat) (line : Nat)
deriving DecidableEq, Repr

/-- Requester classes of the access tables (R297). -/
inductive ReqClass where
  | device | fomor | display | firmware | peer (n : Fin 4)
deriving DecidableEq, Repr

/-- An access from outside the device's cores, by physical address (R297, R293). -/
inductive OutAccess where
  | read (n : Nat)
  | write (bytes : List Byte)
  | atom (op : AtomOp) (wide : Bool) (operand : DWord)
  | cas (wide : Bool) (cmp : DWord) (new : DWord)
deriving DecidableEq, Repr

/-- What arrives over a tether link (R295). -/
inductive TetherReq where
  | mem (pa : Nat) (acc : OutAccess)
  | notify (page : Nat) (reg : Nat) (value : Word)
deriving DecidableEq, Repr

/-- A firmware image in the board's flash (R298). -/
structure FwImage where
  version : Nat
  body : List Byte
  signature : List Byte
deriving DecidableEq, Repr

/-! ### The instructions and events -/

/-- One constructor for each row of the opcode table, in the table's order. -/
inductive Instr where
  /-- NOP (R392). -/
  | nop (g : Guard)
  /-- IADD (R361). -/
  | iadd (o : OpReg3)
  /-- ISUB (R361). -/
  | isub (o : OpReg3)
  /-- IADDW (R362). -/
  | iaddw (o : OpReg3)
  /-- IMUL (R364). -/
  | imul (o : OpReg3)
  /-- IMULH_S32 (R364). -/
  | imulhS32 (o : OpReg3)
  /-- IMULH_N32 (R364). -/
  | imulhN32 (o : OpReg3)
  /-- IMAD (R364). -/
  | imad (o : OpReg3)
  /-- IMIN_S (R365). -/
  | iminS (o : OpReg3)
  /-- IMAX_S (R365). -/
  | imaxS (o : OpReg3)
  /-- IMIN_N (R365). -/
  | iminN (o : OpReg3)
  /-- IMAX_N (R365). -/
  | imaxN (o : OpReg3)
  /-- AND (R328). -/
  | and (o : OpReg3)
  /-- OR (R328). -/
  | or (o : OpReg3)
  /-- XOR (R328). -/
  | xor (o : OpReg3)
  /-- ANDN (R328). -/
  | andn (o : OpReg3)
  /-- SHL (R407). -/
  | shl (o : OpReg3)
  /-- SHR (R407). -/
  | shr (o : OpReg3)
  /-- SRA (R407). -/
  | sra (o : OpReg3)
  /-- CLZ (R337). -/
  | clz (o : OpReg2)
  /-- POPC (R337). -/
  | popc (o : OpReg2)
  /-- BREV (R337). -/
  | brev (o : OpReg2)
  /-- BFX_N (R335). -/
  | bfxN (o : OpReg3)
  /-- BFX_S (R335). -/
  | bfxS (o : OpReg3)
  /-- BFI (R335). -/
  | bfi (o : OpReg3)
  /-- ICMP (R363). -/
  | icmp (o : OpCmp)
  /-- SEL (R404). -/
  | sel (o : OpReg3)
  /-- MOV (R390). -/
  | mov (o : OpMov)
  /-- MOV_64 (R390). -/
  | mov64 (o : OpMov)
  /-- FADD_F32 (R352). -/
  | faddF32 (o : OpReg3)
  /-- FSUB_F32 (R352). -/
  | fsubF32 (o : OpReg3)
  /-- FMUL_F32 (R352). -/
  | fmulF32 (o : OpReg3)
  /-- FFMA_F32 (R352). -/
  | ffmaF32 (o : OpReg3)
  /-- FADD_F16X2 (R352). -/
  | faddF16x2 (o : OpReg3)
  /-- FSUB_F16X2 (R352). -/
  | fsubF16x2 (o : OpReg3)
  /-- FMUL_F16X2 (R352). -/
  | fmulF16x2 (o : OpReg3)
  /-- FFMA_F16X2 (R352). -/
  | ffmaF16x2 (o : OpReg3)
  /-- FADD_BF16X2 (R352). -/
  | faddBf16x2 (o : OpReg3)
  /-- FSUB_BF16X2 (R352). -/
  | fsubBf16x2 (o : OpReg3)
  /-- FMUL_BF16X2 (R352). -/
  | fmulBf16x2 (o : OpReg3)
  /-- FFMA_BF16X2 (R352). -/
  | ffmaBf16x2 (o : OpReg3)
  /-- FMIN_F32 (R358). -/
  | fminF32 (o : OpReg3)
  /-- FMAX_F32 (R358). -/
  | fmaxF32 (o : OpReg3)
  /-- FMIN_F16X2 (R358). -/
  | fminF16x2 (o : OpReg3)
  /-- FMAX_F16X2 (R358). -/
  | fmaxF16x2 (o : OpReg3)
  /-- FMIN_BF16X2 (R358). -/
  | fminBf16x2 (o : OpReg3)
  /-- FMAX_BF16X2 (R358). -/
  | fmaxBf16x2 (o : OpReg3)
  /-- FCMP (R353). -/
  | fcmp (o : OpFcmp)
  /-- FSFN (R359). -/
  | fsfn (o : OpSfn)
  /-- CVT (R347). -/
  | cvt (o : OpCvt)
  /-- QSCL (R218). -/
  | qscl (o : OpQscl)
  /-- LEA (R383). -/
  | lea (o : OpLea)
  /-- SHFL (R406). -/
  | shfl (o : OpShfl)
  /-- VOTE (R418). -/
  | vote (o : OpVote)
  /-- VOTE_BALLOT (R418). -/
  | voteBallot (o : OpBallot)
  /-- CREDUCE (R346). -/
  | creduce (o : OpCreduce)
  /-- ELECT (R348). -/
  | elect (o : OpPred)
  /-- SRD (R409). -/
  | srd (o : OpSrd)
  /-- LDT (R382). -/
  | ldt (o : OpMem)
  /-- TRAV (R416). -/
  | trav (o : OpTrav)
  /-- TRAV_CONT (R175). -/
  | travCont (o : OpTrav)
  /-- SPAWN (R168). -/
  | spawn (o : OpSpawn)
  /-- SPAWN_NB (R168). -/
  | spawnNb (o : OpSpawnNb)
  /-- RECLD (R174). -/
  | recld (o : OpRecld)
  /-- LD (R380). -/
  | ld (o : OpMem)
  /-- ST (R411). -/
  | st (o : OpMem)
  /-- LDS (R381). -/
  | lds (o : OpMem)
  /-- STS (R413). -/
  | sts (o : OpMem)
  /-- PREF (R397). -/
  | pref (o : OpPref)
  /-- WAITM (R277). -/
  | waitm (o : OpMem)
  /-- ATOM (R330). -/
  | atom (o : OpAtom)
  /-- CAS (R341). -/
  | cas (o : OpCas)
  /-- RED (R401). -/
  | red (o : OpAtom)
  /-- CMT (R109). -/
  | cmt (o : OpCmt)
  /-- ABT (R116). -/
  | abt (o : OpAbt)
  /-- ACQ (R122). -/
  | acq (o : OpAcq)
  /-- BAR (R151). -/
  | bar (o : OpBar)
  /-- BARA (R155). -/
  | bara (o : OpBara)
  /-- BARW (R156). -/
  | barw (o : OpBarw)
  /-- BRA (R336). -/
  | bra (o : OpBra)
  /-- CALL (R340). -/
  | call (o : OpCall)
  /-- BRX (R338). -/
  | brx (o : OpReg1)
  /-- RET (R338). -/
  | ret (o : OpReg1)
  /-- CALLX (R338). -/
  | callx (o : OpReg2)
  /-- TRET (R271). -/
  | tret (g : Guard)
  /-- TRET_NEXT (R417). -/
  | tretNext (g : Guard)
  /-- TRET_REG (R271). -/
  | tretReg (o : OpReg1)
  /-- EXIT (R350). -/
  | exit (g : Guard)
  /-- YIELD (R35). -/
  | yield (g : Guard)
  /-- TRAP (R272). -/
  | trap (o : OpTrap)
  /-- TRAP_EXT (R272). -/
  | trapExt (o : OpTrapExt)
  /-- IADD_IMM (R361). -/
  | iaddImm (o : OpImm9)
  /-- IADD_IMM_EXT (R306). -/
  | iaddImmExt (o : OpExt)
  /-- IMUL_IMM (R364). -/
  | imulImm (o : OpImm9)
  /-- IMUL_IMM_EXT (R306). -/
  | imulImmExt (o : OpExt)
  /-- AND_IMM (R328). -/
  | andImm (o : OpImm9)
  /-- AND_IMM_EXT (R306). -/
  | andImmExt (o : OpExt)
  /-- OR_IMM (R328). -/
  | orImm (o : OpImm9)
  /-- OR_IMM_EXT (R306). -/
  | orImmExt (o : OpExt)
  /-- XOR_IMM (R328). -/
  | xorImm (o : OpImm9)
  /-- XOR_IMM_EXT (R306). -/
  | xorImmExt (o : OpExt)
  /-- SHL_IMM (R407). -/
  | shlImm (o : OpShift)
  /-- SHR_IMM (R407). -/
  | shrImm (o : OpShift)
  /-- SRA_IMM (R407). -/
  | sraImm (o : OpShift)
  /-- ICMP_IMM (R363). -/
  | icmpImm (o : OpCmpImm)
  /-- ICMP_IMM_EXT (R306). -/
  | icmpImmExt (o : OpCmpExt)
  /-- MOVI (R391). -/
  | movi (o : OpImm15)
  /-- MOVI_EXT (R391). -/
  | moviExt (o : OpExt15)
  /-- KADD (R367). -/
  | kadd (o : OpK3)
  /-- KSUB (R367). -/
  | ksub (o : OpK3)
  /-- KMUL (R367). -/
  | kmul (o : OpK3)
  /-- KAND (R368). -/
  | kand (o : OpK3)
  /-- KOR (R368). -/
  | kor (o : OpK3)
  /-- KXOR (R368). -/
  | kxor (o : OpK3)
  /-- KSHL (R375). -/
  | kshl (o : OpK3)
  /-- KSHR (R375). -/
  | kshr (o : OpK3)
  /-- KCMP (R370). -/
  | kcmp (o : OpKcmp)
  /-- KSEL (R374). -/
  | ksel (o : OpK3)
  /-- KMOV (R373). -/
  | kmov (o : OpKmov)
  /-- KMOV_V (R373). -/
  | kmovV (o : OpKmov)
  /-- KSRD (R376). -/
  | ksrd (o : OpSrd)
  /-- KLD (R372). -/
  | kld (o : OpKmem)
  /-- KST (R372). -/
  | kst (o : OpKmem)
  /-- KBRA (R369). -/
  | kbra (o : OpBra)
  /-- KADD_IMM (R367). -/
  | kaddImm (o : OpImm9)
  /-- KADD_IMM_EXT (R306). -/
  | kaddImmExt (o : OpExt)
  /-- KMOV_IMM (R373). -/
  | kmovImm (o : OpImm15)
  /-- KMOV_IMM_EXT (R373). -/
  | kmovImmExt (o : OpExt15)
  /-- KSHL_IMM (R375). -/
  | kshlImm (o : OpShift)
  /-- KSHR_IMM (R375). -/
  | kshrImm (o : OpShift)
  /-- BSTAT (R339). -/
  | bstat (o : OpBstat)
  /-- CPY (R343). -/
  | cpy (o : OpBlock)
  /-- CPYQ (R344). -/
  | cpyq (o : OpKp)
  /-- CPYQ_W (R344). -/
  | cpyqW (o : OpCpyqW)
  /-- MMA (R384). -/
  | mma (o : OpBlock)
  /-- MMAST (R386). -/
  | mmast (o : OpBlock)
  /-- MMAZ (R389). -/
  | mmaz (o : OpMmaz)
  /-- MMAZ_REL (R389). -/
  | mmazRel (o : OpMmaz)
  /-- PAIRS (R393). -/
  | pairs (o : OpBlock)
  /-- LAUNCH (R378). -/
  | launch (o : OpKp)
  /-- FILLDONE (R196). -/
  | filldone (o : OpFill)
  /-- FILLFAIL (R196). -/
  | fillfail (o : OpFill)
  /-- GSET (R360). -/
  | gset (o : OpGset)
  /-- GSET_NOT (R360). -/
  | gsetNot (o : OpGset)
  /-- GSET_CLR (R360). -/
  | gsetClr (o : OpGsetClr)
  /-- PHASE (R278). -/
  | phase (o : OpPhase)
  /-- PHASE_OFF (R278). -/
  | phaseOff (g : Guard)
  /-- SATARM (R215). -/
  | satarm (o : OpSatarm)
  /-- FENCE_LR (R355). -/
  | fenceLr (g : Guard)
  /-- FENCE_ENG (R246). -/
  | fenceEng (g : Guard)
  /-- FLIGHT_ISSUE (R21). -/
  | flightIssue (core : Nat)
  /-- RENDEZVOUS_COMPLETION (R26). -/
  | rendezvousCompletion (c : CrewId)
  /-- THREAD_AGEING (R34). -/
  | threadAgeing (t : ThreadId)
  /-- DEMOTION_EXPIRY (R35). -/
  | demotionExpiry (t : ThreadId)
  /-- PHASE_OVERRUN (R278). -/
  | phaseOverrun (c : CrewId)
  /-- WAITM_TIMEOUT (R277). -/
  | waitmTimeout (t : ThreadId)
  /-- SPURIOUS_WAKE (R277). -/
  | spuriousWake (t : ThreadId)
  /-- LOAD_RETURN (R380). -/
  | loadReturn (t : ThreadId) (slot : Nat)
  /-- PAGE_WALK (R92). -/
  | pageWalk (i : Nat)
  /-- FAULT_REPLY (R94). -/
  | faultReply (ctx : Nat) (value : Word)
  /-- SECTOR_LANDING (R136). -/
  | sectorLanding (i : Nat)
  /-- ACKNOWLEDGEMENT (R111). -/
  | acknowledgement (i : Nat)
  /-- RED_PERFORM (R134). -/
  | redPerform (i : Nat)
  /-- CLUSTER_UNIT_EVICTION (R124). -/
  | clusterUnitEviction (cluster : Nat) (word : Loc)
  /-- LINE_EVICTION (R185). -/
  | lineEviction (target : EvictTarget)
  /-- ENVELOPE_MISS (R187). -/
  | envelopeMiss (i : Nat)
  /-- BIN_TIMER (R170). -/
  | binTimer (ctx : Nat) (node : Nat) (part : Nat)
  /-- BATCH_LAUNCH (R171). -/
  | batchLaunch (ctx : Nat) (i : Nat)
  /-- NOTIFY_PROD_WRITE (R70). -/
  | notifyProdWrite (page : Nat) (reg : Nat) (value : Word)
  /-- NSTAT_READ (R69). -/
  | nstatRead (page : Nat) (reg : Nat)
  /-- LAUNCH_RING_ENTRY (R71). -/
  | launchRingEntry (page : Nat) (reg : Nat)
  /-- RECORD_RING_ENTRY (R71). -/
  | recordRingEntry (page : Nat) (reg : Nat)
  /-- ARGUMENT_IMAGE_READ (R467). -/
  | argumentImageRead (i : Nat)
  /-- PARK_TIMEOUT (R67). -/
  | parkTimeout (team : Nat)
  /-- SWAP_OUT (R67). -/
  | swapOut (team : Nat)
  /-- SWAP_IN (R68). -/
  | swapIn (team : Nat)
  /-- TEAM_RETIRE (R41). -/
  | teamRetire (team : Nat)
  /-- BARRIER_COMPLETION (R148). -/
  | barrierCompletion (b : BarUnit)
  /-- ENGINE_DISPATCH (R229). -/
  | engineDispatch (team : Nat) (q : Queue)
  /-- DISCARDED (R229). -/
  | discarded (team : Nat) (q : Queue)
  /-- COPY_LINE_LANDING (R78). -/
  | copyLineLanding (cmd : Nat) (target : Nat) (line : Nat)
  /-- COPY_COMPLETION (R244). -/
  | copyCompletion (cmd : Nat)
  /-- MMA_COMPLETION (R234). -/
  | mmaCompletion (cmd : Nat)
  /-- MMAST_COMPLETION (R237). -/
  | mmastCompletion (cmd : Nat)
  /-- MMAZ_COMPLETION (R389). -/
  | mmazCompletion (cmd : Nat)
  /-- TRAVERSAL_RESULT (R257). -/
  | traversalResult (query : Nat)
  /-- PAIRS_EMISSION (R264). -/
  | pairsEmission (cmd : Nat)
  /-- PAIRS_COMPLETION (R265). -/
  | pairsCompletion (cmd : Nat)
  /-- SOFT_ERROR (R274). -/
  | softError (team : Nat)
  /-- LOAD_NODE_TABLE (R162). -/
  | loadNodeTable (ctx : Nat)
  /-- LOAD_GENERATOR_TABLE (R182). -/
  | loadGeneratorTable (ctx : Nat)
  /-- PRE_EMPT (R279). -/
  | preEmpt (ctx : Nat)
  /-- RESTORE (R286). -/
  | restore (ctx : Nat)
  /-- INVALIDATE_TRANSLATIONS (R95). -/
  | invalidateTranslations (ctx : Nat)
  /-- REMOVE_GRID (R468). -/
  | removeGrid (ctx : Nat)
  /-- COMMAND_COMPLETION (R290). -/
  | commandCompletion (ctx : Nat)
  /-- CSTAT_WRITE (R289). -/
  | cstatWrite (ctx : Nat) (value : Word)
  /-- FRCONS_WRITE (R291). -/
  | frconsWrite (ctx : Nat) (value : Word)
  /-- ERCONS_WRITE (R291). -/
  | erconsWrite (ctx : Nat) (value : Word)
  /-- REGISTER_WRITE (R288). -/
  | registerWrite (off : Nat) (value : DWord)
  /-- TETHER_REQUEST (R295). -/
  | tetherRequest (peer : Fin 4) (req : TetherReq)
  /-- LINK_OUT_OF_SERVICE (R295). -/
  | linkOutOfService (link : Fin 4)
  /-- POWER_ARBITER_INTERVAL (R300). -/
  | powerArbiterInterval
  /-- CLOCK_FACTOR_CHANGE (R300). -/
  | clockFactorChange (core : Nat)
  /-- DEEP_POWER_OFF (R301). -/
  | deepPowerOff
  /-- WAKE_REQUEST (R301). -/
  | wakeRequest
  /-- RESET (R298). -/
  | reset (img : FwImage)
  /-- IDENTITY_REPORT (R299). -/
  | identityReport (nonce : List Byte)
  /-- FOMOR_CORE_ACCESS (R297). -/
  | fomorCoreAccess (cls : ReqClass) (pa : Nat) (acc : OutAccess)
  /-- LINK_DOWN (R295). -/
  | linkDown (link : Fin 4)
  /-- CORRECTED_SOFT_ERROR (R274). -/
  | correctedSoftError
deriving DecidableEq, Repr

end Sys2Proof
end

