-- ==== Sys2Proof/WellFormed.lean ====
section
/-!
DEFINITION. Which instructions are legal words: the limits of the register fields and sub-fields that do not depend on a
team (R308 to R310), and the one that does, the number of v registers of the team (R308).
-/

namespace Sys2Proof

/-- Bytes of an access with size code `sz` (R305); 0 for the illegal code 7. -/
def szBytes : Nat → Nat
  | 0 => 1
  | 1 => 2
  | 2 => 4
  | 3 => 8
  | 4 => 16
  | 5 => 1
  | 6 => 2
  | _ => 0

/-- Registers a value of size code `sz` takes (R305). -/
def szRegs : Nat → Nat
  | 3 => 2
  | 4 => 4
  | _ => 1

/-- A data register is the first of an aligned pair or quad when the size asks for one (R305, R308). -/
def dataAligned (sz d : Nat) : Bool := d % szRegs sz == 0

/-- The direct immediate is not the escape value 0x100 (R306). -/
def directImm9 (i : BitVec 9) : Bool := i != 0x100#9

/-- The direct immediate is not the escape value 0x4000 (R306). -/
def directImm15 (i : BitVec 15) : Bool := i != 0x4000#15

/-- Barrier ids of a level: 0 for crew, 0 to 15 team, 0 to 31 cluster, 0 to 3 grid (R149, R332). -/
def barIdLimit : BarLevel → Nat
  | .crew => 1
  | .team => 16
  | .cluster => 32
  | .grid => 4

/-- A conversion that is exact takes FN = 0 (R216, R217). -/
def CvtCode.isExact : CvtCode → Bool
  | .f32F16 | .f32Bf16 | .bf16x4E4m3 | .f16x4E5m2 | .f16x8E2m1 | .f16x4S8 => true
  | _ => false

/-- Registers a conversion reads; also the alignment of its first source (R217). -/
def CvtCode.srcRegs : CvtCode → Nat
  | .f16x2F32 | .bf16x2F32 => 2
  | _ => 1

/-- Registers a conversion writes; also the alignment of its first destination (R217). -/
def CvtCode.dstRegs : CvtCode → Nat
  | .bf16x4E4m3 | .f16x4E5m2 | .f16x4S8 => 2
  | .f16x8E2m1 => 4
  | _ => 1

/-- FP32 operations of `ATOM` and `RED` take W = 0 only (R329, R400). -/
def AtomOp.isF32 : AtomOp → Bool
  | .addF32 | .maxF32 => true
  | _ => false

/-- LA word limits shared by `ATOM` and `RED` (R329, R400): outside team scope A is an even pair; W = 1 needs D even and
an integer operation. -/
def OpAtom.wf (o : OpAtom) : Bool :=
  (o.sc == .team || o.a.val % 2 == 0) && (!o.w || (o.d.val % 2 == 0 && !o.op.isF32))

/-- A UE word without a slot has GS = 0 (R225). -/
def slotOk (gs : Fin 8) (ge : Bool) : Bool := ge || gs == 0

/-- The register number a B source names. -/
def Src.num : Src → Nat
  | .v n => n.val
  | .k n => n.val

/-- The v registers a B source needs: its number plus one, or none for a k register. -/
def Src.top : Src → Nat
  | .v n => n.val + 1
  | .k _ => 0

/-- The v registers a B pair needs, for `MOV.64` (R390). -/
def Src.topPair : Src → Nat
  | .v n => n.val + 2
  | .k _ => 0

/-- The limits of a word that hold for every team (R308 to R310). -/
def Instr.wf : Instr → Bool
  | .iaddw o => o.d.val % 2 == 0 && o.a.val % 2 == 0
  | .mov64 o => o.d.val % 2 == 0 && o.b.num % 2 == 0
  | .lea o => o.d.val % 2 == 0 && o.a.val % 2 == 0
  | .cvt o => (!o.code.isExact || o.mode == .rn) && o.a.val % o.code.srcRegs == 0 && o.d.val % o.code.dstRegs == 0
  | .qscl o => o.a.val % 4 == 0
  | .ldt o => decide (2 ≤ o.sz.val) && decide (o.sz.val ≤ 4) && dataAligned o.sz o.d
      && decide (o.off.val * szBytes o.sz + szBytes o.sz ≤ 64)
  | .trav o => o.d.val % 4 == 0 && o.a.val % 8 == 0 && o.b.val % 2 == 0
  | .travCont o => o.a.val % 8 == 0 && o.b.val % 2 == 0
  | .recld o => decide (o.d.val + o.n.val + 1 ≤ 64) && decide (o.w.val + o.n.val + 1 ≤ 16)
  | .ld o => decide (o.sz.val ≤ 6) && o.a.val % 2 == 0 && dataAligned o.sz o.d
  | .st o => decide (o.sz.val ≤ 4) && o.a.val % 2 == 0 && dataAligned o.sz o.d
  | .lds o => decide (o.sz.val ≤ 6) && dataAligned o.sz o.d
  | .sts o => decide (o.sz.val ≤ 4) && dataAligned o.sz o.d
  | .pref o => decide (o.sz.val ≤ 4) && o.a.val % 2 == 0
  | .waitm o => (o.sz.val == 2 || o.sz.val == 3) && o.a.val % 2 == 0 && dataAligned o.sz o.d
  | .atom o => o.wf
  | .cas o => (o.sc == .team || o.a.val % 2 == 0) && o.d.val % (if o.w then 4 else 2) == 0
  | .red o => o.wf && o.op != .exch
  | .bar o => decide (o.id.val < barIdLimit o.level) && (o.level != .crew || (!o.cmt && !o.acq))
  | .bara o => o.level != .crew && decide (o.id.val < barIdLimit o.level)
  | .trap o => decide (o.n.toNat ≤ 0x3FFF)
  | .iaddImm o => directImm9 o.imm
  | .imulImm o => directImm9 o.imm
  | .andImm o => directImm9 o.imm
  | .orImm o => directImm9 o.imm
  | .xorImm o => directImm9 o.imm
  | .icmpImm o => directImm9 o.imm
  | .movi o => directImm15 o.imm
  | .kld o => !o.wide || o.d.val % 2 == 0
  | .kst o => !o.wide || o.d.val % 2 == 0
  | .kaddImm o => directImm9 o.imm
  | .kmovImm o => directImm15 o.imm
  | .cpy o => slotOk o.gs o.ge
  | .mma o => slotOk o.gs o.ge
  | .mmast o => slotOk o.gs o.ge
  | .mmaz o => slotOk o.gs o.ge
  | .mmazRel o => slotOk o.gs o.ge
  | .pairs o => slotOk o.gs o.ge
  | .nop _ | .iadd _ | .isub _ | .imul _ | .imulhS32 _ | .imulhN32 _ | .imad _ | .iminS _ | .imaxS _ | .iminN _
  | .imaxN _ | .and _ | .or _ | .xor _ | .andn _ | .shl _ | .shr _ | .sra _ | .clz _ | .popc _ | .brev _
  | .bfxN _ | .bfxS _ | .bfi _ | .icmp _ | .sel _ | .mov _ | .faddF32 _ | .fsubF32 _ | .fmulF32 _ | .ffmaF32 _
  | .faddF16x2 _ | .fsubF16x2 _ | .fmulF16x2 _ | .ffmaF16x2 _ | .faddBf16x2 _ | .fsubBf16x2 _ | .fmulBf16x2 _
  | .ffmaBf16x2 _ | .fminF32 _ | .fmaxF32 _ | .fminF16x2 _ | .fmaxF16x2 _ | .fminBf16x2 _ | .fmaxBf16x2 _
  | .fcmp _ | .fsfn _ | .shfl _ | .vote _ | .voteBallot _ | .creduce _ | .elect _ | .srd _ | .spawn _
  | .spawnNb _ | .cmt _ | .abt _ | .acq _ | .barw _ | .bra _ | .call _ | .brx _ | .ret _ | .callx _ | .tret _
  | .tretNext _ | .tretReg _ | .exit _ | .yield _ | .trapExt _ | .iaddImmExt _ | .imulImmExt _ | .andImmExt _
  | .orImmExt _ | .xorImmExt _ | .shlImm _ | .shrImm _ | .sraImm _ | .icmpImmExt _ | .moviExt _ | .kadd _
  | .ksub _ | .kmul _ | .kand _ | .kor _ | .kxor _ | .kshl _ | .kshr _ | .kcmp _ | .ksel _ | .kmov _ | .kmovV _
  | .ksrd _ | .kbra _ | .kaddImmExt _ | .kmovImmExt _ | .kshlImm _ | .kshrImm _ | .bstat _ | .cpyq _ | .cpyqW _
  | .launch _ | .filldone _ | .fillfail _ | .gset _ | .gsetNot _ | .gsetClr _ | .phase _ | .phaseOff _
  | .satarm _ | .fenceLr _ | .fenceEng _ | .flightIssue _ | .rendezvousCompletion _ | .threadAgeing _
  | .demotionExpiry _ | .phaseOverrun _ | .waitmTimeout _ | .spuriousWake _ | .loadReturn _ _ | .pageWalk _
  | .faultReply _ _ | .sectorLanding _ | .acknowledgement _ | .redPerform _ | .clusterUnitEviction _ _
  | .lineEviction _ | .envelopeMiss _ | .binTimer _ _ _ | .batchLaunch _ _ | .notifyProdWrite _ _ _
  | .nstatRead _ _ | .launchRingEntry _ _ | .recordRingEntry _ _ | .argumentImageRead _ | .parkTimeout _
  | .swapOut _ | .swapIn _ | .teamRetire _ | .barrierCompletion _ | .engineDispatch _ _ | .discarded _ _
  | .copyLineLanding _ _ _ | .copyCompletion _ | .mmaCompletion _ | .mmastCompletion _ | .mmazCompletion _
  | .traversalResult _ | .pairsEmission _ | .pairsCompletion _ | .softError _ | .loadNodeTable _
  | .loadGeneratorTable _ | .preEmpt _ | .restore _ | .invalidateTranslations _ | .removeGrid _
  | .commandCompletion _ | .cstatWrite _ _ | .frconsWrite _ _ | .erconsWrite _ _ | .registerWrite _ _
  | .tetherRequest _ _ | .linkOutOfService _ | .powerArbiterInterval | .clockFactorChange _ | .deepPowerOff
  | .wakeRequest | .reset _ | .identityReport _ | .fomorCoreAccess _ _ _ | .linkDown _ | .correctedSoftError => true

/-- Every v register that the word names, each register of a pair, quad or run included, lies below this (R308). A
uniform word names none, `KMOV.V` apart. -/
def Instr.topV : Instr → Nat
  | .iadd o => max (max (o.d.val + 1) (o.a.val + 1)) o.b.top
  | .isub o => max (max (o.d.val + 1) (o.a.val + 1)) o.b.top
  | .iaddw o => max (max (o.d.val + 2) (o.a.val + 2)) o.b.top
  | .imul o => max (max (o.d.val + 1) (o.a.val + 1)) o.b.top
  | .imulhS32 o => max (max (o.d.val + 1) (o.a.val + 1)) o.b.top
  | .imulhN32 o => max (max (o.d.val + 1) (o.a.val + 1)) o.b.top
  | .imad o => max (max (o.d.val + 1) (o.a.val + 1)) o.b.top
  | .iminS o => max (max (o.d.val + 1) (o.a.val + 1)) o.b.top
  | .imaxS o => max (max (o.d.val + 1) (o.a.val + 1)) o.b.top
  | .iminN o => max (max (o.d.val + 1) (o.a.val + 1)) o.b.top
  | .imaxN o => max (max (o.d.val + 1) (o.a.val + 1)) o.b.top
  | .and o => max (max (o.d.val + 1) (o.a.val + 1)) o.b.top
  | .or o => max (max (o.d.val + 1) (o.a.val + 1)) o.b.top
  | .xor o => max (max (o.d.val + 1) (o.a.val + 1)) o.b.top
  | .andn o => max (max (o.d.val + 1) (o.a.val + 1)) o.b.top
  | .shl o => max (max (o.d.val + 1) (o.a.val + 1)) o.b.top
  | .shr o => max (max (o.d.val + 1) (o.a.val + 1)) o.b.top
  | .sra o => max (max (o.d.val + 1) (o.a.val + 1)) o.b.top
  | .clz o => max (o.d.val + 1) (o.a.val + 1)
  | .popc o => max (o.d.val + 1) (o.a.val + 1)
  | .brev o => max (o.d.val + 1) (o.a.val + 1)
  | .bfxN o => max (max (o.d.val + 1) (o.a.val + 1)) o.b.top
  | .bfxS o => max (max (o.d.val + 1) (o.a.val + 1)) o.b.top
  | .bfi o => max (max (o.d.val + 1) (o.a.val + 1)) o.b.top
  | .icmp o => max (o.a.val + 1) o.b.top
  | .sel o => max (max (o.d.val + 1) (o.a.val + 1)) o.b.top
  | .mov o => max (o.d.val + 1) o.b.top
  | .mov64 o => max (o.d.val + 2) o.b.topPair
  | .faddF32 o => max (max (o.d.val + 1) (o.a.val + 1)) o.b.top
  | .fsubF32 o => max (max (o.d.val + 1) (o.a.val + 1)) o.b.top
  | .fmulF32 o => max (max (o.d.val + 1) (o.a.val + 1)) o.b.top
  | .ffmaF32 o => max (max (o.d.val + 1) (o.a.val + 1)) o.b.top
  | .faddF16x2 o => max (max (o.d.val + 1) (o.a.val + 1)) o.b.top
  | .fsubF16x2 o => max (max (o.d.val + 1) (o.a.val + 1)) o.b.top
  | .fmulF16x2 o => max (max (o.d.val + 1) (o.a.val + 1)) o.b.top
  | .ffmaF16x2 o => max (max (o.d.val + 1) (o.a.val + 1)) o.b.top
  | .faddBf16x2 o => max (max (o.d.val + 1) (o.a.val + 1)) o.b.top
  | .fsubBf16x2 o => max (max (o.d.val + 1) (o.a.val + 1)) o.b.top
  | .fmulBf16x2 o => max (max (o.d.val + 1) (o.a.val + 1)) o.b.top
  | .ffmaBf16x2 o => max (max (o.d.val + 1) (o.a.val + 1)) o.b.top
  | .fminF32 o => max (max (o.d.val + 1) (o.a.val + 1)) o.b.top
  | .fmaxF32 o => max (max (o.d.val + 1) (o.a.val + 1)) o.b.top
  | .fminF16x2 o => max (max (o.d.val + 1) (o.a.val + 1)) o.b.top
  | .fmaxF16x2 o => max (max (o.d.val + 1) (o.a.val + 1)) o.b.top
  | .fminBf16x2 o => max (max (o.d.val + 1) (o.a.val + 1)) o.b.top
  | .fmaxBf16x2 o => max (max (o.d.val + 1) (o.a.val + 1)) o.b.top
  | .fcmp o => max (o.a.val + 1) o.b.top
  | .fsfn o => max (o.d.val + 1) (o.a.val + 1)
  | .cvt o => max (o.d.val + o.code.dstRegs) (o.a.val + o.code.srcRegs)
  | .qscl o => max (max (o.d.val + 1) (o.a.val + 4)) o.b.top
  | .lea o => max (max (o.d.val + 2) (o.a.val + 2)) o.b.top
  | .shfl o => max (max (o.d.val + 1) (o.a.val + 1)) o.b.top
  | .voteBallot o => o.d.val + 1
  | .creduce o => max (o.d.val + 1) (o.a.val + 1)
  | .srd o => o.d.val + 1
  | .ldt o => max (o.d.val + szRegs o.sz) (o.a.val + 1)
  | .trav o => max (o.d.val + 4) (o.a.val + 8)
  | .travCont o => max (o.d.val + 1) (o.a.val + 8)
  | .spawn o => max (o.a.val + 1) o.b.top
  | .spawnNb o => max (o.a.val + 1) o.b.top
  | .recld o => o.d.val + o.n.val + 1
  | .ld o => max (o.d.val + szRegs o.sz) (o.a.val + 2)
  | .st o => max (o.d.val + szRegs o.sz) (o.a.val + 2)
  | .lds o => max (o.d.val + szRegs o.sz) (o.a.val + 1)
  | .sts o => max (o.d.val + szRegs o.sz) (o.a.val + 1)
  | .pref o => o.a.val + 2
  | .waitm o => max (o.d.val + szRegs o.sz) (o.a.val + 2)
  | .atom o => max (o.d.val + (if o.w then 2 else 1)) (o.a.val + (if o.sc == .team then 1 else 2))
  | .cas o => max (o.d.val + (if o.w then 4 else 2)) (o.a.val + (if o.sc == .team then 1 else 2))
  | .red o => max (o.d.val + (if o.w then 2 else 1)) (o.a.val + (if o.sc == .team then 1 else 2))
  | .bara o => max (o.d.val + 1) o.b.top
  | .barw o => o.a.val + 1
  | .call o => o.d.val + 1
  | .brx o => o.a.val + 1
  | .ret o => o.a.val + 1
  | .callx o => max (o.d.val + 1) (o.a.val + 1)
  | .tretReg o => o.a.val + 1
  | .iaddImm o => max (o.d.val + 1) (o.a.val + 1)
  | .iaddImmExt o => max (o.d.val + 1) (o.a.val + 1)
  | .imulImm o => max (o.d.val + 1) (o.a.val + 1)
  | .imulImmExt o => max (o.d.val + 1) (o.a.val + 1)
  | .andImm o => max (o.d.val + 1) (o.a.val + 1)
  | .andImmExt o => max (o.d.val + 1) (o.a.val + 1)
  | .orImm o => max (o.d.val + 1) (o.a.val + 1)
  | .orImmExt o => max (o.d.val + 1) (o.a.val + 1)
  | .xorImm o => max (o.d.val + 1) (o.a.val + 1)
  | .xorImmExt o => max (o.d.val + 1) (o.a.val + 1)
  | .shlImm o => max (o.d.val + 1) (o.a.val + 1)
  | .shrImm o => max (o.d.val + 1) (o.a.val + 1)
  | .sraImm o => max (o.d.val + 1) (o.a.val + 1)
  | .icmpImm o => o.a.val + 1
  | .icmpImmExt o => o.a.val + 1
  | .movi o => o.d.val + 1
  | .moviExt o => o.d.val + 1
  | .kmovV o => o.b.val + 1
  | .nop _ | .vote _ | .elect _ | .cmt _ | .abt _ | .acq _ | .bar _ | .bra _ | .tret _ | .tretNext _ | .exit _
  | .yield _ | .trap _ | .trapExt _ | .kadd _ | .ksub _ | .kmul _ | .kand _ | .kor _ | .kxor _ | .kshl _
  | .kshr _ | .kcmp _ | .ksel _ | .kmov _ | .ksrd _ | .kld _ | .kst _ | .kbra _ | .kaddImm _ | .kaddImmExt _
  | .kmovImm _ | .kmovImmExt _ | .kshlImm _ | .kshrImm _ | .bstat _ | .cpy _ | .cpyq _ | .cpyqW _ | .mma _
  | .mmast _ | .mmaz _ | .mmazRel _ | .pairs _ | .launch _ | .filldone _ | .fillfail _ | .gset _ | .gsetNot _
  | .gsetClr _ | .phase _ | .phaseOff _ | .satarm _ | .fenceLr _ | .fenceEng _ | .flightIssue _
  | .rendezvousCompletion _ | .threadAgeing _ | .demotionExpiry _ | .phaseOverrun _ | .waitmTimeout _
  | .spuriousWake _ | .loadReturn _ _ | .pageWalk _ | .faultReply _ _ | .sectorLanding _ | .acknowledgement _
  | .redPerform _ | .clusterUnitEviction _ _ | .lineEviction _ | .envelopeMiss _ | .binTimer _ _ _
  | .batchLaunch _ _ | .notifyProdWrite _ _ _ | .nstatRead _ _ | .launchRingEntry _ _ | .recordRingEntry _ _
  | .argumentImageRead _ | .parkTimeout _ | .swapOut _ | .swapIn _ | .teamRetire _ | .barrierCompletion _
  | .engineDispatch _ _ | .discarded _ _ | .copyLineLanding _ _ _ | .copyCompletion _ | .mmaCompletion _
  | .mmastCompletion _ | .mmazCompletion _ | .traversalResult _ | .pairsEmission _ | .pairsCompletion _
  | .softError _ | .loadNodeTable _ | .loadGeneratorTable _ | .preEmpt _ | .restore _
  | .invalidateTranslations _ | .removeGrid _ | .commandCompletion _ | .cstatWrite _ _ | .frconsWrite _ _
  | .erconsWrite _ _ | .registerWrite _ _ | .tetherRequest _ _ | .linkOutOfService _ | .powerArbiterInterval
  | .clockFactorChange _ | .deepPowerOff | .wakeRequest | .reset _ | .identityReport _ | .fomorCoreAccess _ _ _
  | .linkDown _ | .correctedSoftError => 0

/-- The word is legal for a team with `regs` v registers a thread (R308, R310). -/
def Instr.legalFor (regs : Nat) (i : Instr) : Bool := decide (i.topV ≤ regs)

/-- Uniform words, executed once for a crew (R303, R313). -/
def Instr.isUniform : Instr → Bool
  | .kadd _ | .ksub _ | .kmul _ | .kand _ | .kor _ | .kxor _ | .kshl _ | .kshr _ | .kcmp _ | .ksel _ | .kmov _
  | .kmovV _ | .ksrd _ | .kld _ | .kst _ | .kbra _ | .kaddImm _ | .kmovImm _ | .kshlImm _ | .kshrImm _
  | .bstat _ | .cpy _ | .cpyq _ | .cpyqW _ | .mma _ | .mmast _ | .mmaz _ | .mmazRel _ | .pairs _ | .launch _
  | .filldone _ | .fillfail _ | .gset _ | .gsetNot _ | .gsetClr _ | .phase _ | .phaseOff _ | .satarm _
  | .fenceLr _ | .fenceEng _ | .kaddImmExt _ | .kmovImmExt _ => true
  | .nop _ | .iadd _ | .isub _ | .iaddw _ | .imul _ | .imulhS32 _ | .imulhN32 _ | .imad _ | .iminS _ | .imaxS _
  | .iminN _ | .imaxN _ | .and _ | .or _ | .xor _ | .andn _ | .shl _ | .shr _ | .sra _ | .clz _ | .popc _
  | .brev _ | .bfxN _ | .bfxS _ | .bfi _ | .icmp _ | .sel _ | .mov _ | .mov64 _ | .faddF32 _ | .fsubF32 _
  | .fmulF32 _ | .ffmaF32 _ | .faddF16x2 _ | .fsubF16x2 _ | .fmulF16x2 _ | .ffmaF16x2 _ | .faddBf16x2 _
  | .fsubBf16x2 _ | .fmulBf16x2 _ | .ffmaBf16x2 _ | .fminF32 _ | .fmaxF32 _ | .fminF16x2 _ | .fmaxF16x2 _
  | .fminBf16x2 _ | .fmaxBf16x2 _ | .fcmp _ | .fsfn _ | .cvt _ | .qscl _ | .lea _ | .shfl _ | .vote _
  | .voteBallot _ | .creduce _ | .elect _ | .srd _ | .ldt _ | .trav _ | .travCont _ | .spawn _ | .spawnNb _
  | .recld _ | .ld _ | .st _ | .lds _ | .sts _ | .pref _ | .waitm _ | .atom _ | .cas _ | .red _ | .cmt _
  | .abt _ | .acq _ | .bar _ | .bara _ | .barw _ | .bra _ | .call _ | .brx _ | .ret _ | .callx _ | .tret _
  | .tretNext _ | .tretReg _ | .exit _ | .yield _ | .trap _ | .trapExt _ | .iaddImm _ | .iaddImmExt _
  | .imulImm _ | .imulImmExt _ | .andImm _ | .andImmExt _ | .orImm _ | .orImmExt _ | .xorImm _ | .xorImmExt _
  | .shlImm _ | .shrImm _ | .sraImm _ | .icmpImm _ | .icmpImmExt _ | .movi _ | .moviExt _ | .flightIssue _
  | .rendezvousCompletion _ | .threadAgeing _ | .demotionExpiry _ | .phaseOverrun _ | .waitmTimeout _
  | .spuriousWake _ | .loadReturn _ _ | .pageWalk _ | .faultReply _ _ | .sectorLanding _ | .acknowledgement _
  | .redPerform _ | .clusterUnitEviction _ _ | .lineEviction _ | .envelopeMiss _ | .binTimer _ _ _
  | .batchLaunch _ _ | .notifyProdWrite _ _ _ | .nstatRead _ _ | .launchRingEntry _ _ | .recordRingEntry _ _
  | .argumentImageRead _ | .parkTimeout _ | .swapOut _ | .swapIn _ | .teamRetire _ | .barrierCompletion _
  | .engineDispatch _ _ | .discarded _ _ | .copyLineLanding _ _ _ | .copyCompletion _ | .mmaCompletion _
  | .mmastCompletion _ | .mmazCompletion _ | .traversalResult _ | .pairsEmission _ | .pairsCompletion _
  | .softError _ | .loadNodeTable _ | .loadGeneratorTable _ | .preEmpt _ | .restore _
  | .invalidateTranslations _ | .removeGrid _ | .commandCompletion _ | .cstatWrite _ _ | .frconsWrite _ _
  | .erconsWrite _ _ | .registerWrite _ _ | .tetherRequest _ _ | .linkOutOfService _ | .powerArbiterInterval
  | .clockFactorChange _ | .deepPowerOff | .wakeRequest | .reset _ | .identityReport _ | .fomorCoreAccess _ _ _
  | .linkDown _ | .correctedSoftError => false

/-- Rows that are events of the device and have no word (the table gives them no bits). -/
def Instr.isEvent : Instr → Bool
  | .flightIssue _ | .rendezvousCompletion _ | .threadAgeing _ | .demotionExpiry _ | .phaseOverrun _
  | .waitmTimeout _ | .spuriousWake _ | .loadReturn _ _ | .pageWalk _ | .faultReply _ _ | .sectorLanding _
  | .acknowledgement _ | .redPerform _ | .clusterUnitEviction _ _ | .lineEviction _ | .envelopeMiss _
  | .binTimer _ _ _ | .batchLaunch _ _ | .notifyProdWrite _ _ _ | .nstatRead _ _ | .launchRingEntry _ _
  | .recordRingEntry _ _ | .argumentImageRead _ | .parkTimeout _ | .swapOut _ | .swapIn _ | .teamRetire _
  | .barrierCompletion _ | .engineDispatch _ _ | .discarded _ _ | .copyLineLanding _ _ _ | .copyCompletion _
  | .mmaCompletion _ | .mmastCompletion _ | .mmazCompletion _ | .traversalResult _ | .pairsEmission _
  | .pairsCompletion _ | .softError _ | .loadNodeTable _ | .loadGeneratorTable _ | .preEmpt _ | .restore _
  | .invalidateTranslations _ | .removeGrid _ | .commandCompletion _ | .cstatWrite _ _ | .frconsWrite _ _
  | .erconsWrite _ _ | .registerWrite _ _ | .tetherRequest _ _ | .linkOutOfService _ | .powerArbiterInterval
  | .clockFactorChange _ | .deepPowerOff | .wakeRequest | .reset _ | .identityReport _ | .fomorCoreAccess _ _ _
  | .linkDown _ | .correctedSoftError => true
  | .nop _ | .iadd _ | .isub _ | .iaddw _ | .imul _ | .imulhS32 _ | .imulhN32 _ | .imad _ | .iminS _ | .imaxS _
  | .iminN _ | .imaxN _ | .and _ | .or _ | .xor _ | .andn _ | .shl _ | .shr _ | .sra _ | .clz _ | .popc _
  | .brev _ | .bfxN _ | .bfxS _ | .bfi _ | .icmp _ | .sel _ | .mov _ | .mov64 _ | .faddF32 _ | .fsubF32 _
  | .fmulF32 _ | .ffmaF32 _ | .faddF16x2 _ | .fsubF16x2 _ | .fmulF16x2 _ | .ffmaF16x2 _ | .faddBf16x2 _
  | .fsubBf16x2 _ | .fmulBf16x2 _ | .ffmaBf16x2 _ | .fminF32 _ | .fmaxF32 _ | .fminF16x2 _ | .fmaxF16x2 _
  | .fminBf16x2 _ | .fmaxBf16x2 _ | .fcmp _ | .fsfn _ | .cvt _ | .qscl _ | .lea _ | .shfl _ | .vote _
  | .voteBallot _ | .creduce _ | .elect _ | .srd _ | .ldt _ | .trav _ | .travCont _ | .spawn _ | .spawnNb _
  | .recld _ | .ld _ | .st _ | .lds _ | .sts _ | .pref _ | .waitm _ | .atom _ | .cas _ | .red _ | .cmt _
  | .abt _ | .acq _ | .bar _ | .bara _ | .barw _ | .bra _ | .call _ | .brx _ | .ret _ | .callx _ | .tret _
  | .tretNext _ | .tretReg _ | .exit _ | .yield _ | .trap _ | .trapExt _ | .iaddImm _ | .iaddImmExt _
  | .imulImm _ | .imulImmExt _ | .andImm _ | .andImmExt _ | .orImm _ | .orImmExt _ | .xorImm _ | .xorImmExt _
  | .shlImm _ | .shrImm _ | .sraImm _ | .icmpImm _ | .icmpImmExt _ | .movi _ | .moviExt _ | .kadd _ | .ksub _
  | .kmul _ | .kand _ | .kor _ | .kxor _ | .kshl _ | .kshr _ | .kcmp _ | .ksel _ | .kmov _ | .kmovV _ | .ksrd _
  | .kld _ | .kst _ | .kbra _ | .kaddImm _ | .kaddImmExt _ | .kmovImm _ | .kmovImmExt _ | .kshlImm _
  | .kshrImm _ | .bstat _ | .cpy _ | .cpyq _ | .cpyqW _ | .mma _ | .mmast _ | .mmaz _ | .mmazRel _ | .pairs _
  | .launch _ | .filldone _ | .fillfail _ | .gset _ | .gsetNot _ | .gsetClr _ | .phase _ | .phaseOff _
  | .satarm _ | .fenceLr _ | .fenceEng _ => false

/-- Crew collectives: the lane instructions that rendezvous (R24). -/
def Instr.isCollective : Instr → Bool
  | .bar o => o.level == .crew
  | .shfl _ | .vote _ | .voteBallot _ | .creduce _ | .elect _ | .cmt _ | .abt _ => true
  | .nop _ | .iadd _ | .isub _ | .iaddw _ | .imul _ | .imulhS32 _ | .imulhN32 _ | .imad _ | .iminS _ | .imaxS _
  | .iminN _ | .imaxN _ | .and _ | .or _ | .xor _ | .andn _ | .shl _ | .shr _ | .sra _ | .clz _ | .popc _
  | .brev _ | .bfxN _ | .bfxS _ | .bfi _ | .icmp _ | .sel _ | .mov _ | .mov64 _ | .faddF32 _ | .fsubF32 _
  | .fmulF32 _ | .ffmaF32 _ | .faddF16x2 _ | .fsubF16x2 _ | .fmulF16x2 _ | .ffmaF16x2 _ | .faddBf16x2 _
  | .fsubBf16x2 _ | .fmulBf16x2 _ | .ffmaBf16x2 _ | .fminF32 _ | .fmaxF32 _ | .fminF16x2 _ | .fmaxF16x2 _
  | .fminBf16x2 _ | .fmaxBf16x2 _ | .fcmp _ | .fsfn _ | .cvt _ | .qscl _ | .lea _ | .srd _ | .ldt _ | .trav _
  | .travCont _ | .spawn _ | .spawnNb _ | .recld _ | .ld _ | .st _ | .lds _ | .sts _ | .pref _ | .waitm _
  | .atom _ | .cas _ | .red _ | .acq _ | .bara _ | .barw _ | .bra _ | .call _ | .brx _ | .ret _ | .callx _
  | .tret _ | .tretNext _ | .tretReg _ | .exit _ | .yield _ | .trap _ | .trapExt _ | .iaddImm _ | .iaddImmExt _
  | .imulImm _ | .imulImmExt _ | .andImm _ | .andImmExt _ | .orImm _ | .orImmExt _ | .xorImm _ | .xorImmExt _
  | .shlImm _ | .shrImm _ | .sraImm _ | .icmpImm _ | .icmpImmExt _ | .movi _ | .moviExt _ | .kadd _ | .ksub _
  | .kmul _ | .kand _ | .kor _ | .kxor _ | .kshl _ | .kshr _ | .kcmp _ | .ksel _ | .kmov _ | .kmovV _ | .ksrd _
  | .kld _ | .kst _ | .kbra _ | .kaddImm _ | .kaddImmExt _ | .kmovImm _ | .kmovImmExt _ | .kshlImm _
  | .kshrImm _ | .bstat _ | .cpy _ | .cpyq _ | .cpyqW _ | .mma _ | .mmast _ | .mmaz _ | .mmazRel _ | .pairs _
  | .launch _ | .filldone _ | .fillfail _ | .gset _ | .gsetNot _ | .gsetClr _ | .phase _ | .phaseOff _
  | .satarm _ | .fenceLr _ | .fenceEng _ | .flightIssue _ | .rendezvousCompletion _ | .threadAgeing _
  | .demotionExpiry _ | .phaseOverrun _ | .waitmTimeout _ | .spuriousWake _ | .loadReturn _ _ | .pageWalk _
  | .faultReply _ _ | .sectorLanding _ | .acknowledgement _ | .redPerform _ | .clusterUnitEviction _ _
  | .lineEviction _ | .envelopeMiss _ | .binTimer _ _ _ | .batchLaunch _ _ | .notifyProdWrite _ _ _
  | .nstatRead _ _ | .launchRingEntry _ _ | .recordRingEntry _ _ | .argumentImageRead _ | .parkTimeout _
  | .swapOut _ | .swapIn _ | .teamRetire _ | .barrierCompletion _ | .engineDispatch _ _ | .discarded _ _
  | .copyLineLanding _ _ _ | .copyCompletion _ | .mmaCompletion _ | .mmastCompletion _ | .mmazCompletion _
  | .traversalResult _ | .pairsEmission _ | .pairsCompletion _ | .softError _ | .loadNodeTable _
  | .loadGeneratorTable _ | .preEmpt _ | .restore _ | .invalidateTranslations _ | .removeGrid _
  | .commandCompletion _ | .cstatWrite _ _ | .frconsWrite _ _ | .erconsWrite _ _ | .registerWrite _ _
  | .tetherRequest _ _ | .linkOutOfService _ | .powerArbiterInterval | .clockFactorChange _ | .deepPowerOff
  | .wakeRequest | .reset _ | .identityReport _ | .fomorCoreAccess _ _ _ | .linkDown _ | .correctedSoftError => false

/-- Crew-convergent instructions (R24). -/
def Instr.isConvergent (i : Instr) : Bool := i.isUniform || i.isCollective

/-- Two-word instructions, whose immediate stands in the extension word (R306). -/
def Instr.isExt : Instr → Bool
  | .trapExt _ | .iaddImmExt _ | .imulImmExt _ | .andImmExt _ | .orImmExt _ | .xorImmExt _ | .icmpImmExt _
  | .moviExt _ | .kaddImmExt _ | .kmovImmExt _ => true
  | .nop _ | .iadd _ | .isub _ | .iaddw _ | .imul _ | .imulhS32 _ | .imulhN32 _ | .imad _ | .iminS _ | .imaxS _
  | .iminN _ | .imaxN _ | .and _ | .or _ | .xor _ | .andn _ | .shl _ | .shr _ | .sra _ | .clz _ | .popc _
  | .brev _ | .bfxN _ | .bfxS _ | .bfi _ | .icmp _ | .sel _ | .mov _ | .mov64 _ | .faddF32 _ | .fsubF32 _
  | .fmulF32 _ | .ffmaF32 _ | .faddF16x2 _ | .fsubF16x2 _ | .fmulF16x2 _ | .ffmaF16x2 _ | .faddBf16x2 _
  | .fsubBf16x2 _ | .fmulBf16x2 _ | .ffmaBf16x2 _ | .fminF32 _ | .fmaxF32 _ | .fminF16x2 _ | .fmaxF16x2 _
  | .fminBf16x2 _ | .fmaxBf16x2 _ | .fcmp _ | .fsfn _ | .cvt _ | .qscl _ | .lea _ | .shfl _ | .vote _
  | .voteBallot _ | .creduce _ | .elect _ | .srd _ | .ldt _ | .trav _ | .travCont _ | .spawn _ | .spawnNb _
  | .recld _ | .ld _ | .st _ | .lds _ | .sts _ | .pref _ | .waitm _ | .atom _ | .cas _ | .red _ | .cmt _
  | .abt _ | .acq _ | .bar _ | .bara _ | .barw _ | .bra _ | .call _ | .brx _ | .ret _ | .callx _ | .tret _
  | .tretNext _ | .tretReg _ | .exit _ | .yield _ | .trap _ | .iaddImm _ | .imulImm _ | .andImm _ | .orImm _
  | .xorImm _ | .shlImm _ | .shrImm _ | .sraImm _ | .icmpImm _ | .movi _ | .kadd _ | .ksub _ | .kmul _
  | .kand _ | .kor _ | .kxor _ | .kshl _ | .kshr _ | .kcmp _ | .ksel _ | .kmov _ | .kmovV _ | .ksrd _ | .kld _
  | .kst _ | .kbra _ | .kaddImm _ | .kmovImm _ | .kshlImm _ | .kshrImm _ | .bstat _ | .cpy _ | .cpyq _
  | .cpyqW _ | .mma _ | .mmast _ | .mmaz _ | .mmazRel _ | .pairs _ | .launch _ | .filldone _ | .fillfail _
  | .gset _ | .gsetNot _ | .gsetClr _ | .phase _ | .phaseOff _ | .satarm _ | .fenceLr _ | .fenceEng _
  | .flightIssue _ | .rendezvousCompletion _ | .threadAgeing _ | .demotionExpiry _ | .phaseOverrun _
  | .waitmTimeout _ | .spuriousWake _ | .loadReturn _ _ | .pageWalk _ | .faultReply _ _ | .sectorLanding _
  | .acknowledgement _ | .redPerform _ | .clusterUnitEviction _ _ | .lineEviction _ | .envelopeMiss _
  | .binTimer _ _ _ | .batchLaunch _ _ | .notifyProdWrite _ _ _ | .nstatRead _ _ | .launchRingEntry _ _
  | .recordRingEntry _ _ | .argumentImageRead _ | .parkTimeout _ | .swapOut _ | .swapIn _ | .teamRetire _
  | .barrierCompletion _ | .engineDispatch _ _ | .discarded _ _ | .copyLineLanding _ _ _ | .copyCompletion _
  | .mmaCompletion _ | .mmastCompletion _ | .mmazCompletion _ | .traversalResult _ | .pairsEmission _
  | .pairsCompletion _ | .softError _ | .loadNodeTable _ | .loadGeneratorTable _ | .preEmpt _ | .restore _
  | .invalidateTranslations _ | .removeGrid _ | .commandCompletion _ | .cstatWrite _ _ | .frconsWrite _ _
  | .erconsWrite _ _ | .registerWrite _ _ | .tetherRequest _ _ | .linkOutOfService _ | .powerArbiterInterval
  | .clockFactorChange _ | .deepPowerOff | .wakeRequest | .reset _ | .identityReport _ | .fomorCoreAccess _ _ _
  | .linkDown _ | .correctedSoftError => false

/-- Bytes of the instruction: 8 with an extension word, otherwise 4 (R302, R306). -/
def Instr.size (i : Instr) : Nat := if i.isExt then 8 else 4

end Sys2Proof
end

