-- ==== Sys2Proof/Decode.lean ====
section
/-!
DEFINITION. The decoder of instruction words and, after it, the encoder, both written from the encoding chapter (R302 to
R316). Decoding reads the fields of the word, checks the limits of the fields (`Instr.wf`), and then checks that the
instruction it read has exactly this word: a bit that a format names zero, or an unassigned code, is so refused by name.
-/

namespace Sys2Proof

/-- Why a word is no instruction (R310). -/
inductive DecodeError where
  /-- The opcode, or a sub-code of it, is unassigned. -/
  | unassigned
  /-- A field that the map names zero is not zero. -/
  | reservedField
  /-- A register or sub-field breaks a limit of its instruction. -/
  | operand
  /-- Fewer bytes than the instruction has. -/
  | truncated
deriving DecidableEq, Repr

/-! ### Codes of named fields -/

/-- The code of a `Cond` (R312). -/
def Cond.code : Cond → Nat
  | .eq => 0
  | .ne => 1
  | .ltS => 2
  | .leS => 3
  | .gtS => 4
  | .geS => 5
  | .ltN => 6
  | .geN => 7

/-- The `Cond` of a code, if assigned (R312). -/
def Cond.ofCode : Nat → Option Cond
  | 0 => some .eq
  | 1 => some .ne
  | 2 => some .ltS
  | 3 => some .leS
  | 4 => some .gtS
  | 5 => some .geS
  | 6 => some .ltN
  | 7 => some .geN
  | _ => none

/-- The code of a `FCond` (R312). -/
def FCond.code : FCond → Nat
  | .eq => 0
  | .ne => 1
  | .lt => 2
  | .le => 3
  | .gt => 4
  | .ge => 5
  | .num => 6
  | .nan => 7

/-- The `FCond` of a code, if assigned (R312). -/
def FCond.ofCode : Nat → Option FCond
  | 0 => some .eq
  | 1 => some .ne
  | 2 => some .lt
  | 3 => some .le
  | 4 => some .gt
  | 5 => some .ge
  | 6 => some .num
  | 7 => some .nan
  | _ => none

/-- The code of a `Comb` (R312). -/
def Comb.code : Comb → Nat
  | .set => 0
  | .and => 1
  | .or => 2

/-- The `Comb` of a code, if assigned (R312). -/
def Comb.ofCode : Nat → Option Comb
  | 0 => some .set
  | 1 => some .and
  | 2 => some .or
  | _ => none

/-- The code of a `SfnCode` (R219). -/
def SfnCode.code : SfnCode → Nat
  | .rcp => 0
  | .rsq => 1
  | .sqrt => 2
  | .exp2 => 3
  | .log2 => 4
  | .sinpi => 5
  | .cospi => 6
  | .tanh => 7

/-- The `SfnCode` of a code, if assigned (R219). -/
def SfnCode.ofCode : Nat → Option SfnCode
  | 0 => some .rcp
  | 1 => some .rsq
  | 2 => some .sqrt
  | 3 => some .exp2
  | 4 => some .log2
  | 5 => some .sinpi
  | 6 => some .cospi
  | 7 => some .tanh
  | _ => none

/-- The code of a `RMode` (R216). -/
def RMode.code : RMode → Nat
  | .rn => 0
  | .rz => 1
  | .rm => 2
  | .rp => 3

/-- The `RMode` of a code, if assigned (R216). -/
def RMode.ofCode : Nat → Option RMode
  | 0 => some .rn
  | 1 => some .rz
  | 2 => some .rm
  | 3 => some .rp
  | _ => none

/-- The code of a `ShflMode` (R405). -/
def ShflMode.code : ShflMode → Nat
  | .idx => 0
  | .up => 1
  | .down => 2
  | .xor => 3

/-- The `ShflMode` of a code, if assigned (R405). -/
def ShflMode.ofCode : Nat → Option ShflMode
  | 0 => some .idx
  | 1 => some .up
  | 2 => some .down
  | 3 => some .xor
  | _ => none

/-- The code of a `RedForm` (R345). -/
def RedForm.code : RedForm → Nat
  | .reduce => 0
  | .inc => 1
  | .exc => 2

/-- The `RedForm` of a code, if assigned (R345). -/
def RedForm.ofCode : Nat → Option RedForm
  | 0 => some .reduce
  | 1 => some .inc
  | 2 => some .exc
  | _ => none

/-- The code of a `RedOp` (R345). -/
def RedOp.code : RedOp → Nat
  | .add => 0
  | .minS => 1
  | .maxS => 2
  | .minN => 3
  | .maxN => 4
  | .and => 5
  | .or => 6
  | .xor => 7
  | .addF32 => 8
  | .maxF32 => 9
  | .minF32 => 10

/-- The `RedOp` of a code, if assigned (R345). -/
def RedOp.ofCode : Nat → Option RedOp
  | 0 => some .add
  | 1 => some .minS
  | 2 => some .maxS
  | 3 => some .minN
  | 4 => some .maxN
  | 5 => some .and
  | 6 => some .or
  | 7 => some .xor
  | 8 => some .addF32
  | 9 => some .maxF32
  | 10 => some .minF32
  | _ => none

/-- The code of a `AtomOp` (R311). -/
def AtomOp.code : AtomOp → Nat
  | .add => 0
  | .minS => 1
  | .maxS => 2
  | .minN => 3
  | .maxN => 4
  | .and => 5
  | .or => 6
  | .xor => 7
  | .exch => 8
  | .addF32 => 9
  | .maxF32 => 10

/-- The `AtomOp` of a code, if assigned (R311). -/
def AtomOp.ofCode : Nat → Option AtomOp
  | 0 => some .add
  | 1 => some .minS
  | 2 => some .maxS
  | 3 => some .minN
  | 4 => some .maxN
  | 5 => some .and
  | 6 => some .or
  | 7 => some .xor
  | 8 => some .exch
  | 9 => some .addF32
  | 10 => some .maxF32
  | _ => none

/-- The code of a `Scope` (R304). -/
def Scope.code : Scope → Nat
  | .team => 0
  | .cluster => 1
  | .device => 2
  | .system => 3

/-- The `Scope` of a code, if assigned (R304). -/
def Scope.ofCode : Nat → Option Scope
  | 0 => some .team
  | 1 => some .cluster
  | 2 => some .device
  | 3 => some .system
  | _ => none

/-- The code of a `CmtLevel` (R128). -/
def CmtLevel.code : CmtLevel → Nat
  | .team => 0
  | .cluster => 1
  | .device => 2
  | .system => 3

/-- The `CmtLevel` of a code, if assigned (R128). -/
def CmtLevel.ofCode : Nat → Option CmtLevel
  | 0 => some .team
  | 1 => some .cluster
  | 2 => some .device
  | 3 => some .system
  | _ => none

/-- The code of a `AbtLevel` (R128). -/
def AbtLevel.code : AbtLevel → Nat
  | .crew => 0
  | .team => 1
  | .cluster => 2

/-- The `AbtLevel` of a code, if assigned (R128). -/
def AbtLevel.ofCode : Nat → Option AbtLevel
  | 0 => some .crew
  | 1 => some .team
  | 2 => some .cluster
  | _ => none

/-- The code of a `BarLevel` (R149). -/
def BarLevel.code : BarLevel → Nat
  | .crew => 0
  | .team => 1
  | .cluster => 2
  | .grid => 3

/-- The `BarLevel` of a code, if assigned (R149). -/
def BarLevel.ofCode : Nat → Option BarLevel
  | 0 => some .crew
  | 1 => some .team
  | 2 => some .cluster
  | 3 => some .grid
  | _ => none

/-- The code of a `BTest` (R314). -/
def BTest.code : BTest → Nat
  | .nan => 0
  | .inf => 1
  | .sat => 2
  | .snan => 3
  | .any => 4
  | .clean => 5

/-- The `BTest` of a code, if assigned (R314). -/
def BTest.ofCode : Nat → Option BTest
  | 0 => some .nan
  | 1 => some .inf
  | 2 => some .sat
  | 3 => some .snan
  | 4 => some .any
  | 5 => some .clean
  | _ => none

/-- The conversion code (R217). -/
def CvtCode.code : CvtCode → Nat
  | .s32F32 => 0
  | .n32F32 => 1
  | .f32S32 => 2
  | .f32N32 => 3
  | .f16F32 => 4
  | .f32F16 => 5
  | .bf16F32 => 6
  | .f32Bf16 => 7
  | .f16x2F32 => 8
  | .bf16x2F32 => 9
  | .bf16x4E4m3 => 10
  | .f16x4E5m2 => 11
  | .f16x8E2m1 => 12
  | .f16x4S8 => 14

/-- The conversion of a code, if assigned (R217). -/
def CvtCode.ofCode : Nat → Option CvtCode
  | 0 => some .s32F32
  | 1 => some .n32F32
  | 2 => some .f32S32
  | 3 => some .f32N32
  | 4 => some .f16F32
  | 5 => some .f32F16
  | 6 => some .bf16F32
  | 7 => some .f32Bf16
  | 8 => some .f16x2F32
  | 9 => some .bf16x2F32
  | 10 => some .bf16x4E4m3
  | 11 => some .f16x4E5m2
  | 12 => some .f16x8E2m1
  | 14 => some .f16x4S8
  | _ => none

/-- The number of a special register (R315). -/
def SReg.code : SReg → Nat
  | .lane => 0
  | .tid => 1
  | .crew => 2
  | .ncrew => 3
  | .teamX => 4
  | .teamY => 5
  | .teamZ => 6
  | .nteamX => 7
  | .nteamY => 8
  | .nteamZ => 9
  | .role => 10
  | .core => 11
  | .cluster => 12
  | .speed => 13
  | .share => 14
  | .depth => 15
  | .clockLo => 16
  | .clockHi => 17
  | .fdepth => 18
  | .prio => 19
  | .sat => 20
  | .cflict => 21
  | .stragId => 22
  | .stragWait => 23
  | .cause => 24
  | .trapc => 25
  | .trapv => 26
  | .copies => 27
  | .gen => 28
  | .node => 29
  | .bphaseT n => 0x20 + n.val
  | .bphaseC n => 0x30 + n.val
  | .bphaseG n => 0x50 + n.val

/-- The special register of a number, if the table of R315 has it. -/
def SReg.ofCode (n : Nat) : Option SReg :=
  if 0x20 ≤ n ∧ n < 0x30 then some (.bphaseT (Fin.ofNat 16 (n - 0x20)))
  else if 0x30 ≤ n ∧ n < 0x50 then some (.bphaseC (Fin.ofNat 32 (n - 0x30)))
  else if 0x50 ≤ n ∧ n < 0x54 then some (.bphaseG (Fin.ofNat 4 (n - 0x50)))
  else match n with
  | 0 => some .lane
  | 1 => some .tid
  | 2 => some .crew
  | 3 => some .ncrew
  | 4 => some .teamX
  | 5 => some .teamY
  | 6 => some .teamZ
  | 7 => some .nteamX
  | 8 => some .nteamY
  | 9 => some .nteamZ
  | 10 => some .role
  | 11 => some .core
  | 12 => some .cluster
  | 13 => some .speed
  | 14 => some .share
  | 15 => some .depth
  | 16 => some .clockLo
  | 17 => some .clockHi
  | 18 => some .fdepth
  | 19 => some .prio
  | 20 => some .sat
  | 21 => some .cflict
  | 22 => some .stragId
  | 23 => some .stragWait
  | 24 => some .cause
  | 25 => some .trapc
  | 26 => some .trapv
  | 27 => some .copies
  | 28 => some .gen
  | 29 => some .node
  | _ => none

/-! ### Fields of a word (R303, R304) -/

namespace Fld

/-- Bits `lo + n - 1` to `lo` of a word, `m = 2^n` (R4). -/
abbrev get (w : Nat) (lo m : Nat) : Nat := w / lo % m

/-- U, bit 31. -/
def u (w : Nat) : Nat := w / 0x80000000 % 2
/-- OP, bits 30:25. -/
def op (w : Nat) : Nat := w / 0x2000000 % 64
/-- The guard, bits 24:22 and 21. -/
def g (w : Nat) : Guard := ⟨Fin.ofNat 8 (w / 0x400000), w / 0x200000 % 2 == 1⟩
/-- FN, bits 20:19 of LR. -/
def fn (w : Nat) : Nat := w / 0x80000 % 4
/-- KB, bit 18 of LR. -/
def kb (w : Nat) : Bool := w / 0x40000 % 2 == 1
/-- D, bits 17:12 of LR. -/
def d (w : Nat) : Fin 64 := Fin.ofNat 64 (w / 0x1000)
/-- A, bits 11:6 of LR. -/
def a (w : Nat) : Fin 64 := Fin.ofNat 64 (w / 0x40)
/-- B, bits 5:0 of LR. -/
def b (w : Nat) : Fin 64 := Fin.ofNat 64 w
/-- The B source of LR (R309). -/
def src (w : Nat) : Src := if kb w then .k (b w) else .v (b w)
/-- D, bits 20:15 of LI, LW, LM, LA and LC; KP of UE; A of BSTAT. -/
def dHi (w : Nat) : Fin 64 := Fin.ofNat 64 (w / 0x8000)
/-- A, bits 14:9 of LI, LM and LA. -/
def aHi (w : Nat) : Fin 64 := Fin.ofNat 64 (w / 0x200)
/-- IMM9 of LI. -/
def imm9 (w : Nat) : BitVec 9 := BitVec.ofNat 9 w
/-- IMM15 of LW, OFF15 of LC. -/
def imm15 (w : Nat) : BitVec 15 := BitVec.ofNat 15 w
/-- SZ of LM. -/
def sz (w : Nat) : Fin 8 := Fin.ofNat 8 (w / 0x40)
/-- Predicate in D[2:0] of LR. -/
def pd (w : Nat) : Fin 8 := Fin.ofNat 8 (w / 0x1000)
/-- Condition in D[5:3] of LR. -/
def cond (w : Nat) : Nat := w / 0x8000 % 8
/-- GS of UE, bits 14:12. -/
def gs (w : Nat) : Fin 8 := Fin.ofNat 8 (w / 0x1000)
/-- GE of UE, bit 11. -/
def ge (w : Nat) : Bool := w / 0x800 % 2 == 1

end Fld

open Fld

/-! ### Reading an instruction from its fields -/

/-- LR with D, A and a B source. -/
def rdReg3 (w : Nat) : OpReg3 := ⟨g w, d w, a w, src w⟩
/-- LR with D and A. -/
def rdReg2 (w : Nat) : OpReg2 := ⟨g w, d w, a w⟩
/-- LR with A only. -/
def rdReg1 (w : Nat) : OpReg1 := ⟨g w, a w⟩
/-- LI with a direct immediate. -/
def rdImm9 (w : Nat) : OpImm9 := ⟨g w, dHi w, aHi w, imm9 w⟩
/-- LI with its extension word. -/
def rdExt (w x : Nat) : OpExt := ⟨g w, dHi w, aHi w, BitVec.ofNat 32 x⟩
/-- Shift by an immediate. -/
def rdShift (w : Nat) : OpShift := ⟨g w, dHi w, aHi w, Fin.ofNat 32 w⟩
/-- LM. -/
def rdMem (w : Nat) : OpMem := ⟨g w, dHi w, aHi w, sz w, b w⟩
/-- UR with three k registers. -/
def rdK3 (w : Nat) : OpK3 := ⟨g w, d w, a w, b w⟩
/-- UE with a block address and a slot. -/
def rdBlock (w : Nat) : OpBlock := ⟨g w, dHi w, gs w, ge w⟩
/-- UM of `KLD` and `KST`. -/
def rdKmem (w : Nat) : OpKmem := ⟨g w, dHi w, aHi w, w / 0x40 % 2 == 1, b w⟩
/-- IMM9 holds the escape value (R306). -/
def esc9 (w : Nat) : Bool := w % 0x200 == 0x100
/-- IMM15 holds the escape value (R306). -/
def esc15 (w : Nat) : Bool := w % 0x8000 == 0x4000

/-- The lane map (R311): the instruction whose fields stand in `w`, with extension word `x`. -/
def rawLane (w x : Nat) : Option Instr :=
  match op w with
  | 0x01 =>
    some (.nop (g w))
  | 0x02 =>
    match fn w with
    | 0 => some (.iadd (rdReg3 w))
    | 1 => some (.isub (rdReg3 w))
    | 2 => some (.iaddw (rdReg3 w))
    | _ => none
  | 0x03 =>
    match fn w with
    | 0 => some (.imul (rdReg3 w))
    | 1 => some (.imulhS32 (rdReg3 w))
    | 2 => some (.imulhN32 (rdReg3 w))
    | 3 => some (.imad (rdReg3 w))
    | _ => none
  | 0x04 =>
    match fn w with
    | 0 => some (.iminS (rdReg3 w))
    | 1 => some (.imaxS (rdReg3 w))
    | 2 => some (.iminN (rdReg3 w))
    | 3 => some (.imaxN (rdReg3 w))
    | _ => none
  | 0x05 =>
    match fn w with
    | 0 => some (.and (rdReg3 w))
    | 1 => some (.or (rdReg3 w))
    | 2 => some (.xor (rdReg3 w))
    | 3 => some (.andn (rdReg3 w))
    | _ => none
  | 0x06 =>
    match fn w with
    | 0 => some (.shl (rdReg3 w))
    | 1 => some (.shr (rdReg3 w))
    | 2 => some (.sra (rdReg3 w))
    | _ => none
  | 0x07 =>
    match fn w with
    | 0 => some (.clz (rdReg2 w))
    | 1 => some (.popc (rdReg2 w))
    | 2 => some (.brev (rdReg2 w))
    | _ => none
  | 0x08 =>
    match fn w with
    | 0 => some (.bfxN (rdReg3 w))
    | 1 => some (.bfxS (rdReg3 w))
    | _ => none
  | 0x09 =>
    match fn w with
    | 0 => some (.bfi (rdReg3 w))
    | _ => none
  | 0x0A =>
    match Comb.ofCode (fn w), Cond.ofCode (cond w) with
    | some cb, some c => some (.icmp ⟨g w, cb, c, pd w, a w, src w⟩)
    | _, _ => none
  | 0x0B =>
    match fn w with
    | 0 => some (.sel (rdReg3 w))
    | _ => none
  | 0x0C =>
    match fn w with
    | 0 => some (.mov ⟨g w, d w, src w⟩)
    | 1 => some (.mov64 ⟨g w, d w, src w⟩)
    | _ => none
  | 0x0D =>
    match fn w with
    | 0 => some (.faddF32 (rdReg3 w))
    | 1 => some (.fsubF32 (rdReg3 w))
    | 2 => some (.fmulF32 (rdReg3 w))
    | 3 => some (.ffmaF32 (rdReg3 w))
    | _ => none
  | 0x0E =>
    match fn w with
    | 0 => some (.faddF16x2 (rdReg3 w))
    | 1 => some (.fsubF16x2 (rdReg3 w))
    | 2 => some (.fmulF16x2 (rdReg3 w))
    | 3 => some (.ffmaF16x2 (rdReg3 w))
    | _ => none
  | 0x0F =>
    match fn w with
    | 0 => some (.faddBf16x2 (rdReg3 w))
    | 1 => some (.fsubBf16x2 (rdReg3 w))
    | 2 => some (.fmulBf16x2 (rdReg3 w))
    | 3 => some (.ffmaBf16x2 (rdReg3 w))
    | _ => none
  | 0x10 =>
    match fn w with
    | 0 => some (.fminF32 (rdReg3 w))
    | 1 => some (.fmaxF32 (rdReg3 w))
    | 2 => some (.fminF16x2 (rdReg3 w))
    | 3 => some (.fmaxF16x2 (rdReg3 w))
    | _ => none
  | 0x11 =>
    match fn w with
    | 0 => some (.fminBf16x2 (rdReg3 w))
    | 1 => some (.fmaxBf16x2 (rdReg3 w))
    | _ => none
  | 0x12 =>
    match Comb.ofCode (fn w), FCond.ofCode (cond w) with
    | some cb, some c => some (.fcmp ⟨g w, cb, c, pd w, a w, src w⟩)
    | _, _ => none
  | 0x13 =>
    (SfnCode.ofCode (b w).val).map fun c => .fsfn ⟨g w, d w, a w, c⟩
  | 0x14 =>
    match RMode.ofCode (fn w), CvtCode.ofCode (b w).val with
    | some m, some c => some (.cvt ⟨g w, m, d w, a w, c⟩)
    | _, _ => none
  | 0x15 =>
    match fn w with
    | 0 => some (.qscl ⟨g w, false, d w, a w, src w⟩)
    | 1 => some (.qscl ⟨g w, true, d w, a w, src w⟩)
    | _ => none
  | 0x16 =>
    some (.lea ⟨g w, Fin.ofNat 4 (w / 0x80000), d w, a w, src w⟩)
  | 0x17 =>
    (ShflMode.ofCode (fn w)).map fun m => .shfl ⟨g w, m, d w, a w, src w⟩
  | 0x18 =>
    match fn w with
    | 0 => some (.vote ⟨g w, false, pd w, Fin.ofNat 8 (w / 0x40)⟩)
    | 1 => some (.vote ⟨g w, true, pd w, Fin.ofNat 8 (w / 0x40)⟩)
    | 2 => some (.voteBallot ⟨g w, d w, Fin.ofNat 8 (w / 0x40)⟩)
    | _ => none
  | 0x19 =>
    match RedForm.ofCode (fn w), RedOp.ofCode (b w).val with
    | some f, some c => some (.creduce ⟨g w, f, d w, a w, c⟩)
    | _, _ => none
  | 0x1A =>
    some (.elect ⟨g w, pd w⟩)
  | 0x1B =>
    (SReg.ofCode (w % 0x200)).map fun r => .srd ⟨g w, dHi w, r⟩
  | 0x1C =>
    some (.ldt (rdMem w))
  | 0x1D =>
    match fn w with
    | 0 => some (.trav ⟨g w, d w, a w, b w⟩)
    | 1 => some (.travCont ⟨g w, d w, a w, b w⟩)
    | _ => none
  | 0x1E =>
    match fn w with
    | 0 => some (.spawn ⟨g w, a w, src w⟩)
    | 1 => some (.spawnNb ⟨g w, pd w, a w, src w⟩)
    | _ => none
  | 0x1F =>
    some (.recld ⟨g w, Fin.ofNat 4 (w / 0x80000), d w, Fin.ofNat 16 w⟩)
  | 0x20 =>
    some (.ld (rdMem w))
  | 0x21 =>
    some (.st (rdMem w))
  | 0x22 =>
    some (.lds (rdMem w))
  | 0x23 =>
    some (.sts (rdMem w))
  | 0x24 =>
    some (.pref ⟨g w, aHi w, sz w, b w⟩)
  | 0x25 =>
    some (.waitm (rdMem w))
  | 0x26 =>
    match AtomOp.ofCode (w / 0x20 % 16), Scope.ofCode (w / 8 % 4) with
    | some p, some s => some (.atom ⟨g w, dHi w, aHi w, p, s, w / 4 % 2 == 1⟩)
    | _, _ => none
  | 0x27 =>
    (Scope.ofCode (w / 8 % 4)).map fun s => .cas ⟨g w, dHi w, aHi w, s, w / 4 % 2 == 1⟩
  | 0x28 =>
    match AtomOp.ofCode (w / 0x20 % 16), Scope.ofCode (w / 8 % 4) with
    | some p, some s => some (.red ⟨g w, dHi w, aHi w, p, s, w / 4 % 2 == 1⟩)
    | _, _ => none
  | 0x29 =>
    (CmtLevel.ofCode (fn w)).map fun l => .cmt ⟨g w, l, w / 0x8000 % 2 == 1, pd w⟩
  | 0x2A =>
    (AbtLevel.ofCode (fn w)).map fun l => .abt ⟨g w, l⟩
  | 0x2B =>
    (CmtLevel.ofCode (fn w)).map fun l => .acq ⟨g w, l⟩
  | 0x2C =>
    (BarLevel.ofCode (fn w)).map fun l => .bar ⟨g w, l, a w, w % 2 == 1, w / 2 % 2 == 1⟩
  | 0x2D =>
    (BarLevel.ofCode (fn w)).map fun l => .bara ⟨g w, l, a w, d w, src w⟩
  | 0x2E =>
    some (.barw ⟨g w, a w, w / 2 % 2 == 1⟩)
  | 0x2F =>
    some (.bra ⟨g w, BitVec.ofNat 21 w⟩)
  | 0x30 =>
    some (.call ⟨g w, dHi w, imm15 w⟩)
  | 0x31 =>
    match fn w with
    | 0 => some (.brx (rdReg1 w))
    | 1 => some (.ret (rdReg1 w))
    | 2 => some (.callx (rdReg2 w))
    | _ => none
  | 0x32 =>
    match fn w with
    | 0 => some (.tret (g w))
    | 1 => some (.tretNext (g w))
    | 2 => some (.tretReg (rdReg1 w))
    | _ => none
  | 0x33 =>
    some (.exit (g w))
  | 0x34 =>
    some (.yield (g w))
  | 0x35 =>
    if esc15 w then some (.trapExt ⟨g w, BitVec.ofNat 32 x⟩) else some (.trap ⟨g w, imm15 w⟩)
  | 0x36 =>
    if esc9 w then some (.iaddImmExt (rdExt w x)) else some (.iaddImm (rdImm9 w))
  | 0x37 =>
    if esc9 w then some (.imulImmExt (rdExt w x)) else some (.imulImm (rdImm9 w))
  | 0x38 =>
    if esc9 w then some (.andImmExt (rdExt w x)) else some (.andImm (rdImm9 w))
  | 0x39 =>
    if esc9 w then some (.orImmExt (rdExt w x)) else some (.orImm (rdImm9 w))
  | 0x3A =>
    if esc9 w then some (.xorImmExt (rdExt w x)) else some (.xorImm (rdImm9 w))
  | 0x3B =>
    match w / 0x20 % 4 with
    | 0 => some (.shlImm (rdShift w))
    | 1 => some (.shrImm (rdShift w))
    | 2 => some (.sraImm (rdShift w))
    | _ => none
  | 0x3C =>
    (Cond.ofCode (w / 0x40000 % 8)).map fun c =>
      if esc9 w then .icmpImmExt ⟨g w, c, Fin.ofNat 8 (w / 0x8000), aHi w, BitVec.ofNat 32 x⟩
      else .icmpImm ⟨g w, c, Fin.ofNat 8 (w / 0x8000), aHi w, imm9 w⟩
  | 0x3D =>
    if esc15 w then some (.moviExt ⟨g w, dHi w, BitVec.ofNat 32 x⟩) else some (.movi ⟨g w, dHi w, imm15 w⟩)
  | _ => none

/-- The uniform map (R313). -/
def rawUniform (w x : Nat) : Option Instr :=
  match op w with
  | 0x02 =>
    match fn w with
    | 0 => some (.kadd (rdK3 w))
    | 1 => some (.ksub (rdK3 w))
    | 2 => some (.kmul (rdK3 w))
    | _ => none
  | 0x03 =>
    match fn w with
    | 0 => some (.kand (rdK3 w))
    | 1 => some (.kor (rdK3 w))
    | 2 => some (.kxor (rdK3 w))
    | _ => none
  | 0x04 =>
    match fn w with
    | 0 => some (.kshl (rdK3 w))
    | 1 => some (.kshr (rdK3 w))
    | _ => none
  | 0x05 =>
    match Comb.ofCode (fn w), Cond.ofCode (cond w) with
    | some cb, some c => some (.kcmp ⟨g w, cb, c, pd w, a w, b w⟩)
    | _, _ => none
  | 0x06 =>
    match fn w with
    | 0 => some (.ksel (rdK3 w))
    | _ => none
  | 0x07 =>
    match fn w with
    | 0 => some (.kmov ⟨g w, d w, b w⟩)
    | 1 => some (.kmovV ⟨g w, d w, b w⟩)
    | _ => none
  | 0x08 =>
    (SReg.ofCode (w % 0x200)).map fun r => .ksrd ⟨g w, dHi w, r⟩
  | 0x09 =>
    some (.kld (rdKmem w))
  | 0x0A =>
    some (.kst (rdKmem w))
  | 0x0B =>
    some (.kbra ⟨g w, BitVec.ofNat 21 w⟩)
  | 0x0C =>
    if esc9 w then some (.kaddImmExt (rdExt w x)) else some (.kaddImm (rdImm9 w))
  | 0x0D =>
    if esc15 w then some (.kmovImmExt ⟨g w, dHi w, BitVec.ofNat 32 x⟩) else some (.kmovImm ⟨g w, dHi w, imm15 w⟩)
  | 0x0E =>
    match w / 0x20 % 4 with
    | 0 => some (.kshlImm (rdShift w))
    | 1 => some (.kshrImm (rdShift w))
    | _ => none
  | 0x0F =>
    (BTest.ofCode (w / 0x1000 % 8)).map fun t => .bstat ⟨g w, dHi w, t, BitVec.ofNat 12 w⟩
  | 0x10 =>
    some (.cpy (rdBlock w))
  | 0x11 =>
    if w / 0x100 % 2 == 1 then some (.cpyqW ⟨g w, dHi w, Fin.ofNat 256 w⟩) else some (.cpyq ⟨g w, dHi w⟩)
  | 0x12 =>
    some (.mma (rdBlock w))
  | 0x13 =>
    some (.mmast (rdBlock w))
  | 0x14 =>
    if w / 2 % 2 == 1 then some (.mmazRel ⟨g w, gs w, ge w, Fin.ofNat 2 w⟩) else some (.mmaz ⟨g w, gs w, ge w, Fin.ofNat 2 w⟩)
  | 0x15 =>
    some (.pairs (rdBlock w))
  | 0x16 =>
    some (.launch ⟨g w, dHi w⟩)
  | 0x17 =>
    some (.filldone ⟨g w, dHi w, Fin.ofNat 8 w⟩)
  | 0x18 =>
    some (.fillfail ⟨g w, dHi w, Fin.ofNat 8 w⟩)
  | 0x19 =>
    match fn w with
    | 0 => some (.gset ⟨g w, gs w, Fin.ofNat 8 (w / 0x40)⟩)
    | 1 => some (.gsetNot ⟨g w, gs w, Fin.ofNat 8 (w / 0x40)⟩)
    | 2 => some (.gsetClr ⟨g w, gs w⟩)
    | _ => none
  | 0x1A =>
    match fn w with
    | 0 => some (.phase ⟨g w, b w⟩)
    | 1 => some (.phaseOff (g w))
    | _ => none
  | 0x1B =>
    some (.satarm ⟨g w, w / 0x100000 % 2 == 1, w / 0x80000 % 2 == 1⟩)
  | 0x1C =>
    match fn w with
    | 0 => some (.fenceLr (g w))
    | 1 => some (.fenceEng (g w))
    | _ => none
  | _ => none

/-! ### The encoder -/

/-- Bits 31:21 of a word (R303). -/
def hdr (u op : Nat) (g : Guard) : Nat :=
  u * 0x80000000 + op * 0x2000000 + g.p.val * 0x400000 + g.neg.toNat * 0x200000
/-- Bits 18 and 5:0 of the B source (R309). -/
def Src.bits : Src → Nat
  | .v n => n.val
  | .k n => 0x40000 + n.val
/-- FN of LR. -/
def fnBits (n : Nat) : Nat := n * 0x80000
/-- D and A of LR. -/
def daBits (d a : Fin 64) : Nat := d.val * 0x1000 + a.val * 0x40
/-- D and A of LI, LM and LA. -/
def daHiBits (d a : Fin 64) : Nat := d.val * 0x8000 + a.val * 0x200
/-- LR with D, A and a B source. -/
def encReg3 (op fn : Nat) (o : OpReg3) : Nat := hdr 0 op o.g + fnBits fn + daBits o.d o.a + o.b.bits
/-- LR with D and A. -/
def encReg2 (op fn : Nat) (o : OpReg2) : Nat := hdr 0 op o.g + fnBits fn + daBits o.d o.a
/-- LR with A only. -/
def encReg1 (op fn : Nat) (o : OpReg1) : Nat := hdr 0 op o.g + fnBits fn + daBits 0 o.a
/-- LI or UI with a direct immediate. -/
def encImm9 (u op : Nat) (o : OpImm9) : Nat := hdr u op o.g + daHiBits o.d o.a + o.imm.toNat
/-- LI or UI with the escape value (R306). -/
def encEsc9 (u op : Nat) (o : OpExt) : Nat := hdr u op o.g + daHiBits o.d o.a + 0x100
/-- LW or UW with a direct immediate. -/
def encImm15 (u op : Nat) (o : OpImm15) : Nat := hdr u op o.g + o.d.val * 0x8000 + o.imm.toNat
/-- LW or UW with the escape value (R306). -/
def encEsc15 (u op : Nat) (o : OpExt15) : Nat := hdr u op o.g + o.d.val * 0x8000 + 0x4000
/-- Shift by an immediate, sub-code in IMM9[6:5]. -/
def encShift (u op sub : Nat) (o : OpShift) : Nat := hdr u op o.g + daHiBits o.d o.a + sub * 0x20 + o.s.val
/-- LM. -/
def encMem (op : Nat) (o : OpMem) : Nat := hdr 0 op o.g + daHiBits o.d o.a + o.sz.val * 0x40 + o.off.val
/-- LA. -/
def encLa (op : Nat) (g : Guard) (d a : Fin 64) (aop : Nat) (sc : Scope) (w : Bool) : Nat :=
  hdr 0 op g + daHiBits d a + aop * 0x20 + sc.code * 8 + w.toNat * 4
/-- UR with three k registers. -/
def encK3 (op fn : Nat) (o : OpK3) : Nat := hdr 1 op o.g + fnBits fn + daBits o.d o.a + o.b.val
/-- GS and GE of UE. -/
def slotBits (gs : Fin 8) (ge : Bool) : Nat := gs.val * 0x1000 + ge.toNat * 0x800
/-- UE with a block address and a slot. -/
def encBlock (op : Nat) (o : OpBlock) : Nat := hdr 1 op o.g + o.kp.val * 0x8000 + slotBits o.gs o.ge
/-- UM of `KLD` and `KST`. -/
def encKmem (op : Nat) (o : OpKmem) : Nat :=
  hdr 1 op o.g + daHiBits o.d o.a + (2 + o.wide.toNat) * 0x40 + o.off.val

/-- The first word of an instruction; 0 for an event, which has none. -/
def Instr.word : Instr → Nat
  | .nop g => hdr 0 0x01 g
  | .iadd o => encReg3 0x02 0 o
  | .isub o => encReg3 0x02 1 o
  | .iaddw o => encReg3 0x02 2 o
  | .imul o => encReg3 0x03 0 o
  | .imulhS32 o => encReg3 0x03 1 o
  | .imulhN32 o => encReg3 0x03 2 o
  | .imad o => encReg3 0x03 3 o
  | .iminS o => encReg3 0x04 0 o
  | .imaxS o => encReg3 0x04 1 o
  | .iminN o => encReg3 0x04 2 o
  | .imaxN o => encReg3 0x04 3 o
  | .and o => encReg3 0x05 0 o
  | .or o => encReg3 0x05 1 o
  | .xor o => encReg3 0x05 2 o
  | .andn o => encReg3 0x05 3 o
  | .shl o => encReg3 0x06 0 o
  | .shr o => encReg3 0x06 1 o
  | .sra o => encReg3 0x06 2 o
  | .clz o => encReg2 0x07 0 o
  | .popc o => encReg2 0x07 1 o
  | .brev o => encReg2 0x07 2 o
  | .bfxN o => encReg3 0x08 0 o
  | .bfxS o => encReg3 0x08 1 o
  | .bfi o => encReg3 0x09 0 o
  | .icmp o => hdr 0 0x0A o.g + fnBits o.comb.code + o.cond.code * 0x8000 + o.pd.val * 0x1000 + o.a.val * 0x40 + o.b.bits
  | .sel o => encReg3 0x0B 0 o
  | .mov o => hdr 0 0x0C o.g + o.d.val * 0x1000 + o.b.bits
  | .mov64 o => hdr 0 0x0C o.g + fnBits 1 + o.d.val * 0x1000 + o.b.bits
  | .faddF32 o => encReg3 0x0D 0 o
  | .fsubF32 o => encReg3 0x0D 1 o
  | .fmulF32 o => encReg3 0x0D 2 o
  | .ffmaF32 o => encReg3 0x0D 3 o
  | .faddF16x2 o => encReg3 0x0E 0 o
  | .fsubF16x2 o => encReg3 0x0E 1 o
  | .fmulF16x2 o => encReg3 0x0E 2 o
  | .ffmaF16x2 o => encReg3 0x0E 3 o
  | .faddBf16x2 o => encReg3 0x0F 0 o
  | .fsubBf16x2 o => encReg3 0x0F 1 o
  | .fmulBf16x2 o => encReg3 0x0F 2 o
  | .ffmaBf16x2 o => encReg3 0x0F 3 o
  | .fminF32 o => encReg3 0x10 0 o
  | .fmaxF32 o => encReg3 0x10 1 o
  | .fminF16x2 o => encReg3 0x10 2 o
  | .fmaxF16x2 o => encReg3 0x10 3 o
  | .fminBf16x2 o => encReg3 0x11 0 o
  | .fmaxBf16x2 o => encReg3 0x11 1 o
  | .fcmp o => hdr 0 0x12 o.g + fnBits o.comb.code + o.cond.code * 0x8000 + o.pd.val * 0x1000 + o.a.val * 0x40 + o.b.bits
  | .fsfn o => hdr 0 0x13 o.g + daBits o.d o.a + o.fn.code
  | .cvt o => hdr 0 0x14 o.g + fnBits o.mode.code + daBits o.d o.a + o.code.code
  | .qscl o => hdr 0 0x15 o.g + fnBits o.e5m2.toNat + daBits o.d o.a + o.b.bits
  | .lea o => hdr 0 0x16 o.g + fnBits o.s.val + daBits o.d o.a + o.b.bits
  | .shfl o => hdr 0 0x17 o.g + fnBits o.mode.code + daBits o.d o.a + o.b.bits
  | .vote o => hdr 0 0x18 o.g + fnBits o.any.toNat + o.pd.val * 0x1000 + o.pa.val * 0x40
  | .voteBallot o => hdr 0 0x18 o.g + fnBits 2 + o.d.val * 0x1000 + o.pa.val * 0x40
  | .creduce o => hdr 0 0x19 o.g + fnBits o.form.code + daBits o.d o.a + o.op.code
  | .elect o => hdr 0 0x1A o.g + o.pd.val * 0x1000
  | .srd o => hdr 0 0x1B o.g + o.d.val * 0x8000 + o.sr.code
  | .ldt o => encMem 0x1C o
  | .trav o => hdr 0 0x1D o.g + 0x40000 + daBits o.d o.a + o.b.val
  | .travCont o => hdr 0 0x1D o.g + fnBits 1 + 0x40000 + daBits o.d o.a + o.b.val
  | .spawn o => hdr 0 0x1E o.g + o.a.val * 0x40 + o.b.bits
  | .spawnNb o => hdr 0 0x1E o.g + fnBits 1 + o.pd.val * 0x1000 + o.a.val * 0x40 + o.b.bits
  | .recld o => hdr 0 0x1F o.g + fnBits o.n.val + o.d.val * 0x1000 + o.w.val
  | .ld o => encMem 0x20 o
  | .st o => encMem 0x21 o
  | .lds o => encMem 0x22 o
  | .sts o => encMem 0x23 o
  | .pref o => hdr 0 0x24 o.g + o.a.val * 0x200 + o.sz.val * 0x40 + o.off.val
  | .waitm o => encMem 0x25 o
  | .atom o => encLa 0x26 o.g o.d o.a o.op.code o.sc o.w
  | .cas o => encLa 0x27 o.g o.d o.a 0 o.sc o.w
  | .red o => encLa 0x28 o.g o.d o.a o.op.code o.sc o.w
  | .cmt o => hdr 0 0x29 o.g + fnBits o.level.code + o.x.toNat * 0x8000 + o.pd.val * 0x1000
  | .abt o => hdr 0 0x2A o.g + fnBits o.level.code
  | .acq o => hdr 0 0x2B o.g + fnBits o.level.code
  | .bar o => hdr 0 0x2C o.g + fnBits o.level.code + o.id.val * 0x40 + o.acq.toNat * 2 + o.cmt.toNat
  | .bara o => hdr 0 0x2D o.g + fnBits o.level.code + daBits o.d o.id + o.b.bits
  | .barw o => hdr 0 0x2E o.g + o.a.val * 0x40 + o.acq.toNat * 2
  | .bra o => hdr 0 0x2F o.g + o.off.toNat
  | .call o => hdr 0 0x30 o.g + o.d.val * 0x8000 + o.off.toNat
  | .brx o => encReg1 0x31 0 o
  | .ret o => encReg1 0x31 1 o
  | .callx o => encReg2 0x31 2 o
  | .tret g => hdr 0 0x32 g
  | .tretNext g => hdr 0 0x32 g + fnBits 1
  | .tretReg o => encReg1 0x32 2 o
  | .exit g => hdr 0 0x33 g
  | .yield g => hdr 0 0x34 g
  | .trap o => hdr 0 0x35 o.g + o.n.toNat
  | .trapExt o => hdr 0 0x35 o.g + 0x4000
  | .iaddImm o => encImm9 0 0x36 o
  | .iaddImmExt o => encEsc9 0 0x36 o
  | .imulImm o => encImm9 0 0x37 o
  | .imulImmExt o => encEsc9 0 0x37 o
  | .andImm o => encImm9 0 0x38 o
  | .andImmExt o => encEsc9 0 0x38 o
  | .orImm o => encImm9 0 0x39 o
  | .orImmExt o => encEsc9 0 0x39 o
  | .xorImm o => encImm9 0 0x3A o
  | .xorImmExt o => encEsc9 0 0x3A o
  | .shlImm o => encShift 0 0x3B 0 o
  | .shrImm o => encShift 0 0x3B 1 o
  | .sraImm o => encShift 0 0x3B 2 o
  | .icmpImm o => hdr 0 0x3C o.g + o.cond.code * 0x40000 + o.pd.val * 0x8000 + o.a.val * 0x200 + o.imm.toNat
  | .icmpImmExt o => hdr 0 0x3C o.g + o.cond.code * 0x40000 + o.pd.val * 0x8000 + o.a.val * 0x200 + 0x100
  | .movi o => encImm15 0 0x3D o
  | .moviExt o => encEsc15 0 0x3D o
  | .kadd o => encK3 0x02 0 o
  | .ksub o => encK3 0x02 1 o
  | .kmul o => encK3 0x02 2 o
  | .kand o => encK3 0x03 0 o
  | .kor o => encK3 0x03 1 o
  | .kxor o => encK3 0x03 2 o
  | .kshl o => encK3 0x04 0 o
  | .kshr o => encK3 0x04 1 o
  | .kcmp o => hdr 1 0x05 o.g + fnBits o.comb.code + o.cond.code * 0x8000 + o.qd.val * 0x1000 + o.a.val * 0x40 + o.b.val
  | .ksel o => encK3 0x06 0 o
  | .kmov o => hdr 1 0x07 o.g + o.d.val * 0x1000 + o.b.val
  | .kmovV o => hdr 1 0x07 o.g + fnBits 1 + o.d.val * 0x1000 + o.b.val
  | .ksrd o => hdr 1 0x08 o.g + o.d.val * 0x8000 + o.sr.code
  | .kld o => encKmem 0x09 o
  | .kst o => encKmem 0x0A o
  | .kbra o => hdr 1 0x0B o.g + o.off.toNat
  | .kaddImm o => encImm9 1 0x0C o
  | .kaddImmExt o => encEsc9 1 0x0C o
  | .kmovImm o => encImm15 1 0x0D o
  | .kmovImmExt o => encEsc15 1 0x0D o
  | .kshlImm o => encShift 1 0x0E 0 o
  | .kshrImm o => encShift 1 0x0E 1 o
  | .bstat o => hdr 1 0x0F o.g + o.a.val * 0x8000 + o.t.code * 0x1000 + o.off.toNat
  | .cpy o => encBlock 0x10 o
  | .cpyq o => hdr 1 0x11 o.g + o.kp.val * 0x8000
  | .cpyqW o => hdr 1 0x11 o.g + o.kp.val * 0x8000 + 0x100 + o.n.val
  | .mma o => encBlock 0x12 o
  | .mmast o => encBlock 0x13 o
  | .mmaz o => hdr 1 0x14 o.g + slotBits o.gs o.ge + o.bank.val
  | .mmazRel o => hdr 1 0x14 o.g + slotBits o.gs o.ge + 2 + o.bank.val
  | .pairs o => encBlock 0x15 o
  | .launch o => hdr 1 0x16 o.g + o.kp.val * 0x8000
  | .filldone o => hdr 1 0x17 o.g + o.kp.val * 0x8000 + o.n.val
  | .fillfail o => hdr 1 0x18 o.g + o.kp.val * 0x8000 + o.n.val
  | .gset o => hdr 1 0x19 o.g + o.gs.val * 0x1000 + o.qa.val * 0x40
  | .gsetNot o => hdr 1 0x19 o.g + fnBits 1 + o.gs.val * 0x1000 + o.qa.val * 0x40
  | .gsetClr o => hdr 1 0x19 o.g + fnBits 2 + o.gs.val * 0x1000
  | .phase o => hdr 1 0x1A o.g + o.kb.val
  | .phaseOff g => hdr 1 0x1A g + fnBits 1
  | .satarm o => hdr 1 0x1B o.g + o.clr.toNat * 0x100000 + o.off.toNat * 0x80000
  | .fenceLr g => hdr 1 0x1C g
  | .fenceEng g => hdr 1 0x1C g + fnBits 1
  | .flightIssue _ | .rendezvousCompletion _ | .threadAgeing _ | .demotionExpiry _ | .phaseOverrun _
  | .waitmTimeout _ | .spuriousWake _ | .loadReturn _ _ | .pageWalk _ | .faultReply _ _ | .sectorLanding _
  | .acknowledgement _ | .redPerform _ | .clusterUnitEviction _ _ | .lineEviction _ | .envelopeMiss _
  | .binTimer _ _ _ | .batchLaunch _ _ | .notifyProdWrite _ _ _ | .nstatRead _ _ | .launchRingEntry _ _
  | .recordRingEntry _ _ | .argumentImageRead _ | .parkTimeout _ | .swapOut _ | .swapIn _ | .teamRetire _
  | .barrierCompletion _ | .engineDispatch _ _ | .discarded _ _ | .copyLineLanding _ _ _ | .copyCompletion _
  | .mmaCompletion _ | .mmastCompletion _ | .mmazCompletion _ | .traversalResult _ | .pairsEmission _
  | .pairsCompletion _ | .softError _ | .loadNodeTable _ | .loadGeneratorTable _ | .preEmpt _ | .restore _
  | .invalidateTranslations _ | .removeGrid _ | .commandCompletion _ | .cstatWrite _ _ | .frconsWrite _ _
  | .erconsWrite _ _ | .registerWrite _ _ | .tetherRequest _ _ | .linkOutOfService _ | .powerArbiterInterval
  | .clockFactorChange _ | .deepPowerOff | .wakeRequest | .reset _ | .identityReport _ | .fomorCoreAccess _ _ _
  | .linkDown _ | .correctedSoftError => 0

/-- The extension word of a two-word instruction, 0 otherwise (R306). -/
def Instr.extWord : Instr → Word
  | .trapExt o => o.n
  | .iaddImmExt o => o.imm
  | .imulImmExt o => o.imm
  | .andImmExt o => o.imm
  | .orImmExt o => o.imm
  | .xorImmExt o => o.imm
  | .icmpImmExt o => o.imm
  | .moviExt o => o.imm
  | .kaddImmExt o => o.imm
  | .kmovImmExt o => o.imm
  | .nop _ | .iadd _ | .isub _ | .iaddw _ | .imul _ | .imulhS32 _ | .imulhN32 _ | .imad _ | .iminS _ | .imaxS _
  | .iminN _ | .imaxN _ | .and _ | .or _ | .xor _ | .andn _ | .shl _ | .shr _ | .sra _ | .clz _ | .popc _
  | .brev _ | .bfxN _ | .bfxS _ | .bfi _ | .icmp _ | .sel _ | .mov _ | .mov64 _ | .faddF32 _ | .fsubF32 _
  | .fmulF32 _ | .ffmaF32 _ | .faddF16x2 _ | .fsubF16x2 _ | .fmulF16x2 _ | .ffmaF16x2 _ | .faddBf16x2 _
  | .fsubBf16x2 _ | .fmulBf16x2 _ | .ffmaBf16x2 _ | .fminF32 _ | .fmaxF32 _ | .fminF16x2 _ | .fmaxF16x2 _
  | .fminBf16x2 _ | .fmaxBf16x2 _ | .fcmp _ | .fsfn _ | .cvt _ | .qscl _ | .lea _ | .shfl _ | .vote _
  | .voteBallot _ | .creduce _ | .elect _ | .srd _ | .ldt _ | .trav _ | .travCont _ | .spawn _ | .spawnNb _
  | .recld _ | .ld _ | .st _ | .lds _ | .sts _ | .pref _ | .waitm _ | .atom _ | .cas _ | .red _ | .cmt _
  | .abt _ | .acq _ | .bar _ | .bara _ | .barw _ | .bra _ | .call _ | .brx _ | .ret _ | .callx _ | .tret _
  | .tretNext _ | .tretReg _ | .exit _ | .yield _ | .trap _ | .iaddImm _ | .imulImm _ | .andImm _ | .orImm _
  | .xorImm _ | .shlImm _ | .shrImm _ | .sraImm _ | .icmpImm _ | .movi _ | .kadd _ | .ksub _ | .kmul _
  | .kand _ | .kor _ | .kxor _ | .kshl _ | .kshr _ | .kcmp _ | .ksel _ | .kmov _ | .kmovV _ | .ksrd _ | .kld _
  | .kst _ | .kbra _ | .kaddImm _ | .kmovImm _ | .kshlImm _ | .kshrImm _ | .bstat _ | .cpy _ | .cpyq _
  | .cpyqW _ | .mma _ | .mmast _ | .mmaz _ | .mmazRel _ | .pairs _ | .launch _ | .filldone _ | .fillfail _
  | .gset _ | .gsetNot _ | .gsetClr _ | .phase _ | .phaseOff _ | .satarm _ | .fenceLr _ | .fenceEng _
  | .flightIssue _ | .rendezvousCompletion _ | .threadAgeing _ | .demotionExpiry _ | .phaseOverrun _
  | .waitmTimeout _ | .spuriousWake _ | .loadReturn _ _ | .pageWalk _ | .faultReply _ _ | .sectorLanding _
  | .acknowledgement _ | .redPerform _ | .clusterUnitEviction _ _ | .lineEviction _ | .envelopeMiss _
  | .binTimer _ _ _ | .batchLaunch _ _ | .notifyProdWrite _ _ _ | .nstatRead _ _ | .launchRingEntry _ _
  | .recordRingEntry _ _ | .argumentImageRead _ | .parkTimeout _ | .swapOut _ | .swapIn _ | .teamRetire _
  | .barrierCompletion _ | .engineDispatch _ _ | .discarded _ _ | .copyLineLanding _ _ _ | .copyCompletion _
  | .mmaCompletion _ | .mmastCompletion _ | .mmazCompletion _ | .traversalResult _ | .pairsEmission _
  | .pairsCompletion _ | .softError _ | .loadNodeTable _ | .loadGeneratorTable _ | .preEmpt _ | .restore _
  | .invalidateTranslations _ | .removeGrid _ | .commandCompletion _ | .cstatWrite _ _ | .frconsWrite _ _
  | .erconsWrite _ _ | .registerWrite _ _ | .tetherRequest _ _ | .linkOutOfService _ | .powerArbiterInterval
  | .clockFactorChange _ | .deepPowerOff | .wakeRequest | .reset _ | .identityReport _ | .fomorCoreAccess _ _ _
  | .linkDown _ | .correctedSoftError => 0

/-- The words of an instruction, first word first; none for an event. -/
def encode (i : Instr) : List Word :=
  if i.isEvent then []
  else if i.isExt then [BitVec.ofNat 32 i.word, i.extWord]
  else [BitVec.ofNat 32 i.word]

/-! ### The decoder -/

/-- The instruction that the words `w` and, after an escape, `x` hold, or why there is none (R310). -/
def decode (w x : Word) : Except DecodeError Instr :=
  match if u w.toNat = 0 then rawLane w.toNat x.toNat else rawUniform w.toNat x.toNat with
  | none => .error .unassigned
  | some i =>
    if i.wf = false then .error .operand
    else if i.word = w.toNat then .ok i
    else .error .reservedField

/-- The word's immediate holds the escape value of an opcode that allows one, so an extension word follows (R306,
R417). The limits of the other fields play no part. -/
def needsExt (w : Word) : Bool :=
  let n := w.toNat
  if u n = 0 then
    match op n with
    | 0x35 | 0x3D => esc15 n
    | 0x36 | 0x37 | 0x38 | 0x39 | 0x3A | 0x3C => esc9 n
    | _ => false
  else
    match op n with
    | 0x0C => esc9 n
    | 0x0D => esc15 n
    | _ => false

/-- Decodes the instruction at the head of a list of code bytes, little-endian (R302), and gives the bytes after it. -/
def decodeBytes : List Byte → Except DecodeError (Instr × List Byte)
  | b0 :: b1 :: b2 :: b3 :: rest =>
    let w := leWord b0 b1 b2 b3
    if needsExt w then
      match rest with
      | c0 :: c1 :: c2 :: c3 :: rest' => (decode w (leWord c0 c1 c2 c3)).map (·, rest')
      | _ => .error .truncated
    else (decode w 0).map (·, rest)
  | _ => .error .truncated

/-- The code bytes of an instruction given as a number whose bit 0 is the least bit of its first word: eight bytes,
those above the instruction zero. -/
def tableBytes (nbits w : Nat) : List Byte :=
  let n := w % 2 ^ nbits
  [BitVec.ofNat 8 n, BitVec.ofNat 8 (n / 0x100), BitVec.ofNat 8 (n / 0x10000), BitVec.ofNat 8 (n / 0x1000000),
   BitVec.ofNat 8 (n / 0x100000000), BitVec.ofNat 8 (n / 0x10000000000), BitVec.ofNat 8 (n / 0x1000000000000),
   BitVec.ofNat 8 (n / 0x100000000000000)]

/-- The instruction that the decoder reads from an opcode-table word. -/
def decodeTableWord (nbits w : Nat) : Option Instr :=
  match decodeBytes (tableBytes nbits w) with
  | .ok (i, _) => some i
  | .error _ => none

end Sys2Proof
end

