-- ==== Sys2Proof/Config.lean ====
section
/-!
DEFINITION. What the implementation fixes: the sizes the spec states, and the values the spec leaves open. An open value is an
`opaque` constant with no body, so that no proof can know what it is; each one has a row in the assumption log.
-/

namespace Sys2Proof
namespace Config

/-- Clusters of the device (R2). -/
def clusters : Nat := 36

/-- Cores of a cluster (R2). -/
def coresPerCluster : Nat := 16

/-- Cores of the device (R2, R18). -/
def cores : Nat := 576

/-- Contexts of the device (R279). -/
def contexts : Nat := 64

/-- Core cycles after which a ready thread is aged (R34). -/
def ageCycles : Nat := 2048

/-- Core cycles for which `YIELD` demotes (R35). -/
def demoteCycles : Nat := 64

/-- Core cycles after which `WAITM` wakes (R277). -/
def waitmCycles : Nat := 65536

/-- Device time, in femtoseconds, after which a parked team is a swap candidate: 100 µs (R67). -/
def parkTimeFs : Nat := 100000000000

/-- Lines of an L1 set (R80). -/
def l1Ways : Nat := 16

/-- Sectors of a crew buffer (R119). -/
def crewQuota : Nat := 32

/-- Sectors of a team buffer (R119). -/
def teamQuota : Nat := 256

/-- Sectors of a cluster buffer for one team (R119). -/
def clusterQuota : Nat := 512

/-- Entries of a core's store collector (R81). -/
def collectorSectors : Nat := 2048

/-- Sectors of a cluster buffer (R82). -/
def clusterSectors : Nat := 8192

/-- Unacknowledged operations above which a `RED` or a commit waits (R111). -/
def unackLimit : Nat := 256

/-- Commands of a copy engine (R227). -/
def copySlots : Nat := 160

/-- Commands of a matrix engine (R227). -/
def matrixSlots : Nat := 8

/-- `PAIRS` commands of a traversal unit (R262). -/
def pairsSlots : Nat := 16

/-- Queries of a traversal unit (R259). -/
def querySlots : Nat := 4096

/-- Entries of a range-lock table (R97). -/
def lockSlots : Nat := 64

/-- Records of a cluster's layout-record cache: 32 KiB (R100). -/
def layoutRecords : Nat := 512

/-- Ways of a set of the last-level cache (R83). -/
def llcWays : Nat := 16

/-- Sets of a slice of the last-level cache: 16 MiB of 128-byte lines in 16 ways (R83). -/
def llcSets : Nat := 8192

/-- Pending fills of the device (R186). -/
def fillSlots : Nat := 65536

/-- Entries of a cluster's retained-record table (R40). -/
def retainedSlots : Nat := 256

/-- Entries of a core's TLB (R92). -/
def coreTlb : Nat := 64

/-- Entries of a cluster's TLB (R92). -/
def clusterTlb : Nat := 2048

/-- FREE VALUE (R219): what `FSFN` writes, by function code and operand, before the bound of the spec is applied. -/
opaque sfnCandidate : Nat → Word → Word

/-- FREE VALUE (R80): which way of a full L1 set a new sector's line replaces, by the state's free counter. -/
opaque l1Victim : Nat → Nat

/-- FREE VALUE (R92): which entry of a full TLB a new translation replaces, by the state's free counter. -/
opaque tlbVictim : Nat → Nat

/-- FREE VALUE (R83): the set of its slice that a line of a context's envelopes belongs to, by context and line number. -/
opaque llcSet : Nat → Nat → Nat

/-- FREE VALUE (R203): which line of a full set of the last-level cache gives way, by the state's free counter. -/
opaque llcVictim : Nat → Nat

/-- FREE VALUE (R100): which record of a full layout-record cache gives way, by the state's free counter. -/
opaque layoutVictim : Nat → Nat

/-- FREE VALUE (R300): whether the predicted compute power at factor F and gate G fits, in the interval of a number. -/
opaque powerFits : Nat → Nat → Nat → Bool

/-- FREE VALUE (R298): whether an image body and a signature verify against the fused public key. -/
opaque signatureOk : List Byte → List Byte → Bool

/-- FREE VALUE (R297): for a firmware body, the access-table entries that it writes at boot: a number for the target, its
index, a number for the requester class, its peer, and the right. -/
opaque bootRights : List Byte → List (Nat × Nat × Nat × Fin 4 × Nat)

/-- FREE VALUE (R299): the SHAKE256 digest of a firmware body. -/
opaque digest : List Byte → List Byte

/-- FREE VALUE (R299): the ML-DSA-65 signature that firmware makes with the identity key for a report of a nonce, a digest, a
rollback counter and a speed table. -/
opaque identitySign : List Byte → List Byte → Nat → List Nat → List Byte

/-- FREE VALUE (R85): the memory controller that serves a line of local GDDR7. -/
opaque controllerOf : Nat → Nat

/-- FREE VALUE: the link, by its place among those to a peer that are in service, that carries a sector of the peer's window: links are spread by sector
address (R294, log entry 105). -/
opaque linkOf : Nat → Nat

/-- FREE VALUE: a word that the spec names and gives no value, by the state's free counter. -/
opaque freeWord : Nat → Word

/-- The number under which accesses that no core makes are translated: those to notify rings and completion words (log entry 69). -/
def noCore : Nat := cores

/-- FREE VALUE (R94): whether a fault record shows an access of the device itself as an engine's (KIND 4 or 5) or not (0 or 1). -/
opaque deviceAsEngine : Bool

/-- FREE VALUE (R94): the CORE of a fault record for an access that no core makes. -/
opaque deviceCore : Nat

/-- FREE VALUE (R288, R297): a byte of the access-table block, by the entries in force and the offset. -/
opaque tableByte : List (Nat × Nat × Nat × Nat × Nat) → Nat → Byte

/-- FREE VALUE (R288, R297): the entries in force once firmware has written some bytes of the access-table block, by the entries before, the
offset and the bytes. -/
opaque tableWrite : List (Nat × Nat × Nat × Nat × Nat) → Nat → List Byte → List (Nat × Nat × Nat × Fin 4 × Nat)

/-- FREE VALUE (R69): the notify page whose binding to a context the device control at an offset holds, if it holds one. -/
opaque bindPage : Nat → Option Nat

/-- FREE VALUE (R288): a byte of the device-register space to which the spec gives no contents, by offset. -/
opaque registerByte : Nat → Byte

end Config
end Sys2Proof
end

