-- ==== Sys2Proof/Machine/State.lean ====
section
/-!
DEFINITION. The state of the device as plain data, the reasons a step can stop, and the state after reset. Tables are flat
lists of records; each record carries its key. INVENTORY.md lists every field with the rule that names it.
-/

namespace Sys2Proof.Machine

/-- Bytes by address, strictly rising, without entries equal to 0x00, which is what an unlisted address reads as. -/
abbrev Memory := List Host.Cell

/-! ### Threads -/

/-- The record that a thread holds, or that waits in a bin (R161, R173, R194). -/
structure Record where
  words : List Word
  /-- The pending fill of a fill record from the miss path (R194). -/
  pfid : Option Nat
  /-- INFO.GEN of a fill record (R194). -/
  gen : Option Nat
  /-- The grid that wrote it, by `SPAWN` or continuation (R170). -/
  writer : Option Nat
deriving DecidableEq, Repr

/-- A load whose value has not returned (R20, R380): the destination registers, the bytes it reads, and whether it has
performed. `sext` tells how the value is narrowed (R305). -/
structure Load where
  slot : Nat
  dst : Nat
  regs : Nat
  size : Nat
  sext : Bool
  ctx : Nat
  va : Nat
  loc : Loc
  /-- The load has performed: its registers hold its value and only the return is outstanding. -/
  done : Bool
  /-- The sector to install in L1 at the return, if the load read one from beyond L1 (R80). -/
  install : Option Loc
  /-- The number of its flight: loads of one byte in one flight perform in ascending lane order (R23). -/
  at_ : Nat
  /-- The load goes to a peer: its thread stands at the `LD` until it returns, so that ACCESS for want of a link is precise (R267, R295, log entry
  105). -/
  remote : Bool
deriving DecidableEq, Repr

/-- Which barrier a waiter or a token names, from inside a team (R145, R154). -/
structure BarRef where
  level : BarLevel
  id : Nat
deriving DecidableEq, Repr

/-- Why a thread is parked (R31). -/
inductive Park where
  | none
  /-- Absent scratchpad line (R79), by line. -/
  | absent (line : Nat)
  /-- Pending fill, or the slice's queues before it (R187). -/
  | fill
  /-- Replayable translation fault (R93). -/
  | fault
  /-- Waits for a phase: `BAR` when `arrived`, otherwise `BARW` (R151, R156). -/
  | barrier (b : BarRef) (phase : Nat) (acq : Bool) (arrived : Bool)
  /-- `WAITM`: the monitored sector (R277). -/
  | monitor
  /-- Dry record pool: a blocking `SPAWN` or a continuation (R168, R175). -/
  | dryPool
  /-- A ray query in flight, blocking or continuation form (R258, R259). -/
  | query
  /-- Its continuation was granted while its team was out: it ends when the team is back (R68, R175). -/
  | ending
deriving DecidableEq, Repr

/-- Why a thread that is not parked is not ready (R20). -/
inductive Stall where
  | none
  /-- A page walk is in progress for it (R92). -/
  | walk
  /-- It found a unit without room and tries again in a later cycle (R111, R259). -/
  | busy
  /-- The commit of its `BAR` with `.CMT` is not acknowledged (R151). -/
  | commit
  /-- A team barrier has released it: it is ready again in the second cycle after the final arrival (R157). -/
  | released
  /-- Its barrier has let it go, and its `.ACQ` at this level waits for the loads that it has outstanding (R122, R151). -/
  | acq (lvl : Nat)
  /-- Its `LD` of a peer's memory has not returned (R267, R295, log entry 105). -/
  | remote
deriving DecidableEq, Repr

/-- The registers that an entry to the handler writes (R268, R269). -/
structure TrapRegs where
  cause : Word
  trapv : Word
deriving DecidableEq, Repr

/-- A thread (R13, R18). -/
structure Thread where
  id : ThreadId
  /-- Code-window offset of the next instruction (R72). -/
  pc : Word
  /-- v0 to v63 (R308); registers at or beyond the team's REGS are never named. -/
  v : List Word
  /-- p0 to p6 (R308). -/
  p : List Bool
  live : Bool
  park : Park
  stall : Stall
  /-- The core cycle in which it arrived at a crew's rendezvous, while it waits there (R25). -/
  arrived : Option Nat
  /-- The convergent word at which it arrived, as the fetch found it then (R25, R102); none for a thread that came back arrived, until its
  word is fetched. It counts only while the thread has arrived. -/
  conv : Option Word
  /-- In-handler flag (R268). -/
  inh : Bool
  cause : Word
  trapc : Word
  trapv : Word
  /-- Bits 63:32 latched by the last read of `%clock.lo` (R316). -/
  clockHi : Option Word
  /-- Core cycles ready since it last issued or became ready (R20). -/
  wait : Nat
  aged : Bool
  /-- Core cycle at which its demotion ends (R35). -/
  demoted : Option Nat
  /-- Crew traps held until `TRET` (R270), oldest first. -/
  held : List TrapRegs
  record : Option Record
  loads : List Load
  /-- The `.CMT` commit of the `BAR` it executes has been made and acknowledged (R151). -/
  committed : Bool
  /-- A wake event or a trap reached it while its team was swapped out or saved: it takes effect when the team comes back
  (R68). -/
  woken : Bool
  /-- A trap that reached it while its team was out: it is taken when the team is back (R68). -/
  late : Option TrapRegs
  /-- The run that an atomic of its waits with for a fill: the number of its flight, and the address (R331). -/
  run : Option (Nat × Nat)
  /-- A continuation-form `TRAV` of its has issued (R162), and no trap has taken it away. -/
  cont : Bool
deriving DecidableEq, Repr

/-- A commit whose acknowledgements are outstanding (R109, R110). `barrier` marks the commit of a `BAR` with `.CMT`. -/
structure CommitWait where
  crew : CrewId
  /-- Threads whose predicate takes the result, without those that a trap has taken away (R268). -/
  members : List ThreadId
  /-- Threads that it holds: those of the rendezvous, or the one of a `BAR`, without those that a trap has taken away (R110, R268). -/
  waiters : List ThreadId
  pd : Nat
  result : Bool
  /-- Value for `%cflict`. -/
  cflict : Word
  /-- Landings of cluster-unit words that the commit also waits for, by number (R124). -/
  unitWait : List Nat
  /-- The words that the cluster unit holds once the crew's count is zero are still to be sent: its own reductions made some of them while the
  commit waited (R110, R124). -/
  units : Bool
  barrier : Bool
  /-- A crew trap to deliver once the commit has completed (R192): code and `%trapv` and AUX of the first dropped word. -/
  trap : Option TrapRegs
deriving DecidableEq, Repr

/-! ### Engine commands -/

/-- Range locks of engine commands (R97). -/
structure RangeLock where
  core : Nat
  ctx : Nat
  /-- First and last 128-byte virtual line. -/
  lo : Nat
  hi : Nat
  write : Bool
  cmd : Nat
  /-- It covers the block's argument or table operand (R242), not the source or the destination. -/
  arg : Bool
deriving DecidableEq, Repr

/-- Kinds of engine command (R225, R260). -/
inductive CmdKind where
  | cpy | mma | mmast | mmaz | mmazRel | pairs
deriving DecidableEq, Repr

/-- Why a command stands still (R92, R93, R187). -/
inductive CmdWait where
  | none | walk | fault | fill | pool
  /-- A `PAIRS` record was granted while the team was out: it counts when the team is back (R68, R265). -/
  | granted
deriving DecidableEq, Repr

/-- An issued engine command (R226, R227, R262). -/
structure EngCmd where
  id : Nat
  team : Nat
  crew : Nat
  kind : CmdKind
  /-- Guard slot (R225). -/
  guard : Option Nat
  /-- Scratchpad address of its block, and the block as read at issue (R226). -/
  addr : Nat
  block : List Word
  /-- Bank of `MMAZ` (R231). -/
  bank : Nat
  /-- An engine has it (R229): the number of its arrival there, in one order for all engines. -/
  started : Option Nat
  wait : CmdWait
  /-- Base, strides and LIMIT of source and destination, from the block or from layout records (R240). -/
  src : Nat
  dst : Nat
  sstr : List Int
  dstr : List Int
  slimit : Nat
  dlimit : Nat
  /-- Destination lines not landed: team (0 for global) and line (R78, R243). -/
  pending : List (Nat × Nat)
  /-- Bytes a sequential transform produced (R223, R242), once computed. -/
  out : Option (List Byte)
  /-- The bytes of each 32-byte virtual sector as the command read them, all at one time: a sector that it needs again is not read again, so that
  each is whole (R142). -/
  sectors : List (Nat × List (Option Byte))
  /-- Elements or pairs done so far (R247, R265). -/
  progress : Nat
  /-- Result and detail, once known (R244, R265). -/
  result : Option (Nat × Nat)
  /-- Teams that run a cooperative `MMA` (R235). -/
  parts : List Nat
deriving DecidableEq, Repr

/-- A block-carrying command before its issue (R226, R384): its block is read once, and a command that has passed its checks waits for room
with the range locks that it takes (R97, R227). -/
inductive Issue where
  | block (words : List Word)
  | checked (cmd : EngCmd) (locks : List RangeLock)
deriving DecidableEq, Repr

/-! ### Crews -/

/-- A crew (R14, R15, R45). -/
structure Crew where
  id : CrewId
  /-- k0 to k62 (R308). -/
  k : List Word
  /-- q0 to q6 (R308). -/
  q : List Bool
  /-- `%sat` (R214). -/
  sat : Word
  satArm : Bool
  /-- `%cflict` (R112). -/
  cflict : Word
  /-- `%strag.id` and `%strag.wait` (R159). -/
  stragId : Word
  stragWait : Word
  phArm : Bool
  phCount : Nat
  phLimit : Nat
  /-- Abort notice (R116). -/
  notice : Bool
  /-- Unacknowledged operations (R111). -/
  unack : Nat
  /-- Crew slot of the core (R470). -/
  slot : Nat
  /-- Bits 63:32 latched by the last `KSRD` of `%clock.lo` (R316). -/
  clockHi : Option Word
  /-- A uniform instruction found no room, or waits, and is tried again in a later cycle (R227). -/
  stalled : Bool
  /-- The uniform instruction waits for a fault reply or a fill before it is tried again (R93, R187). -/
  hold : Bool
  /-- The absent scratchpad line that its uniform instruction waits for: its threads count as parked (R31, R79, R372). -/
  absent : Option Nat
  /-- The last command issued when its rendezvous completed: a `FENCE.ENG` waits for those up to it (R246, R355). -/
  fence : Option Nat
  /-- The block-carrying command that it is about to issue (R226). -/
  issuing : Option Issue
  /-- Its rendezvous has completed, and its threads have not gone on yet: its instruction is due, or has begun and waits (R26, R280). -/
  complete : Bool
  /-- Its instruction has begun and found that it has to wait (R227, R280). -/
  begun : Bool
  /-- Core cycle in which its rendezvous completed, or in which its waiting instruction became due again; waits of its members count from
  it (R26). -/
  rdvFrom : Option Nat
  /-- The last thread of the crew that exited, and the core cycle of its exit (R159). -/
  exitAt : Option (Nat × Nat)
  /-- Its last live thread has exited (R45). -/
  retired : Bool
  /-- Implied commits whose escalation record is written (R192): 1 the crew's, 2 the team's. -/
  drops : List Nat
deriving DecidableEq, Repr

/-! ### Teams, units and grids -/

/-- An arrival that a barrier counts (R148, R151, R155): who made it, on which core, when (core cycle for a team barrier, device time in
fs otherwise), with how many units, and whether it is a `BAR`'s, which a trap can withdraw (R152). -/
structure Arrival where
  team : Nat
  tid : Nat
  core : Nat
  at_ : Nat
  units : Nat
  bar : Bool
deriving DecidableEq, Repr

/-- A hardware barrier (R146): E, A, P, and what its straggler reports need (R159): the arrivals that A counts, oldest first, and the
thread whose exit completed the phase, with its core. -/
structure Barrier where
  e : Nat
  a : Nat
  p : Nat
  arr : List Arrival
  exit : Option (Nat × Nat)
deriving DecidableEq, Repr

/-- Where a team is (R13, R40, R67, R279). -/
inductive Place where
  | resident (core : Nat)
  /-- Swapped out: since when, and the slot of the swap area. -/
  | swapped (at_ : Nat) (slot : Nat)
  /-- Saved by a pre-emption, in a slot of the context-save area. -/
  | saved (slot : Nat)
  /-- Only the team record is left, in the table of the cluster of the core that held the team (R40). -/
  | retained (core : Nat)
  /-- Every thread has exited; the team slot is still held, for want of a retained record or of the end of commits. -/
  | draining (core : Nat)
deriving DecidableEq, Repr

/-- State of a guard slot (R228). -/
inductive Slot where
  | unresolved | true | false
deriving DecidableEq, Repr

/-- Which capacity of the core holds a team: 0 ordinary, 1 or 2 a fill reservation (R57, R200). -/
structure Team where
  id : Nat
  grid : Nat
  ctx : Nat
  role : Nat
  /-- Linear index within its role (R62). -/
  index : Nat
  /-- Index of its cluster group or gang within the grid (R16, R42). -/
  unit : Nat
  place : Place
  capacity : Nat
  threads : Nat
  regs : Nat
  nbar : Nat
  /-- Scratchpad lines (R48). -/
  spadLines : Nat
  /-- Scratchpad bytes; an unlisted byte is zero (R76). -/
  spad : Memory
  /-- Scratchpad lines whose presence bit is clear (R78). -/
  absent : List Nat
  gslots : List Slot
  bars : List Barrier
  /-- `%fdepth` (R188). -/
  fdepth : Nat
  /-- `%node` (R163). -/
  node : Option Nat
  /-- Device time since which every live thread is parked (R67). -/
  parkedSince : Option Nat
  /-- The 100 µs of R67 have passed. -/
  parkExpired : Bool
  /-- Swapped out and a wake event has occurred (R62). -/
  wake : Bool
  /-- Straggler reports that arrived while swapped out (R159). -/
  heldReport : Option (Word × Word)
  /-- Replies and fills that the team waits for before its threads issue (R171, R466). -/
  blocked : Nat
deriving DecidableEq, Repr

/-- A placement unit with its cluster barriers: a cluster group or a gang (R16, R42, R145). -/
structure PUnit where
  grid : Nat
  index : Nat
  cluster : Option Nat
  bars : List Barrier
deriving DecidableEq, Repr

/-- A role of a launch (R48). -/
structure Role where
  entry : Nat
  threads : Nat
  regs : Nat
  nbar : Nat
  ntx : Nat
  nty : Nat
  ntz : Nat
  spad : Nat
deriving DecidableEq, Repr

/-- A grid (R13, R46, R54). -/
structure Grid where
  id : Nat
  ctx : Nat
  prio : Nat
  prop : Bool
  cgrp : Bool
  group : Nat
  cbar : Nat
  elected : Bool
  gang : Bool
  clmask : Nat
  coremask : Nat
  roles : List Role
  done : Nat
  donev : Nat
  /-- Words 0 to 15 of the argument image, k0 to k15 of every crew (R54). -/
  args : List Word
  depth : Nat
  fdepth : Nat
  /-- The team that launched it (R40). -/
  parent : Option Nat
  /-- The node, and the part of its bin, that launched it (R163, R188). -/
  node : Option (Nat × Nat)
  /-- Records of the batch, until the team is placed (R173). -/
  records : List Record
  bars : List Barrier
  /-- Units placed so far, in order (R62). -/
  nextUnit : Nat
  /-- Dispatch counts, by core or by cluster (R63). -/
  counts : List (Nat × Nat)
  /-- Round-robin pointer (R64). -/
  pointer : Nat
  /-- Escalated: no thread issues (R274). -/
  stopped : Bool
  retired : Bool
deriving DecidableEq, Repr

/-! ### Cores and caches -/

/-- A core's clock (R9, R60): cycles counted, device time in fs at which its next cycle is, and the remainder kept. -/
structure Core where
  cycle : Nat
  time : Nat
  rem : Nat
  /-- Core clock factor in force, from 32 to 64 (R300). -/
  f : Nat
  /-- The cycle in which the uniform pipe last executed an instruction (R22). -/
  pipe : Option Nat
deriving DecidableEq, Repr

/-- An entry of a core's PC table (R19). -/
structure PcEntry where
  core : Nat
  ctx : Nat
  pc : Word
  created : Nat
deriving DecidableEq, Repr

/-- A valid sector of a core's L1 (R80). -/
structure L1Sector where
  core : Nat
  loc : Loc
  bytes : List Byte
deriving DecidableEq, Repr

/-- A word in a core's instruction cache (R102), by grid and virtual address. -/
structure CodeWord where
  core : Nat
  grid : Nat
  va : Nat
  word : Word
deriving DecidableEq, Repr

/-- A record in a cluster's layout-record cache (R100). -/
structure LayoutEntry where
  cluster : Nat
  ctx : Nat
  handle : Nat
  bytes : List Byte
deriving DecidableEq, Repr

/-- Which TLB holds an entry (R92). -/
inductive TlbUnit where
  | core (n : Nat)
  | cluster (n : Nat)
deriving DecidableEq, Repr

/-- The result of a walk, as a TLB keeps it (R92). -/
structure Translation where
  /-- Virtual base and size in bytes of the page. -/
  base : Nat
  size : Nat
  /-- Physical base, or FRAME·4,096 of an envelope page (R181). -/
  frame : Nat
  w : Bool
  x : Bool
  c : Bool
  e : Bool
  d : Bool
  gen : Nat
deriving DecidableEq, Repr

/-- A TLB entry (R92). -/
structure TlbEntry where
  unit : TlbUnit
  ctx : Nat
  tr : Translation
deriving DecidableEq, Repr

/-- The author of a buffered byte (R104). -/
inductive Author where
  | crew (c : CrewId)
  | unit
deriving DecidableEq, Repr

/-- A buffer instance (R105). -/
inductive Buf where
  | crew (c : CrewId)
  | team (t : Nat)
  | cluster (n : Nat)
deriving DecidableEq, Repr

/-- A byte held below device reach (R103, R104), with the translation of the store that made it (R466). -/
structure BufByte where
  buf : Buf
  author : Author
  ctx : Nat
  va : Nat
  loc : Loc
  tr : Translation
  val : Byte
deriving DecidableEq, Repr

/-- Word-valid bits and bytes of an envelope line (R84, R181), PRESENT or HELD (R185); an ABSENT line is not listed. -/
structure EnvLine where
  ctx : Nat
  name : Nat
  held : Bool
  gen : Nat
  written : Bool
  valid : List Bool
  words : List Word
deriving DecidableEq, Repr

/-- A monitor armed by `WAITM` (R277). -/
structure Monitor where
  thread : ThreadId
  sector : Loc
  /-- Core cycle of arming. -/
  since : Nat
deriving DecidableEq, Repr

/-! ### Work in flight -/

/-- A sector on its way to device reach (R111, R136). -/
structure Landing where
  author : Author
  /-- The crew whose commit sends it. -/
  crew : CrewId
  fdepth : Nat
  ctx : Nat
  /-- Virtual address and place of the sector's first byte, and the translation of the store (R466). -/
  va : Nat
  loc : Loc
  tr : Translation
  /-- Offset within the sector and value. -/
  bytes : List (Nat × Byte)
  /-- 0, or the implied commit that made it (R127): 1 at the crew's, 2 at the team's retirement. -/
  implied : Nat
  /-- The core that sent it, whose L1 copy is updated (R109). -/
  core : Nat
  /-- The highest buffer level that held one of its bytes before it was sent: threads that could see them there meet them still (R137). -/
  seen : Nat
  /-- Number of a landing of the cluster unit (R124), 0 otherwise. -/
  id : Nat
  /-- The copy that writes the sector (R141), 0 otherwise. -/
  cmd : Nat
deriving DecidableEq, Repr

/-- An acknowledgement on its way (R111): to a crew for its own sectors and `RED`s, or to the cluster unit for a landing (R124). -/
structure Ack where
  author : Author
  /-- Number of the unit's landing and core that sent it. -/
  id : Nat
  core : Nat
deriving DecidableEq, Repr

/-- A `RED` on its way to its home (R125, R134). Combined operations keep the crews to acknowledge. -/
structure RedOp where
  crews : List CrewId
  team : Nat
  scope : Scope
  op : AtomOp
  wide : Bool
  operand : DWord
  /-- Scratchpad offset for team scope. -/
  off : Nat
  va : Nat
  loc : Loc
  ctx : Nat
  tr : Translation
  core : Nat
  /-- Waits on a pending fill (R189). -/
  waiting : Bool
deriving DecidableEq, Repr

/-- Kinds of access, as a fault record names them (R94). -/
inductive Kind where
  | read | write | fetch | atomic | engRead | engWrite
  /-- Accesses that the device makes itself: to argument images, notify rings and completion words. R94 names no kind for them. -/
  | devRead | devWrite
deriving DecidableEq, Repr

/-- What waits for a walk, a fault reply or a fill (R92, R94, R187). -/
inductive Waiter where
  | thread (t : ThreadId)
  | cmd (id : Nat)
  | query (id : Nat)
  /-- Partial-word bytes of a landing (R191). -/
  | landing (l : Landing)
  | red (r : RedOp)
  /-- An argument image read (R467). -/
  | image (id : Nat)
  /-- A batch's argument image (R171), by grid. -/
  | batch (grid : Nat)
  /-- A DONE store (R55), by grid. -/
  | done (grid : Nat)
  /-- A saved sector that a restore translates (R466), by team. -/
  | sector (team : Nat) (crew : Nat) (va : Nat)
  /-- The layout-record read of an engine command at its issue (R240). -/
  | issue (c : CrewId)
  /-- A prefetch of a team, of some bytes: no thread waits for it (R189, R397). -/
  | prefetch (team n : Nat)
deriving DecidableEq, Repr

/-- A waiter, the virtual address of its access and the kind of the access. -/
structure Joined where
  who : Waiter
  va : Nat
  kind : Kind
deriving DecidableEq, Repr

/-- A page walk in progress (R92). -/
structure Walk where
  ctx : Nat
  /-- 4 KiB virtual frame. -/
  frame : Nat
  core : Nat
  va : Nat
  kind : Kind
  write : Bool
  joined : List Joined
deriving DecidableEq, Repr

/-- A replayable fault (R94); `seq` is none while the ring has no room for its record (R291). -/
structure Fault94 where
  seq : Option Nat
  va : Nat
  kind : Kind
  core : Nat
  joined : List Joined
deriving DecidableEq, Repr

/-- A miss on its way to the home slice (R187). -/
structure Miss where
  ctx : Nat
  /-- Address of the access. -/
  va : Nat
  /-- Address and place of the first invalid word that it needs. -/
  word : Nat
  loc : Loc
  gen : Nat
  pageBase : Nat
  pageSize : Nat
  /-- Fill depth of the waiter. -/
  depth : Nat
  /-- Effective class of the waiter (R199). -/
  cls : Nat
  waiter : Waiter
  kind : Kind
deriving DecidableEq, Repr

/-- State of a pending fill (R186). -/
inductive FillState where
  | emitting | queued | running
deriving DecidableEq, Repr

/-- A pending fill (R186, R187). -/
structure Fill where
  pfid : Nat
  ctx : Nat
  gen : Nat
  /-- Virtual base of the span, and the line name of its first line. -/
  span : Nat
  name : Nat
  log2span : Nat
  depth : Nat
  state : FillState
  cls : Nat
  waiters : List Joined
deriving DecidableEq, Repr

/-- A waiter that a `FILLDONE` replays (R198): until it has done so once, the span's lines stay in the cache. -/
structure Pin where
  ctx : Nat
  name : Nat
  lines : Nat
  who : Waiter
deriving DecidableEq, Repr

/-- Who waits for a record in the parked-allocation queue (R166). -/
inductive AllocFor where
  | spawn (t : ThreadId)
  | cont (t : ThreadId)
  | fill (pfid : Nat)
  | pairs (cmd : Nat)
deriving DecidableEq, Repr

/-- A parked allocation (R166). -/
structure Alloc where
  node : Nat
  part : Nat
  record : Record
  who : AllocFor
deriving DecidableEq, Repr

/-- A record in a bin, and the device time (fs) of its entry (R169, R170). -/
structure BinEntry where
  node : Nat
  part : Nat
  record : Record
  entered : Nat
deriving DecidableEq, Repr

/-- A formed batch (R170, R171). -/
structure Batch where
  node : Nat
  part : Nat
  records : List Record
  /-- MODEL: the identifier given when it formed, which orders it among the batches of every context and the grids (R65, R171). -/
  formed : Nat
deriving DecidableEq, Repr

/-- A node descriptor in force (R161). -/
structure NodeDesc where
  entry : Nat
  regs : Nat
  nbar : Nat
  spad : Nat
  c : Nat
  t : Nat
  floor : Nat
  cap : Nat
  rsize : Nat
  creg : Nat
  prio : Nat
  fill : Bool
  preload : Bool
  args : Nat
deriving DecidableEq, Repr

/-- A generator descriptor in force (R182). -/
structure GenDesc where
  node : Nat
  log2span : Nat
  ballast : Bool
  pfloor : Nat
  vbase : Nat
  src : Nat
  args : List Word
deriving DecidableEq, Repr

/-- An accumulator bank of a core's accumulator memory (R231), with the team that holds it; unlisted words are zero, and so are banks
that are not listed. A bank that a team takes along while it is out stands at the core number `Config.cores`. -/
structure Bank where
  core : Nat
  bank : Nat
  team : Option Nat
  words : List (Nat × Word)
  nanIn : Bool
  scaleNan : Bool
deriving DecidableEq, Repr

/-- A ray query in flight (R253, R259). -/
structure Query where
  id : Nat
  thread : ThreadId
  /-- First destination register, or the continuation node. -/
  cont : Option Nat
  dst : Nat
  base : Nat
  ray : List Word
  wait : CmdWait
deriving DecidableEq, Repr

/-- An argument image that a launch waits for (R467). -/
structure ImageRead where
  id : Nat
  ctx : Nat
  /-- The crew that executes `LAUNCH`, or the notify register of a ring entry. -/
  crew : Option CrewId
  page : Nat
  reg : Nat
  block : List Byte
  wait : CmdWait
  /-- The image cannot be read: the launch is refused (R467). -/
  bad : Bool
  /-- A ring entry's STATUS word cannot be written (log entry 93). -/
  mute : Bool
deriving DecidableEq, Repr

/-! ### Contexts and the host's side -/

/-- A context descriptor's registers (R289). -/
structure CtxRegs where
  ptroot : Nat
  codebase : Nat
  traph : Nat
  cstat : Nat
  lrbase : Nat
  lrcount : Nat
  nodebase : Nat
  nodecount : Nat
  genbase : Nat
  gencount : Nat
  poolbase : Nat
  poolsize : Nat
  savebase : Nat
  saveslots : Nat
  swapbase : Nat
  swapslots : Nat
  frbase : Nat
  frlog2 : Nat
  frprod : Nat
  frcons : Nat
  freply : Nat
  erbase : Nat
  erlog2 : Nat
  erprod : Nat
  ercons : Nat
  tagbase : Nat
  ballast : Nat
  cmdarg0 : Nat
  cmdarg1 : Nat
  cmd : Nat
  cmdstat : Nat
deriving DecidableEq, Repr

/-- A context (R279). -/
structure Ctx where
  id : Nat
  regs : CtxRegs
  nodes : List NodeDesc
  gens : List GenDesc
  /-- Slots that each node holds (R165). -/
  used : List (Nat × Nat)
  bins : List BinEntry
  batches : List Batch
  allocs : List Alloc
  /-- Dispatch counts of the nodes' batches, by node and core (R171). -/
  counts : List (Nat × Nat × Nat)
  faults : List Fault94
  frseq : Nat
  /-- Escalation records that the ring has no room for yet (R291), oldest first. -/
  erwait : List (List Byte)
  erseq : Nat
  preempted : Bool
  /-- A pre-emption has begun and its teams are not saved yet: their threads stand still (R280). -/
  stopping : Bool
  /-- A save of its teams has failed, and no saved state is complete (R286, R287). -/
  lost : Bool
  /-- The command that the device carries out (R290), until its work is done. -/
  running : Option Nat
  /-- CMDARG0 and CMDARG1 as they stood when the command started (R290). -/
  cmdArgs : Nat × Nat
  /-- The result of a command whose work is done and which has not completed yet (R290). -/
  outcome : Option Nat
deriving DecidableEq, Repr

/-- A notify register (R69). -/
structure NotifyReg where
  page : Nat
  reg : Nat
  base : Nat
  log2n : Nat
  record : Bool
  node : Nat
  prod : Nat
  cons : Nat
  nstat : Nat
deriving DecidableEq, Repr

/-- A target with an access table (R297). -/
inductive Target where
  | controller (n : Nat)
  | slice (n : Nat)
  | fabric
  /-- The port of a tether link, by the number of the link. -/
  | tether (n : Nat)
deriving DecidableEq, Repr

/-- An entry of an access table (R297): rights 0, 1 or 3; a pair not listed has right 3. -/
structure Right where
  target : Target
  cls : ReqClass
  right : Nat
deriving DecidableEq, Repr

/-- A tether link (R294, R295). -/
structure Link where
  peer : Nat
  /-- Device time at which the link went down, while it is down. -/
  down : Option Nat
  outOfService : Bool
deriving DecidableEq, Repr

/-- What the device answers to a requester outside its cores (R69, R297, R299). -/
inductive Reply where
  | data (bytes : List Byte)
  | denied
  | nstat (value : Nat)
  /-- A signed report (R299): nonce, digest of the running firmware, rollback counter, speed table, signature. -/
  | report (nonce digest : List Byte) (rollback : Nat) (speeds : List Nat) (signature : List Byte)
deriving DecidableEq, Repr

/-- Interrupt messages to the Fomor cores (R291). -/
inductive Irq where
  | cstat (ctx : Nat)
  | faultRing (ctx : Nat)
  | escalationRing (ctx : Nat)
  | command (ctx : Nat)
deriving DecidableEq, Repr

/-- Power states (R301). -/
inductive Power where
  | active | deepOff
deriving DecidableEq, Repr

/-- What the next instruction step runs (R21, R22, R26): nothing; a flight of threads of one core at one program counter;
or a crew whose uniform rendezvous has completed. `rdv` marks a crew collective's flight. -/
inductive Focus where
  | idle
  | flight (core : Nat) (threads : List ThreadId) (rdv : Bool)
  | uniform (crew : CrewId)
deriving DecidableEq, Repr

/-- The whole device. -/
structure State where
  /-- What the next step runs. -/
  cur : Focus
  /-- MODEL: events that come next, in order; they stand for every order the spec leaves open. -/
  agenda : List Instr
  /-- MODEL: choices the spec leaves open, taken one by one; 0 once the list is empty. -/
  oracle : List Nat
  /-- MODEL: counts the free values taken so far. -/
  freeCtr : Nat
  /-- MODEL: waiters of a fill whose accesses replay next, in join order (R196). -/
  replays : List Joined
  /-- MODEL: the number of the flight that the focus holds, or held last (R21). -/
  flightNo : Nat
  /-- MODEL: the last identifier given to a team, grid, command, query or load. -/
  lastId : Nat
  /-- Device time in femtoseconds (R9). -/
  time : Nat
  cores : List Core
  /-- Fused speed table, MHz by core (R60). -/
  speeds : List Nat
  threads : List Thread
  crews : List Crew
  commits : List CommitWait
  teams : List Team
  units : List PUnit
  grids : List Grid
  pcTable : List PcEntry
  l1 : List L1Sector
  icache : List CodeWord
  layouts : List LayoutEntry
  tlb : List TlbEntry
  buffers : List BufByte
  mem : Memory
  envLines : List EnvLine
  locks : List RangeLock
  monitors : List Monitor
  landings : List Landing
  acks : List Ack
  reds : List RedOp
  walks : List Walk
  misses : List Miss
  /-- Misses held for want of a pending-fill number, in arrival order (R187). -/
  overflow : List Miss
  /-- Waiters that replay, with the lines that stay for them (R198). -/
  pins : List Pin
  fills : List Fill
  cmds : List EngCmd
  banks : List Bank
  queries : List Query
  images : List ImageRead
  ctxs : List Ctx
  /-- A round of placement offers is due, or stands before the turn of a batch or of a team that comes back (R65). -/
  offering : Bool
  notify : List NotifyReg
  /-- Context that each notify page is bound to (R69). -/
  pageCtx : List (Nat × Nat)
  /-- PHMARGIN (R292). -/
  phmargin : Nat
  irqs : List Irq
  rights : List Right
  /-- Denials logged by each target (R297). -/
  denials : List Target
  links : List Link
  /-- The device's own peer number; none when no links are brought out (R294). -/
  peer : Option Nat
  replies : List Reply
  /-- Power arbiter (R300): interval number, F chosen, gate G in force, power state. -/
  interval : Nat
  factor : Nat
  gate : Nat
  power : Power
  /-- Firmware (R298): the running image, the fused rollback counter, recovery. -/
  firmware : Option FwImage
  rollback : Nat
  recovery : Bool
  /-- Corrected soft errors counted (R274). -/
  softErrors : Nat
deriving DecidableEq, Repr

/-- Why the machine stops. -/
inductive Fault where
  /-- Raised by `step` when the focus names a thread or crew that no core holds; no event of the model makes such a focus.
  Safe: the machine stops where the hardware has no such state. -/
  | lostFocus
deriving DecidableEq, Repr

/-- Why an instruction has no meaning. -/
inductive Refusal where
  /-- Raised by an arm of `exec` whose instruction has no meaning yet. Safe: nothing is claimed of it. -/
  | notModelled (mnemonic : String)
deriving DecidableEq, Repr

/-- A context descriptor after reset: PTROOT 0 disables the context (R289); the other registers are zero (log entry 3). -/
def CtxRegs.reset : CtxRegs :=
  { ptroot := 0, codebase := 0, traph := 0, cstat := 0, lrbase := 0, lrcount := 0, nodebase := 0, nodecount := 0,
    genbase := 0, gencount := 0, poolbase := 0, poolsize := 0, savebase := 0, saveslots := 0, swapbase := 0,
    swapslots := 0, frbase := 0, frlog2 := 0, frprod := 0, frcons := 0, freply := 0, erbase := 0, erlog2 := 0,
    erprod := 0, ercons := 0, tagbase := 0, ballast := 0, cmdarg0 := 0, cmdarg1 := 0, cmd := 0, cmdstat := 0 }

/-- Context `n` after reset: disabled, with no tables in force. -/
def Ctx.reset (n : Nat) : Ctx :=
  { id := n, regs := .reset, nodes := [], gens := [], used := [], bins := [], batches := [], allocs := [], counts := [],
    faults := [], frseq := 0, erwait := [], erseq := 0, preempted := false, stopping := false, lost := false, running := none, cmdArgs := (0, 0),
    outcome := none }

/-- A core after reset. -/
def Core.reset : Core := { cycle := 0, time := 0, rem := 0, f := 64, pipe := none }

/-- The device after reset: ACTIVE (R301), no work, every context disabled, PHMARGIN 65,536 (R292), F = 64 without gating. -/
def State.reset : State :=
  { cur := .idle, agenda := [], oracle := [], freeCtr := 0, replays := [], flightNo := 0, lastId := 0, time := 0,
    cores := List.replicate Config.cores .reset, speeds := List.replicate Config.cores 1725,
    threads := [], crews := [], commits := [], teams := [], units := [], grids := [], pcTable := [], l1 := [],
    icache := [], layouts := [], tlb := [], buffers := [], mem := [], envLines := [], locks := [], monitors := [],
    landings := [], acks := [], reds := [], walks := [], misses := [], overflow := [], pins := [], fills := [], cmds := [], banks := [],
    queries := [],
    images := [], ctxs := (List.range Config.contexts).map Ctx.reset, offering := false, notify := [], pageCtx := [], phmargin := 65536,
    irqs := [], rights := [], denials := [],
    links := [⟨1, none, false⟩, ⟨2, none, false⟩, ⟨3, none, false⟩, ⟨1, none, false⟩], peer := some 0,
    replies := [], interval := 0, factor := 64, gate := 64, power := .active, firmware := none, rollback := 0,
    recovery := false, softErrors := 0 }

end Sys2Proof.Machine
end

