-- ==== Sys2Proof/Machine/Memory.lean ====
section
/-!
DEFINITION. Memory as a canonical list of cells: reading and writing a byte, and little-endian runs of bytes (R4). It serves
local GDDR7, system memory and peer windows (by physical address) and each team's scratchpad (by offset).
-/

namespace Sys2Proof.Machine

/-- The byte at an address; an unlisted address reads as 0x00 (R76 for scratchpad; log entry 1 for the rest). -/
def Memory.read : Memory → Nat → Byte
  | [], _ => 0#8
  | (k, b) :: m, a => if k = a then b else Memory.read m a

/-- Puts a listed value in its place. -/
def Memory.insert : Memory → Nat → Byte → Memory
  | [], a, b => [(a, b)]
  | (k, c) :: m, a, b =>
    if a < k then (a, b) :: (k, c) :: m else if a = k then (a, b) :: m else (k, c) :: Memory.insert m a b

/-- Removes an address from the list. -/
def Memory.erase : Memory → Nat → Memory
  | [], _ => []
  | (k, c) :: m, a => if k = a then Memory.erase m a else (k, c) :: Memory.erase m a

/-- Writes a byte, keeping the canonical form. -/
def Memory.write (m : Memory) (a : Nat) (b : Byte) : Memory := if b = 0#8 then m.erase a else m.insert a b

/-- Every listed address is above `n`, addresses rise strictly, and no listed byte is 0x00. -/
def Memory.wfFrom : Option Nat → Memory → Bool
  | _, [] => true
  | lo, (k, b) :: m => (match lo with | none => true | some n => decide (n < k)) && b != 0#8 && Memory.wfFrom (some k) m

/-- The canonical form. -/
def Memory.wf (m : Memory) : Bool := Memory.wfFrom none m

/-- `n` bytes from an address upwards. -/
def Memory.readBytes (m : Memory) (a : Nat) : Nat → List Byte
  | 0 => []
  | n + 1 => m.read a :: Memory.readBytes m (a + 1) n

/-- Writes bytes from an address upwards. -/
def Memory.writeBytes (m : Memory) (a : Nat) : List Byte → Memory
  | [] => m
  | b :: bs => Memory.writeBytes (m.write a b) (a + 1) bs

/-- A little-endian number of `n` bytes. -/
def Memory.readNat (m : Memory) (a n : Nat) : Nat := leNat (m.readBytes a n)

/-- Writes a number as `n` little-endian bytes. -/
def Memory.writeNat (m : Memory) (a n x : Nat) : Memory := m.writeBytes a (leBytes n x)

/-- Writes separate bytes, by address. -/
def Memory.writeAll (m : Memory) (bs : List (Nat × Byte)) : Memory := bs.foldl (fun m x => m.write x.1 x.2) m

end Sys2Proof.Machine
end

