-- ==== Sys2Proof/Machine/Phys.lean ====
section
/-!
DEFINITION. Places and sectors (R80 to R84), the physical map (R75), links (R294, R295), access rights (R297), and the device's own
reads and writes by physical address.
-/

namespace Sys2Proof

/-- The place `n` bytes on. -/
def Loc.add : Loc → Nat → Loc
  | .pa a, n => .pa (a + n)
  | .env c a, n => .env c (a + n)

/-- The place's number in its space. -/
def Loc.num : Loc → Nat
  | .pa a => a
  | .env _ a => a

/-- Rounds a place down to a multiple of `n`. -/
def Loc.down : Loc → Nat → Loc
  | .pa a, n => .pa (a - a % n)
  | .env c a, n => .env c (a - a % n)

/-- The 32-byte sector of a place (R80). -/
def Loc.sector (l : Loc) : Loc := l.down 32

/-- The 128-byte line of a place (R80). -/
def Loc.line (l : Loc) : Loc := l.down 128

/-- The context of an envelope place. -/
def Loc.ctxD : Loc → Nat
  | .pa _ => 0
  | .env c _ => c

/-- Is the place an envelope byte? -/
def Loc.isEnv : Loc → Bool
  | .pa _ => false
  | .env _ _ => true

namespace Machine

/-! ### The physical map (R75) and access rights (R297) -/

/-- Local GDDR7 (R75). -/
def isLocal (pa : Nat) : Bool := decide (pa < 0x1000000000)

/-- A peer window, and its peer (R75). -/
def peerOf (pa : Nat) : Option Nat :=
  if 0x10000000000 ≤ pa ∧ pa < 0x50000000000 then some ((pa - 0x10000000000) / 0x10000000000) else none

/-- Device registers and notify pages (R75). -/
def isRegister (pa : Nat) : Bool := decide (0x70000000000 ≤ pa ∧ pa < 0x80000000000)

/-- System memory through the fabric port (R75). -/
def isSystem (pa : Nat) : Bool := decide (0x80000000000 ≤ pa)

/-- Reserved ranges (R75). -/
def isReserved (pa : Nat) : Bool :=
  decide ((0x1000000000 ≤ pa ∧ pa < 0x10000000000) ∨ (0x50000000000 ≤ pa ∧ pa < 0x70000000000))

/-- The home slice of a physical address or line name (R83, R181). -/
def homeSlice (a : Nat) : Nat := (a / 128).xor (a / 128 / 2 ^ 17) % 96

namespace State

/-- A link that carries traffic to a peer (R294, R295). -/
def linkTo (s : State) (p : Nat) : Bool := s.links.any (fun l => l.peer == p && !l.outOfService)

/-- A link to a peer exists, in service or not: the peer's window can be mapped (R294). -/
def linkExists (s : State) (p : Nat) : Bool := s.links.any (fun l => l.peer == p) && s.peer != some p

/-- The right of a requester class at a target: 0, 1 or 3; 2 is read as 0 (R297). -/
def right (s : State) (t : Target) (c : ReqClass) : Nat :=
  match s.rights.find? (fun r => r.target == t && r.cls == c) with
  | none => 3
  | some r => if r.right = 2 then 0 else r.right

/-- The link that carries the traffic with a peer for the sector of an address, with its number: one of those in service, spread by sector address
(R294, R295). -/
def linkFor? (s : State) (p a : Nat) : Option (Link × Nat) :=
  let ls := s.links.zipIdx.filter (fun x => x.1.peer == p && !x.1.outOfService)
  ls[Config.linkOf (a / 32) % ls.length]?

/-- The targets that an access to a place passes (R297): for a peer window the port of the link that carries it. -/
def targetsOf (s : State) : Loc → List Target
  | .env _ n => [.slice (homeSlice n)]
  | .pa a =>
    if isLocal a then [.slice (homeSlice a), .controller (Config.controllerOf (a / 128))]
    else match peerOf a with
      | some p => ((s.linkFor? p a).map (fun x => Target.tether x.2)).toList
      | none => [.fabric]

/-- The first target that denies the access (R297). -/
def deniedAt (s : State) (l : Loc) (c : ReqClass) (write : Bool) : Option Target :=
  (s.targetsOf l).find? (fun t => let r := s.right t c; if write then r != 3 else r == 0)

/-- The place can be reached: rights (R297), and for a peer window a link in service (R295). Denials are logged. -/
def reachable (s : State) (l : Loc) (write : Bool) : Bool :=
  (s.deniedAt l .device write).isNone &&
    (match l with
     | .pa a => (match peerOf a with | some p => s.linkTo p | none => true)
     | .env _ _ => true)

/-- The traffic with a peer for the sector of an address would go over a link that is down and not out of service yet (R294, R295). -/
def linkWaits (s : State) (p a : Nat) : Bool :=
  ((s.linkFor? p a).map (fun x => x.1.down.isSome)).getD false

/-- The place lies behind a link that is down and not out of service yet: the access waits for the link, or for the traffic to move (R295). -/
def delayed (s : State) (l : Loc) : Bool :=
  match l with
  | .env _ _ => false
  | .pa a => ((peerOf a).map (fun p => s.linkWaits p a)).getD false

/-- A denial is counted in the target's log (R297). -/
def logDenial (s : State) (l : Loc) (c : ReqClass) (write : Bool) : State :=
  match s.deniedAt l c write with
  | none => s
  | some t => { s with denials := s.denials ++ [t] }

/-! ### Device registers (R288, R298, R301) -/

/-- The registers answer: the device is ACTIVE and not in recovery (R298, R301). -/
def registersAnswer (s : State) : Bool := s.power == .active && !s.recovery

/-- The physical address of a register offset (R288). -/
def registerPa (off : Nat) : Nat := 0x70000000000 + off

/-- A Fomor core's access to a register (R288): what `f` does, or a denial that the target counts; `f` also tells whether the access is denied. -/
def hostAccess (s : State) (off : Nat) (write : Bool) (f : State → Bool → State) : State :=
  if !s.registersAnswer then s
  else match s.deniedAt (.pa (registerPa off)) .fomor write with
    | none => f s false
    | some t => f { s with denials := s.denials ++ [t] } true

/-- A Fomor core writes a register: a denied write is dropped (R297). -/
def hostWrite (s : State) (off : Nat) (f : State → State) : State :=
  s.hostAccess off true (fun s denied => if denied then s else f s)

/-! ### The device's own accesses by physical address -/

/-- The lines of a run of bytes at a physical address that the device itself cannot reach: by an access table, or for want of a link. -/
def physBlocked (s : State) (pa n : Nat) (write : Bool) : List Nat :=
  ((List.range ((pa % 128 + n + 127) / 128)).map (fun i => pa - pa % 128 + 128 * i)).filter (fun l => !s.reachable (.pa l) write)

/-- The denials of some lines are counted (R297). -/
def logLines (s : State) (lines : List Nat) (write : Bool) : State :=
  lines.foldl (fun s l => s.logDenial (.pa l) .device write) s

/-- Writes a run of bytes at device reach, at a physical address the device itself uses (rings, save areas, tables, tags). A denied
write is dropped and counted (R297). -/
def writePhys (s : State) (pa : Nat) (bs : List Byte) : State :=
  match s.physBlocked pa bs.length true with
  | [] => { s with mem := s.mem.writeBytes pa bs }
  | bad =>
    { s.logLines bad true with
      mem := s.mem.writeAll ((bs.zipIdx.map (fun x => (pa + x.2, x.1))).filter (fun x => !bad.contains (x.1 - x.1 % 128))) }

/-- Writes a little-endian number of `n` bytes at a physical address. -/
def writePhysNat (s : State) (pa n x : Nat) : State := s.writePhys pa (leBytes n x)

/-- Reads a run of bytes at a physical address; a denied read returns zeros (R297). -/
def readPhys (s : State) (pa n : Nat) : List Byte :=
  match s.physBlocked pa n false with
  | [] => s.mem.readBytes pa n
  | bad => (List.range n).map (fun i => if bad.contains (pa + i - (pa + i) % 128) then 0 else s.mem.read (pa + i))

/-- Reads a little-endian number of `n` bytes at a physical address. -/
def readPhysNat (s : State) (pa n : Nat) : Nat := leNat (s.readPhys pa n)

end State
end Machine
end Sys2Proof
end

