-- ==== Sys2Proof/Machine/Ops.lean ====
section
/-!
DEFINITION. The shared operations of the machine: looking up and changing the units of the state, registers and guards,
continuing after an instruction, barriers' counters, the escalation ring, taking a trap and returning from the handler.
-/

namespace Sys2Proof

/-- The crew of a thread (R14). -/
def ThreadId.crewId (t : ThreadId) : CrewId := ⟨t.team, t.tid / 32⟩

/-- The lane of a thread (R15). -/
def ThreadId.lane (t : ThreadId) : Nat := t.tid % 32

end Sys2Proof

namespace Sys2Proof.Machine

/-- What a meaning answers. -/
abbrev Out := Host.Outcome State Fault Refusal

/-- An event of a part of the device that works in ACTIVE only (R301). -/
def whenOn (f : State → State) (s : State) : Out := .next (if s.power = .active then f s else s)

/-! ### Looking up and changing units -/

/-- Changes every element that a test picks. -/
def updWhere {α : Type} (p : α → Bool) (f : α → α) (l : List α) : List α := l.map (fun x => if p x then f x else x)

/-- A value by key from an association list, or a default. -/
def assocD {α : Type} (l : List (Nat × α)) (k : Nat) (d : α) : α := ((l.find? (fun x => x.1 == k)).map Prod.snd).getD d

/-- Sets a key of an association list. -/
def assocSet {α : Type} : List (Nat × α) → Nat → α → List (Nat × α)
  | [], k, v => [(k, v)]
  | (j, w) :: l, k, v => if j = k then (k, v) :: l else (j, w) :: assocSet l k v

namespace State

def thread? (s : State) (i : ThreadId) : Option Thread := s.threads.find? (fun t => t.id == i)
def crew? (s : State) (i : CrewId) : Option Crew := s.crews.find? (fun c => c.id == i)
def team? (s : State) (n : Nat) : Option Team := s.teams.find? (fun t => t.id == n)
def grid? (s : State) (n : Nat) : Option Grid := s.grids.find? (fun g => g.id == n)
def ctx? (s : State) (n : Nat) : Option Ctx := s.ctxs.find? (fun c => c.id == n)
def cmd? (s : State) (n : Nat) : Option EngCmd := s.cmds.find? (fun c => c.id == n)
def query? (s : State) (n : Nat) : Option Query := s.queries.find? (fun q => q.id == n)
def fill? (s : State) (n : Nat) : Option Fill := s.fills.find? (fun f => f.pfid == n)
def unit? (s : State) (g u : Nat) : Option PUnit := s.units.find? (fun x => x.grid == g && x.index == u)

def modThread (s : State) (i : ThreadId) (f : Thread → Thread) : State :=
  { s with threads := updWhere (fun t => t.id == i) f s.threads }
def modCrew (s : State) (i : CrewId) (f : Crew → Crew) : State :=
  { s with crews := updWhere (fun c => c.id == i) f s.crews }
def modTeam (s : State) (n : Nat) (f : Team → Team) : State :=
  { s with teams := updWhere (fun t => t.id == n) f s.teams }
def modGrid (s : State) (n : Nat) (f : Grid → Grid) : State :=
  { s with grids := updWhere (fun g => g.id == n) f s.grids }
def modCtx (s : State) (n : Nat) (f : Ctx → Ctx) : State :=
  { s with ctxs := updWhere (fun c => c.id == n) f s.ctxs }
def modCmd (s : State) (n : Nat) (f : EngCmd → EngCmd) : State :=
  { s with cmds := updWhere (fun c => c.id == n) f s.cmds }
def modQuery (s : State) (n : Nat) (f : Query → Query) : State :=
  { s with queries := updWhere (fun c => c.id == n) f s.queries }
def modFill (s : State) (n : Nat) (f : Fill → Fill) : State :=
  { s with fills := updWhere (fun c => c.pfid == n) f s.fills }
def modUnit (s : State) (g u : Nat) (f : PUnit → PUnit) : State :=
  { s with units := updWhere (fun x => x.grid == g && x.index == u) f s.units }
def modCore (s : State) (n : Nat) (f : Core → Core) : State :=
  match s.cores[n]? with
  | none => s
  | some c => { s with cores := setAt s.cores n (f c) }

/-- A new identifier. -/
def fresh (s : State) : State := { s with lastId := s.lastId + 1 }

/-- The next choice that the spec leaves open; 0 when none is listed. -/
def choice (s : State) : Nat := s.oracle.headD 0

/-- The choice is used up. -/
def choose (s : State) : State := { s with oracle := s.oracle.tail }

/-- The core cycle count of a core. -/
def cycleOf (s : State) (core : Nat) : Nat := ((s.cores[core]?).map Core.cycle).getD 0

/-- Device time in nanoseconds (R9). -/
def ns (s : State) : Nat := s.time / 1000000

/-- The fused entry of a core (R60). -/
def speedOf (s : State) (core : Nat) : Nat := s.speeds.getD core 0

end State

/-- The core that holds a team, if it is resident. -/
def Team.core? (t : Team) : Option Nat :=
  match t.place with
  | .resident c => some c
  | _ => none

/-- The core of a team's place, 0 when it has none. -/
def Team.coreD (t : Team) : Nat :=
  match t.place with
  | .resident c | .draining c | .retained c => c
  | _ => 0

/-- The cluster of a core (R18). -/
def clusterOf (core : Nat) : Nat := core / Config.coresPerCluster

/-- The team is swapped out, or saved by a pre-emption. -/
def Team.out (t : Team) : Bool :=
  match t.place with
  | .swapped _ _ | .saved _ => true
  | _ => false

/-- Crews of a team (R14). -/
def Team.ncrew (t : Team) : Nat := ceilDiv t.threads 32

namespace State

/-- The live threads of a crew, in lane order (R26). -/
def liveOf (s : State) (c : CrewId) : List Thread := s.threads.filter (fun t => t.id.crewId == c && t.live)

/-- Every live thread of a team. -/
def liveTeam (s : State) (n : Nat) : List Thread := s.threads.filter (fun t => t.id.team == n && t.live)

/-- The crews of a team. -/
def crewsOf (s : State) (n : Nat) : List Crew := s.crews.filter (fun c => c.id.team == n)

/-- The team of a thread's or crew's id, then its grid and its context. -/
def gridOf (s : State) (team : Nat) : Option Grid := (s.team? team).bind (fun t => s.grid? t.grid)
def ctxOf (s : State) (team : Nat) : Option Ctx := (s.team? team).bind (fun t => s.ctx? t.ctx)
def ctxId (s : State) (team : Nat) : Nat := ((s.team? team).map Team.ctx).getD 0
def coreOf (s : State) (team : Nat) : Nat := ((s.team? team).map Team.coreD).getD 0
def fdepthOf (s : State) (team : Nat) : Nat := ((s.team? team).map Team.fdepth).getD 0

end State

namespace State

/-- The context is scheduled: enabled, not lost and not pre-empted (R279, R287, R289). -/
def scheduled (s : State) (ctx : Nat) : Bool :=
  match s.ctx? ctx with
  | none => false
  | some c => c.regs.ptroot != 0 && !c.preempted && !c.lost

/-- The team is swapped out or saved. -/
def outside (s : State) (team : Nat) : Bool := ((s.team? team).map Team.out).getD false

/-- Wake events of some threads: those whose team is out are noted, and their teams have a wake event (R62, R68). -/
def noteWake (s : State) (ids : List ThreadId) : State :=
  let out := ids.filter (fun t => s.outside t.team)
  { s with threads := updWhere (fun t => out.contains t.id) (fun t => { t with woken := true }) s.threads,
           teams := updWhere (fun t => out.any (fun x => x.team == t.id)) (fun t => { t with wake := true }) s.teams }

end State

/-! ### Registers, predicates, guards -/

/-- A v register (R308). -/
def Thread.reg (t : Thread) (n : Nat) : Word := t.v.getD n 0

/-- Writes a v register. -/
def Thread.setReg (t : Thread) (n : Nat) (w : Word) : Thread := { t with v := setAt t.v n w }

/-- Writes consecutive v registers. -/
def Thread.setRegs (t : Thread) (n : Nat) : List Word → Thread
  | [] => t
  | w :: ws => Thread.setRegs (t.setReg n w) (n + 1) ws

/-- The 64-bit value of a v pair (R5). -/
def Thread.pair (t : Thread) (n : Nat) : Nat := pairNat (t.reg n) (t.reg (n + 1))

/-- A predicate; p7 is true (R303). -/
def Thread.pred (t : Thread) (n : Nat) : Bool := if n = 7 then true else t.p.getD n false

/-- Writes a predicate; a write to p7 is discarded (R308). -/
def Thread.setPred (t : Thread) (n : Nat) (b : Bool) : Thread := if n = 7 then t else { t with p := setAt t.p n b }

/-- A k register; k63 reads as zero (R308). -/
def Crew.reg (c : Crew) (n : Nat) : Word := if n = 63 then 0 else c.k.getD n 0

/-- Writes a k register; a write to k63 is discarded (R308). -/
def Crew.setReg (c : Crew) (n : Nat) (w : Word) : Crew := if n = 63 then c else { c with k := setAt c.k n w }

/-- The 64-bit value of a k pair (R5). -/
def Crew.pair (c : Crew) (n : Nat) : Nat := pairNat (c.reg n) (c.reg (n + 1))

/-- A q predicate; q7 is true (R303). -/
def Crew.pred (c : Crew) (n : Nat) : Bool := if n = 7 then true else c.q.getD n false

/-- Writes a q predicate; a write to q7 is discarded (R308). -/
def Crew.setPred (c : Crew) (n : Nat) (b : Bool) : Crew := if n = 7 then c else { c with q := setAt c.q n b }

/-- A lane instruction's guard (R303). -/
def Thread.guard (t : Thread) (g : Guard) : Bool := t.pred g.p.val != g.neg

/-- A uniform instruction's guard (R26). -/
def Crew.guard (c : Crew) (g : Guard) : Bool := c.pred g.p.val != g.neg

/-! ### Continuing after an instruction -/

/-- The thread continues `n` bytes on. -/
def Thread.advance (t : Thread) (n : Nat) : Thread := { t with pc := t.pc + BitVec.ofNat 32 n }

/-- The thread leaves a rendezvous or collective and continues `n` bytes on (R26). -/
def Thread.leave (t : Thread) (n : Nat) : Thread :=
  { t with pc := t.pc + BitVec.ofNat 32 n, arrived := none, stall := .none, wait := 0 }

/-- The threads of the flight, ascending by lane (R23). -/
def Focus.ids : Focus → List ThreadId
  | .flight _ ids _ => ids
  | _ => []

/-- The crew whose uniform instruction runs. -/
def Focus.crew? : Focus → Option CrewId
  | .uniform c => some c
  | _ => none

/-- The threads of the flight of `s` in turn, in ascending lane order, from the state `x`; one whose guard is false only continues (R23). A thread
that an earlier thread's crew trap has taken to the handler no longer acts. -/
def laneFrom (n : Nat) (g : Guard) (f : State → Thread → State) (s x : State) : State :=
  s.cur.ids.foldl (fun x id =>
    match x.thread? id, s.thread? id with
    | some t, some t0 =>
      if t.inh != t0.inh || !t.live then x else if t.guard g then f x t else x.modThread id (·.advance n)
    | _, _ => x) x

/-- A lane instruction of `n` bytes. -/
def laneEach (n : Nat) (g : Guard) (f : State → Thread → State) (s : State) : State := laneFrom n g f s { s with cur := .idle }

/-- What a lane instruction of `n` bytes that changes only registers and predicates makes of a thread. -/
def regStep (n : Nat) (g : Guard) (f : State → Thread → Thread) (s : State) (t : Thread) : Thread :=
  if t.guard g then (f s t).advance n else t.advance n

/-- A lane instruction that changes only the threads that run it: each from the state before the flight (R23). -/
def laneReg (n : Nat) (g : Guard) (f : State → Thread → Thread) (s : State) : State :=
  { s with cur := .idle,
           threads := updWhere (fun t => s.cur.ids.contains t.id) (regStep n g f s) s.threads }

/-- The crew no longer stands at a rendezvous. -/
def Crew.released (c : Crew) : Crew :=
  { c with stalled := false, complete := false, begun := false, rdvFrom := none, hold := false, absent := none, fence := none, issuing := none }

/-- A crew collective: all threads of the flight, and those of them whose guard is true (R27). The crew's rendezvous is over (R26). -/
def laneCrew (g : Guard) (f : State → CrewId → List Thread → List Thread → State) (s : State) : State :=
  let ts := s.cur.ids.filterMap s.thread?
  match ts with
  | [] => { s with cur := .idle }
  | t :: _ => f (State.modCrew { s with cur := .idle } t.id.crewId Crew.released) t.id.crewId ts (ts.filter (·.guard g))

/-- The threads of a collective leave it. -/
def State.leaveAll (s : State) (ts : List Thread) (n : Nat) : State :=
  { s with threads := updWhere (fun x => ts.any (fun t => t.id == x.id)) (·.leave n) s.threads }

/-- Every live thread of a crew continues after its uniform instruction (R26). -/
def State.finishUniform (s : State) (c : CrewId) (n : Nat) : State :=
  { s with threads := updWhere (fun t => t.id.crewId == c && t.live) (·.leave n) s.threads,
           crews := updWhere (fun x => x.id == c) (fun x => x.released) s.crews }

/-- A uniform instruction of `n` bytes: it runs once for the crew if its guard is true; `f` says how the crew goes on. -/
def uniformRun (n : Nat) (g : Guard) (f : State → Crew → State) (s : State) : State :=
  match s.cur.crew?.bind s.crew? with
  | none => { s with cur := .idle }
  | some c => if c.guard g then f { s with cur := .idle } c else State.finishUniform { s with cur := .idle } c.id n

/-- A uniform instruction that changes only its crew's registers. -/
def uniformReg (n : Nat) (g : Guard) (f : State → Crew → Crew) (s : State) : State :=
  uniformRun n g (fun s c => (s.modCrew c.id (fun _ => f s c)).finishUniform c.id n) s

/-- The crew waits at its convergent instruction, not ready, and tries again in a later cycle (R111, R227); its wait counts from there
(R26). -/
def State.stallCrew (s : State) (c : CrewId) : State :=
  s.modCrew c (fun x => { x with stalled := true, complete := true, begun := true, rdvFrom := none, absent := none })

/-- The crew waits at its uniform instruction: the uniform pipe has executed nothing (R22). -/
def State.stallUniform (s : State) (c : CrewId) : State :=
  (s.stallCrew c).modCore (s.coreOf c.team) (fun k => { k with pipe := none })

/-- The crew waits at its uniform instruction for an absent scratchpad line (R79, R372). -/
def State.waitLine (s : State) (c : CrewId) (line : Nat) : State :=
  (s.stallUniform c).modCrew c (fun x => { x with absent := some line })

/-- The thread stays at its instruction and tries again in a later cycle. -/
def State.stallThread (s : State) (t : ThreadId) : State := s.modThread t (fun x => { x with stall := .busy })

/-! ### Barriers' counters (R146) -/

namespace State

/-- The barrier that a team's reference names, if it is claimed (R145). -/
def barrier? (s : State) (team : Nat) (b : BarRef) : Option Barrier :=
  match s.team? team with
  | none => none
  | some t =>
    match b.level with
    | .crew => none
    | .team => t.bars[b.id]?
    | .cluster => (s.unit? t.grid t.unit).bind (fun u => u.bars[b.id]?)
    | .grid => (s.grid? t.grid).bind (fun g => g.bars[b.id]?)

/-- Changes one barrier of a list. -/
def modBarAt (l : List Barrier) (n : Nat) (f : Barrier → Barrier) : List Barrier :=
  match l[n]? with
  | none => l
  | some b => setAt l n (f b)

/-- Changes the barrier that a team's reference names. -/
def modBarrier (s : State) (team : Nat) (b : BarRef) (f : Barrier → Barrier) : State :=
  match s.team? team with
  | none => s
  | some t =>
    match b.level with
    | .crew => s
    | .team => s.modTeam team (fun x => { x with bars := modBarAt x.bars b.id f })
    | .cluster => s.modUnit t.grid t.unit (fun u => { u with bars := modBarAt u.bars b.id f })
    | .grid => s.modGrid t.grid (fun g => { g with bars := modBarAt g.bars b.id f })

end State

/-! ### Interrupts and CSTAT (R289, R291) -/

namespace State

/-- An interrupt message (R291). -/
def interrupt (s : State) (i : Irq) : State := { s with irqs := s.irqs ++ [i] }

/-- Sets bits of CSTAT; a bit that becomes set raises an interrupt (R289, R291). -/
def setCstat (s : State) (ctx bit : Nat) : State :=
  match s.ctx? ctx with
  | none => s
  | some c =>
    if bitAt c.regs.cstat bit then s
    else (s.modCtx ctx (fun c => { c with regs := { c.regs with cstat := c.regs.cstat + 2 ^ bit } })).interrupt (.cstat ctx)

end State

/-- Unconsumed records of a ring (R291). -/
def ringCount (prod cons : Nat) : Nat := (prod + 2 ^ 32 - cons) % 2 ^ 32

/-! ### The escalation ring (R274, R291) -/

/-- What an escalation record says (R274). -/
structure EscRecord where
  cause : Word
  trapv : Word
  trapc : Word
  grid : Nat
  core : Nat
  tid : Nat
  reason : Nat
  first : Nat

/-- The 32 bytes of an escalation record (R274). -/
def EscRecord.bytes (r : EscRecord) (seq : Nat) : List Byte :=
  leBytes 4 r.cause.toNat ++ leBytes 4 r.trapv.toNat ++ leBytes 4 r.trapc.toNat ++ leBytes 4 r.grid ++ leBytes 2 r.core
    ++ leBytes 2 r.tid ++ leBytes 1 r.reason ++ leBytes 1 r.first ++ leBytes 2 0 ++ leBytes 4 seq ++ leBytes 4 0

namespace State

/-- Moves waiting escalation records into the ring while it has room (R291). -/
def drainEsc (ctx : Nat) : Nat → State → State
  | 0, s => s
  | n + 1, s =>
    match s.ctx? ctx with
    | none => s
    | some c =>
      match c.erwait with
      | [] => s
      | r :: rest =>
        if ringCount c.regs.erprod c.regs.ercons ≥ 2 ^ c.regs.erlog2 then s
        else
          let s := s.writePhys (c.regs.erbase + 32 * (c.regs.erprod % 2 ^ c.regs.erlog2)) r
          let s := s.modCtx ctx (fun c => { c with erwait := rest,
                                                   regs := { c.regs with erprod := (c.regs.erprod + 1) % 2 ^ 32 } })
          drainEsc ctx n (s.interrupt (.escalationRing ctx))

/-- Writes one escalation record to a context's ring, or holds it until the ring has room (R274, R291). -/
def escRecord (s : State) (ctx : Nat) (r : EscRecord) : State :=
  match s.ctx? ctx with
  | none => s
  | some c =>
    let s := s.modCtx ctx (fun c => { c with erwait := c.erwait ++ [r.bytes c.erseq], erseq := (c.erseq + 1) % 2 ^ 31 })
    drainEsc ctx (c.erwait.length + 1) s

/-- Escalation of a thread's trap (R274): the grid stops and one record is written. A grid already stopped writes none. -/
def escalate (s : State) (t : Thread) (cause trapv trapc : Word) (reason first : Nat) : State :=
  match s.team? t.id.team with
  | none => s
  | some tm =>
    match s.grid? tm.grid with
    | none => s
    | some g =>
      if g.stopped then s
      else (s.modGrid g.id (fun g => { g with stopped := true })).escRecord tm.ctx
        { cause := cause, trapv := trapv, trapc := trapc, grid := g.id, core := tm.coreD, tid := t.id.tid,
          reason := reason, first := first }

end State

/-! ### Taking a trap (R266 to R270, R475) -/

/-- Cause codes (R266). -/
inductive Cause where
  | illegal | badTarget | fetchFault | access | misaligned | rangeLock | storeOvf | genNest | genFail | badHandle
  | satTrap | phaseOverrun | soft | nestLimit | machine | badLaunch
deriving DecidableEq, Repr

/-- The code of a cause (R266). -/
def Cause.code : Cause → Nat
  | .illegal => 0x01
  | .badTarget => 0x02
  | .fetchFault => 0x03
  | .access => 0x04
  | .misaligned => 0x05
  | .rangeLock => 0x06
  | .storeOvf => 0x07
  | .genNest => 0x08
  | .genFail => 0x09
  | .badHandle => 0x0A
  | .satTrap => 0x0B
  | .phaseOverrun => 0x0C
  | .soft => 0x0D
  | .nestLimit => 0x0E
  | .machine => 0x11
  | .badLaunch => 0x12

/-- `%cause` (R269). -/
def causeWord (c : Cause) (crew own : Bool) (aux : Nat) : Word :=
  BitVec.ofNat 32 (c.code + 0x100 * crew.toNat + 0x200 * own.toNat + 0x1000 * (aux % 2 ^ 20))

/-- Is this waiter the thread? -/
def Waiter.isThread (w : Waiter) (t : ThreadId) : Bool := w == .thread t

/-- A list without its first element that a test picks. -/
def dropFirst {α : Type} (p : α → Bool) : List α → List α
  | [] => []
  | x :: l => if p x then l else x :: dropFirst p l

/-- A `BAR`'s arrival of a thread is withdrawn from a barrier: its last one, since one of an earlier phase that is carried still counts (R152,
R159). -/
def Barrier.withdraw (x : Barrier) (t : ThreadId) : Barrier :=
  { x with a := x.a - 1, arr := (dropFirst (fun r => r.bar && r.team == t.team && r.tid == t.tid) x.arr.reverse).reverse,
           exit := if x.a - 1 < x.e then none else x.exit }

namespace State

/-- TRAPH of a team's context (R268). -/
def traph (s : State) (team : Nat) : Nat := ((s.ctxOf team).map (fun c => c.regs.traph)).getD 0

/-- A pending barrier arrival of the thread is withdrawn (R152): A loses what it added, and no report knows of it; an exit that had
filled the phase with it no longer completes it. -/
def withdrawArrival (s : State) (t : Thread) : State :=
  match t.park with
  | .barrier b _ _ true => s.modBarrier t.id.team b (fun x => x.withdraw t.id)
  | _ => s

/-- The thread leaves every queue it waits in: walks, faults, misses, fills, monitors, the parked-allocation queue (R473),
traversal queries (R259) and outstanding commits (R268), which go on to their acknowledgements for the threads that they still hold. -/
def leaveQueues (s : State) (t : ThreadId) : State :=
  { s with
    walks := s.walks.map (fun w => { w with joined := w.joined.filter (fun x => !x.who.isThread t) })
    ctxs := s.ctxs.map (fun c => { c with
      faults := c.faults.map (fun f => { f with joined := f.joined.filter (fun x => !x.who.isThread t) })
      allocs := c.allocs.filter (fun a => a.who != .spawn t && a.who != .cont t) })
    misses := s.misses.filter (fun m => !m.waiter.isThread t)
    overflow := s.overflow.filter (fun m => !m.waiter.isThread t)
    pins := s.pins.filter (fun p => !p.who.isThread t)
    fills := s.fills.map (fun f => { f with waiters := f.waiters.filter (fun x => !x.who.isThread t) })
    monitors := s.monitors.filter (fun m => m.thread != t)
    queries := s.queries.filter (fun q => q.thread != t)
    commits := s.commits.map (fun c => { c with members := c.members.filter (· != t), waiters := c.waiters.filter (· != t) })
    replays := s.replays.filter (fun j => !j.who.isThread t) }

end State

/-- The stall of a thread that enters the handler: an `.ACQ` that has left its barrier still waits for the thread's loads (R151, R152). -/
def Stall.trapped (x : Stall) : Stall :=
  match x with
  | .acq lvl => .acq lvl
  | _ => .none

namespace State

/-- The entry to the handler (R268), the ONE operation by which a thread takes a trap: the park ends, a rendezvous arrival is
withdrawn, `%trapc` saves where the thread resumes, `%cause` and `%trapv` say why, the in-handler flag is set, and the thread
continues at TRAPH; an `LD` of a peer's memory that has not returned has had no effect (log entry 105). Nothing else changes. -/
def enterHandler (s : State) (t : Thread) (r : TrapRegs) (resume : Word) : State :=
  (((s.withdrawArrival t).leaveQueues t.id).noteWake [t.id]).modThread t.id (fun x =>
    { x with pc := BitVec.ofNat 32 (s.traph t.id.team), inh := true, park := .none, stall := x.stall.trapped, arrived := none,
             loads := x.loads.filter (fun l => !l.remote), committed := false, late := none, run := none, cont := false,
             trapc := resume, cause := r.cause, trapv := r.trapv })

/-- A trap reaches a thread (R268, R270, R274): it enters the handler; or the trap escalates, when there is no handler or
the thread itself raised it inside the handler; or it is held until `TRET`. -/
def takeTrap (s : State) (t : Thread) (own : Bool) (r : TrapRegs) (resume : Word) : State :=
  if t.inh then
    if own then s.escalate t r.cause r.trapv resume 1 (t.cause.toNat % 0x100)
    else s.modThread t.id (fun x => { x with held := x.held ++ [r] })
  else if s.traph t.id.team = 0 then s.escalate t r.cause r.trapv resume 0 0
  else s.enterHandler t r resume

/-- A thread trap of the thread's own (R267): precise, so it resumes at the trapping instruction. -/
def threadTrap (s : State) (t : Thread) (c : Cause) (trapv : Word) (aux : Nat) : State :=
  s.takeTrap t true ⟨causeWord c false true aux, trapv⟩ t.pc

/-- A trap that ends a thread's wait for an access: at once, or, while its team is out, once it is back (R68). -/
def lateTrap (s : State) (t : Thread) (c : Cause) (trapv : Word) (aux : Nat) : State :=
  if s.outside t.id.team then
    ((s.leaveQueues t.id).noteWake [t.id]).modThread t.id (fun x =>
      { x with park := .none, stall := .none, run := none, late := some ⟨causeWord c false true aux, trapv⟩ })
  else s.threadTrap t c trapv aux

/-- The crew's uniform instruction no longer waits for a layout record or an argument image. -/
def leaveIssue (s : State) (c : CrewId) : State :=
  { s with
    walks := s.walks.map (fun w => { w with joined := w.joined.filter (fun j => j.who != .issue c) })
    overflow := s.overflow.filter (fun m => m.waiter != .issue c)
    pins := s.pins.filter (fun p => p.who != .issue c)
    ctxs := s.ctxs.map (fun x => { x with
      faults := x.faults.map (fun f => { f with joined := f.joined.filter (fun j => j.who != .issue c) }) })
    images := s.images.filter (fun m => m.crew != some c)
    misses := s.misses.filter (fun m => m.waiter != .issue c)
    replays := s.replays.filter (fun j => j.who != .issue c)
    fills := s.fills.map (fun f => { f with waiters := f.waiters.filter (fun j => j.who != .issue c) }) }

/-- A crew trap (R121, R266, R475): every live thread of the crew takes it, resuming at its current instruction. `own` says
in which threads OWN is set, `trapv` what each reads. A trap that every thread holds (R270) leaves the crew where it waits. -/
def crewTrap (s : State) (crew : CrewId) (c : Cause) (own : ThreadId → Bool) (trapv : ThreadId → Word) (aux : Nat) :
    State :=
  (s.liveOf crew).foldl (fun s t =>
    s.takeTrap t (own t.id) ⟨causeWord c true (own t.id) aux, trapv t.id⟩ t.pc)
    (if (s.liveOf crew).all (fun t => t.inh && !own t.id) then s else (s.leaveIssue crew).modCrew crew Crew.released)

/-- A trap that a uniform instruction raises: it reaches the whole crew, with OWN set in every thread (R266, R475). -/
def uniformTrap (s : State) (crew : CrewId) (c : Cause) (trapv : Word) (aux : Nat) : State :=
  s.crewTrap crew c (fun _ => true) (fun _ => trapv) aux

/-- Return from the handler to `target` (R270, R271): the in-handler flag clears and the thread continues there, unless a
held crew trap is delivered first, with `%trapc` the target; without a handler that trap escalates (R268, R274). -/
def returnTo (s : State) (t : Thread) (target : Word) : State :=
  match t.held with
  | [] => s.modThread t.id (fun x => { x with inh := false, pc := target })
  | r :: rest =>
    if s.traph t.id.team = 0 then
      (s.modThread t.id (fun x => { x with held := rest, inh := false, pc := target })).escalate t r.cause r.trapv target 0 0
    else s.modThread t.id (fun x => { x with held := rest, trapc := target, cause := r.cause, trapv := r.trapv,
                                             pc := BitVec.ofNat 32 (s.traph t.id.team) })

end State

end Sys2Proof.Machine
end

