-- ==== Sys2Proof/Machine/Space.lean ====
section
/-!
DEFINITION. The global path: translation and page walks (R89 to R95), what a place holds at device reach, buffers (R103 to R107), L1
(R80, R108), envelope lines and their sets of the last-level cache (R83, R181, R185, R191, R203), monitors (R277), landings, misses, and
what a thread's access meets (R96).
-/

namespace Sys2Proof
namespace Machine

/-- A waiter as it is when it replays: a reduction no longer waits. -/
def Waiter.replayed : Waiter → Waiter
  | .red r => .red { r with waiting := false }
  | w => w

namespace State

/-! ### Envelope lines (R181, R185) -/

/-- The listed line of an envelope place: PRESENT or HELD. -/
def envLine? (s : State) (ctx n : Nat) : Option EnvLine :=
  s.envLines.find? (fun l => l.ctx == ctx && l.name == n - n % 128)

/-- Changes one line. -/
def modEnv (s : State) (ctx n : Nat) (f : EnvLine → EnvLine) : State :=
  { s with envLines := updWhere (fun l => l.ctx == ctx && l.name == n - n % 128) f s.envLines }

/-- A HELD line is restored with W = 1, and its ballast entry is free again (R185). -/
def restoreEnv (s : State) (ctx n : Nat) : State :=
  match s.envLine? ctx n with
  | some l => if l.held then s.modEnv ctx n (fun l => { l with held := false, written := true }) else s
  | none => s

/-- An ABSENT line becomes PRESENT without valid words; a HELD line is restored with W = 1 (R185). -/
def touchEnv (s : State) (ctx n gen : Nat) : State :=
  match s.envLine? ctx n with
  | none => { s with envLines := s.envLines ++ [⟨ctx, n - n % 128, false, gen, false, List.replicate 32 false,
                                                List.replicate 32 0⟩] }
  | some _ => s.restoreEnv ctx n

/-! ### What device reach holds -/

/-- The byte at device reach, if it is valid there: an invalid word of an envelope line, and a line that is not PRESENT,
give none (R84, R187). -/
def devByte? (s : State) : Loc → Option Byte
  | .pa a => some (s.mem.read a)
  | .env c n =>
    match s.envLine? c n with
    | none => none
    | some l =>
      if l.held || !(l.valid.getD (n % 128 / 4) false) then none
      else some (BitVec.ofNat 8 ((l.words.getD (n % 128 / 4) 0).toNat / 2 ^ (8 * (n % 4))))

/-- `n` bytes at device reach, if all are valid. -/
def devBytes? (s : State) (l : Loc) (n : Nat) : Option (List Byte) :=
  (List.range n).mapM (fun i => s.devByte? (l.add i))

/-! ### Monitors (R277) -/

/-- A write in a sector, or the eviction of its line, wakes the threads that monitor it: they continue at the next
instruction. -/
def wakeMonitors (s : State) (p : Loc → Bool) : State :=
  let woken := (s.monitors.filter (fun m => p m.sector)).map Monitor.thread
  let s := s.noteWake woken
  { s with monitors := s.monitors.filter (fun m => !p m.sector),
           threads := updWhere (fun t => woken.contains t.id && t.park == .monitor)
             (fun t => { t with park := .none, pc := t.pc + 4 }) s.threads }

/-! ### Landing at device reach (R84, R87, R135, R191) -/

/-- The tag of an expanded sector: the smallest form that reproduces its eight words (R87). -/
def sectorTag (ws : List Word) : Nat :=
  let b := ws.headD 0
  let diff := fun (w : Word) => sint (w - b)
  if ws.all (· == 0) then 0
  else if ws.all (fun w => decide (-8 ≤ diff w) && decide (diff w ≤ 7)) then 1
  else if ws.all (fun w => decide (-2048 ≤ diff w) && decide (diff w ≤ 2047)) then 2
  else 3

/-- The signed differences from the first word, as `n`-bit fields, lowest first (R87). -/
def packDiffs (n : Nat) (ws : List Word) : Nat :=
  (ws.zipIdx.map (fun w => ((w.1 - ws.headD 0).toNat % 2 ^ n) * 2 ^ (n * w.2))).foldl (· + ·) 0

/-- The stored bytes of a sector under its tag (R87): the form that it takes in GDDR7 and on the network (R88). -/
def packSector (ws : List Word) : List Byte :=
  match sectorTag ws with
  | 0 => []
  | 1 => leBytes 4 (ws.headD 0).toNat ++ leBytes 4 (packDiffs 4 ws)
  | 2 => leBytes 4 (ws.headD 0).toNat ++ leBytes 12 (packDiffs 12 ws)
  | _ => ws.flatMap (fun w => leBytes 4 w.toNat)

/-- The expanded sector of a tag and its stored bytes (R87): the inverse of `packSector`. -/
def expandSector (tag : Nat) (bs : List Byte) : List Byte :=
  let base := leNat (bs.take 4)
  let field := fun (w i : Nat) =>
    (((base : Int) + sintOf w (leNat (bs.drop 4) / 2 ^ (w * i))) % ((2 ^ 32 : Nat) : Int)).toNat
  match tag with
  | 0 => List.replicate 32 0
  | 1 => (List.range 8).flatMap (fun i => leBytes 4 (field 4 i))
  | 2 => (List.range 8).flatMap (fun i => leBytes 4 (field 12 i))
  | _ => bs.take 32

/-- The eight words of the sector of a physical address. -/
def sectorWords (s : State) (pa : Nat) : List Word :=
  (List.range 8).map (fun i => BitVec.ofNat 32 (s.mem.readNat (pa - pa % 32 + 4 * i) 4))

/-- A sector of a compressed page goes to memory in the form of its tag (R87), and its place then reads what this form expands to: the slice
array, which the model's memory is, holds expanded sectors (R88). The tag byte of its line stands at TAGBASE + pa / 128 (R86, log entry 82). -/
def packStore (s : State) (ctx pa : Nat) : State :=
  match s.ctx? ctx with
  | none => s
  | some c =>
    let ws := s.sectorWords pa
    let tag := sectorTag ws
    let k := pa % 128 / 32
    let at_ := c.regs.tagbase + pa / 128
    let s := { s with mem := s.mem.writeBytes (pa - pa % 32) (expandSector tag (packSector ws)) }
    let s := s.logLines (s.physBlocked at_ 1 false) false
    let old := s.readPhysNat at_ 1
    s.writePhysNat at_ 1 (old - (old / 4 ^ k % 4) * 4 ^ k + tag * 4 ^ k)

/-- Writes bytes of one word of an envelope line; a HELD line is restored first (R185), and bytes that write only part of a word that is
not valid are given back (R191). -/
def landWord (s : State) (ctx gen base : Nat) (bs : List (Nat × Byte)) : State × List (Nat × Byte) :=
  match bs with
  | [] => (s, [])
  | _ =>
    let s := s.restoreEnv ctx base
    let i := base % 128 / 4
    let valid := match s.envLine? ctx base with
      | none => false
      | some l => l.valid.getD i false
    if valid || (List.range 4).all (fun j => bs.any (fun b => b.1 == j)) then
      let s := s.touchEnv ctx base gen
      (s.modEnv ctx base (fun l =>
        let old := (l.words.getD i 0).toNat
        let new := leNat ((List.range 4).map (fun j =>
          ((bs.reverse.find? (fun b => b.1 == j)).map Prod.snd).getD (BitVec.ofNat 8 (old / 2 ^ (8 * j)))))
        { l with written := true, valid := setAt l.valid i true, words := setAt l.words i (BitVec.ofNat 32 new) }), [])
    else (s, bs)

/-- Writes bytes of one sector at device reach: by offset within the sector. What could not land is given back (R191). Every
landing wakes the sector's monitors, but not outside local memory (R277). -/
def landBytes (s : State) (ctx : Nat) (tr : Translation) (sec : Loc) (bs : List (Nat × Byte)) :
    State × List (Nat × Byte) :=
  match sec with
  | .pa a =>
    let s := { s with mem := s.mem.writeAll (bs.map (fun b => (a + b.1, b.2))) }
    let s := if tr.c then s.packStore ctx a else s
    (if isLocal a then s.wakeMonitors (· == sec) else s, [])
  | .env k n =>
    let r := (List.range 8).foldl (fun (r : State × List (Nat × Byte)) i =>
      let part := (bs.filter (fun b => b.1 / 4 == i)).map (fun b => (b.1 % 4, b.2))
      let q := landWord r.1 k tr.gen (n + 4 * i) part
      (q.1, r.2 ++ q.2.map (fun b => (4 * i + b.1, b.2)))) (s, [])
    (r.1.wakeMonitors (· == sec), r.2)

/-- Whole words among some bytes of a sector. -/
def wholeWord (bs : List (Nat × Byte)) : Bool :=
  (List.range 8).any (fun i => (List.range 4).all (fun j => bs.any (fun b => b.1 == 4 * i + j)))

/-! ### The last-level cache and its sets (R83, R185, R198, R203) -/

/-- A waiter's team, where it has one. -/
def waiterTeam? (s : State) : Waiter → Option Nat
  | .thread t => some t.team
  | .cmd i => (s.cmd? i).map EngCmd.team
  | .query i => (s.query? i).map (fun q => q.thread.team)
  | .landing l => some l.crew.team
  | .red r => some r.team
  | .image i => ((s.images.find? (fun m => m.id == i)).bind ImageRead.crew).map CrewId.team
  | .batch g => (s.teams.find? (fun t => t.grid == g)).map Team.id
  | .done _ => none
  | .sector t _ _ | .prefetch t _ => some t
  | .issue c => some c.team

/-- The waiter waits for a walk or for a fault reply. -/
def translates (s : State) (w : Waiter) : Bool :=
  let at_ := fun (l : List Joined) => l.any (fun j => j.who.replayed == w.replayed)
  s.walks.any (fun x => at_ x.joined) || s.ctxs.any (fun c => c.faults.any (fun f => at_ f.joined))

/-- The waiter has an access that it is still to replay: it waits in a fill, is about to replay, or its replay waits for a walk or a fault reply.
A thread has, until its replay has performed and takes its pin away. -/
def awaits (s : State) (w : Waiter) : Bool :=
  let at_ := fun (l : List Joined) => l.any (fun j => j.who.replayed == w)
  s.fills.any (fun f => at_ f.waiters) || at_ s.replays || s.translates w ||
    (match w with
     | .thread t => ((s.thread? t).map Thread.live).getD false
     | .cmd i => (s.cmd? i).isSome
     | .query i => (s.query? i).isSome
     | .image i => s.images.any (fun m => m.id == i)
     | .red r => s.reds.contains r
     | .issue c => (s.liveOf c).any (fun t => t.arrived.isSome)
     | .landing _ | .batch _ | .done _ | .sector _ _ _ | .prefetch _ _ => false)

/-- A line stays for a waiter that has not replayed (R198), unless the waiter's team is out or its context is not scheduled. -/
def pinned (s : State) (ctx name : Nat) : Bool :=
  s.scheduled ctx &&
    s.pins.any (fun p => p.ctx == ctx && decide (p.name ≤ name) && decide (name < p.name + 128 * p.lines) && s.awaits p.who &&
      !((s.waiterTeam? p.who).map s.outside).getD false)

/-- The waiter has replayed: its lines may leave (R198). -/
def unpin (s : State) (w : Waiter) : State := { s with pins := s.pins.filter (fun p => p.who != w) }

/-- A line that leaves the cache must be kept (R185): it is written, or its generator is of the ballast class. -/
def mustKeep (s : State) (l : EnvLine) : Bool :=
  l.written || (((s.ctx? l.ctx).bind (fun c => c.gens[l.gen]?)).map GenDesc.ballast).getD false

/-- Entries of a context's ballast store (R202). -/
def ballastEntries (s : State) (ctx : Nat) : Nat := ((s.ctx? ctx).map (fun c => c.regs.ballast * 0x4000000 / 128)).getD 0

/-- Entries in use. -/
def ballastUsed (s : State) (ctx : Nat) : Nat := (s.envLines.filter (fun l => l.ctx == ctx && l.held)).length

/-- The line must go to the ballast store and finds no free entry (R203). -/
def noEntry (s : State) (l : EnvLine) : Bool := s.mustKeep l && decide (s.ballastEntries l.ctx ≤ s.ballastUsed l.ctx)

/-- A PRESENT line leaves the cache (R185, R197): dropped when it can be computed again, otherwise into the ballast store. Its monitors
wake (R277). -/
def evictLine (s : State) (l : EnvLine) : State :=
  let s' := s.wakeMonitors (fun x => x.line == .env l.ctx l.name)
  if s.mustKeep l then s'.modEnv l.ctx l.name (fun x => { x with held := true })
  else { s' with envLines := s'.envLines.filter (fun x => !(x.ctx == l.ctx && x.name == l.name)) }

/-- The PRESENT envelope lines of a line's set (R83, R181). -/
def setOf (s : State) (ctx name : Nat) : List EnvLine :=
  s.envLines.filter (fun l => !l.held && homeSlice l.name == homeSlice name &&
    Config.llcSet l.ctx (l.name / 128) % Config.llcSets == Config.llcSet ctx (name / 128) % Config.llcSets)

/-- The set has a way for one more envelope line. -/
def wayFree (s : State) (ctx name : Nat) : Bool :=
  decide ((s.envLines.filter (fun l => !l.held)).length < Config.llcWays) || decide ((s.setOf ctx name).length < Config.llcWays)

/-- Room in the last-level cache for an envelope line (R83, R203): its set has a way, or a line of the set gives way. Otherwise the
allocation waits, and the hosts of the contexts whose ballast stores are full are notified. -/
def makeRoom (s : State) (ctx n : Nat) : State × Bool :=
  let name := n - n % 128
  if ((s.envLine? ctx n).map (fun l => !l.held)).getD false || s.wayFree ctx name then (s, true)
  else
    let full := s.setOf ctx name
    let gone := full.filter (fun l => !s.noEntry l && !s.pinned l.ctx l.name)
    match gone[Config.llcVictim s.freeCtr % gone.length]? with
    | some l => ({ s.evictLine l with freeCtr := s.freeCtr + 1 }, true)
    | none => (((full.filter s.noEntry).map EnvLine.ctx).foldl (fun s c => s.setCstat c 1) s, false)

/-- Writing some bytes of a sector takes a way of the last-level cache: the line is not PRESENT, and it is HELD or some word is whole. -/
def needsWay (s : State) (sec : Loc) (bs : List (Nat × Byte)) : Option (Nat × Nat) :=
  match sec with
  | .pa _ => none
  | .env c n =>
    match s.envLine? c n with
    | some l => if l.held then some (c, n) else none
    | none => if wholeWord bs then some (c, n) else none

/-- Room for a write of some bytes of a sector. -/
def roomFor (s : State) (sec : Loc) (bs : List (Nat × Byte)) : State × Bool :=
  match s.needsWay sec bs with
  | none => (s, true)
  | some (c, n) => s.makeRoom c n

/-- Writes bytes at device reach from a place upwards, for a writer that never writes part of an invalid word. A write that finds no way in
the cache (R203), or whose link is down (R295), goes on as a landing of the device's own, which tries again. -/
def devWrite (s : State) (ctx va : Nat) (tr : Translation) (l : Loc) (bs : List Byte) : State :=
  let sec := l.sector
  let off := l.num % 32
  let part := bs.zipIdx.map (fun b => (off + b.2, b.1))
  let r := s.roomFor sec part
  if r.2 && !s.delayed l then (r.1.landBytes ctx tr sec part).1
  else
    let l : Landing :=
      { author := .unit, crew := ⟨0, 0⟩, fdepth := 0, ctx := ctx, va := va - va % 32, loc := sec, tr := tr, bytes := part,
        implied := 0, core := Config.noCore, seen := 0, id := 0, cmd := 0 }
    { r.1 with landings := r.1.landings ++ [l] }

/-! ### Buffers (R103 to R107) -/

/-- The copy of a byte in a buffer. -/
def bufGet (s : State) (b : Buf) (l : Loc) : Option BufByte := s.buffers.find? (fun x => x.buf == b && x.loc == l)

/-- Puts a copy of a byte in a buffer, replacing the earlier one (R106). -/
def bufPut (s : State) (x : BufByte) : State :=
  { s with buffers := s.buffers.filter (fun y => !(y.buf == x.buf && y.loc == x.loc)) ++ [x] }

/-- Removes a byte from a buffer. -/
def bufRemove (s : State) (b : Buf) (l : Loc) : State :=
  { s with buffers := s.buffers.filter (fun y => !(y.buf == b && y.loc == l)) }

/-- Distinct sectors of some buffered bytes. -/
def sectorCount (l : List BufByte) : Nat := ((l.map (fun b => b.loc.sector)).eraseDups).length

/-! ### L1 (R80, R108) -/

/-- The byte in a core's L1. -/
def l1Byte? (s : State) (core : Nat) (l : Loc) : Option Byte :=
  (s.l1.find? (fun x => x.core == core && x.loc == l.sector)).bind (fun x => x.bytes[l.num % 32]?)

/-- Updates a core's L1 copy of a byte, if it holds one (R80). -/
def l1Update (s : State) (core : Nat) (l : Loc) (v : Byte) : State :=
  { s with l1 := updWhere (fun x => x.core == core && x.loc == l.sector)
                   (fun x => { x with bytes := setAt x.bytes (l.num % 32) v }) s.l1 }

/-- Invalidates a sector in a core's L1. -/
def l1Drop (s : State) (core : Nat) (l : Loc) : State :=
  { s with l1 := s.l1.filter (fun x => !(x.core == core && x.loc == l.sector)) }

/-- Invalidates a core's whole L1 (R122); loads on their way no longer install (R327). -/
def l1Flush (s : State) (core : Nat) : State :=
  { s with l1 := s.l1.filter (fun x => x.core != core),
           threads := updWhere (fun t => (s.team? t.id.team).bind Team.core? == some core)
             (fun t => { t with loads := t.loads.map (fun l => { l with install := none }) }) s.threads }

/-- The L1 set of a place (R80). -/
def l1Set (l : Loc) : Nat := l.num / 128 % 32

/-- Installs a sector in a core's L1; a full set first loses a line that the model leaves free (R80). -/
def l1Install (s : State) (core : Nat) (sec : Loc) (bytes : List Byte) : State :=
  let s := s.l1Drop core sec
  let inSet := s.l1.filter (fun x => x.core == core && l1Set x.loc == l1Set sec)
  let lines := (inSet.map (fun x => x.loc.line)).eraseDups
  let s := if lines.length < Config.l1Ways || lines.contains sec.line then s
    else
      let v := lines.getD (Config.l1Victim s.freeCtr % Config.l1Ways) sec.line
      { s with freeCtr := s.freeCtr + 1, l1 := s.l1.filter (fun x => !(x.core == core && x.loc.line == v)) }
  { s with l1 := s.l1 ++ [⟨core, sec, bytes⟩] }

/-- Puts a record in a cluster's layout-record cache; a full one first loses a record that the model leaves free (R100). -/
def layoutFill (s : State) (cluster ctx h : Nat) (bs : List Byte) : State :=
  let mine := s.layouts.filter (fun l => l.cluster == cluster)
  let new : LayoutEntry := ⟨cluster, ctx, h, bs⟩
  if mine.length < Config.layoutRecords then { s with layouts := s.layouts ++ [new] }
  else
    match mine[Config.layoutVictim s.freeCtr % Config.layoutRecords]? with
    | none => { s with layouts := s.layouts ++ [new] }
    | some v => { s with freeCtr := s.freeCtr + 1, layouts := s.layouts.filter (fun l => l != v) ++ [new] }

/-! ### Where a load looks (R107) -/

/-- A byte at cluster reach or beyond: the cluster buffer overlaid on device reach (R107). -/
def farByte? (s : State) (cluster : Nat) (l : Loc) : Option Byte :=
  match s.bufGet (.cluster cluster) l with
  | some b => some b.val
  | none => s.devByte? l

/-- A byte that a crew's own buffers or its core's L1 supply (R107). -/
def nearByte? (s : State) (crew : CrewId) (core : Nat) (l : Loc) : Option Byte :=
  match s.bufGet (.crew crew) l with
  | some b => some b.val
  | none =>
    match s.bufGet (.team crew.team) l with
    | some b => some b.val
    | none => s.l1Byte? core l

/-- The value of a byte as a load of a thread of the crew sees it (R107); none when it needs an invalid envelope word. -/
def loadByte? (s : State) (crew : CrewId) (core : Nat) (l : Loc) : Option Byte :=
  match s.nearByte? crew core l with
  | some b => some b
  | none => s.farByte? (clusterOf core) l

/-- The bytes of a load (R107). -/
def loadBytes? (s : State) (crew : CrewId) (core : Nat) (l : Loc) (n : Nat) : Option (List Byte) :=
  (List.range n).mapM (fun i => s.loadByte? crew core (l.add i))

/-- The load reads its sector from beyond L1. -/
def needsFar (s : State) (crew : CrewId) (core : Nat) (l : Loc) (n : Nat) : Bool :=
  (List.range n).any (fun i => (s.nearByte? crew core (l.add i)).isNone)

/-- The sector as an L1 miss fills it, when every word of it is valid (R107, R469). -/
def sectorFill? (s : State) (core : Nat) (sec : Loc) : Option (List Byte) :=
  match s.devBytes? sec 32 with
  | none => none
  | some _ => (List.range 32).mapM (fun i => s.farByte? (clusterOf core) (sec.add i))

/-! ### Translation (R89 to R95) -/

/-- The translation in a TLB that covers an address. -/
def tlbIn (s : State) (u : TlbUnit) (ctx va : Nat) : Option Translation :=
  (s.tlb.find? (fun e => e.unit == u && e.ctx == ctx && decide (e.tr.base ≤ va) && decide (va < e.tr.base + e.tr.size))).map
    TlbEntry.tr

/-- The core's TLB, then the cluster's (R92). -/
def tlbFind (s : State) (core ctx va : Nat) : Option Translation :=
  match s.tlbIn (.core core) ctx va with
  | some t => some t
  | none => s.tlbIn (.cluster (clusterOf core)) ctx va

/-- Puts a translation in one TLB, in place of an earlier one of its addresses; a full TLB first loses an entry that the model
leaves free (R92). -/
def tlbPut (s : State) (u : TlbUnit) (room ctx : Nat) (t : Translation) : State :=
  let overlaps := fun (e : TlbEntry) =>
    e.unit == u && e.ctx == ctx && decide (e.tr.base < t.base + t.size) && decide (t.base < e.tr.base + e.tr.size)
  let kept := s.tlb.filter (fun e => !overlaps e)
  let mine := kept.filter (fun e => e.unit == u)
  if mine.length < room then { s with tlb := kept ++ [⟨u, ctx, t⟩] }
  else
    match mine[Config.tlbVictim s.freeCtr % room]? with
    | none => { s with tlb := kept ++ [⟨u, ctx, t⟩] }
    | some v => { s with freeCtr := s.freeCtr + 1, tlb := kept.filter (fun e => e != v) ++ [⟨u, ctx, t⟩] }

/-- Puts a walk's result in the TLBs of the core and of its cluster (R92). -/
def tlbFill (s : State) (core ctx : Nat) (t : Translation) : State :=
  (s.tlbPut (.cluster (clusterOf core)) Config.clusterTlb ctx t).tlbPut (.core core) Config.coreTlb ctx t

end State

/-- The place of a virtual address under a translation (R90, R181). -/
def Translation.loc (t : Translation) (ctx va : Nat) : Loc :=
  if t.e then .env ctx (t.frame + (va - t.base)) else .pa (t.frame + (va - t.base))

/-- How a walk fails (R93): replayably, for V = 0 or for what the access needs of the page's W or X, or fatally. -/
inductive WalkFail where
  | replay
  /-- Replayable, for want of W or X in a leaf of the given base and size. -/
  | denied (base size : Nat)
  | fatal
deriving DecidableEq, Repr

/-- What a walk is for. -/
structure WalkFor where
  ctx : Nat
  va : Nat
  write : Bool
  fetch : Bool

/-- Bytes of a leaf at a level (R89). -/
def leafSize : Nat → Nat
  | 0 => 0x1000
  | 1 => 0x200000
  | _ => 0x40000000

/-- The 512-way index of a level (R89). -/
def levelIndex (level va : Nat) : Nat := if level = 4 then bits va 51 48 else va / 2 ^ (12 + 9 * level) % 512

/-- FRAME as a physical address (R90). -/
def pteFrame (e : Nat) : Nat := bits e 43 12 * 0x1000

/-- Reserved bits of any entry (R90, R472). -/
def pteReserved (e : Nat) : Bool := bitAt e 7 || bits e 11 10 != 0 || bits e 63 52 != 0

/-- The fields that the entries of a 64 KiB run share (R91): V, NXT, W, X, H, C, E and GEN. -/
def pteAttrs (e : Nat) : Nat := bits e 6 0 + 0x100 * bits e 51 44

namespace State

/-- The 64 KiB run of an L0 entry is whole (R91). -/
def runOk (s : State) (entry e : Nat) : Bool :=
  let first := entry - entry % 128
  let base := pteFrame (s.readPhysNat first 8)
  base % 0x10000 == 0 &&
    (List.range 16).all (fun i =>
      let x := s.readPhysNat (first + 8 * i) 8
      pteAttrs x == pteAttrs e && pteFrame x == base + 0x1000 * i && !pteReserved x)

/-- The walker, which reads the 16 entries of a 64 KiB run, sets A in every valid one (R91, R92). -/
def markRun (s : State) (entry : Nat) : State :=
  (List.range 16).foldl (fun s i =>
    let a := entry - entry % 128 + 8 * i
    let x := s.readPhysNat a 8
    if bitAt x 0 && !bitAt x 8 then s.writePhysNat (a + 1) 1 (bits x 15 8 + 1) else s) s

/-- The leaf breaks a limit of R90, R86, R93, R180 or R294 (R472). -/
def leafBad (s : State) (level entry e size : Nat) : Bool :=
  let pa := pteFrame e
  let env := bitAt e 6
  (level != 0 && bitAt e 4) || (!env && bits e 51 44 != 0) || pa % (if size = 0x10000 then 0x1000 else size) != 0
    || (level == 0 && bitAt e 4 && !s.runOk entry e) || (env && bitAt e 3) || (env && bitAt e 5)
    || (!env && (isReserved pa || isRegister pa || (bitAt e 5 && !isLocal pa)
        || (match peerOf pa with | some p => !s.linkExists p | none => false)))

/-- One level of a walk (R89 to R93, R472), and the levels below it. The accessed bit is set in every valid entry read; the
dirty bit in the leaf of a write that completes (R92). -/
def walkLevel (w : WalkFor) : Nat → Nat → State → State × Except WalkFail Translation
  | level, table, s =>
    let entry := table + 8 * levelIndex level w.va
    let e := s.readPhysNat entry 8
    let s := s.logLines (s.physBlocked entry 8 false) false
    if !bitAt e 0 then (s, .error .replay)
    else
      let s := if bitAt e 8 then s else s.writePhysNat (entry + 1) 1 (bits e 15 8 + 1)
      if pteReserved e then (s, .error .fatal)
      else if bitAt e 1 then
        match level with
        | 0 => (s, .error .fatal)
        | n + 1 => walkLevel w n (pteFrame e) s
      else if level ≥ 3 then (s, .error .fatal)
      else
        let s := if level = 0 ∧ bitAt e 4 then s.markRun entry else s
        let size := if level = 0 ∧ bitAt e 4 then 0x10000 else leafSize level
        if s.leafBad level entry e size then (s, .error .fatal)
        else if (w.write && !bitAt e 2) || (w.fetch && !bitAt e 3) then (s, .error (.denied (w.va - w.va % size) size))
        else
          let s := if w.write && !bitAt e 9 then s.writePhysNat (entry + 1) 1 (bits (s.readPhysNat entry 8) 15 8 + 2) else s
          let frame := if size = 0x10000 then pteFrame e - (entry % 128 / 8) * 0x1000 else pteFrame e
          (s, .ok { base := w.va - w.va % size, size := size, frame := frame, w := bitAt e 2, x := bitAt e 3,
                    c := bitAt e 5, e := bitAt e 6, d := w.write || bitAt e 9, gen := bits e 51 44 })

/-- A whole walk from the context's L4 table, which fills the TLBs when it succeeds (R89, R92). PTROOT 0 names no table: the context is
disabled (R289), and nothing is read (log entry 110). -/
def walk (s : State) (core : Nat) (w : WalkFor) : State × Except WalkFail Translation :=
  match s.ctx? w.ctx with
  | none => (s, .error .fatal)
  | some c =>
    if c.regs.ptroot = 0 then (s, .error .fatal)
    else
      let r := walkLevel w 4 c.regs.ptroot s
      match r.2 with
      | .error _ => r
      | .ok t => (r.1.tlbFill core w.ctx t, .ok t)

/-- The context is enabled: it has page tables (R289). -/
def enabled (s : State) (ctx : Nat) : Bool := ((s.ctx? ctx).map (fun c => c.regs.ptroot != 0)).getD false

/-- A walk for the 4 KiB frame of an address is in progress on the cluster of a core (R92). -/
def walking (s : State) (ctx core va : Nat) : Bool :=
  s.walks.any (fun w => w.ctx == ctx && w.frame == va / 0x1000 && clusterOf w.core == clusterOf core)

/-- A thread's access needs a walk: it joins one in progress for the same 4 KiB frame on its cluster, or starts one (R92). -/
def joinWalk (s : State) (ctx core va : Nat) (kind : Kind) (write : Bool) (who : Waiter) : State :=
  let same := fun (w : Walk) => w.ctx == ctx && w.frame == va / 0x1000 && clusterOf w.core == clusterOf core
  if s.walks.any same then
    { s with walks := updWhere same (fun w => { w with joined := w.joined ++ [⟨who, va, kind⟩] }) s.walks }
  else { s with walks := s.walks ++ [⟨ctx, va / 0x1000, core, va, kind, write, [⟨who, va, kind⟩]⟩] }

/-! ### Fault records (R94, R291) -/

/-- The code of an access kind in a fault record (R94). -/
def kindCode : Kind → Nat
  | .read => 0
  | .write => 1
  | .fetch => 2
  | .atomic => 3
  | .engRead => 4
  | .engWrite => 5
  | .devRead => if Config.deviceAsEngine then 4 else 0
  | .devWrite => if Config.deviceAsEngine then 5 else 1

/-- CORE in a fault record (R94). -/
def faultCore (core : Nat) : Nat := if core < Config.cores then core else Config.deviceCore % Config.cores

/-- FAULTRING_FULL is set while the ring is full (R291). -/
def faultRingCheck (s : State) (ctx : Nat) : State :=
  match s.ctx? ctx with
  | none => s
  | some c => if ringCount c.regs.frprod c.regs.frcons ≥ 2 ^ c.regs.frlog2 then s.setCstat ctx 2 else s

/-- Writes the record of the oldest fault that has none, if the ring has room (R94, R291). -/
def writeFault (s : State) (ctx : Nat) : State :=
  match s.ctx? ctx with
  | none => s
  | some c =>
    match c.faults.find? (fun f => f.seq.isNone) with
    | none => s
    | some f =>
      if ringCount c.regs.frprod c.regs.frcons ≥ 2 ^ c.regs.frlog2 then s.setCstat ctx 2
      else
        let rec_ := leBytes 8 f.va ++ leBytes 1 (kindCode f.kind) ++ leBytes 1 ctx ++ leBytes 2 (faultCore f.core)
          ++ leBytes 4 c.frseq ++ leBytes 16 0
        let s := s.writePhys (c.regs.frbase + 32 * (c.regs.frprod % 2 ^ c.regs.frlog2)) rec_
        let i := c.faults.findIdx (fun f => f.seq.isNone)
        let s := s.modCtx ctx (fun c => { c with
          faults := setAt c.faults i { f with seq := some c.frseq },
          frseq := (c.frseq + 1) % 2 ^ 31, regs := { c.regs with frprod := (c.regs.frprod + 1) % 2 ^ 32 } })
        (s.interrupt (.faultRing ctx)).faultRingCheck ctx

/-- Replayable failure (R93, R94): one record for the coalesced accesses; thread accesses park. -/
def raiseFault (s : State) (ctx core va : Nat) (kind : Kind) (joined : List Joined) : State :=
  let joined := joined.filter (fun j => match j.who with | .prefetch _ _ => false | _ => true)
  let parked := joined.filterMap (fun j => match j.who with | .thread t => some t | _ => none)
  let s := s.modCtx ctx (fun c => { c with faults := c.faults ++ [⟨none, va, kind, core, joined⟩] })
  let s := { s with threads := updWhere (fun t => parked.contains t.id)
                      (fun t => { t with park := .fault, stall := .none }) s.threads }
  s.writeFault ctx

/-- Addresses in trap registers: `%trapv` is bits 31:0 and AUX is bits 51:32 (R266, R269). -/
def addrTrap (s : State) (t : Thread) (c : Cause) (va : Nat) : State :=
  s.threadTrap t c (BitVec.ofNat 32 va) (va / 2 ^ 32)

/-- GEN_FAIL's `%trapv` (R266). -/
def genFailWord (va code : Nat) : Word := BitVec.ofNat 32 (va % 2 ^ 32 / 0x100 * 0x100 + code)

/-! ### Misses (R187) -/

/-- The effective class of a team's grid without inheritance: its PRIO (R32). A fill team's class also takes the classes of
the fills its threads hold (R199). -/
def effClass (s : State) (team : Nat) : Nat :=
  match s.gridOf team with
  | none => 0
  | some g =>
    let held := s.threads.filterMap (fun t =>
      if t.id.team == team && t.live then t.record.bind (fun r => r.pfid) else none)
    let cls := s.fills.filterMap (fun f => if held.contains f.pfid && f.state == .running then some f.cls else none)
    cls.foldl max g.prio

/-- A miss of an access at `va` goes to the home slice (R187); its first invalid word stands `i` bytes on, at the place given. -/
def sendMiss (s : State) (ctx va i : Nat) (t : Translation) (loc : Loc) (depth cls : Nat) (who : Waiter) (kind : Kind) :
    State :=
  { s with misses := s.misses ++ [⟨ctx, va, va + i, loc, t.gen, t.base, t.size, depth, cls, who, kind⟩] }

/-- The first of some bytes that is not valid at device reach. -/
def firstInvalid (s : State) (loc : Loc) (n : Nat) : Nat := ((List.range n).find? (fun i => (s.devByte? (loc.add i)).isNone)).getD 0

/-! ### Prefetches (R189, R397) -/

/-- Brings a sector into a core's L1, or asks for its span; a request that it cannot serve, or whose link is down, is dropped. -/
def prefetch (s : State) (team va n : Nat) (tr : Translation) (loc : Loc) : State :=
  let core := s.coreOf team
  let s := match loc with
    | .pa _ => s
    | .env c m =>
      if ((s.envLine? c m).map EnvLine.held).getD false then
        let r := s.makeRoom c m
        if r.2 then r.1.restoreEnv c m else r.1
      else s
  match s.sectorFill? core loc.sector with
  | some bs => if (s.l1Byte? core loc).isSome || s.delayed loc then s else s.l1Install core loc.sector bs
  | none =>
    match (List.range n).find? (fun i => (s.farByte? (clusterOf core) (loc.add i)).isNone) with
    | none => s
    | some i =>
      if s.fdepthOf team ≥ 2 then s
      else s.sendMiss (s.ctxId team) va i tr (loc.add i) (s.fdepthOf team) (s.effClass team) (.prefetch team n) .read

/-! ### A thread's access to global memory (R96) -/

/-- The range-lock table stops the access (R98): any access to a line under a write lock, a write-kind access to one under a
read lock. -/
def lockedBy (s : State) (core ctx va n : Nat) (write : Bool) : Bool :=
  s.locks.any (fun l => l.core == core && l.ctx == ctx && decide (l.lo ≤ (va + n - 1) / 128) && decide (va / 128 ≤ l.hi)
    && (l.write || write))

end State

/-- What a check of a thread's access finds (R96). -/
inductive Access where
  /-- The access may proceed at a place. -/
  | ok (t : Translation) (loc : Loc)
  | trap (c : Cause)
  | walk
deriving DecidableEq, Repr

namespace State

/-- Steps 1 to 4 of R96 for `n` bytes at `va`. A write through an entry with W = 0 or D = 0 walks again (R92). -/
def access (s : State) (team va n : Nat) (write : Bool) : Access :=
  if va % n ≠ 0 then .trap .misaligned
  else if va + n > 2 ^ 52 then .trap .access
  else if s.lockedBy (s.coreOf team) (s.ctxId team) va n write then .trap .rangeLock
  else
    match s.tlbFind (s.coreOf team) (s.ctxId team) va with
    | none => .walk
    | some t =>
      if write && (!t.w || !t.d) then .walk
      else if s.reachable (t.loc (s.ctxId team) va) write then .ok t (t.loc (s.ctxId team) va)
      else .trap .access

/-- A thread's global access: the trap, the wait for a walk, or what `f` does at the place. An access that an access table denies is counted (R297). -/
def withAccess (s : State) (t : Thread) (va n : Nat) (write : Bool) (kind : Kind)
    (f : State → Translation → Loc → State) : State :=
  match s.access t.id.team va n write with
  | .trap .access =>
    let s := if va + n > 2 ^ 52 then s else match s.tlbFind (s.coreOf t.id.team) (s.ctxId t.id.team) va with
      | none => s
      | some tr => s.logDenial (tr.loc (s.ctxId t.id.team) va) .device write
    s.addrTrap t .access va
  | .trap c => s.addrTrap t c va
  | .walk =>
    (s.joinWalk (s.ctxId t.id.team) (s.coreOf t.id.team) va kind write (.thread t.id)).modThread t.id
      (fun x => { x with stall := .walk })
  | .ok tr l => f s tr l

/-- A thread's access at `va` needs an invalid envelope word, `i` bytes on from the access's place: the thread parks, and its miss goes to
the home slice (R187, R193). The atomics of one flight on one word wait as one run (R331). -/
def threadMiss (s : State) (t : Thread) (va i : Nat) (tr : Translation) (loc : Loc) (kind : Kind) : State :=
  (s.sendMiss (s.ctxId t.id.team) va i tr (loc.add i) (s.fdepthOf t.id.team) (s.effClass t.id.team) (.thread t.id) kind).modThread
    t.id (fun x => { x with park := .fill,
                            run := if kind = .atomic then some (s.flightNo, va) else none })

end State

/-! ### Scratchpad (R76 to R79) -/

namespace Team

/-- Bytes of the team's scratchpad (R73). -/
def spadSize (t : Team) : Nat := 128 * t.spadLines

/-- The line of an offset is present (R78). -/
def present (t : Team) (off : Nat) : Bool := !t.absent.contains (off / 128)

end Team

namespace State

/-- A word of a team's scratchpad as a number of `n` bytes. -/
def spadNat (s : State) (team off n : Nat) : Nat := ((s.team? team).map (fun t => t.spad.readNat off n)).getD 0

/-- Bytes of a team's scratchpad. -/
def spadBytes (s : State) (team off n : Nat) : List Byte := ((s.team? team).map (fun t => t.spad.readBytes off n)).getD []

/-- Writes bytes of a team's scratchpad. -/
def spadWrite (s : State) (team off : Nat) (bs : List Byte) : State :=
  s.modTeam team (fun t => { t with spad := t.spad.writeBytes off bs })

/-- Every line of a run of scratchpad bytes is present. -/
def spadPresent (s : State) (team off n : Nat) : Bool :=
  match s.team? team with
  | none => false
  | some t => (List.range (ceilDiv (off % 128 + n) 128)).all (fun i => !t.absent.contains (off / 128 + i))

/-- The first line of a run of scratchpad bytes that is absent. -/
def absentLine? (s : State) (team off n : Nat) : Option Nat :=
  (s.team? team).bind (fun t =>
    ((List.range (ceilDiv (off % 128 + n) 128)).map (fun i => off / 128 + i)).find? (fun l => t.absent.contains l))

/-- Presence bits of lines are set; threads parked on them wake (R31, R78). -/
def setPresent (s : State) (team : Nat) (lines : List Nat) : State :=
  let s := s.modTeam team (fun t => { t with absent := t.absent.filter (fun l => !lines.contains l) })
  { s with threads := updWhere (fun t => t.id.team == team &&
      (match t.park with | .absent l => lines.contains l | _ => false)) (fun t => { t with park := .none }) s.threads }

/-- Presence bits of lines are cleared (R78). -/
def clearPresent (s : State) (team : Nat) (lines : List Nat) : State :=
  s.modTeam team (fun t => { t with absent := t.absent ++ lines.filter (fun l => !t.absent.contains l) })

/-- A thread's scratchpad access (R79, R96): alignment, extent, presence; then what `f` does. -/
def withSpad (s : State) (t : Thread) (off n : Nat) (f : State → State) : State :=
  match s.team? t.id.team with
  | none => s
  | some tm =>
    if off % n ≠ 0 then s.threadTrap t .misaligned (BitVec.ofNat 32 off) 0
    else if off + n > tm.spadSize then s.threadTrap t .access (BitVec.ofNat 32 off) 0
    else if tm.present off then f s
    else s.modThread t.id (fun x => { x with park := .absent (off / 128) })

end State

end Machine
end Sys2Proof
end

