-- ==== Sys2Proof/Machine/Operands.lean ====
section
/-!
DEFINITION. Operand forms: the B source, immediates, address pairs with scaled offsets, data registers of each size (R304 to
R309, R324), and the always-true guard of `SEL` and `KSEL` (R303).
-/

namespace Sys2Proof.Machine

/-- opb: a v register of the thread, or a k register of its crew (R309, R324). -/
def opb (s : State) (t : Thread) : Src → Word
  | .v n => t.reg n.val
  | .k n => ((s.crew? t.id.crewId).map (fun c => c.reg n.val)).getD 0

/-- The register after opb, for 64-bit sources (R390). -/
def opbHi (s : State) (t : Thread) : Src → Word
  | .v n => t.reg (n.val + 1)
  | .k n => ((s.crew? t.id.crewId).map (fun c => c.reg (n.val + 1))).getD 0

/-- IMM9 sign-extended (R306). -/
def imm9 (i : BitVec 9) : Word := sextW 9 i.toNat

/-- IMM15 sign-extended (R306). -/
def imm15 (i : BitVec 15) : Word := sextW 15 i.toNat

/-- The guard that is always true (R303). -/
def guardTrue : Guard := ⟨7, false⟩

/-- `pair(A) + OFF6·size`, exact (R380). -/
def memAddr (t : Thread) (o : OpMem) : Nat := t.pair o.a.val + o.off.val * szBytes o.sz.val

/-- `v[A] + OFF6·size`, exact (R381). -/
def spadAddr (t : Thread) (o : OpMem) : Nat := (t.reg o.a.val).toNat + o.off.val * szBytes o.sz.val

/-- Loaded bytes as registers, extended by SZ (R305). -/
def loadedRegs (sz : Nat) (bs : List Byte) : List Word :=
  match sz with
  | 3 => [BitVec.ofNat 32 (leNat (bs.take 4)), BitVec.ofNat 32 (leNat (bs.drop 4))]
  | 4 => [BitVec.ofNat 32 (leNat (bs.take 4)), BitVec.ofNat 32 (leNat ((bs.drop 4).take 4)),
          BitVec.ofNat 32 (leNat ((bs.drop 8).take 4)), BitVec.ofNat 32 (leNat (bs.drop 12))]
  | 5 => [sextW 8 (leNat bs)]
  | 6 => [sextW 16 (leNat bs)]
  | _ => [BitVec.ofNat 32 (leNat bs)]

/-- The bytes that a store of size code SZ takes from data registers (R305, R410). -/
def storedBytes (t : Thread) (d sz : Nat) : List Byte :=
  match sz with
  | 3 => leBytes 4 (t.reg d).toNat ++ leBytes 4 (t.reg (d + 1)).toNat
  | 4 => leBytes 4 (t.reg d).toNat ++ leBytes 4 (t.reg (d + 1)).toNat ++ leBytes 4 (t.reg (d + 2)).toNat
      ++ leBytes 4 (t.reg (d + 3)).toNat
  | n => leBytes (szBytes n) (t.reg d).toNat

/-- Address of an atomic: a scratchpad offset for team scope, otherwise a pair (R330). -/
def atomAddr (t : Thread) (a : Nat) (sc : Scope) : Nat :=
  match sc with
  | .team => (t.reg a).toNat
  | _ => t.pair a

/-- Bytes of an atomic's operand (R330). -/
def atomSize (wide : Bool) : Nat := if wide then 8 else 4

/-- An atomic's operand (R330). -/
def atomOperand (t : Thread) (d : Nat) (wide : Bool) : DWord :=
  if wide then BitVec.ofNat 64 (t.pair d) else BitVec.ofNat 64 (t.reg d).toNat

/-- A value of 32 or 64 bits as registers. -/
def wideRegs (wide : Bool) (x : DWord) : List Word :=
  if wide then [BitVec.ofNat 32 x.toNat, BitVec.ofNat 32 (x.toNat / 2 ^ 32)] else [BitVec.ofNat 32 x.toNat]

/-- A direct branch target: first word's offset + 4 × the signed offset, modulo 2^32 (R304). -/
def branchTo (pc : Word) (w : Nat) (off : Nat) : Word := pc + 4 * sextW w off

/-- Link value: the instruction after a 4-byte call (R340). -/
def linkOf (t : Thread) : Word := t.pc + 4

end Sys2Proof.Machine
end

