-- ==== Sys2Proof/Machine/Flags.lean ====
section
/-!
DEFINITION. Flag computations: the conditions of compares and how a compare combines with its predicate (R312), the sticky
saturation flags (R214), and the tests of `BSTAT` (R314).
-/

namespace Sys2Proof
open Machine in
/-- An integer condition (R312). -/
def Cond.holds (c : Cond) (a b : Word) : Bool :=
  match c with
  | .eq => a == b
  | .ne => a != b
  | .ltS => decide (sint a < sint b)
  | .leS => decide (sint a ≤ sint b)
  | .gtS => decide (sint a > sint b)
  | .geS => decide (sint a ≥ sint b)
  | .ltN => decide (a.toNat < b.toNat)
  | .geN => decide (a.toNat ≥ b.toNat)

open Machine in
/-- What a compare writes, from its result and the old predicate (R312). -/
def Comb.apply (c : Comb) (old result : Bool) : Bool :=
  match c with
  | .set => result
  | .and => old && result
  | .or => old || result

namespace Machine

/-- Sets bits of the crew's `%sat` (R214). -/
def State.setSat (s : State) (c : CrewId) (mask : Word) : State := s.modCrew c (fun x => { x with sat := x.sat ||| mask })

end Machine

open Machine in
/-- The tests of `BSTAT` on a tile status word (R314). -/
def BTest.holds (t : BTest) (w : Word) : Bool :=
  match t with
  | .nan => bitAt w.toNat 0
  | .inf => bitAt w.toNat 1
  | .sat => bitAt w.toNat 2
  | .snan => bitAt w.toNat 3
  | .any => bits w.toNat 3 0 != 0
  | .clean => bitAt w.toNat 31 && bits w.toNat 3 0 == 0

end Sys2Proof
end

