-- ==== Sys2Proof/Machine/Float.lean ====
section
/-!
DEFINITION. Floating-point formats as exact values (R206 to R209), exact arithmetic on them, and the rounding and saturation
helpers (R211, R213).
-/

namespace Sys2Proof
namespace Machine

/-- A floating-point format: bits of exponent and mantissa. The bias is 2^(eb−1) − 1 in every format (R206). -/
structure Fmt where
  eb : Nat
  mb : Nat

/-- FP32, FP16, BF16, E4M3, E5M2 and E2M1 (R206). -/
def Fmt.f32 : Fmt := ⟨8, 23⟩
def Fmt.f16 : Fmt := ⟨5, 10⟩
def Fmt.bf16 : Fmt := ⟨8, 7⟩
def Fmt.e4m3 : Fmt := ⟨4, 3⟩
def Fmt.e5m2 : Fmt := ⟨5, 2⟩
def Fmt.e2m1 : Fmt := ⟨2, 1⟩

/-- An exact value: NaN, an infinity, or ±m·2^e with the sign kept for zero. -/
inductive Fp where
  | nan
  | inf (neg : Bool)
  | fin (neg : Bool) (m : Nat) (e : Int)
deriving DecidableEq, Repr

/-- Exponent of the least significant bit of a format's subnormals. -/
def Fmt.qmin (f : Fmt) : Int := 2 - (2 ^ (f.eb - 1) : Nat) - f.mb

/-- The finite value of a code (R206). -/
def Fmt.finite (f : Fmt) (x : Nat) : Fp :=
  let neg := bitAt x (f.eb + f.mb)
  let e := x / 2 ^ f.mb % 2 ^ f.eb
  let m := x % 2 ^ f.mb
  if e = 0 then .fin neg m f.qmin else .fin neg (2 ^ f.mb + m) (f.qmin + (e - 1 : Nat))

/-- The value of a code of a format with infinities and NaNs in its last exponent (R206). -/
def Fmt.decode (f : Fmt) (x : Nat) : Fp :=
  if x / 2 ^ f.mb % 2 ^ f.eb = 2 ^ f.eb - 1 then
    (if x % 2 ^ f.mb = 0 then .inf (bitAt x (f.eb + f.mb)) else .nan)
  else f.finite x

/-- The value of an E4M3 code: no infinity, S.1111.111 is NaN (R206). -/
def decodeE4m3 (x : Nat) : Fp := if x % 0x80 = 0x7F then .nan else Fmt.e4m3.finite x

/-- The value of an E2M1 code (R208). -/
def decodeE2m1 (x : Nat) : Fp := Fmt.e2m1.finite x

/-- The value of an FP32 word. -/
def f32 (w : Word) : Fp := Fmt.f32.decode w.toNat

/-- The canonical NaN of a format: FP32 0x7FC0_0000, FP16 0x7E00, BF16 0x7FC0, E5M2 0x7E (R207). -/
def Fmt.nanCode (f : Fmt) : Nat := (2 ^ f.eb - 1) * 2 ^ f.mb + 2 ^ (f.mb - 1)

/-! ### Exact arithmetic -/

namespace Fp

def isNan : Fp → Bool
  | nan => true
  | _ => false

def isInf : Fp → Bool
  | inf _ => true
  | _ => false

def neg : Fp → Fp
  | nan => nan
  | inf s => inf (!s)
  | fin s m e => fin (!s) m e

def signBit : Fp → Bool
  | nan => false
  | inf s => s
  | fin s _ _ => s

/-- Product; NaN for 0 × ∞ (R352). -/
def mul : Fp → Fp → Fp
  | nan, _ => nan
  | _, nan => nan
  | inf s, inf t => inf (s != t)
  | inf s, fin t m _ => if m = 0 then nan else inf (s != t)
  | fin s m _, inf t => if m = 0 then nan else inf (s != t)
  | fin s m e, fin t n f => fin (s != t) (m * n) (e + f)

/-- The signed integer ±m·2^(e−lo), for e ≥ lo. -/
def scaled (lo : Int) : Fp → Int
  | fin s m e => (if s then -1 else 1) * ((m * 2 ^ (e - lo).toNat : Nat) : Int)
  | _ => 0

/-- The least exponent of a list of values. -/
def lowExp (l : List Fp) : Int :=
  (l.filterMap (fun x => match x with | fin _ _ e => some e | _ => none)).foldl min 0

/-- Exact sum of any number of terms, with R207's signs of zero; NaN when a term is NaN or when both infinities occur. -/
def sum (l : List Fp) : Fp :=
  if l.any isNan then nan
  else if l.any isInf then
    (if l.any (· == inf true) && l.any (· == inf false) then nan else inf (l.any (· == inf true)))
  else
    let lo := lowExp l
    let t := (l.map (scaled lo)).foldl (· + ·) 0
    if t = 0 then fin (!l.isEmpty && l.all signBit) 0 lo else fin (decide (t < 0)) t.natAbs lo

/-- Sum of two values. -/
def add (a b : Fp) : Fp := sum [a, b]

/-- Exact comparison of two values that are not NaN; −0 and +0 are equal. -/
def cmp (a b : Fp) : Ordering :=
  match a, b with
  | inf s, inf t => if s = t then .eq else if s then .lt else .gt
  | inf s, _ => if s then .lt else .gt
  | _, inf t => if t then .gt else .lt
  | x, y =>
    let lo := lowExp [x, y]
    compare (scaled lo x) (scaled lo y)

/-- Is the value zero? -/
def isZero : Fp → Bool
  | fin _ m _ => m == 0
  | _ => false

end Fp

/-! ### Rounding (R211) -/

/-- Does the remainder `r` of `2^d` parts, above an integer part `q`, round the magnitude up? -/
def roundsUp (m : RMode) (neg : Bool) (q r d : Nat) : Bool :=
  match m with
  | .rn => decide (2 * r > 2 ^ d) || (2 * r == 2 ^ d && q % 2 == 1)
  | .rz => false
  | .rm => neg && r != 0
  | .rp => !neg && r != 0

/-- The magnitude code of m·2^e, m > 0, on a format's grid with unbounded exponent above: its value is
(code's exponent and mantissa) as if every exponent were finite. -/
def Fmt.magCode (f : Fmt) (mode : RMode) (neg : Bool) (m : Nat) (e : Int) : Nat :=
  let q := max ((Nat.log2 m : Int) + e - f.mb) f.qmin
  let mant := if q ≤ e then m * 2 ^ (e - q).toNat
    else
      let d := (q - e).toNat
      let k := m / 2 ^ d
      if roundsUp mode neg k (m % 2 ^ d) d then k + 1 else k
  (q - f.qmin).toNat * 2 ^ f.mb + mant

/-- Rounds an exact value into a format with infinities (R211). DESIGN CHOICE: an infinity gives the same infinity in every mode (log entry 136). -/
def Fmt.round (f : Fmt) (mode : RMode) (x : Fp) : Nat :=
  let sign := fun (s : Bool) => if s then 2 ^ (f.eb + f.mb) else 0
  let inf := (2 ^ f.eb - 1) * 2 ^ f.mb
  match x with
  | .nan => f.nanCode
  | .inf s => sign s + inf
  | .fin s m e =>
    if m = 0 then sign s
    else
      let c := f.magCode mode s m e
      if c < inf then sign s + c
      else
        match mode with
        | .rn => sign s + inf
        | .rz => sign s + (inf - 1)
        | .rm => if s then sign s + inf else inf - 1
        | .rp => if s then sign s + (inf - 1) else inf

/-- round_rne(x, f32) (R211). -/
def rneF32 (x : Fp) : Word := BitVec.ofNat 32 (Fmt.f32.round .rn x)

/-- Rounds an exact value to an integer (R211, R217). -/
def roundInt (mode : RMode) (s : Bool) (m : Nat) (e : Int) : Int :=
  let mag := if 0 ≤ e then m * 2 ^ e.toNat
    else
      let d := (-e).toNat
      let k := m / 2 ^ d
      if roundsUp mode s k (m % 2 ^ d) d then k + 1 else k
  if s then -(mag : Int) else mag

/-- sat_e4m3 and sat_e5m2 (R213): the code, and whether bit 0 of the sticky flag is set. -/
def satF8 (e5m2 : Bool) (x : Fp) : Nat × Bool :=
  let f := if e5m2 then Fmt.e5m2 else Fmt.e4m3
  let top := if e5m2 then 0x7B else 0x7E
  let most : Fp := if e5m2 then .fin false 57344 0 else .fin false 448 0
  let sign := fun (s : Bool) => if s then 0x80 else 0
  match x with
  | .nan => (if e5m2 then 0x7E else 0x7F, false)
  | .inf s => (sign s + top, true)
  | .fin s m e =>
    if Fp.cmp (.fin false m e) most == .gt then (sign s + top, true)
    else if m = 0 then (sign s, false)
    else (sign s + f.magCode .rn s m e, false)

/-! ### Maximum and minimum (R325, R358) -/

/-- Is `a` the larger, with −0 below +0? Neither is NaN. -/
def Fp.above (a b : Fp) : Bool :=
  match Fp.cmp a b with
  | .gt => true
  | .lt => false
  | .eq => !a.signBit || b.signBit

/-- max_num on codes of a format: two NaNs give the canonical NaN, one NaN is passed over, else the larger code (R325). -/
def Fmt.maxNum (f : Fmt) (a b : Nat) : Nat :=
  let x := f.decode a
  let y := f.decode b
  if x.isNan && y.isNan then f.nanCode else if x.isNan then b else if y.isNan then a
  else if x.above y then a else b

/-- min_num (R325). -/
def Fmt.minNum (f : Fmt) (a b : Nat) : Nat :=
  let x := f.decode a
  let y := f.decode b
  if x.isNan && y.isNan then f.nanCode else if x.isNan then b else if y.isNan then a
  else if x.above y then b else a

def maxF32 (a b : Word) : Word := BitVec.ofNat 32 (Fmt.f32.maxNum a.toNat b.toNat)
def minF32 (a b : Word) : Word := BitVec.ofNat 32 (Fmt.f32.minNum a.toNat b.toNat)

/-- An FP32 sum rounded once (R330, R345). -/
def addF32 (a b : Word) : Word := rneF32 (Fp.add (f32 a) (f32 b))

end Machine

open Machine in
/-- The conditions of `FCMP` (R312). -/
def FCond.holds (c : FCond) (a b : Word) : Bool :=
  let x := f32 a
  let y := f32 b
  let nan := x.isNan || y.isNan
  match c with
  | .eq => !nan && Fp.cmp x y == .eq
  | .ne => nan || Fp.cmp x y != .eq
  | .lt => !nan && Fp.cmp x y == .lt
  | .le => !nan && Fp.cmp x y != .gt
  | .gt => !nan && Fp.cmp x y == .gt
  | .ge => !nan && Fp.cmp x y != .lt
  | .num => !nan
  | .nan => nan

namespace Machine

/-! ### Elementwise operations on a register (R212) -/

/-- Which operation of the four (R351). -/
inductive FloatOp where
  | add | sub | mul | ffma

/-- One element: exact, then rounded once (R352). -/
def FloatOp.elem (o : FloatOp) (f : Fmt) (a b c : Nat) : Nat :=
  let x := f.decode a
  let y := f.decode b
  let z := f.decode c
  f.round .rn (match o with
    | .add => x.add y
    | .sub => x.add y.neg
    | .mul => x.mul y
    | .ffma => (x.mul y).add z)

/-- Applies an operation to a whole FP32 register. -/
def single (op : Nat → Nat → Nat → Nat) (a b c : Word) : Word := BitVec.ofNat 32 (op a.toNat b.toNat c.toNat)

/-- Applies an operation to both halves of a packed register (R212). -/
def packed (op : Nat → Nat → Nat → Nat) (a b c : Word) : Word :=
  BitVec.ofNat 32 (op (a.toNat % 0x10000) (b.toNat % 0x10000) (c.toNat % 0x10000)
    + 0x10000 * op (a.toNat / 0x10000) (b.toNat / 0x10000) (c.toNat / 0x10000))

end Machine
end Sys2Proof
end

