-- ==== Sys2Proof/Machine/IntLane.lean ====
section
/-!
DEFINITION. The integer lane instructions: each writes one register, a pair or a predicate of the thread and continues
(R328, R335, R337, R361 to R365, R383, R390 to R392, R404, R407).
-/

namespace Sys2Proof.Machine

/-! ### The values -/

/-- Signed division by a power of two, rounding toward −∞ (R407). -/
def sraWord (a : Word) (n : Nat) : Word := BitVec.ofInt 32 (sint a / (2 ^ n : Nat))

/-- The shift amount of a register form (R407). -/
def shiftOf (b : Word) : Nat := b.toNat % 32

/-- The high word of the exact signed product (R364). -/
def mulhS (a b : Word) : Word := BitVec.ofInt 32 (sint a * sint b / (2 ^ 32 : Nat))

/-- The high word of the exact natural product (R364). -/
def mulhN (a b : Word) : Word := BitVec.ofNat 32 (a.toNat * b.toNat / 2 ^ 32)

/-- Minimum and maximum of either family (R365). -/
def minS (a b : Word) : Word := if sint a ≤ sint b then a else b
def maxS (a b : Word) : Word := if sint a ≤ sint b then b else a
def minN (a b : Word) : Word := if a.toNat ≤ b.toNat then a else b
def maxN (a b : Word) : Word := if a.toNat ≤ b.toNat then b else a

/-- Leading zero bits; 32 for 0 (R337). -/
def clzWord (a : Word) : Word := if a = 0 then 32 else BitVec.ofNat 32 (31 - Nat.log2 a.toNat)

/-- Number of set bits (R337). -/
def popWord (a : Word) : Word := BitVec.ofNat 32 ((List.range 32).countP (fun i => bitAt a.toNat i))

/-- Bits in reverse order (R337). -/
def revWord (a : Word) : Word := a.reverse

/-- Position of a bit field (R335). -/
def fieldPos (b : Word) : Nat := b.toNat % 32

/-- Width of a bit field: min(len, 32 − pos) (R335). -/
def fieldWidth (b : Word) : Nat := min (min (bits b.toNat 13 8) 32) (32 - fieldPos b)

/-- `BFX.N` (R335). -/
def bfxNWord (a b : Word) : Word := BitVec.ofNat 32 (a.toNat / 2 ^ fieldPos b % 2 ^ fieldWidth b)

/-- `BFX.S` (R335). -/
def bfxSWord (a b : Word) : Word :=
  if fieldWidth b = 0 then 0 else sextW (fieldWidth b) (a.toNat / 2 ^ fieldPos b)

/-- `BFI` (R335): `old` is the destination's value. -/
def bfiWord (old a b : Word) : Word :=
  let p := fieldPos b
  let w := fieldWidth b
  BitVec.ofNat 32 (old.toNat - old.toNat / 2 ^ p % 2 ^ w * 2 ^ p + a.toNat % 2 ^ w * 2 ^ p)

/-- A 64-bit number as a register pair (R5). -/
def pairWords (x : Nat) : List Word := [BitVec.ofNat 32 x, BitVec.ofNat 32 (x / 2 ^ 32)]

/-- `IADDW` (R361): the pair plus the sign-extended word, modulo 2^64. -/
def addwPair (a : Nat) (b : Word) : List Word := pairWords ((BitVec.ofNat 64 a + b.signExtend 64).toNat)

/-- The shift of `LEA` (R383). -/
def leaShift (fn : Fin 4) : Nat := if fn.val = 0 then 0 else fn.val + 1

/-- `LEA` (R383). -/
def leaPair (a : Nat) (b : Word) (fn : Fin 4) : List Word := pairWords (a + b.toNat * 2 ^ leaShift fn)

/-! ### The meanings -/

/-- `IADD` (R361). -/
def execIadd (o : OpReg3) (s : State) : Out :=
  .next (laneReg 4 o.g (fun s t => t.setReg o.d.val (t.reg o.a.val + opb s t o.b)) s)

/-- `ISUB` (R361). -/
def execIsub (o : OpReg3) (s : State) : Out :=
  .next (laneReg 4 o.g (fun s t => t.setReg o.d.val (t.reg o.a.val - opb s t o.b)) s)

/-- `IMUL` (R364). -/
def execImul (o : OpReg3) (s : State) : Out :=
  .next (laneReg 4 o.g (fun s t => t.setReg o.d.val (t.reg o.a.val * opb s t o.b)) s)

/-- `IMULHS32` (R364). -/
def execImulhS32 (o : OpReg3) (s : State) : Out :=
  .next (laneReg 4 o.g (fun s t => t.setReg o.d.val (mulhS (t.reg o.a.val) (opb s t o.b))) s)

/-- `IMULHN32` (R364). -/
def execImulhN32 (o : OpReg3) (s : State) : Out :=
  .next (laneReg 4 o.g (fun s t => t.setReg o.d.val (mulhN (t.reg o.a.val) (opb s t o.b))) s)

/-- `IMAD` (R364). -/
def execImad (o : OpReg3) (s : State) : Out :=
  .next (laneReg 4 o.g (fun s t => t.setReg o.d.val (t.reg o.a.val * opb s t o.b + t.reg o.d.val)) s)

/-- `IMINS` (R365). -/
def execIminS (o : OpReg3) (s : State) : Out :=
  .next (laneReg 4 o.g (fun s t => t.setReg o.d.val (minS (t.reg o.a.val) (opb s t o.b))) s)

/-- `IMAXS` (R365). -/
def execImaxS (o : OpReg3) (s : State) : Out :=
  .next (laneReg 4 o.g (fun s t => t.setReg o.d.val (maxS (t.reg o.a.val) (opb s t o.b))) s)

/-- `IMINN` (R365). -/
def execIminN (o : OpReg3) (s : State) : Out :=
  .next (laneReg 4 o.g (fun s t => t.setReg o.d.val (minN (t.reg o.a.val) (opb s t o.b))) s)

/-- `IMAXN` (R365). -/
def execImaxN (o : OpReg3) (s : State) : Out :=
  .next (laneReg 4 o.g (fun s t => t.setReg o.d.val (maxN (t.reg o.a.val) (opb s t o.b))) s)

/-- `AND` (R328). -/
def execAnd (o : OpReg3) (s : State) : Out :=
  .next (laneReg 4 o.g (fun s t => t.setReg o.d.val (t.reg o.a.val &&& opb s t o.b)) s)

/-- `OR` (R328). -/
def execOr (o : OpReg3) (s : State) : Out :=
  .next (laneReg 4 o.g (fun s t => t.setReg o.d.val (t.reg o.a.val ||| opb s t o.b)) s)

/-- `XOR` (R328). -/
def execXor (o : OpReg3) (s : State) : Out :=
  .next (laneReg 4 o.g (fun s t => t.setReg o.d.val (t.reg o.a.val ^^^ opb s t o.b)) s)

/-- `ANDN` (R328). -/
def execAndn (o : OpReg3) (s : State) : Out :=
  .next (laneReg 4 o.g (fun s t => t.setReg o.d.val (t.reg o.a.val &&& ~~~(opb s t o.b))) s)

/-- `SHL` (R407). -/
def execShl (o : OpReg3) (s : State) : Out :=
  .next (laneReg 4 o.g (fun s t => t.setReg o.d.val (t.reg o.a.val <<< shiftOf (opb s t o.b))) s)

/-- `SHR` (R407). -/
def execShr (o : OpReg3) (s : State) : Out :=
  .next (laneReg 4 o.g (fun s t => t.setReg o.d.val (t.reg o.a.val >>> shiftOf (opb s t o.b))) s)

/-- `SRA` (R407). -/
def execSra (o : OpReg3) (s : State) : Out :=
  .next (laneReg 4 o.g (fun s t => t.setReg o.d.val (sraWord (t.reg o.a.val) (shiftOf (opb s t o.b)))) s)

/-- `BFXN` (R335). -/
def execBfxN (o : OpReg3) (s : State) : Out :=
  .next (laneReg 4 o.g (fun s t => t.setReg o.d.val (bfxNWord (t.reg o.a.val) (opb s t o.b))) s)

/-- `BFXS` (R335). -/
def execBfxS (o : OpReg3) (s : State) : Out :=
  .next (laneReg 4 o.g (fun s t => t.setReg o.d.val (bfxSWord (t.reg o.a.val) (opb s t o.b))) s)

/-- `BFI` (R335). -/
def execBfi (o : OpReg3) (s : State) : Out :=
  .next (laneReg 4 o.g (fun s t => t.setReg o.d.val (bfiWord (t.reg o.d.val) (t.reg o.a.val) (opb s t o.b))) s)

/-- `CLZ` (R337). -/
def execClz (o : OpReg2) (s : State) : Out :=
  .next (laneReg 4 o.g (fun _ t => t.setReg o.d.val (clzWord (t.reg o.a.val))) s)

/-- `POPC` (R337). -/
def execPopc (o : OpReg2) (s : State) : Out :=
  .next (laneReg 4 o.g (fun _ t => t.setReg o.d.val (popWord (t.reg o.a.val))) s)

/-- `BREV` (R337). -/
def execBrev (o : OpReg2) (s : State) : Out :=
  .next (laneReg 4 o.g (fun _ t => t.setReg o.d.val (revWord (t.reg o.a.val))) s)

/-- `NOP` (R392). -/
def execNop (g : Guard) (s : State) : Out := .next (laneReg 4 g (fun _ t => t) s)

/-- `IADDW` (R361, R362). -/
def execIaddw (o : OpReg3) (s : State) : Out :=
  .next (laneReg 4 o.g (fun s t => t.setRegs o.d.val (addwPair (t.pair o.a.val) (opb s t o.b))) s)

/-- `LEA` (R383). -/
def execLea (o : OpLea) (s : State) : Out :=
  .next (laneReg 4 o.g (fun s t => t.setRegs o.d.val (leaPair (t.pair o.a.val) (opb s t o.b) o.s)) s)

/-- `SEL` (R404): G and NG are the selector, and every thread writes. -/
def execSel (o : OpReg3) (s : State) : Out :=
  .next (laneReg 4 guardTrue (fun s t =>
    t.setReg o.d.val (if t.guard o.g then t.reg o.a.val else opb s t o.b)) s)

/-- `MOV` (R390). -/
def execMov (o : OpMov) (s : State) : Out := .next (laneReg 4 o.g (fun s t => t.setReg o.d.val (opb s t o.b)) s)

/-- `MOV.64` (R390). -/
def execMov64 (o : OpMov) (s : State) : Out :=
  .next (laneReg 4 o.g (fun s t => t.setRegs o.d.val [opb s t o.b, opbHi s t o.b]) s)

/-- `ICMP` (R363, R312). -/
def execIcmp (o : OpCmp) (s : State) : Out :=
  .next (laneReg 4 o.g (fun s t => t.setPred o.pd.val
    (o.comb.apply (t.pred o.pd.val) (o.cond.holds (t.reg o.a.val) (opb s t o.b)))) s)

/-- `ICMP` with a direct immediate (R363). -/
def execIcmpImm (o : OpCmpImm) (s : State) : Out :=
  .next (laneReg 4 o.g (fun _ t => t.setPred o.pd.val (o.cond.holds (t.reg o.a.val) (imm9 o.imm))) s)

/-- `ICMP` with an extension word (R363, R306). -/
def execIcmpImmExt (o : OpCmpExt) (s : State) : Out :=
  .next (laneReg 8 o.g (fun _ t => t.setPred o.pd.val (o.cond.holds (t.reg o.a.val) o.imm)) s)

/-- `IADD` with a direct immediate (R361). -/
def execIaddImm (o : OpImm9) (s : State) : Out :=
  .next (laneReg 4 o.g (fun _ t => t.setReg o.d.val (t.reg o.a.val + imm9 o.imm)) s)

/-- `IADD` with an extension word (R361, R306). -/
def execIaddImmExt (o : OpExt) (s : State) : Out :=
  .next (laneReg 8 o.g (fun _ t => t.setReg o.d.val (t.reg o.a.val + o.imm)) s)

/-- `IMUL` with a direct immediate (R364). -/
def execImulImm (o : OpImm9) (s : State) : Out :=
  .next (laneReg 4 o.g (fun _ t => t.setReg o.d.val (t.reg o.a.val * imm9 o.imm)) s)

/-- `IMUL` with an extension word (R364, R306). -/
def execImulImmExt (o : OpExt) (s : State) : Out :=
  .next (laneReg 8 o.g (fun _ t => t.setReg o.d.val (t.reg o.a.val * o.imm)) s)

/-- `AND` with a direct immediate (R328). -/
def execAndImm (o : OpImm9) (s : State) : Out :=
  .next (laneReg 4 o.g (fun _ t => t.setReg o.d.val (t.reg o.a.val &&& imm9 o.imm)) s)

/-- `AND` with an extension word (R328, R306). -/
def execAndImmExt (o : OpExt) (s : State) : Out :=
  .next (laneReg 8 o.g (fun _ t => t.setReg o.d.val (t.reg o.a.val &&& o.imm)) s)

/-- `OR` with a direct immediate (R328). -/
def execOrImm (o : OpImm9) (s : State) : Out :=
  .next (laneReg 4 o.g (fun _ t => t.setReg o.d.val (t.reg o.a.val ||| imm9 o.imm)) s)

/-- `OR` with an extension word (R328, R306). -/
def execOrImmExt (o : OpExt) (s : State) : Out :=
  .next (laneReg 8 o.g (fun _ t => t.setReg o.d.val (t.reg o.a.val ||| o.imm)) s)

/-- `XOR` with a direct immediate (R328). -/
def execXorImm (o : OpImm9) (s : State) : Out :=
  .next (laneReg 4 o.g (fun _ t => t.setReg o.d.val (t.reg o.a.val ^^^ imm9 o.imm)) s)

/-- `XOR` with an extension word (R328, R306). -/
def execXorImmExt (o : OpExt) (s : State) : Out :=
  .next (laneReg 8 o.g (fun _ t => t.setReg o.d.val (t.reg o.a.val ^^^ o.imm)) s)

/-- `SHL` by an immediate amount (R407). -/
def execShlImm (o : OpShift) (s : State) : Out :=
  .next (laneReg 4 o.g (fun _ t => t.setReg o.d.val (t.reg o.a.val <<< o.s.val)) s)

/-- `SHR` by an immediate amount (R407). -/
def execShrImm (o : OpShift) (s : State) : Out :=
  .next (laneReg 4 o.g (fun _ t => t.setReg o.d.val (t.reg o.a.val >>> o.s.val)) s)

/-- `SRA` by an immediate amount (R407). -/
def execSraImm (o : OpShift) (s : State) : Out :=
  .next (laneReg 4 o.g (fun _ t => t.setReg o.d.val (sraWord (t.reg o.a.val) o.s.val)) s)

/-- `MOVI` (R391). -/
def execMovi (o : OpImm15) (s : State) : Out := .next (laneReg 4 o.g (fun _ t => t.setReg o.d.val (imm15 o.imm)) s)

/-- `MOVI` with an extension word (R391). -/
def execMoviExt (o : OpExt15) (s : State) : Out := .next (laneReg 8 o.g (fun _ t => t.setReg o.d.val o.imm) s)

end Sys2Proof.Machine
end

