-- ==== Sys2Proof/Machine/CopyBlock.lean ====
section
/-!
DEFINITION. The block of a copy command (R239) with its limits, its operand ranges, and the element map of every transform (R241).
-/

namespace Sys2Proof.Machine

/-- A 16-bit field of a block at a byte offset. -/
def blockHalf (ws : List Word) (off : Nat) : Nat := bits (ws.getD (off / 4) 0).toNat (8 * (off % 4) + 15) (8 * (off % 4))

/-- A 32-bit field of a block. -/
def blockWord (ws : List Word) (off : Nat) : Nat := (ws.getD (off / 4) 0).toNat

/-- A 64-bit field of a block. -/
def blockDword (ws : List Word) (off : Nat) : Nat := blockWord ws off + 2 ^ 32 * blockWord ws (off + 4)

/-- A copy block (R239). -/
structure CopyBlock where
  srck : Nat
  dstk : Nat
  ndim : Nat
  fmt : Nat
  xop : Nat
  upper : Nat
  mcast : Nat
  mbase : Nat
  src : Nat
  dst : Nat
  xarg : Nat
  ext : List Nat
  hole : Nat
  sstr : List Int
  dstr : List Int
deriving DecidableEq, Repr

/-- The fields of a block's 32 words. -/
def CopyBlock.of (ws : List Word) : CopyBlock :=
  let f := blockWord ws 0
  { srck := bits f 1 0, dstk := bits f 3 2, ndim := bits f 7 4, fmt := bits f 10 8, xop := bits f 15 11, upper := bits f 31 16,
    mcast := blockHalf ws 4, mbase := blockHalf ws 6, src := blockDword ws 8, dst := blockDword ws 16,
    xarg := blockDword ws 24, ext := (List.range 9).map (fun d => blockHalf ws (0x20 + 2 * d)), hole := blockHalf ws 0x32,
    sstr := (List.range 9).map (fun d => sintOf 32 (blockWord ws (0x34 + 4 * d))),
    dstr := (List.range 9).map (fun d => sintOf 32 (blockWord ws (0x58 + 4 * d))) }

namespace CopyBlock

/-- Element size in bytes. -/
def size (b : CopyBlock) : Nat := 2 ^ b.fmt

/-- The extents of the dimensions in use. -/
def dims (b : CopyBlock) : List Nat := b.ext.take b.ndim

/-- Elements of the copy. -/
def count (b : CopyBlock) : Nat := b.dims.foldl (· * ·) 1

/-- Bytes of the destination of the transforms 5 and 6. -/
def total (b : CopyBlock) : Nat := b.count * b.size

/-- The depth D of R232 for the element size. -/
def depth (b : CopyBlock) : Nat := if b.fmt = 0 then 128 else 64

/-- Extent of a dimension. -/
def extAt (b : CopyBlock) (d : Nat) : Nat := b.ext.getD d 0

/-- Source stride of a dimension. -/
def sstrAt (b : CopyBlock) (d : Nat) : Int := b.sstr.getD d 0

/-- The byte offset of the first field outside its limits (R239, R240), given the layout-record count. -/
def badField (b : CopyBlock) (lrcount : Nat) : Option Nat :=
  let checks : List (Nat × Bool) :=
    [(0x00, decide (b.srck ≤ 2) && decide (b.dstk ≤ 2) && decide (1 ≤ b.ndim) && decide (b.ndim ≤ 9) && decide (b.fmt ≤ 4)
        && decide (b.xop ≤ 8) && b.upper == 0),
     (0x04, b.mcast == 0 || b.dstk == 1),
     (0x06, b.mbase == 0 || (b.mcast != 0 && b.dstk == 1)),
     (0x08, (b.xop != 8 || b.src == 0) && (b.srck != 2 || decide (b.src % 0x10000 < lrcount))),
     (0x10, b.dstk != 2 || decide (b.dst % 0x10000 < lrcount)),
     (0x18, decide (4 ≤ b.xop) || b.xarg == 0)]
    ++ (List.range 9).map (fun d => (0x20 + 2 * d, (if d < b.ndim then b.extAt d != 0 else b.extAt d == 0)))
    ++ [(0x32, b.hole == 0)]
    ++ (List.range 9).map (fun d => (0x34 + 4 * d, (decide (d < b.ndim) && b.srck != 2) || b.sstrAt d == 0))
    ++ (List.range 9).map (fun d => (0x58 + 4 * d, (decide (d < b.ndim) && b.dstk != 2) || b.dstr.getD d 0 == 0))
  (checks.find? (fun c => !c.2)).map Prod.fst

/-- The operand rules of the transform hold (R241). -/
def rulesOk (b : CopyBlock) : Bool :=
  let noD := b.dstr.all (· == 0)
  let noS := b.sstr.all (· == 0)
  match b.xop with
  | 1 | 7 => decide (2 ≤ b.ndim)
  | 2 => b.ndim == 2 && decide (b.fmt ≤ 1) && b.dstk == 1 && noD && b.extAt 0 % b.depth == 0
  | 3 => b.ndim == 2 && decide (b.fmt ≤ 1) && b.dstk == 1 && noD && b.extAt 1 % b.depth == 0
  | 4 => b.ndim == 2 && b.fmt == 0 && b.extAt 0 == 128 && decide (b.extAt 1 ≤ 128) && noS && noD && b.dstk == 1
      && b.dst % 128 == 0
  | 5 => decide (b.srck ≤ 1) && decide (0 ≤ b.sstrAt 0) && (b.sstr.drop 1).all (· == 0) && b.total % 32 == 0
  | 6 => decide (b.srck ≤ 1) && decide (0 ≤ b.sstrAt 0) && (b.sstr.drop 1).all (· == 0)
  | 8 => b.srck == 0 && decide (b.fmt ≤ 3)
  | _ => true

end CopyBlock

/-! ### Elements -/

/-- Index tuples, dimension 0 innermost (R239). -/
def indices : List Nat → List (List Nat)
  | [] => [[]]
  | e :: es => (indices es).flatMap (fun r => (List.range e).map (fun i => i :: r))

/-- Σ i_d · stride_d. -/
def dotStride (i : List Nat) (st : List Int) : Int := (List.zipWith (fun (a : Nat) (b : Int) => (a : Int) * b) i st).foldl (· + ·) 0

/-- Where an element's bytes come from. -/
inductive ElemSrc where
  | mem (a : Int)
  /-- XOP 7: the index word's number, and the rest of the address. -/
  | gather (i1 : Nat) (rest : Int)
  | fill
  /-- Bytes of the transform's output, from a position on. -/
  | out (first : Nat)
deriving DecidableEq, Repr

/-- An element: its destination address, its bytes, and its source. -/
structure Elem where
  dst : Int
  n : Nat
  src : ElemSrc
deriving DecidableEq, Repr

/-- The operands of a command: bases and strides, from the block or from layout records (R240). -/
structure Operands where
  src : Nat
  dst : Nat
  sstr : List Int
  dstr : List Int

/-- The elements of a copy, in element order (R241). -/
def CopyBlock.elems (b : CopyBlock) (o : Operands) : List Elem :=
  let size := b.size
  let src := fun (i : List Nat) => (o.src : Int) + dotStride i o.sstr
  let dst := fun (i : List Nat) => (o.dst : Int) + dotStride i o.dstr
  match b.xop with
  | 1 => (indices b.dims).map (fun i =>
      match i with
      | i0 :: i1 :: rest => ⟨dst (i1 :: i0 :: rest), size, .mem (src i)⟩
      | _ => ⟨dst i, size, .mem (src i)⟩)
  | 2 => (indices b.dims).map (fun i =>
      let k := i.getD 0 0
      let x := i.getD 1 0
      ⟨(o.dst + size * (k / b.depth * b.depth * b.extAt 1 + b.depth * x + k % b.depth) : Nat), size, .mem (src i)⟩)
  | 3 => (indices b.dims).map (fun i =>
      let x := i.getD 0 0
      let k := i.getD 1 0
      ⟨(o.dst + size * (k / b.depth * b.depth * b.extAt 0 + b.depth * x + k % b.depth) : Nat), size, .mem (src i)⟩)
  | 4 => (List.range (b.extAt 1)).map (fun j => ⟨(o.dst + 128 * j : Nat), 128, .out (128 * j)⟩)
      ++ [⟨(o.dst + 128 * b.extAt 1 : Nat), 4, .out (128 * b.extAt 1)⟩]
  | 5 | 6 => (indices b.dims).zipIdx.map (fun x => ⟨dst x.1, size, .out (size * x.2)⟩)
  | 7 => (indices b.dims).map (fun i =>
      let rest := i.getD 0 0 * o.sstr.getD 0 0 + dotStride (i.drop 2) (o.sstr.drop 2)
      ⟨dst i, size, .gather (i.getD 1 0) ((o.src : Int) + rest)⟩)
  | 8 => (indices b.dims).map (fun i => ⟨dst i, size, .fill⟩)
  | _ => (indices b.dims).map (fun i => ⟨dst i, size, .mem (src i)⟩)

/-- A run of operand bytes: its space (0 global, 1 scratchpad, 2 layout record), first address, bytes, whether it is written, and
the alignment its elements need. -/
structure OpRange where
  kind : Nat
  a : Int
  n : Nat
  write : Bool
  align : Nat
  /-- It belongs to the argument or table operand at XARG (R242). -/
  arg : Bool
deriving DecidableEq, Repr

/-- The space of XARG of the transforms 4 to 7 (R241): the source's, which is global memory for a layout record. -/
def CopyBlock.argKind (b : CopyBlock) : Nat := if b.srck = 2 then 0 else b.srck

/-- The operand ranges that the issue checks take, sources before destinations (R226, R241); the code table of XOP 6 has `codes` entries
(R242). -/
def CopyBlock.ranges (b : CopyBlock) (o : Operands) (codes : Nat) : List OpRange :=
  let es := b.elems o
  let dst := es.map (fun e => ⟨b.dstk, e.dst, e.n, true, b.size, false⟩)
  let arg := fun (n : Nat) => (⟨b.argKind, b.xarg, n, false, 1, true⟩ : OpRange)
  let src := match b.xop with
    | 4 => [⟨b.srck, o.src, 64 * b.extAt 1, false, 1, false⟩, arg (4 * b.extAt 1)]
    | 5 => [⟨b.srck, o.src, (b.sstrAt 0).toNat, false, 1, false⟩, arg (ceilDiv (b.total / 32) 4)]
    | 6 => [⟨b.srck, o.src, (b.sstrAt 0).toNat, false, 1, false⟩, arg (4 + 4 * codes)]
    | 7 => (List.range (b.extAt 1)).map (fun (i : Nat) => ⟨b.argKind, ((b.xarg + 4 * i : Nat) : Int), 4, false, 4, true⟩)
    | 8 => []
    | _ => es.map (fun e => ⟨b.srck, (match e.src with | .mem a => a | _ => 0), e.n, false, b.size, false⟩)
  src ++ dst

/-- The lowest and highest byte of some ranges (R97). -/
def hull (l : List OpRange) : Option (Int × Int) :=
  l.foldl (fun (h : Option (Int × Int)) r =>
    let lo := r.a
    let hi := r.a + r.n - 1
    match h with
    | none => some (lo, hi)
    | some (x, y) => some (min x lo, max y hi)) none

/-- The 128-byte lines that hold destination bytes. -/
def destLines (es : List Elem) : List Nat :=
  (es.flatMap (fun e => (List.range (ceilDiv (e.dst.toNat % 128 + e.n) 128)).map (fun i => e.dst.toNat / 128 + i))).eraseDups

/-! ### What a copy has read (R97, R142) -/

/-- The operands of an issued copy (R240). -/
def EngCmd.operands (c : EngCmd) : Operands := ⟨c.src, c.dst, c.sstr, c.dstr⟩

/-- A copy's block. -/
def EngCmd.copy (c : EngCmd) : CopyBlock :=
  let b := CopyBlock.of c.block
  if b.srck = 1 ∧ b.xop ≠ 8 then { b with xarg := b.xarg % 2 ^ 32 } else b

namespace EngCmd

/-- A byte of global memory that the command has read, and that was valid. -/
def byte? (c : EngCmd) (a : Nat) : Option Byte := (assocD c.sectors (a / 32) []).getD (a % 32) none

/-- A word that the command has read of global memory. -/
def word? (c : EngCmd) (a : Nat) : Option Nat := ((List.range 4).mapM (fun i => c.byte? (a + i))).map leNat

/-- The command has read some bytes of global memory. -/
def hasRead (c : EngCmd) (a : Int) (n : Nat) : Bool := (List.range n).all (fun i => (c.byte? (a.toNat + i)).isSome)

/-- A copy has read all of its source, or all of its argument or table operand, from global memory: it accesses that operand no more (R97). -/
def readAll (c : EngCmd) (arg : Bool) : Bool :=
  let b := c.copy
  c.kind == .cpy && (c.out.isSome || (if arg then
    (match b.xop with
     | 4 | 7 => c.hasRead b.xarg (4 * b.extAt 1)
     | 5 => c.hasRead b.xarg (ceilDiv (b.total / 32) 4)
     | 6 => ((c.word? b.xarg).map (fun w => c.hasRead b.xarg (4 * (w % 0x400 + 1)))).getD false
     | _ => false)
  else
    (match b.xop with
     | 4 => c.hasRead c.src (64 * b.extAt 1)
     | 5 | 6 => c.hasRead c.src (b.sstrAt 0).toNat
     | _ => (b.elems c.operands).all (fun e => match e.src with | .mem a => c.hasRead a e.n | _ => true))))

end EngCmd

end Sys2Proof.Machine
end

