-- ==== Sys2Proof/Machine/Commit.lean ====
section
/-!
DEFINITION. The commit hierarchy's operations: what a commit moves, where it conflicts and whether it has room (R109 to R120),
its acknowledgements (R110, R111, R124), implied commits (R127), and the instructions `CMT` (R342), `ABT` (R326) and `ACQ`
(R327).
-/

namespace Sys2Proof

/-- The code of a `CMT` or `ACQ` level: team 1, cluster 2, device 3, system 4 (R105). -/
def CmtLevel.num : CmtLevel → Nat
  | .team => 1
  | .cluster => 2
  | .device => 3
  | .system => 4

namespace Machine

/-- The buffer instances of a crew's path, by level (R105). -/
def bufAt (crew : CrewId) (cluster level : Nat) : Buf :=
  match level with
  | 0 => .crew crew
  | 1 => .team crew.team
  | _ => .cluster cluster

/-- Two authors are the same child of a buffer at a level (R105, R113). -/
def sameChild (level : Nat) (a : Author) (c : CrewId) : Bool :=
  match a with
  | .unit => false
  | .crew d => if level = 1 then d == c else d.team == c.team

/-- A byte that a commit moves: where it is, and its copy (R109). -/
structure Moved where
  level : Nat
  byte : BufByte

namespace State

/-- The cluster of a crew's core. -/
def clusterOfCrew (s : State) (c : CrewId) : Nat := clusterOf (s.coreOf c.team)

/-- The bytes that a commit of the crew to level `lvl` moves: those it authors below that level, each at its lowest reach
(R105, R109). -/
def movedBytes (s : State) (c : CrewId) (lvl : Nat) : List Moved :=
  let cl := s.clusterOfCrew c
  let at_ := fun (n : Nat) => s.buffers.filter (fun b => b.buf == bufAt c cl n && b.author == .crew c)
  let l0 := at_ 0
  let l1 := if lvl ≤ 1 then [] else (at_ 1).filter (fun b => !l0.any (fun x => x.loc == b.loc))
  let l2 := if lvl ≤ 2 then [] else (at_ 2).filter (fun b => !(l0 ++ l1).any (fun x => x.loc == b.loc))
  l0.map (Moved.mk 0) ++ l1.map (Moved.mk 1) ++ l2.map (Moved.mk 2)

/-- The commit conflicts at a buffer level: the buffer holds a byte of the same aligned word whose author is another child
(R113). -/
def conflictsAt (s : State) (c : CrewId) (moved : List Moved) (level : Nat) : Bool :=
  let cl := s.clusterOfCrew c
  moved.any (fun m => decide (m.level ≤ level) &&
    s.buffers.any (fun b => b.buf == bufAt c cl level && b.loc.down 4 == m.byte.loc.down 4 && !sameChild level b.author c))

/-- The `%cflict` bits of a commit to level `lvl`: bit 0 for level 1, bit 1 for level 2 (R109, R112). -/
def conflictBits (s : State) (c : CrewId) (moved : List Moved) (lvl : Nat) : Nat :=
  (if s.conflictsAt c moved 1 then 1 else 0) + (if lvl ≥ 2 && s.conflictsAt c moved 2 then 2 else 0)

/-- The buffers after a commit: every copy of a moved byte leaves the levels from its reach up to min(L, 3) − 1, and below
device reach the copy stands at level L with the crew as author (R109). -/
def movedBuffers (s : State) (c : CrewId) (moved : List Moved) (lvl : Nat) : List BufByte :=
  let cl := s.clusterOfCrew c
  let gone := fun (b : BufByte) => moved.any (fun m => b.loc == m.byte.loc &&
    (List.range (min lvl 3 + 1)).any (fun n => decide (m.level ≤ n) && decide (n < 3) && b.buf == bufAt c cl n))
  let kept := s.buffers.filter (fun b => !gone b)
  if lvl < 3 then
    kept ++ moved.map (fun m => { m.byte with buf := bufAt c cl lvl, author := .crew c })
  else kept

/-- Entries of a core's store collector (R81, R119). -/
def collectorCount (s : State) (bufs : List BufByte) (core : Nat) : Nat :=
  let mine := bufs.filter (fun b =>
    match b.buf with
    | .crew c => s.coreOf c.team == core
    | .team t => s.coreOf t == core
    | .cluster _ => false)
  ((mine.map (fun b => (b.buf, b.loc.sector))).eraseDups).length

/-- The limit that a landing at level `lvl` would break, lowest code first (R119 to R121). -/
def roomLimit (s : State) (c : CrewId) (bufs : List BufByte) (lvl : Nat) : Option Nat :=
  let cl := s.clusterOfCrew c
  if lvl = 1 then
    if sectorCount (bufs.filter (fun b => b.buf == .team c.team)) > Config.teamQuota then some 1
    else if s.collectorCount bufs (s.coreOf c.team) > Config.collectorSectors then some 3 else none
  else if lvl = 2 then
    let mine := bufs.filter (fun b => b.buf == .cluster cl)
    if sectorCount (mine.filter (fun b => match b.author with | .crew d => d.team == c.team | .unit => false))
        > Config.clusterQuota then some 2
    else if sectorCount mine > Config.clusterSectors then some 4 else none
  else none

/-- The highest level of a crew's path whose buffer holds one of some bytes: whoever reads that buffer has seen them. -/
def seenLevel (s : State) (c : CrewId) (cl : Nat) (bytes : List BufByte) : Nat :=
  let at_ := fun (n : Nat) => s.buffers.any (fun x => x.buf == bufAt c cl n && bytes.any (fun b => b.loc == x.loc))
  if at_ 2 then 2 else if at_ 1 then 1 else 0

/-- The landings of bytes that a crew's commit moves to device reach, one for each sector (R111, R135). Bytes that the core's L1 takes at the commit
count as seen there (R109, R130). -/
def landingsOf (s : State) (crew : CrewId) (implied : Nat) (bytes : List BufByte) : List Landing :=
  let core := s.coreOf crew.team
  ((bytes.map (fun b => b.loc.sector)).eraseDups).filterMap (fun sec =>
    let mine := bytes.filter (fun b => b.loc.sector == sec)
    mine.head?.map (fun b =>
      { author := .crew crew, crew := crew, fdepth := s.fdepthOf crew.team, ctx := b.ctx, va := b.va - b.va % 32, loc := sec, tr := b.tr,
        bytes := mine.map (fun x => (x.loc.num % 32, x.val)), implied := implied, core := core,
        seen := if mine.any (fun x => (s.l1Byte? core x.loc).isSome) then 2 else s.seenLevel crew (clusterOf core) mine, id := 0, cmd := 0 }))

/-- Sends words that the cluster unit authors to device reach: one numbered landing for each sector (R124). A crew's commit that moves them gives
its crew and fill depth (R191, R192). DESIGN CHOICE: words that the unit evicts belong to no crew, ⟨0, 0⟩, at depth 0 (log entry 114). -/
def sendUnit (s : State) (cl : Nat) (crew : CrewId) (depth : Nat) (mine : BufByte → Bool) : State :=
  let bytes := s.buffers.filter (fun b => b.buf == .cluster cl && b.author == .unit && mine b)
  ((bytes.map (fun b => b.loc.sector)).eraseDups).foldl (fun s sec =>
    let part := bytes.filter (fun b => b.loc.sector == sec)
    match part.head? with
    | none => s
    | some b =>
      let l : Landing :=
        { author := .unit, crew := crew, fdepth := depth, ctx := b.ctx, va := b.va - b.va % 32, loc := sec, tr := b.tr,
          bytes := part.map (fun x => (x.loc.num % 32, x.val)), implied := 0, core := cl * Config.coresPerCluster, seen := 2,
          id := s.lastId + 1, cmd := 0 }
      { s.fresh with landings := s.landings ++ [l] })
    { s with buffers := s.buffers.filter (fun (b : BufByte) => !(b.buf == Buf.cluster cl && b.author == Author.unit && mine b)) }

/-- The landings whose bytes wait for a fill (R191). -/
def parkedLandings (s : State) : List Landing :=
  (((s.replays ++ s.fills.flatMap Fill.waiters).map Joined.who) ++ (s.misses ++ s.overflow).map Miss.waiter).filterMap
    (fun w => match w with | .landing l => some l | _ => none)

/-- The numbers of a cluster unit's landings that are not acknowledged (R124): on their way, waiting for a fill, or with the acknowledgement out. -/
def unitInFlight (s : State) (cl : Nat) : List Nat :=
  ((s.landings ++ s.parkedLandings).filter (fun l => l.author == .unit && l.cmd == 0 && clusterOf l.core == cl)).map Landing.id
    ++ (s.acks.filter (fun a => a.author == .unit && clusterOf a.core == cl)).map Ack.id

/-- Writes in the cluster buffer wake the monitors of the cluster's threads, in local memory and envelopes (R277). -/
def wakeCluster (s : State) (cluster : Nat) (sec : Loc) : State :=
  let local_ := match sec with | .pa a => isLocal a | .env _ _ => true
  if !local_ then s
  else
    let woken := (s.monitors.filter (fun m => m.sector == sec && clusterOf (s.coreOf m.thread.team) == cluster)).map
      Monitor.thread
    let s := s.noteWake woken
    { s with monitors := s.monitors.filter (fun m => !woken.contains m.thread),
             threads := updWhere (fun t => woken.contains t.id && t.park == .monitor)
               (fun t => { t with park := .none, pc := t.pc + 4 }) s.threads }

/-- Moves a commit's bytes to level `lvl` (R109): the issuing core's L1 copies are updated at cluster reach and above (R80); below device reach the
bytes land at once, at device reach and above they go sector by sector (R136); sectors that leave the store collector await acknowledgement
(R111); at device reach the cluster unit's words move as well (R124). -/
def moveCommit (s : State) (c : CrewId) (moved : List Moved) (lvl implied : Nat) : State :=
  let core := s.coreOf c.team
  let cl := clusterOf core
  let bytes := moved.map Moved.byte
  let lands := s.landingsOf c implied bytes
  let s := { s with buffers := s.movedBuffers c moved lvl }
  if lvl = 1 then s
  else
    let s := s.modCrew c (fun x => { x with unack := x.unack + lands.length })
    let s := bytes.foldl (fun s b => s.l1Update core b.loc b.val) s
    if lvl = 2 then
      let s := { s with acks := s.acks ++ lands.map (fun _ => (⟨.crew c, 0, core⟩ : Ack)) }
      lands.foldl (fun s l => s.wakeCluster cl l.loc) s
    else { s with landings := s.landings ++ lands }

/-- What a commit decides at its one point in the order (R109, R117). -/
inductive Decision where
  /-- An abort notice was found. -/
  | notice
  /-- `CMT.X` would conflict: bits. -/
  | refused (bits : Nat)
  /-- A quota or limit has no room: its code. -/
  | full (limit : Nat)
  | moves (bits : Nat)
deriving DecidableEq, Repr

/-- The decision of a commit (R109, R115, R120). -/
def decideCommit (s : State) (c : Crew) (lvl : Nat) (x : Bool) : Decision :=
  if c.notice then .notice
  else
    let moved := s.movedBytes c.id lvl
    let bits := s.conflictBits c.id moved lvl
    if x && bits != 0 then .refused bits
    else match s.roomLimit c.id (s.movedBuffers c.id moved lvl) lvl with
      | some n => .full n
      | none => .moves bits

/-- Completes a crew's commits once its count is zero and the unit's words are acknowledged (R110, R111): `%cflict` and the
predicates are written, and the threads that it still holds continue; a thread of a `BAR` goes on to its arrival (R151). A crew trap for
dropped bytes then comes (R192). A commit that all its threads have left by a trap writes nothing (log entry 78). -/
def completeCommit (s : State) (w : CommitWait) : State :=
  let s := { s with commits := s.commits.filter (fun x => x != w) }
  let s := if w.waiters.isEmpty then s else s.modCrew w.crew (fun c => { c with cflict := w.cflict })
  let go := fun (t : Thread) =>
    if w.barrier then { t with stall := .none, committed := true }
    else (if w.members.contains t.id then t.setPred w.pd w.result else t).leave 4
  let s := { s with threads := updWhere (fun t => w.waiters.contains t.id) go s.threads }
  match w.trap with
  | none => s
  | some r =>
    (s.liveOf w.crew).foldl (fun s t => s.takeTrap t true r t.pc) s

/-- Once the crew's count is zero, its own reductions have performed: the words that they have left with the cluster unit go to device reach with
the crew's commits, which wait for them too (R110, R124). -/
def sendLate (s : State) (c : CrewId) : State :=
  let late := fun (w : CommitWait) => w.crew == c && w.units
  if s.commits.any late then
    let s := s.sendUnit (s.clusterOfCrew c) c (s.fdepthOf c.team) (fun _ => true)
    let wait := s.unitInFlight (s.clusterOfCrew c)
    { s with commits := updWhere late (fun w => { w with units := false, unitWait := wait }) s.commits }
  else s

/-- The commits of a crew that can complete, one after another. -/
def tryCommits (s : State) (c : CrewId) : State :=
  match s.crew? c with
  | none => s
  | some x =>
    if x.unack = 0 then
      let s := s.sendLate c
      (s.commits.filter (fun w => w.crew == c && w.unitWait.isEmpty)).foldl completeCommit s
    else s

/-- STORE_OVF reaches the crew (R121): `%trapv`[2:0] names the limit, bit 3 the threads of `own` (R475). -/
def storeOvf (s : State) (c : CrewId) (limit : Nat) (own : ThreadId → Bool) : State :=
  s.crewTrap c .storeOvf own (fun t => BitVec.ofNat 32 (limit + if own t then 8 else 0)) 0

/-- Starts a commit for a crew and waits for its acknowledgements: of `CMT` for the whole rendezvous, or of one thread's `BAR`
with `.CMT` (R109, R151). -/
def startCommit (s : State) (c : Crew) (lvl : Nat) (x : Bool) (w : CommitWait) (own : ThreadId → Bool) : State :=
  let hold := fun (s : State) =>
    { s with threads := updWhere (fun t => w.waiters.contains t.id) (fun t => { t with stall := .commit, arrived := none }) s.threads }
  match s.decideCommit c lvl x with
  | .full n => s.storeOvf c.id n own
  | .notice =>
    let s := hold (s.modCrew c.id (fun c => { c with notice := false }))
    { s with commits := s.commits ++ [{ w with result := false, cflict := 4 }] }.tryCommits c.id
  | .refused b =>
    { hold s with commits := s.commits ++ [{ w with result := false, cflict := BitVec.ofNat 32 b }] }.tryCommits c.id
  | .moves b =>
    let cl := s.clusterOfCrew c.id
    let m := (hold s).moveCommit c.id (s.movedBytes c.id lvl) lvl 0
    let m := if lvl ≥ 3 then m.sendUnit cl c.id (s.fdepthOf c.id.team) (fun _ => true) else m
    let wait := if lvl ≥ 3 then m.unitInFlight cl else []
    let w := { w with result := true, cflict := BitVec.ofNat 32 b, unitWait := wait, units := decide (lvl ≥ 3) && c.unack != 0 }
    { m with commits := s.commits ++ [w] }.tryCommits c.id

/-- The implied commit of a retiring crew (R127): as a plain `CMT.TEAM`, without STORE_OVF: a sector that finds no room at team reach lands
at device reach as a plain `CMT.DEVICE` would land it. A crew that holds an abort notice loses the bytes. DESIGN CHOICE: sectors take the room that is
left in the order in which the crew buffered them (log entry 109). -/
def impliedCrew (s : State) (c : CrewId) : State :=
  match s.crew? c with
  | none => s
  | some x =>
    if x.notice then
      { s with buffers := s.buffers.filter (fun (b : BufByte) => b.buf != Buf.crew c) }.modCrew c (fun x => { x with notice := false })
    else
      let moved := s.movedBytes c 1
      let secs := (moved.map (fun m => m.byte.loc.sector)).eraseDups
      secs.foldl (fun s sec =>
        let part := moved.filter (fun m => m.byte.loc.sector == sec)
        let bufs := s.movedBuffers c part 1
        match s.roomLimit c bufs 1 with
        | none => { s with buffers := bufs }
        | some _ => s.moveCommit c part 3 1) s

/-- The implied commit of a retiring team (R127): every byte its crews author at team or cluster reach lands at device
reach. DESIGN CHOICE: each crew's bytes are landings of that crew, so that what is dropped is recorded crew by crew (R192, log entry 113). -/
def impliedTeam (s : State) (team : Nat) : State :=
  (s.crewsOf team).foldl (fun s c => s.moveCommit c.id (s.movedBytes c.id 3) 3 2) s

/-! ### Landings (R111, R135, R136, R191, R192) -/

/-- A landing of a command, as a waiter. -/
def landsFor (id : Nat) : Waiter → Bool
  | .landing l => l.cmd == id
  | _ => false

/-- A sector that the command has sent has not landed: it is on its way, or its bytes wait for a fill (R191). -/
def landingLeft (s : State) (id : Nat) : Bool :=
  s.landings.any (fun l => l.cmd == id) || (s.misses ++ s.overflow).any (fun m => landsFor id m.waiter)
    || s.fills.any (fun f => f.waiters.any (fun j => landsFor id j.who)) || s.replays.any (fun j => landsFor id j.who)

/-- The range locks of a copy are freed as it makes its last accesses (R97): that of an operand it reads once it has read all of it or has failed,
that of its destination once what it has sent has landed too. -/
def freeLocks (s : State) (id : Nat) : State :=
  match s.cmd? id with
  | none => s
  | some c =>
    let ended := c.pending.isEmpty || c.result.map Prod.fst == some 0x0F
    let landed := ended && !s.landingLeft id
    { s with locks := s.locks.filter (fun l => l.cmd != id || (if l.write then !landed else !(ended || c.readAll l.arg))) }

/-- An acknowledgement for a landing is sent to its author (R111); what an engine or the device itself writes has none, but a copy may have made
its last access. -/
def sendAck (s : State) (l : Landing) : State :=
  if l.cmd ≠ 0 then s.freeLocks l.cmd
  else if l.author = .unit ∧ l.id = 0 then s else { s with acks := s.acks ++ [⟨l.author, l.id, l.core⟩] }

/-- The crew's oldest commit keeps the trap of the first word that it drops (R192). -/
def noteDrop (c : CrewId) (r : TrapRegs) : List CommitWait → List CommitWait
  | [] => []
  | w :: ws => if w.crew == c then { w with trap := some (w.trap.getD r) } :: ws else w :: noteDrop c r ws

/-- GEN_FAIL, GEN_NEST or ACCESS for dropped bytes of a word: `%cause` and `%trapv` (R192, R266). -/
def dropRegs (c : Cause) (va code : Nat) : TrapRegs :=
  ⟨causeWord c true true (va / 2 ^ 32), if c = .genFail then genFailWord va code else BitVec.ofNat 32 va⟩

/-- The detail of ENG_FAULT for a cause (R244). -/
def faultDetail : Cause → Nat
  | .genNest => 2
  | .genFail => 3
  | _ => 1

/-- Bytes of a landing are dropped, first those of the word at `va` (R192): the crew's commit brings the trap when it completes, for bytes of the
cluster unit that it moves as well; an implied commit writes one escalation record for each crew whose bytes it drops (DESIGN CHOICE: log entry
113); a copy that wrote them fails (R244). The landing counts as acknowledged. -/
def dropLanding (s : State) (l : Landing) (c : Cause) (va code : Nat) : State :=
  let r := dropRegs c va code
  let s :=
    match l.author with
    | .unit =>
      if l.cmd ≠ 0 then s.modCmd l.cmd (fun x => { x with result := some (0x0F, faultDetail c) })
      else { s with commits := noteDrop l.crew r s.commits }
    | .crew d =>
      if l.implied = 0 then { s with commits := noteDrop d r s.commits }
      else if ((s.crew? d).map (fun (x : Crew) => x.drops.contains l.implied)).getD false then s
      else
        (s.modCrew d (fun (x : Crew) => { x with drops := x.drops ++ [l.implied] })).escRecord l.ctx
          { cause := r.cause, trapv := r.trapv, trapc := 0, grid := ((s.team? d.team).map Team.grid).getD 0, core := l.core,
            tid := 32 * d.crew, reason := 4, first := 0 }
  s.sendAck l

/-- The sending core's L1 copies of bytes that land follow (R80, R109): a byte that was filled since the commit takes the value; a sector of which the
cluster buffer has a later copy leaves L1, which may lose a sector at any time. -/
def landL1 (s : State) (l : Landing) (bs : List (Nat × Byte)) : State :=
  match l.author with
  | .unit => s
  | .crew _ => bs.foldl (fun s b =>
      let at_ := l.loc.add b.1
      if (s.bufGet (.cluster (clusterOf l.core)) at_).isSome then s.l1Drop l.core at_ else s.l1Update l.core at_ b.2) s

/-- A sector lands at device reach (R135), unless its link is down (R295); bytes that write only part of an invalid word join its fill, or are dropped at
depth 2 (R191, R192). Without a way in the cache the landing waits (R203). Bytes for a peer whose last link is out of service are dropped, and
the crew's commit brings ACCESS (R295). -/
def land (s : State) (l : Landing) : State :=
  if !s.reachable l.loc true then (s.logDenial l.loc .device true).dropLanding l .access l.va 0
  else
    let room := s.roomFor l.loc l.bytes
    if !room.2 || s.delayed l.loc then { room.1 with landings := room.1.landings ++ [l] }
    else
      let r := room.1.landBytes l.ctx l.tr l.loc l.bytes
      let s := r.1.landL1 l (l.bytes.filter (fun b => !r.2.contains b))
      match r.2 with
      | [] => s.sendAck l
      | (off, _) :: _ =>
        let word := off - off % 4
        let l := { l with bytes := r.2 }
        if l.fdepth ≥ 2 then s.dropLanding l .genNest (l.va + word) 0
        else s.sendMiss l.ctx (l.va + word) 0 l.tr (l.loc.add word) l.fdepth (s.effClass l.crew.team) (.landing l) .write

/-- A landing whose link is down, or that finds no way in the cache for its line: it waits, and the hosts of full ballast stores are notified (R203,
R295). -/
def landWaits (s : State) (l : Landing) : Option State :=
  if !s.reachable l.loc true then none
  else if s.delayed l.loc then some s
  else
    let r := s.roomFor l.loc l.bytes
    if r.2 then none else some r.1

/-- A landing on its way whose bytes the threads of a crew could already see in a buffer: its own crew's, its team's or its cluster's. -/
def sees (core : Nat) (c : CrewId) (l : Landing) : Bool :=
  match l.author with
  | .unit => clusterOf l.core == clusterOf core
  | .crew d => d == c || (decide (1 ≤ l.seen) && d.team == c.team) || (decide (2 ≤ l.seen) && clusterOf l.core == clusterOf core)

/-- The bytes of a landing whose words are valid now: they no longer wait for a fill. -/
def mergeable (s : State) (l : Landing) : List (Nat × Byte) := l.bytes.filter (fun b => (s.devByte? (l.loc.add b.1)).isSome)

/-- A wait without the bytes of its landing that merge; none when that was all of it. -/
def unmerged (s : State) (due : Landing → Bool) (w : Waiter) : Option Waiter :=
  match w with
  | .landing l =>
    if due l then
      (match l.bytes.filter (fun b => !(s.mergeable l).contains b) with
       | [] => none
       | rest => some (.landing { l with bytes := rest }))
    else some w
  | _ => some w

/-- Bytes that wait for a fill merge into their words where another fill has made these valid (R191). -/
def mergeParked (s : State) (due : Landing → Bool) : State :=
  let ls := s.parkedLandings.filter (fun l => due l && !(s.mergeable l).isEmpty)
  if ls.isEmpty then s
  else
    let keep := fun (l : List Joined) => l.filterMap (fun j => (s.unmerged due j.who).map (fun w => { j with who := w }))
    let wait := fun (l : List Miss) => l.filterMap (fun m => (s.unmerged due m.waiter).map (fun w => { m with waiter := w }))
    let s' := { s with replays := keep s.replays, misses := wait s.misses, overflow := wait s.overflow,
                       fills := s.fills.map (fun f => { f with waiters := keep f.waiters }) }
    ls.foldl (fun x l =>
      let bs := s.mergeable l
      let x := (x.landBytes l.ctx l.tr l.loc bs).1.landL1 l bs
      if bs.length = l.bytes.length then x.sendAck l else x) s'

/-- Some landings land now: those on their way, and the bytes of those that wait for a fill whose words are valid. -/
def settleDue (s : State) (due : Landing → Bool) : State :=
  ((s.landings.filter due).foldl land { s with landings := s.landings.filter (fun l => !due l) }).mergeParked due

/-- Before a crew's access looks beyond its buffers in a sector, what it could see in a buffer and is on its way lands (R130, R137): the access
never finds an older value at device reach. -/
def settleLandings (s : State) (core : Nat) (c : CrewId) (sec : Loc) : State := s.settleDue (fun l => l.loc == sec && sees core c l)

end State

/-! ### The meanings -/

/-- `CMT` (R109, R342): once for the crew if some thread's guard is true; a commit that finds the count above 256 waits (R111). -/
def execCmt (o : OpCmt) (s : State) : Out :=
  .next (laneCrew o.g (fun s c all set =>
    match s.crew? c with
    | none => s
    | some x =>
      if set.isEmpty then s.leaveAll all 4
      else if x.unack > Config.unackLimit then s.stallCrew c
      else
        s.startCommit x o.level.num o.x
          { crew := c, members := set.map Thread.id, waiters := all.map Thread.id, pd := o.pd.val, result := false, cflict := 0, unitWait := [], units := false,
            barrier := false, trap := none } (fun _ => true)) s)

/-- Discards what an abort names (R116). -/
def abortBuffers (s : State) (c : CrewId) (l : AbtLevel) : State :=
  match l with
  | .crew => { s with buffers := s.buffers.filter (fun (b : BufByte) => b.buf != Buf.crew c) }
  | .team | .cluster =>
    let mine := fun (b : BufByte) =>
      match b.buf with
      | .crew d => d.team == c.team
      | .team t => t == c.team
      | .cluster n => l == .cluster && n == s.clusterOfCrew c &&
          (match b.author with | .crew d => d.team == c.team | .unit => false)
    let gone := s.buffers.filter mine
    let core := s.coreOf c.team
    let s' := { s with
      buffers := s.buffers.filter (fun b => !mine b)
      crews := updWhere (fun d => d.id.team == c.team && d.id != c && !d.retired) (fun d => { d with notice := true })
        s.crews }
    if l = .cluster then gone.foldl (fun s b => s.l1Drop core b.loc) s' else s'

/-- `ABT` (R116, R326). -/
def execAbt (o : OpAbt) (s : State) : Out :=
  .next (laneCrew o.g (fun s c all set =>
    if set.isEmpty then s.leaveAll all 4 else (abortBuffers s c o.level).leaveAll all 4) s)

/-- What an acquire at a level does for a thread's core (R122): at cluster scope and above it invalidates the L1. -/
def acquire (s : State) (team lvl : Nat) : State := if lvl ≥ 2 then s.l1Flush (s.coreOf team) else s

/-- `ACQ` (R122, R327): waits for the thread's loads, then acquires. -/
def execAcq (o : OpAcq) (s : State) : Out :=
  .next (laneEach 4 o.g (fun s t =>
    if t.loads.isEmpty then (acquire s t.id.team o.level.num).modThread t.id (·.advance 4)
    else s.stallThread t.id) s)

end Machine
end Sys2Proof
end

