-- ==== Sys2Proof/Machine/MemLane.lean ====
section
/-!
DEFINITION. The lane instructions that load and store: `LD` (R380), `ST` (R411, R412), `LDS` (R381), `STS` (R413), `LDT`
(R382), `PREF` (R397) and `WAITM` (R277, R419).
-/

namespace Sys2Proof.Machine

/-! ### LD -/

/-- What a load of a size gives its registers (R305). -/
def Load.words (l : Load) (bs : List Byte) : List Word :=
  loadedRegs (if l.sext then (if l.size = 1 then 5 else 6) else (if l.size = 8 then 3 else if l.size = 16 then 4 else 2)) bs

namespace State

/-- A load's sector is installed in L1, if it read one from beyond L1 that is still valid (R80). -/
def installLoad (s : State) (core : Nat) (l : Load) : State :=
  match l.install.bind (fun sec => if s.reachable sec false then (s.sectorFill? core sec).map (fun bs => (sec, bs)) else none) with
  | none => s
  | some (sec, bs) => s.l1Install core sec bs

/-- A load of a peer's memory returns (R295, R380): its thread takes the bytes that R107 gives now, and continues. Once the place cannot be reached it
completes as a denied fault, ACCESS at the `LD`, which has had no effect (R267, log entry 105). -/
def returnRemote (s : State) (t : ThreadId) (l : Load) : State :=
  let core := s.coreOf t.team
  let s := (s.settleLandings core t.crewId l.loc.sector).modThread t (fun x =>
    { x with stall := .none, loads := x.loads.filter (fun y => y.slot != l.slot) })
  match s.thread? t, s.loadBytes? t.crewId core l.loc l.size with
  | some x, some bs =>
    if s.needsFar t.crewId core l.loc l.size && !s.reachable l.loc false then (s.logDenial l.loc .device false).addrTrap x .access l.va
    else (s.installLoad core l).modThread t (fun x => (x.setRegs l.dst (l.words bs)).advance 4)
  | _, _ => s

/-- A load performs: its registers take the bytes that R107 gives now; where they cannot be read any more, the load has performed at issue, and its
value stays (log entry 16). A load of a peer's memory performs by its return, and none reads over a link that is down (R295). -/
def performLoad (s : State) (t : ThreadId) (l : Load) : State :=
  if l.remote then s.returnRemote t l
  else
    let core := s.coreOf t.team
    let s := s.settleLandings core t.crewId l.loc.sector
    match s.loadBytes? t.crewId core l.loc l.size with
    | none => s
    | some bs =>
      if s.needsFar t.crewId core l.loc l.size && (!s.reachable l.loc false || s.delayed l.loc) then s
      else s.modThread t (fun x => x.setRegs l.dst (l.words bs))

/-- Puts a load into a list by its number, which rises with the lanes of a flight. -/
def slotInsert (x : ThreadId × Load) : List (ThreadId × Load) → List (ThreadId × Load)
  | [] => [x]
  | y :: l => if x.2.slot < y.2.slot then x :: y :: l else y :: slotInsert x l

/-- The loads of one flight in a sector that have not performed do so now, all together, in ascending lane order: where they read the same byte, no
lane keeps an older value than a lane before it (R23, R131). Those that wait for a link which is down stay (R295). -/
def settleFlight (s : State) (core at_ : Nat) (sec : Loc) : State :=
  let due := (s.threads.filter (fun t => s.coreOf t.id.team == core)).flatMap (fun t =>
    (t.loads.filter (fun l => !l.done && l.at_ == at_ && l.loc.sector == sec && !(l.remote && s.delayed l.loc))).map (fun l => (t.id, l)))
  (due.foldl (fun l x => slotInsert x l) []).foldl (fun s x =>
    (s.performLoad x.1 x.2).modThread x.1 (fun t =>
      { t with loads := t.loads.map (fun l => if l.slot == x.2.slot then { l with done := true } else l) })) s

/-- Loads of the thread that read in a sector and have not performed do so now, each with its flight's: a later access of the thread to the sector
stays behind them (R130). -/
def settleLoads (s : State) (t : ThreadId) (sec : Loc) : State :=
  match s.thread? t with
  | none => s
  | some x =>
    (x.loads.filter (fun l => !l.done && l.loc.sector == sec)).foldl (fun s l => s.settleFlight (s.coreOf t.team) l.at_ sec) s

/-- A load that needs bytes of a peer's memory: its thread stands at the `LD` until it returns (R267, R295, log entry 105). -/
def goesRemote (s : State) (crew : CrewId) (core : Nat) (loc : Loc) (n : Nat) : Bool :=
  (match loc with | .pa a => (peerOf a).isSome | .env _ _ => false) && s.needsFar crew core loc n

end State

/-- The first byte of a load that neither a buffer nor L1 supplies and that is not valid at device reach (R469). -/
def firstMissing (s : State) (crew : CrewId) (core : Nat) (loc : Loc) (n : Nat) : Nat :=
  ((List.range n).find? (fun i => (s.loadByte? crew core (loc.add i)).isNone)).getD 0

/-- The load itself (R380): the value is read now, or once more at its return when the choice says so (R131, log entry 16); the registers are not
ready until LOAD_RETURN. A load of a peer's memory has no effect before it returns (log entry 105). -/
def loadAt (o : OpMem) (t : Thread) (va : Nat) (s : State) (tr : Translation) (loc : Loc) : State :=
  let n := szBytes o.sz.val
  let core := s.coreOf t.id.team
  let s := s.settleLandings core t.id.crewId loc.sector
  let s := s.settleLoads t.id loc.sector
  let s := if s.choice = 0 then s.settleFlight core s.flightNo loc.sector else s
  if s.delayed loc && s.needsFar t.id.crewId core loc n then s.stallThread t.id
  else match s.loadBytes? t.id.crewId core loc n with
  | none => s.threadMiss t va (firstMissing s t.id.crewId core loc n) tr loc .read
  | some bs =>
    let inst := if s.needsFar t.id.crewId core loc n && (s.sectorFill? core loc.sector).isSome then some loc.sector else none
    let l : Load := { slot := s.lastId + 1, dst := o.d.val, regs := szRegs o.sz.val, size := n, sext := decide (o.sz.val ≥ 5),
                      ctx := s.ctxId t.id.team, va := va, loc := loc, done := s.choice == 0, install := inst, at_ := s.flightNo,
                      remote := false }
    if s.goesRemote t.id.crewId core loc n then
      s.fresh.modThread t.id (fun x => { x with stall := .remote, loads := x.loads ++ [{ l with done := false, remote := true }] })
    else
      s.fresh.choose.modThread t.id (fun x =>
        { (x.setRegs o.d.val (loadedRegs o.sz.val bs)).advance 4 with loads := x.loads ++ [l] })

/-- `LD` (R379, R380). -/
def execLd (o : OpMem) (s : State) : Out :=
  .next (laneEach 4 o.g (fun s t =>
    let va := memAddr t o
    s.withAccess t va (szBytes o.sz.val) false .read (loadAt o t va)) s)

/-! ### ST -/

/-- The limit that keeps a store of one sector out of its crew's buffer (R120, R121): 0 the crew quota, 3 the collector. -/
def storeLimit (s : State) (c : CrewId) (sec : Loc) : Option Nat :=
  let mine := s.buffers.filter (fun b => b.buf == .crew c)
  if mine.any (fun b => b.loc.sector == sec) then none
  else if State.sectorCount mine ≥ Config.crewQuota then some 0
  else if s.collectorCount s.buffers (s.coreOf c.team) ≥ Config.collectorSectors then some 3
  else none

/-- Writes a store's bytes into the crew buffer, with the crew as author (R106). -/
def storeBytes (s : State) (c : CrewId) (ctx va : Nat) (tr : Translation) (loc : Loc) (bs : List Byte) : State :=
  bs.zipIdx.foldl (fun s b =>
    s.bufPut { buf := .crew c, author := .crew c, ctx := ctx, va := va + b.2, loc := loc.add b.2, tr := tr, val := b.1 }) s

/-- What a flight of `ST` has noted so far: threads without room, with their limits, and threads whose bytes landed. -/
structure StoreNotes where
  failed : List (ThreadId × Nat)
  landed : List ThreadId

/-- One thread of `ST` (R411): its bytes land, or it takes its own trap, waits for a walk, or notes STORE_OVF. -/
def storeThread (o : OpMem) (s : State) (t : Thread) (n : StoreNotes) : State × StoreNotes :=
  let va := memAddr t o
  let size := szBytes o.sz.val
  let c := t.id.crewId
  match s.access t.id.team va size true with
  | .ok tr loc =>
    let s := s.settleLoads t.id loc.sector
    match storeLimit s c loc.sector with
    | some lim => (s, { n with failed := n.failed ++ [(t.id, lim)] })
    | none =>
      (storeBytes s c (s.ctxId t.id.team) va tr loc (storedBytes t o.d.val o.sz.val), { n with landed := n.landed ++ [t.id] })
  | _ => (s.withAccess t va size true .write (fun s _ _ => s), n)

/-- After the flight (R120, R121, R411): in a crew without notes the threads whose bytes landed continue; a crew with a note
takes STORE_OVF, with the limit that its lowest failing lane found, and its threads resume at the `ST`. -/
def settleStores (s : State) (n : StoreNotes) : State :=
  let bad := (n.failed.map (fun f => f.1.crewId)).eraseDups
  let s := (n.landed.filter (fun t => !bad.contains t.crewId)).foldl (fun s t => s.modThread t (·.advance 4)) s
  bad.foldl (fun s c =>
    let mine := n.failed.filter (fun f => f.1.crewId == c)
    s.storeOvf c ((mine.head?.map Prod.snd).getD 0) (fun t => mine.any (fun f => f.1 == t))) s

/-- `ST` (R410 to R412). -/
def execSt (o : OpMem) (s : State) : Out :=
  let r := s.cur.ids.foldl (fun (r : State × StoreNotes) id =>
    match r.1.thread? id with
    | none => r
    | some t => if t.guard o.g then storeThread o r.1 t r.2 else (r.1.modThread id (·.advance 4), r.2))
    ({ s with cur := .idle }, ⟨[], []⟩)
  .next (settleStores r.1 r.2)

/-! ### Scratchpad -/

/-- `LDS` (R381). -/
def execLds (o : OpMem) (s : State) : Out :=
  .next (laneEach 4 o.g (fun s t =>
    let ea := spadAddr t o
    let n := szBytes o.sz.val
    s.withSpad t ea n (fun s =>
      s.modThread t.id (fun x => (x.setRegs o.d.val (loadedRegs o.sz.val (s.spadBytes t.id.team ea n))).advance 4))) s)

/-- `STS` (R413). -/
def execSts (o : OpMem) (s : State) : Out :=
  .next (laneEach 4 o.g (fun s t =>
    let ea := spadAddr t o
    s.withSpad t ea (szBytes o.sz.val) (fun s =>
      (s.spadWrite t.id.team ea (storedBytes t o.d.val o.sz.val)).modThread t.id (·.advance 4))) s)

/-! ### LDT (R99, R100, R382) -/

/-- A record in the layout-record cache of a cluster (R100). -/
def layoutCached (s : State) (cluster ctx h : Nat) : Option (List Byte) :=
  (s.layouts.find? (fun l => l.cluster == cluster && l.ctx == ctx && l.handle == h)).map LayoutEntry.bytes

/-- `LDT` (R382). A record that the cache does not hold is read whole, all 64 bytes (log entry 83). -/
def execLdt (o : OpMem) (s : State) : Out :=
  .next (laneEach 4 o.g (fun s t =>
    match s.ctxOf t.id.team with
    | none => s
    | some c =>
      let h := (t.reg o.a.val).toNat % 0x10000
      let cl := clusterOf (s.coreOf t.id.team)
      let off := o.off.val * szBytes o.sz.val
      let give := fun (s : State) (bs : List Byte) =>
        s.modThread t.id (fun x =>
          (x.setRegs o.d.val (loadedRegs o.sz.val ((bs.drop off).take (szBytes o.sz.val)))).advance 4)
      if h ≥ c.regs.lrcount then s.threadTrap t .badHandle (BitVec.ofNat 32 h) 0
      else match layoutCached s cl c.id h with
        | some bs => give s bs
        | none =>
          let va := c.regs.lrbase + 64 * h
          match s.tlbFind (s.coreOf t.id.team) c.id va with
          | none =>
            (s.joinWalk c.id (s.coreOf t.id.team) va .read false (.thread t.id)).modThread t.id
              (fun x => { x with stall := .walk })
          | some tr =>
            let loc := tr.loc c.id va
            if !s.reachable loc false then (s.logDenial loc .device false).addrTrap t .access va
            else if s.delayed loc then s.stallThread t.id
            else match s.devBytes? loc 64 with
              | some bs => give (s.layoutFill cl c.id h bs) bs
              | none => s.threadMiss t va (s.firstInvalid loc 64) tr loc .read) s)

/-! ### PREF (R397) -/

/-- A prefetch of a crew whose translation is known asks for its sectors (R397); a place that an access table denies drops it. -/
def State.askPrefetch (s : State) (c : CrewId) (va n : Nat) (tr : Translation) : State :=
  let loc := tr.loc (s.ctxId c.team) va
  if s.reachable loc false then (s.settleLandings (s.coreOf c.team) c loc.sector).prefetch c.team va n tr loc
  else s.logDenial loc .device false

/-- A prefetch without a translation joins a walk in progress for its frame, or walks at once, as a load would; a failure drops it (R92, R397). -/
def State.walkPrefetch (s : State) (c : CrewId) (va n : Nat) : State :=
  let ctx := s.ctxId c.team
  let core := s.coreOf c.team
  if s.walking ctx core va then s.joinWalk ctx core va .read false (.prefetch c.team n)
  else
    let r := s.walk core ⟨ctx, va, false, false⟩
    match r.2 with
    | .error _ => r.1
    | .ok tr => r.1.askPrefetch c va n tr

/-- `PREF` (R396, R397): it never traps; a check that fails drops it. -/
def execPref (o : OpPref) (s : State) : Out :=
  .next (laneEach 4 o.g (fun s t =>
    let n := szBytes o.sz.val
    let va := t.pair o.a.val + o.off.val * n
    let core := s.coreOf t.id.team
    let ctx := s.ctxId t.id.team
    let s' := match s.access t.id.team va n false with
      | .ok tr _ => s.askPrefetch t.id.crewId va n tr
      | .trap _ =>
        (match s.tlbFind core ctx va with
         | some tr => if va % n = 0 ∧ va + n ≤ 2 ^ 52 ∧ !s.lockedBy core ctx va n false then s.askPrefetch t.id.crewId va n tr else s
         | none => s)
      | .walk => s.walkPrefetch t.id.crewId va n
    s'.modThread t.id (·.advance 4)) s)

/-! ### WAITM (R277) -/

/-- The compare and the arming, in one step at the home of the address (R277). -/
def waitAt (o : OpMem) (t : Thread) (va : Nat) (s : State) (tr : Translation) (loc : Loc) : State :=
  let n := szBytes o.sz.val
  if s.delayed loc then s.stallThread t.id
  else match s.devBytes? loc n with
  | none => s.threadMiss t va (s.firstInvalid loc n) tr loc .read
  | some bs =>
    if leNat bs ≠ leNat (storedBytes t o.d.val o.sz.val) then s.modThread t.id (·.advance 4)
    else
      let m : Monitor := ⟨t.id, loc.sector, s.cycleOf (s.coreOf t.id.team)⟩
      State.modThread { s with monitors := s.monitors ++ [m] } t.id (fun x => { x with park := .monitor })

/-- `WAITM` (R277, R419). -/
def execWaitm (o : OpMem) (s : State) : Out :=
  .next (laneEach 4 o.g (fun s t =>
    let va := memAddr t o
    s.withAccess t va (szBytes o.sz.val) false .read (waitAt o t va)) s)

end Sys2Proof.Machine
end

