-- ==== Sys2Proof/Machine/AtomLane.lean ====
section
/-!
DEFINITION. Atomics and reductions: `ATOM` (R330, R331), `CAS` (R341) and `RED` (R400 to R402), and how they perform at the homes of
R123.
-/

namespace Sys2Proof.Machine

/-- f(AOP, old, operand) on 4 or 8 bytes (R330). -/
def atomApply (op : AtomOp) (wide : Bool) (old opd : DWord) : DWord :=
  let w := if wide then 64 else 32
  let so := sintOf w old.toNat
  let sp := sintOf w opd.toNat
  match op with
  | .add => BitVec.ofNat 64 ((old.toNat + opd.toNat) % 2 ^ w)
  | .minS => if so ≤ sp then old else opd
  | .maxS => if so ≤ sp then opd else old
  | .minN => if old.toNat ≤ opd.toNat then old else opd
  | .maxN => if old.toNat ≤ opd.toNat then opd else old
  | .and => old &&& opd
  | .or => old ||| opd
  | .xor => old ^^^ opd
  | .exch => opd
  | .addF32 => BitVec.ofNat 64 (addF32 (BitVec.ofNat 32 old.toNat) (BitVec.ofNat 32 opd.toNat)).toNat
  | .maxF32 => BitVec.ofNat 64 (maxF32 (BitVec.ofNat 32 old.toNat) (BitVec.ofNat 32 opd.toNat)).toNat

namespace State

/-- The first byte of an operand that its home needs and that is not valid at device reach (R469). -/
def homeMissing (s : State) (sc : Scope) (cluster : Nat) (loc : Loc) (n : Nat) : Nat :=
  match sc with
  | .cluster => ((List.range n).find? (fun i => (s.farByte? cluster (loc.add i)).isNone)).getD 0
  | _ => s.firstInvalid loc n

/-- The bytes that the home of a scope holds at a global place (R123); none when it needs an invalid envelope word (R469). -/
def homeBytes? (s : State) (sc : Scope) (cluster : Nat) (loc : Loc) (n : Nat) : Option (List Byte) :=
  match sc with
  | .cluster => (List.range n).mapM (fun i => s.farByte? cluster (loc.add i))
  | _ => s.devBytes? loc n

/-- The cluster unit makes room: while its buffer holds more sectors than it has, it evicts one that holds its own words only (R119, R124);
a choice says which. -/
def unitRoom (s : State) (cl : Nat) : State :=
  let mine := s.buffers.filter (fun b => b.buf == .cluster cl)
  if sectorCount mine ≤ Config.clusterSectors then s
  else
    let own := ((mine.map (fun b => b.loc.sector)).eraseDups).filter (fun sec =>
      (mine.filter (fun b => b.loc.sector == sec)).all (fun b => b.author == .unit))
    match own[s.choice % own.length]? with
    | none => s
    | some sec => s.choose.sendUnit cl ⟨0, 0⟩ 0 (fun b => b.loc.sector == sec)

/-- Writes an atomic's result at its home (R123): cluster scope in the cluster buffer, authored by the unit and with the core's
L1 copy updated; device and system scope at device reach, with the sector in the core's L1 invalidated. -/
def homeWrite (s : State) (sc : Scope) (core ctx va : Nat) (tr : Translation) (loc : Loc) (bs : List Byte) : State :=
  match sc with
  | .cluster =>
    let s := bs.zipIdx.foldl (fun s b =>
      (s.bufPut { buf := .cluster (clusterOf core), author := .unit, ctx := ctx, va := va + b.2, loc := loc.add b.2, tr := tr,
                  val := b.1 }).l1Update core (loc.add b.2) b.1) s
    (s.wakeCluster (clusterOf core) loc.sector).unitRoom (clusterOf core)
  | _ => (s.devWrite ctx va tr loc bs).l1Drop core loc

/-- Before an atomic at cluster scope reads its home, what the cluster could see and is on its way lands (R123, R133). -/
def settleHome (s : State) (sc : Scope) (core : Nat) (c : CrewId) (sec : Loc) : State :=
  match sc with
  | .cluster => s.settleDue (fun l => l.loc == sec && sees core c l && (l.author == .unit || decide (2 ≤ l.seen)))
  | _ => s

/-- An operation at the home of a scope needs bytes behind a link that is down (R295). -/
def homeDelayed (s : State) (sc : Scope) (cluster : Nat) (loc : Loc) (n : Nat) : Bool :=
  s.delayed loc && (match sc with
    | .cluster => (List.range n).any (fun i => (s.bufGet (.cluster cluster) (loc.add i)).isNone)
    | _ => true)

end State

/-- Before the atomics of a flight, the loads of its threads from their sectors perform: nothing then comes between the atomics of a run (R130, R331).
-/
def settleRun (g : Guard) (a : Nat) (wide : Bool) (sc : Scope) (s : State) : State :=
  s.cur.ids.foldl (fun x id =>
    match s.thread? id with
    | none => x
    | some t =>
      if !t.guard g || sc == .team then x
      else match s.access id.team (atomAddr t a sc) (atomSize wide) true with
        | .ok _ loc => x.settleLoads id loc.sector
        | _ => x) { s with cur := .idle }

/-- A returning atomic at its home, where it performs at issue (log entry 84): `f` gives the new value, or none where a compare fails; the
registers take the old value (R330, R341). -/
def atomAt (t : Thread) (d : Nat) (wide : Bool) (sc : Scope) (va : Nat) (f : DWord → Option DWord)
    (s : State) (tr : Translation) (loc : Loc) : State :=
  let n := atomSize wide
  let core := s.coreOf t.id.team
  let s := s.settleHome sc core t.id.crewId loc.sector
  if s.homeDelayed sc (clusterOf core) loc n then s.stallThread t.id
  else match s.homeBytes? sc (clusterOf core) loc n with
  | none => s.threadMiss t va (s.homeMissing sc (clusterOf core) loc n) tr loc .atomic
  | some bs =>
    let old : DWord := BitVec.ofNat 64 (leNat bs)
    let s := match f old with
      | none => s
      | some new => s.homeWrite sc core (s.ctxId t.id.team) va tr loc (leBytes n new.toNat)
    s.modThread t.id (fun x => (x.setRegs d (wideRegs wide old)).advance 4)

/-- A returning atomic on the scratchpad (R123, R132). -/
def atomSpad (t : Thread) (d : Nat) (wide : Bool) (ea : Nat) (f : DWord → Option DWord) (s : State) : State :=
  let n := atomSize wide
  s.withSpad t ea n (fun s =>
    let old : DWord := BitVec.ofNat 64 (s.spadNat t.id.team ea n)
    let s := match f old with
      | none => s
      | some new => s.spadWrite t.id.team ea (leBytes n new.toNat)
    s.modThread t.id (fun x => (x.setRegs d (wideRegs wide old)).advance 4))

/-- A returning atomic of a thread (R330). -/
def atomThread (t : Thread) (a d : Nat) (wide : Bool) (sc : Scope) (f : DWord → Option DWord) (s : State) : State :=
  let ea := atomAddr t a sc
  match sc with
  | .team => atomSpad t d wide ea f s
  | _ => s.withAccess t ea (atomSize wide) true .atomic (atomAt t d wide sc ea f)

/-- `ATOM` (R329 to R331). -/
def execAtom (o : OpAtom) (s : State) : Out :=
  .next (laneFrom 4 o.g (fun s t =>
    atomThread t o.a.val o.d.val o.w o.sc (fun old => some (atomApply o.op o.w old (atomOperand t o.d.val o.w))) s) s
    (settleRun o.g o.a.val o.w o.sc s))

/-- `CAS` (R341): the compare value stands at D, the new value after it. -/
def execCas (o : OpCas) (s : State) : Out :=
  .next (laneFrom 4 o.g (fun s t =>
    let next := o.d.val + (if o.w then 2 else 1)
    atomThread t o.a.val o.d.val o.w o.sc (fun old =>
      if old = atomOperand t o.d.val o.w then some (atomOperand t next o.w) else none) s) s (settleRun o.g o.a.val o.w o.sc s))

/-- Sends a `RED` towards its home and counts it (R111, R401). -/
def sendRed (o : OpAtom) (t : Thread) (ea : Nat) (tr : Translation) (loc : Loc) (s : State) : State :=
  let crew := t.id.crewId
  match s.crew? crew with
  | none => s
  | some x =>
    if x.unack ≥ Config.unackLimit then s.stallThread t.id
    else
      let r : RedOp := { crews := [crew], team := t.id.team, scope := o.sc, op := o.op, wide := o.w,
                         operand := atomOperand t o.d.val o.w, off := ea, va := ea, loc := loc, ctx := s.ctxId t.id.team,
                         tr := tr, core := s.coreOf t.id.team, waiting := false }
      ({ s with reds := s.reds ++ [r] }.modCrew crew (fun x => { x with unack := x.unack + 1 })).modThread t.id (·.advance 4)

/-- `RED` (R400, R401). -/
def execRed (o : OpAtom) (s : State) : Out :=
  .next (laneEach 4 o.g (fun s t =>
    let ea := atomAddr t o.a.val o.sc
    let n := atomSize o.w
    match o.sc with
    | .team => s.withSpad t ea n (sendRed o t ea ⟨0, 0, 0, false, false, false, false, false, 0⟩ (.pa 0))
    | sc =>
      s.withAccess t ea n true .atomic (fun s tr loc =>
        let cl := clusterOf (s.coreOf t.id.team)
        let s := s.settleLoads t.id loc.sector
        match s.homeBytes? sc cl loc n with
        | none => s.threadMiss t ea (s.homeMissing sc cl loc n) tr loc .atomic
        | some _ => sendRed o t ea tr loc s)) s)

/-! ### Reductions at their homes (R123, R134) -/

/-- The acknowledgements of a reduction: one to each crew whose operation it holds (R111). It has replayed if it waited for a fill (R198). -/
def ackRed (s : State) (r : RedOp) : State :=
  { s.unpin (.red r) with acks := s.acks ++ r.crews.map (fun c => (⟨.crew c, 0, r.core⟩ : Ack)) }

/-- A reduction that can no longer perform is dropped and acknowledged, and its crews take the trap: ACCESS where its place cannot be reached (R295,
log entry 86), GEN_NEST or GEN_FAIL where its miss fails (R193, R196, log entry 81). -/
def dropRed (s : State) (r : RedOp) (c : Cause) (trapv : Word) : State :=
  r.crews.foldl (fun s d => s.crewTrap d c (fun _ => true) (fun _ => trapv) (r.va / 2 ^ 32)) (ackRed s r)

/-- A reduction performs at its home (R123, R134); one that needs an invalid envelope word takes the miss path (R189). -/
def performRed (s : State) (r : RedOp) : State :=
  let n := atomSize r.wide
  match r.scope with
  | .team =>
    let old : DWord := BitVec.ofNat 64 (s.spadNat r.team r.off n)
    ackRed (s.spadWrite r.team r.off (leBytes n (atomApply r.op r.wide old r.operand).toNat)) r
  | sc =>
    if !s.reachable r.loc true then dropRed (s.logDenial r.loc .device true) r .access (BitVec.ofNat 32 r.va)
    else
      let s := s.settleHome sc r.core ⟨r.team, 0⟩ r.loc.sector
      match s.homeBytes? sc (clusterOf r.core) r.loc n with
      | some bs =>
        let new := atomApply r.op r.wide (BitVec.ofNat 64 (leNat bs)) r.operand
        ackRed (s.homeWrite sc r.core r.ctx r.va r.tr r.loc (leBytes n new.toNat)) r
      | none =>
        let i := s.homeMissing sc (clusterOf r.core) r.loc n
        (s.unpin (.red r)).sendMiss r.ctx r.va i r.tr (r.loc.add i) (s.fdepthOf r.team) (s.effClass r.team) (.red { r with waiting := true })
          .atomic

/-- A reduction can perform: at team scope its scratchpad line must be present (R79), at another its link must be up (R295). -/
def redReady (s : State) (r : RedOp) : Bool :=
  match r.scope with
  | .team => s.spadPresent r.team r.off (atomSize r.wide)
  | sc => !s.homeDelayed sc (clusterOf r.core) r.loc (atomSize r.wide)

/-- The outstanding reductions of a crew on its team's scratchpad. -/
def spadReds (s : State) (c : CrewId) : List RedOp := s.reds.filter (fun r => r.scope == .team && r.crews.contains c)

/-- They perform, one after another. -/
def performSpadReds (s : State) (c : CrewId) : State :=
  (spadReds s c).foldl performRed { s with reds := s.reds.filter (fun r => !(r.scope == .team && r.crews.contains c)) }

end Sys2Proof.Machine
end

