-- ==== Sys2Proof/Machine/Barrier.lean ====
section
/-!
DEFINITION. Barriers (R145 to R160): arrivals, exits, completion with straggler reports, phase tokens, and the instructions
`BAR`, `BARA` and `BARW` (R332 to R334).
-/

namespace Sys2Proof

/-- The commit level of `.CMT` and `.ACQ` at a barrier level (R139, R151). -/
def BarLevel.commitLevel : BarLevel → Nat
  | .crew => 0
  | .team => 1
  | .cluster => 2
  | .grid => 3

namespace Machine

/-- The special-register number of a barrier (R154). -/
def BarRef.number (b : BarRef) : Nat :=
  match b.level with
  | .grid => 0x50 + b.id
  | .cluster => 0x30 + b.id
  | _ => 0x20 + b.id

/-- The barrier of a special-register number (R154). -/
def barrierOfNumber (n : Nat) : Option BarRef :=
  if 0x20 ≤ n ∧ n < 0x30 then some ⟨.team, n - 0x20⟩
  else if 0x30 ≤ n ∧ n < 0x50 then some ⟨.cluster, n - 0x30⟩
  else if 0x50 ≤ n ∧ n < 0x54 then some ⟨.grid, n - 0x50⟩
  else none

/-- A phase token (R154). -/
def tokenOf (b : BarRef) (p : Nat) : Word := BitVec.ofNat 32 (p % 2 ^ 24 * 0x100 + b.number)

namespace State

/-- The clock that a barrier's WAIT counts: core cycles for a team barrier, device time otherwise (R159). -/
def barrierNow (s : State) (team : Nat) (l : BarLevel) : Nat :=
  match l with
  | .cluster | .grid => s.time
  | _ => s.cycleOf (s.coreOf team)

/-- A thread arrives with a count (R148, R155), by `BAR` or by `BARA`. -/
def arrive (s : State) (t : ThreadId) (b : BarRef) (n : Nat) (bar : Bool) : State :=
  let r : Arrival := { team := t.team, tid := t.tid, core := s.coreOf t.team, at_ := s.barrierNow t.team b.level, units := n, bar := bar }
  if n = 0 then s
  else s.modBarrier t.team b (fun x => { x with a := x.a + n, arr := x.arr ++ [r] })

end State

/-- A barrier loses a member by an exit (R147); when that completes the phase the exiting thread is reported (R159). -/
def Barrier.leave (x : Barrier) (tid core : Nat) : Barrier :=
  let e := x.e - 1
  if x.a ≥ e ∧ e ≥ 1 ∧ x.a < x.e then { x with e := e, exit := some (tid, core) }
  else { x with e := e }

/-- The phase can complete (R148). -/
def Barrier.complete? (x : Barrier) : Bool := decide (x.a ≥ x.e) && decide (x.e ≥ 1)

/-- The phase that a next unit joins (R148, R155): arrivals beyond a phase are carried into the next. -/
def Barrier.joins (x : Barrier) : Nat := (x.p + x.a / x.e) % 2 ^ 24

/-- Units of A that no listed arrival made: a restored barrier has A alone (R158). -/
def Barrier.unlisted (x : Barrier) : Nat := x.a - x.arr.foldl (fun n r => n + r.units) 0

/-- The arrival that holds the `n`-th unit of a list. -/
def arrivalAt : List Arrival → Nat → Option Arrival
  | [], _ => none
  | r :: l, n => if n ≤ r.units then some r else arrivalAt l (n - r.units)

/-- A list of arrivals without its first `n` units; what is left counts as made at `now` (R159). -/
def dropUnits (now : Nat) : List Arrival → Nat → List Arrival
  | [], _ => []
  | r :: l, n =>
    if n < r.units then { r with units := r.units - n, at_ := now } :: l.map (fun x => { x with at_ := now })
    else dropUnits now l (n - r.units)

/-- The first arrival of the running phase (R159). -/
def Barrier.first (x : Barrier) : Option Nat := if x.unlisted = 0 then x.arr.head?.map Arrival.at_ else none

/-- `%tid`, core and BYEXIT of the phase's report (R159): the exit that completed it, or the arrival of its last unit. -/
def Barrier.last (x : Barrier) : Option (Nat × Nat × Bool) :=
  match x.exit with
  | some (tid, core) => some (tid, core, true)
  | none =>
    if x.e ≤ x.unlisted then none
    else (arrivalAt x.arr (x.e - x.unlisted)).map (fun r => (r.tid, r.core, false))

/-- The phase completes (R148); arrivals beyond it are carried and count as made now (R159). -/
def Barrier.next (x : Barrier) (now : Nat) : Barrier :=
  { x with a := x.a - x.e, p := (x.p + 1) % 2 ^ 24, arr := dropUnits now x.arr (x.e - x.unlisted), exit := none }

/-- A token's phase has been completed when the barrier is in phase `p` (R156). -/
def tokenDone (p phase : Nat) : Bool :=
  let d := (p + 2 ^ 24 - phase % 2 ^ 24) % 2 ^ 24
  decide (1 ≤ d) && decide (d ≤ 2 ^ 23)

/-- `%strag.id` (R159). -/
def stragId (tid core : Nat) (byExit : Bool) : Word :=
  BitVec.ofNat 32 (tid % 0x400 + 0x400 * (core % 0x400) + (if byExit then 0x40000000 else 0) + 0x80000000)

/-- `%strag.wait`: saturating (R159). -/
def stragWait (n : Nat) : Word := BitVec.ofNat 32 (min n 0xFFFFFFFF)

namespace State

/-- Latches a report into the crews of a team, or holds it until swap-in (R159). -/
def report (s : State) (team : Nat) (id wait : Word) : State :=
  match (s.team? team).map Team.place with
  | some (.resident _) | some (.draining _) =>
    { s with crews := updWhere (fun c => c.id.team == team) (fun c => { c with stragId := id, stragWait := wait }) s.crews }
  | some _ => s.modTeam team (fun t => { t with heldReport := some (id, wait) })
  | none => s

/-- A waiter of a barrier leaves: it continues at the next instruction, after its `.ACQ` (R139, R151, R156), which waits for the thread's
outstanding loads first (R122). -/
def leaveBarrier (s : State) (t : Thread) (l : BarLevel) (acq : Bool) : State :=
  let wait := acq && !t.loads.isEmpty
  let s := if acq && !wait then acquire s t.id.team l.commitLevel else s
  s.modThread t.id (fun x =>
    { x with park := .none, committed := false, pc := x.pc + 4, stall := if wait then .acq l.commitLevel else x.stall })

/-- Releases the waiters of a barrier, now in phase `p`, among the threads of some teams (R148); those of a team barrier are ready one cycle
later than the phase completes (R157). A waiter whose team is out leaves when its team comes back (R68); the team then has a wake event (R62). -/
def release (s : State) (teams : List Nat) (b : BarRef) (p : Nat) : State :=
  (s.threads.filter (fun t => teams.contains t.id.team && t.live)).foldl (fun s t =>
    match t.park with
    | .barrier r ph acq _ =>
      if r == b && tokenDone p ph then
        if s.outside t.id.team then s.modTeam t.id.team (fun x => { x with wake := true })
        else (s.leaveBarrier t b.level acq).modThread t.id (fun x =>
          if b.level = .team ∧ !(acq && !t.loads.isEmpty) then { x with stall := .released } else x)
      else s
    | _ => s) s

/-- Completes a phase of a barrier whose members are the given teams (R148, R159). The completion of a team barrier stands one cycle
after the last arrival (R157). What a report would say of an arrival made before a pre-emption, which saves E, A and P only (R158),
is a free value. DESIGN CHOICE: a team that moves to another core within a phase has its first arrival compared with its new core's cycle count, and
never gives less than 0 (log entry 102). -/
def completePhase (s : State) (teams : List Nat) (team : Nat) (b : BarRef) : State :=
  match s.barrier? team b with
  | none => s
  | some x =>
    if !x.complete? then s
    else
      let now := match b.level with
        | .cluster | .grid => s.barrierNow team b.level
        | _ => s.barrierNow team b.level + 1
      let wait := match x.first, b.level with
        | some f, .cluster | some f, .grid => stragWait ((now - f) * 3 / 2000000)
        | some f, _ => stragWait (now - f)
        | none, _ => Config.freeWord s.freeCtr
      let id := match x.last with
        | some (tid, core, byExit) => stragId tid core byExit
        | none => stragId (Config.freeWord (s.freeCtr + 1)).toNat (Config.freeWord (s.freeCtr + 2)).toNat false
      let s := if x.first.isSome && x.last.isSome then s else { s with freeCtr := s.freeCtr + 3 }
      let s := s.modBarrier team b (fun x => x.next now)
      let s := teams.foldl (fun s n => s.report n id wait) s
      s.release teams b ((x.p + 1) % 2 ^ 24)

/-- SAT_TRAP reaches a crew (R160): delivery clears the arm and leaves `%sat`. -/
def satTrap (s : State) (c : Crew) (own : ThreadId → Bool) : State :=
  (s.modCrew c.id (fun x => { x with satArm := false })).crewTrap c.id .satTrap own (fun _ => c.sat) 0

/-- The crew is armed and its sticky flag is non-zero (R160). -/
def satDue (s : State) (c : CrewId) : Bool :=
  match s.crew? c with
  | none => false
  | some x => x.satArm && x.sat != 0

end State

namespace State

/-- The completion of a `BAR.CREW` rendezvous in a cycle of its core (R150, R159, R160): SAT_TRAP in an armed crew, otherwise the straggler
report. Of the threads that arrived in the last cycle the highest lane is named, and an exit of that cycle before them (log entry 85). -/
def completeCrewBar (s : State) (x : Crew) (all : List Thread) : State :=
  if x.satArm && x.sat != 0 then s.satTrap x (fun _ => true)
  else
    let core := s.coreOf x.id.team
    let now := s.cycleOf core
    let at_ := all.map (fun t => (t.arrived.getD now, t.id.tid))
    let first := at_.foldl (fun n a => min n a.1) now
    let last := at_.foldl (fun (m : Nat × Nat) a => if a.1 ≥ m.1 then a else m) (0, 0)
    let byExit := match x.exitAt with | some (_, cyc) => decide (cyc ≥ last.1) | none => false
    let tid := if byExit then (x.exitAt.map Prod.fst).getD 0 else last.2
    s.modCrew x.id (fun x => { x with stragId := stragId tid core byExit, stragWait := stragWait (now - first) })

end State

/-! ### The meanings -/

/-- `BAR.CREW` (R150): the rendezvous itself. Its completion, with the report or SAT_TRAP, comes with the rendezvous's, here at the latest;
then the threads continue. -/
def barCrew (s : State) : State :=
  match s.cur.ids.head?.bind (fun t => s.crew? t.crewId) with
  | none => { s with cur := .idle }
  | some x =>
    let all := s.cur.ids.filterMap s.thread?
    if x.complete then laneCrew guardTrue (fun s _ all _ => s.leaveAll all 4) s
    else if x.satArm && x.sat != 0 then ({ s with cur := .idle }).completeCrewBar x all
    else laneCrew guardTrue (fun s _ all _ => s.leaveAll all 4) (s.completeCrewBar x all)

/-- One thread of `BAR` at team, cluster or grid level (R151), after the saturation test. -/
def barThread (o : OpBar) (s : State) (t : Thread) : State :=
  let b : BarRef := ⟨o.level, o.id.val⟩
  match s.barrier? t.id.team b, s.crew? t.id.crewId with
  | none, _ => s.threadTrap t .badHandle (BitVec.ofNat 32 o.id.val) 0
  | _, none => s
  | some x, some c =>
    if o.cmt && !t.committed then
      if c.unack > Config.unackLimit then s.stallThread t.id
      else
        s.startCommit c o.level.commitLevel false
          { crew := c.id, members := [t.id], waiters := [t.id], pd := 7, result := false, cflict := 0, unitWait := [], units := false, barrier := true,
            trap := none } (fun i => i == t.id)
    else
      (s.arrive t.id b 1 true).modThread t.id (fun y => { y with park := .barrier b x.joins o.acq true })

/-- The guard-true threads of a flight whose arrival raises SAT_TRAP (R160, R332, R475): their crew is armed, and their barrier
is claimed. -/
def satThreads (g : Guard) (b : BarRef) (s : State) : List ThreadId :=
  s.cur.ids.filter (fun i =>
    match s.thread? i with
    | none => false
    | some t => t.guard g && !t.committed && s.satDue i.crewId && (s.barrier? i.team b).isSome)

/-- Runs a barrier arrival for a flight: the crews that trap take SAT_TRAP and their arrivals do not act (R160). -/
def arriveEach (g : Guard) (b : BarRef) (f : State → Thread → State) (s : State) : State :=
  let sat := satThreads g b s
  let s' := laneEach 4 g (fun s t => if sat.contains t.id then s else f s t) s
  ((sat.map ThreadId.crewId).eraseDups).foldl (fun s c =>
    match s.crew? c with
    | none => s
    | some x => s.satTrap x (fun i => sat.contains i)) s'

/-- `BAR` (R149 to R153, R332). -/
def execBar (o : OpBar) (s : State) : Out :=
  .next (match o.level with
    | .crew => barCrew s
    | _ => arriveEach o.g ⟨o.level, o.id.val⟩ (barThread o) s)

/-- One thread of `BARA` (R155, R333). -/
def baraThread (o : OpBara) (s : State) (t : Thread) : State :=
  let b : BarRef := ⟨o.level, o.id.val⟩
  match s.barrier? t.id.team b with
  | none => s.threadTrap t .badHandle (BitVec.ofNat 32 o.id.val) 0
  | some x =>
    (s.arrive t.id b ((opb s t o.b).toNat % 0x10000) false).modThread t.id (fun y =>
      (y.setReg o.d.val (tokenOf b x.joins)).advance 4)

/-- `BARA` (R155, R333). -/
def execBara (o : OpBara) (s : State) : Out := .next (arriveEach o.g ⟨o.level, o.id.val⟩ (baraThread o) s)

/-- `BARW` (R156, R334). -/
def execBarw (o : OpBarw) (s : State) : Out :=
  .next (laneEach 4 o.g (fun s t =>
    let tok := t.reg o.a.val
    match (barrierOfNumber (tok.toNat % 0x100)).bind (fun b => (s.barrier? t.id.team b).map (fun x => (b, x))) with
    | none => s.threadTrap t .badHandle tok 0
    | some (b, x) =>
      let phase := tok.toNat / 0x100
      if tokenDone x.p phase then s.leaveBarrier t b.level o.acq
      else s.modThread t.id (fun y => { y with park := .barrier b phase o.acq false })) s)

end Machine
end Sys2Proof
end

