-- ==== Sys2Proof/Machine/Collective.lean ====
section
/-!
DEFINITION. The crew collectives that exchange registers and predicates: `SHFL` (R405, R406), `VOTE` (R418), `CREDUCE` (R345,
R346) and `ELECT` (R348). Each acts once for the crew; a thread whose guard is false only continues (R27).
-/

namespace Sys2Proof
namespace Machine

/-- A collective that changes only its guard-true threads: `f` gives each one's new state from the state before. -/
def crewReg (g : Guard) (f : State → List Thread → Thread → Thread) (s : State) : State :=
  laneCrew g (fun s _ all set =>
    let s' := set.foldl (fun x t => x.modThread t.id (fun _ => f s set t)) s
    s'.leaveAll all 4) s

/-- The source lane of `SHFL`, which may lie outside 0 to 31 (R405). -/
def shflLane (m : ShflMode) (lane : Nat) (b : Word) : Int :=
  match m with
  | .idx => (b.toNat % 32 : Nat)
  | .up => (lane : Int) - b.toNat
  | .down => (lane : Int) + b.toNat
  | .xor => (lane.xor (b.toNat % 32) : Nat)

/-- What `SHFL` gives a thread (R406). -/
def shflValue (m : ShflMode) (a : Nat) (b : Word) (set : List Thread) (t : Thread) : Word :=
  match set.find? (fun u => (u.id.lane : Int) == shflLane m t.id.lane b) with
  | some u => u.reg a
  | none => t.reg a

/-- `SHFL` (R406). -/
def execShfl (o : OpShfl) (s : State) : Out :=
  .next (crewReg o.g (fun s set t => t.setReg o.d.val (shflValue o.mode o.a.val (opb s t o.b) set t)) s)

/-- `VOTE.ALL` and `VOTE.ANY` (R418). -/
def execVote (o : OpVote) (s : State) : Out :=
  .next (crewReg o.g (fun _ set t => t.setPred o.pd.val
    (if o.any then set.any (·.pred o.pa.val) else set.all (·.pred o.pa.val))) s)

/-- The ballot: bit l for the thread on lane l (R418). -/
def ballot (pa : Nat) (set : List Thread) : Word :=
  (List.range 32).foldl (fun w l => if set.any (fun t => t.id.lane == l && t.pred pa) then w ||| (1#32 <<< l) else w) 0

/-- `VOTE.BALLOT` (R418). -/
def execVoteBallot (o : OpBallot) (s : State) : Out :=
  .next (crewReg o.g (fun _ set t => t.setReg o.d.val (ballot o.pa.val set)) s)

end Machine

open Machine in
/-- The identity of a crew reduction (R345). -/
def RedOp.identity : RedOp → Word
  | .add => 0
  | .minS => 0x7FFFFFFF
  | .maxS => 0x80000000
  | .minN => 0xFFFFFFFF
  | .maxN => 0
  | .and => 0xFFFFFFFF
  | .or => 0
  | .xor => 0
  | .addF32 => 0
  | .maxF32 => 0xFF800000
  | .minF32 => 0x7F800000

open Machine in
/-- The combination of a crew reduction (R345). -/
def RedOp.combine (o : RedOp) (r x : Word) : Word :=
  match o with
  | .add => r + x
  | .minS => Machine.minS r x
  | .maxS => Machine.maxS r x
  | .minN => Machine.minN r x
  | .maxN => Machine.maxN r x
  | .and => r &&& x
  | .or => r ||| x
  | .xor => r ^^^ x
  | .addF32 => Machine.addF32 r x
  | .maxF32 => Machine.maxF32 r x
  | .minF32 => Machine.minF32 r x

open Machine in
/-- Folds the values in lane order; the identity when there is none (R346). -/
def RedOp.fold (o : RedOp) : List Word → Word
  | [] => o.identity
  | x :: xs => xs.foldl o.combine x

namespace Machine

/-- The values that a form combines for a thread, in lane order (R346). -/
def reduceOver (form : RedForm) (a : Nat) (set : List Thread) (t : Thread) : List Word :=
  (set.filter (fun u =>
    match form with
    | .reduce => true
    | .inc => decide (u.id.lane ≤ t.id.lane)
    | .exc => decide (u.id.lane < t.id.lane))).map (·.reg a)

/-- `CREDUCE` (R346). -/
def execCreduce (o : OpCreduce) (s : State) : Out :=
  .next (crewReg o.g (fun _ set t => t.setReg o.d.val (o.op.fold (reduceOver o.form o.a.val set t))) s)

/-- The least lane of the set (R348). -/
def leastLane (set : List Thread) : Nat := set.foldl (fun n t => min n t.id.lane) 32

/-- `ELECT` (R348). -/
def execElect (o : OpPred) (s : State) : Out :=
  .next (crewReg o.g (fun _ set t => t.setPred o.pd.val (t.id.lane == leastLane set)) s)

end Machine
end Sys2Proof
end

