-- ==== Sys2Proof/Machine/Records.lean ====
section
/-!
DEFINITION. The record scheduler's bins, pool and batches (R161 to R171): when a record can be allocated, how it enters its bin,
and when batches form.
-/

namespace Sys2Proof.Machine

/-- Slots of a context's pool (R164). -/
def Ctx.poolSlots (c : Ctx) : Nat := c.regs.poolsize * 1024

/-- Slots that a node holds (R165). -/
def Ctx.usedBy (c : Ctx) (n : Nat) : Nat := assocD c.used n 0

/-- can_alloc(n) (R165). -/
def Ctx.canAlloc (c : Ctx) (n : Nat) : Bool :=
  match c.nodes[n]? with
  | none => false
  | some d =>
    let floors := (c.nodes.map NodeDesc.floor).foldl (· + ·) 0
    let above := (c.nodes.zipIdx.map (fun x => c.usedBy x.2 - x.1.floor)).foldl (· + ·) 0
    if d.cap ≠ 0 ∧ c.usedBy n ≥ d.cap then false
    else if c.usedBy n < d.floor then true
    else decide (above < c.poolSlots - floors)

/-- The entries of one part of a node's bin, oldest first (R169, R188). -/
def Ctx.binPart (c : Ctx) (node part : Nat) : List BinEntry := c.bins.filter (fun e => e.node == node && e.part == part)

/-- A batch of the `k` oldest records forms and takes them out of the bin (R170). `stamp` orders it among grids. -/
def Ctx.formBatch (c : Ctx) (node part k stamp : Nat) : Ctx :=
  let mine := (c.binPart node part).take k
  if mine.isEmpty then c
  else
    { c with
      bins := (c.bins.foldl (fun (r : List BinEntry × Nat) e =>
        if e.node == node && e.part == part && decide (r.2 < k) then (r.1, r.2 + 1) else (r.1 ++ [e], r.2)) ([], 0)).1
      batches := c.batches ++ [({ node := node, part := part, records := mine.map BinEntry.record, formed := stamp } : Batch)] }

namespace State

/-- A batch of the `k` oldest records of a context's bin part forms, if there are any, with a number of its own that orders it among the
batches of every context and the grids (R65, R171). -/
def formBatch (s : State) (ctx node part k : Nat) : State :=
  match s.ctx? ctx with
  | none => s
  | some c => if (c.binPart node part).isEmpty then s else s.fresh.modCtx ctx (fun c => c.formBatch node part k (s.lastId + 1))

/-- The trigger that is checked after each entry (R170): C records. A timer, of 0 as well, acts for all entries of a cycle together
(BIN_TIMER). -/
def trigger (s : State) (ctx node part : Nat) : State :=
  match s.ctx? ctx with
  | none => s
  | some c =>
    match c.nodes[node]? with
    | none => s
    | some d => if (c.binPart node part).length ≥ d.c then s.formBatch ctx node part d.c else s

/-- A record enters its bin (R169), and a batch may form. -/
def enterBin (s : State) (ctx node part : Nat) (r : Record) : State :=
  let s := match r.pfid with
    | none => s
    | some f => s.modFill f (fun f => { f with state := .queued })
  (s.modCtx ctx (fun c =>
    let entry : BinEntry := { node := node, part := part, record := r, entered := s.time }
    { c with used := assocSet c.used node (c.usedBy node + 1), bins := c.bins ++ [entry] })).trigger ctx node part

/-- Can a node of the context take a record now? -/
def canAlloc (s : State) (ctx node : Nat) : Bool := ((s.ctx? ctx).map (fun c => c.canAlloc node)).getD false

/-- A node descriptor in force. -/
def node? (s : State) (ctx n : Nat) : Option NodeDesc := (s.ctx? ctx).bind (fun c => c.nodes[n]?)

/-- A bin part whose node has no timer is drained (R170): it holds a record, every grid that wrote one of its records has
retired, and every record ring that targets the node is consumed. -/
def drained (s : State) (c : Ctx) (node part : Nat) : Bool :=
  let mine := c.binPart node part
  !mine.isEmpty &&
    mine.all (fun e => match e.record.writer with
      | none => true
      | some g => !s.grids.any (fun x => x.id == g && !x.retired)) &&
    s.notify.all (fun r => !(r.record && r.node == node && assocD s.pageCtx r.page 0 == c.id) || r.prod == r.cons)

/-- Forms the batches of drained bins of a context (R170). -/
def drainBins (s : State) (ctx : Nat) : State :=
  match s.ctx? ctx with
  | none => s
  | some c =>
    c.nodes.zipIdx.foldl (fun s x =>
      if x.1.t ≠ 0xFFFF then s
      else [0, 1, 2].foldl (fun s part =>
        match s.ctx? ctx with
        | none => s
        | some c => if s.drained c x.2 part then s.formBatch ctx x.2 part x.1.c else s) s) s

/-- A record is allocated as a blocking `SPAWN` would allocate it: at once, or it waits in the queue of R166. -/
def allocate (s : State) (ctx node part : Nat) (r : Record) (who : AllocFor) : State :=
  match s.ctx? ctx with
  | none => s
  | some c =>
    if c.canAlloc node then (s.enterBin ctx node part r).drainBins ctx
    else s.modCtx ctx (fun c => { c with allocs := c.allocs ++ [⟨node, part, r, who⟩] })

end State

/-! ### The fill record (R188, R194) -/

/-- The part of a fill node's bin that a record of a producer at fill depth `d` enters (R188). -/
def NodeDesc.partOf (n : NodeDesc) (d : Nat) : Nat := if n.fill then d + 1 else 0

/-- The words of a fill record (R194). -/
def fillRecordWords (g : GenDesc) (gen span depth : Nat) (merge : Bool) (pfid : Nat) : List Word :=
  let size := 128 * 2 ^ g.log2span
  let index := ((span + 2 ^ 52 - g.vbase) / size) % 2 ^ 32
  [BitVec.ofNat 32 span, BitVec.ofNat 32 (span / 2 ^ 32), BitVec.ofNat 32 index,
   BitVec.ofNat 32 (gen + 0x100 * g.log2span + 0x800 * depth + (if merge then 0x2000 else 0) + (if g.ballast then 0x4000 else 0)),
   BitVec.ofNat 32 pfid, BitVec.ofNat 32 g.src, BitVec.ofNat 32 (g.src / 2 ^ 32)] ++ g.args

end Sys2Proof.Machine
end

