-- ==== Sys2Proof/Machine/Envelope.lean ====
section
/-!
DEFINITION. The envelope miss path (R179 to R199) and what a unit's access at device reach meets: reads and writes of engines and
of the device itself, what a waiter does when its wait ends or fails, landings, and pending fills.
-/

namespace Sys2Proof.Machine

/-! ### Device-reach accesses of units other than threads -/

/-- What such an access finds. -/
inductive Reach where
  | ok (tr : Translation) (loc : Loc)
  /-- It waits: for a fault reply or for a fill. -/
  | wait (w : CmdWait)
  /-- The address is refused (R244 detail 1). -/
  | refused

/-- What a read finds. -/
inductive ReachBytes where
  | ok (bs : List Byte)
  | wait (w : CmdWait)
  | refused

namespace State

/-- Translates an access of a unit: on a TLB miss it joins a walk in progress for the frame, or walks at once (R92); a replayable failure
writes a fault record (R93, R94). While the context is disabled (R289) its walk waits (log entry 110). -/
def reach (s : State) (core ctx va : Nat) (write : Bool) (kind : Kind) (who : Waiter) : State × Reach :=
  let go := fun (s : State) (tr : Translation) =>
    let loc := tr.loc ctx va
    if s.reachable loc write then (s, Reach.ok tr loc) else (s.logDenial loc .device write, .refused)
  let walked := fun (s : State) =>
    if s.walking ctx core va || !s.enabled ctx then (s.joinWalk ctx core va kind write who, .wait .walk)
    else
      let r := s.walk core ⟨ctx, va, write, false⟩
      match r.2 with
      | .ok tr => go r.1 tr
      | .error .fatal => (r.1, .refused)
      | .error _ => (r.1.raiseFault ctx core va kind [⟨who, va, kind⟩], .wait .fault)
  if va ≥ 2 ^ 52 then (s, .refused)
  else match s.tlbFind core ctx va with
    | none => walked s
    | some tr => if write && (!tr.w || !tr.d) then walked s else go s tr

/-- Reads those of `n` bytes of one line at device reach that are wanted (R126), and gives 0 for the others; an invalid envelope word among them
takes the miss path at the depth given, and a read behind a link that is down waits (R295). -/
def reachSome (s : State) (core ctx va n : Nat) (want : Nat → Bool) (depth cls : Nat) (kind : Kind) (who : Waiter) : State × ReachBytes :=
  match s.reach core ctx va false kind who with
  | (s, .wait w) => (s, .wait w)
  | (s, .refused) => (s, .refused)
  | (s, .ok tr loc) =>
    if s.delayed loc then (s.sendMiss ctx va 0 tr loc depth cls who kind, .wait .fill)
    else match (List.range n).find? (fun i => want i && (s.devByte? (loc.add i)).isNone) with
      | none => (s, .ok ((List.range n).map (fun i => if want i then (s.devByte? (loc.add i)).getD 0 else 0)))
      | some i => (s.sendMiss ctx (va + i) 0 tr (loc.add i) depth cls who kind, .wait .fill)

/-- Reads `n` bytes of one line at device reach. -/
def reachRead (s : State) (core ctx va n depth cls : Nat) (kind : Kind) (who : Waiter) : State × ReachBytes :=
  s.reachSome core ctx va n (fun _ => true) depth cls kind who

/-! ### Waiters -/

/-- The class of a waiter (R199): that of its team. DESIGN CHOICE: the argument image of a batch is read in the class of its node's PRIO, and a launch
ring's entry with its argument image in class 0 (log entry 115). -/
def waiterClass (s : State) (w : Waiter) : Nat :=
  match w with
  | .thread t => s.effClass t.team
  | .cmd i => ((s.cmd? i).map (fun c => s.effClass c.team)).getD 0
  | .query i => ((s.query? i).map (fun q => s.effClass q.thread.team)).getD 0
  | .landing l => s.effClass l.crew.team
  | .red r => s.effClass r.team
  | .image i => (((s.images.find? (fun m => m.id == i)).bind ImageRead.crew).map (fun c => s.effClass c.team)).getD 0
  | .batch g | .done g => ((s.grid? g).map Grid.prio).getD 0
  | .sector t _ _ => s.effClass t
  | .issue c => s.effClass c.team
  | .prefetch t _ => s.effClass t

/-! ### The end of a wait -/

/-- Why a wait fails. -/
inductive Why where
  | denied
  | nest
  | failed (code : Nat)

/-- The cause code of a failed wait (R94, R193, R196). -/
def Why.cause : Why → Cause
  | .denied => .access
  | .nest => .genNest
  | .failed _ => .genFail

/-- The detail of ENG_FAULT (R244). -/
def Why.detail (w : Why) : Nat := State.faultDetail w.cause

/-- `%trapv` of a failed wait (R266). -/
def Why.trapv (w : Why) (va : Nat) : Word :=
  match w with
  | .failed code => genFailWord va code
  | _ => BitVec.ofNat 32 va

/-- The bytes of a saved sector that could not be translated again are dropped, and its crew takes ACCESS (R466). -/
def dropSector (s : State) (team crew va : Nat) : State :=
  let c : CrewId := ⟨team, crew⟩
  let s := { s with buffers := s.buffers.filter (fun (b : BufByte) => !(b.author == Author.crew c && b.va / 32 == va / 32)) }
  let s := s.modTeam team (fun t => { t with blocked := t.blocked - 1 })
  s.crewTrap c .access (fun _ => true) (fun _ => BitVec.ofNat 32 va) (va / 2 ^ 32)

/-- A waiter's access fails (R94, R192, R193, R196, R465, R466, R467, R55, R171, R258). A thread whose team is out takes its trap once it is back
(R68). -/
def failWaiter (s : State) (ctx : Nat) (j : Joined) (w : Why) : State :=
  match j.who with
  | .thread t =>
    match s.thread? t with
    | none => s
    | some x =>
      match w, j.kind with
      | .denied, .fetch =>
        let base := ((s.ctx? ctx).map (fun c => c.regs.codebase)).getD 0
        s.lateTrap x .fetchFault (BitVec.ofNat 32 (j.va + 2 ^ 52 - base)) 0
      | _, _ => s.lateTrap x w.cause (w.trapv j.va) (j.va / 2 ^ 32)
  | .cmd i => (s.modCmd i (fun c => { c with wait := .none, result := some (0x0F, w.detail) })).freeLocks i
  | .query i =>
    match (s.query? i).bind (fun q => s.thread? q.thread) with
    | none => s
    | some x =>
      { s with queries := s.queries.filter (fun q => q.id != i) }.threadTrap x w.cause (w.trapv j.va) (j.va / 2 ^ 32)
  | .landing l => s.dropLanding l w.cause j.va (match w with | .failed c => c | _ => 0)
  | .red r => dropRed s { r with waiting := false } w.cause (w.trapv j.va)
  | .image i =>
    { s with images := updWhere (fun m => m.id == i) (fun m =>
        if j.kind = .devWrite then { m with wait := .none, mute := true } else { m with wait := .none, bad := true }) s.images }
  | .batch g =>
    let core := ((s.teams.find? (fun t => t.grid == g)).map Team.coreD).getD 0
    s.escRecord ctx { cause := causeWord w.cause false false (j.va / 2 ^ 32), trapv := w.trapv j.va, trapc := 0, grid := g,
                      core := core, tid := 0, reason := 6, first := 0 }
  | .done g =>
    s.escRecord ctx { cause := causeWord .access false false (j.va / 2 ^ 32), trapv := BitVec.ofNat 32 j.va, trapc := 0,
                      grid := g, core := 0, tid := 0, reason := 5, first := 0 }
  | .sector t c va => s.dropSector t c va
  | .issue c => s.uniformTrap c w.cause (w.trapv j.va) (j.va / 2 ^ 32)
  | .prefetch _ _ => s

/-! ### The DONE store (R55) -/

/-- Stores DONEV at DONE at system reach, translated in the grid's context (R55). A failure that is not replayable drops the store and writes
an escalation record. -/
def storeDone (s : State) (g : Grid) : State :=
  if g.done = 0 then s
  else match s.reach Config.noCore g.ctx g.done true .devWrite (.done g.id) with
    | (s, .ok tr loc) => s.devWrite g.ctx g.done tr loc (leBytes 8 g.donev)
    | (s, .wait _) => s
    | (s, .refused) => s.failWaiter g.ctx ⟨.done g.id, g.done, .devWrite⟩ .denied

/-! ### Batches' argument images (R171) -/

/-- The first byte of the image of a team that is out, in its context's save or swap area (R66, R282). -/
def imageBase? (s : State) (t : Team) : Option Nat :=
  match t.place, s.ctx? t.ctx with
  | .saved n, some c => some (c.regs.savebase + 0x100000 * n)
  | .swapped _ n, some c => some (c.regs.swapbase + 0x100000 * n)
  | _, _ => none

/-- The crews of a batch grid's team take their arguments, and its threads may issue. The image of a team that is out takes them
too (R284). -/
def giveArgs (s : State) (g : Grid) (args : List Word) : State :=
  let team := ((s.teams.find? (fun t => t.grid == g.id)).map Team.id).getD 0
  let s := s.modGrid g.id (fun g => { g with args := args })
  let s := s.modTeam team (fun t => { t with blocked := t.blocked - 1 })
  let s := { s with crews := updWhere (fun c => c.id.team == team) (fun c => { c with k := args ++ c.k.drop 16 }) s.crews }
  match (s.team? team).bind s.imageBase? with
  | none => s
  | some base =>
    (s.crewsOf team).foldl (fun s c =>
      s.writePhys (base + 0x8400 + 512 * c.id.crew) (args.flatMap (fun w => leBytes 4 w.toNat))) s

/-- Words of a byte list. -/
def wordsOf (bs : List Byte) (n : Nat) : List Word :=
  (List.range n).map (fun i => BitVec.ofNat 32 (leNat ((bs.drop (4 * i)).take 4)))

/-- Reads the argument image of a placed batch at device reach (R171): the team stays blocked while it waits or fails. -/
def readBatchArgs (s : State) (g : Grid) (args : Nat) : State :=
  if args = 0 then s.giveArgs g (List.replicate 16 0)
  else
    let core := ((s.teams.find? (fun t => t.grid == g.id)).map Team.coreD).getD 0
    match s.reachRead core g.ctx args 64 g.fdepth g.prio .devRead (.batch g.id) with
    | (s, .ok bs) => s.giveArgs g (wordsOf bs 16)
    | (s, .wait _) => s
    | (s, .refused) => s.failWaiter g.ctx ⟨.batch g.id, args, .devRead⟩ .denied

/-! ### Restored sectors (R466) -/

/-- Translates a restored sector again: its bytes, kept by virtual address, take their place. The team's count of sectors to
translate falls when this is decided. DESIGN CHOICE: a restored byte of cluster reach replaces the copy that another team or the cluster unit has put
in the cluster buffer meanwhile, without a flag (log entry 101). -/
def restoreSector (s : State) (team crew va : Nat) : State :=
  let ctx := s.ctxId team
  match s.reach (s.coreOf team) ctx va true .write (.sector team crew va) with
  | (s, .ok tr loc) =>
    let mine := fun (b : BufByte) => b.author == Author.crew ⟨team, crew⟩ && b.va / 32 == va / 32
    let moved := (s.buffers.filter mine).map (fun b => { b with loc := Loc.add loc (b.va % 32), tr := tr })
    let kept := s.buffers.filter (fun b => !mine b && !moved.any (fun m => m.buf == b.buf && m.loc == b.loc))
    let s := { s with buffers := kept ++ moved }
    s.modTeam team (fun t => { t with blocked := t.blocked - 1 })
  | (s, .wait _) => s
  | (s, .refused) => s.dropSector team crew va

/-- The threads that replay with a thread: the atomics of one flight on one word perform as one run, in ascending lane order (R331). -/
def runOf (s : State) (t : ThreadId) : List ThreadId :=
  match (s.thread? t).bind Thread.run with
  | none => [t]
  | some r =>
    let mine := s.threads.filter (fun u => u.run == some r && u.park == .fill && s.coreOf u.id.team == s.coreOf t.team)
    (List.range 32).flatMap (fun l => (mine.filter (fun u => u.id.lane == l)).map Thread.id)

/-- Threads that waited for a fill leave every wait list and replay next, in the order given (R196). -/
def replayThreads (s : State) (ids : List ThreadId) (va : Nat) (kind : Kind) : State :=
  let out := fun (w : Waiter) => match w with | .thread t => ids.contains t | _ => false
  let s := s.noteWake ids
  { s with
    misses := s.misses.filter (fun m => !out m.waiter)
    overflow := s.overflow.filter (fun m => !out m.waiter)
    fills := s.fills.map (fun (f : Fill) => { f with waiters := f.waiters.filter (fun j => !out j.who) })
    threads := updWhere (fun x => ids.contains x.id) (fun x => { x with park := .none, stall := .none }) s.threads
    replays := s.replays.filter (fun j => !out j.who) ++ ids.map (fun t => ⟨.thread t, va, kind⟩) }

/-- A waiter of a fill whose word is valid now: its access replays next, in join order (R196). -/
def queueReplay (s : State) (j : Joined) : State :=
  match j.who with
  | .thread t => s.replayThreads (s.runOf t) j.va j.kind
  | _ => { s with replays := s.replays ++ [j] }

/-- A waiter's wait ends well: it tries its access again. -/
def resumeWaiter (s : State) (j : Joined) : State :=
  match j.who with
  | .thread t => (s.noteWake [t]).modThread t (fun x => { x with park := .none, stall := .none })
  | .cmd i => s.modCmd i (fun c => { c with wait := .none })
  | .query i => s.modQuery i (fun q => { q with wait := .none })
  | .landing l => s.land l
  | .red r =>
    let r := { r with waiting := false }
    if redReady s r then performRed s r else { s with reds := s.reds ++ [r] }
  | .image i => { s with images := updWhere (fun m => m.id == i) (fun m => { m with wait := .none }) s.images }
  | .batch g =>
    match s.grid? g with
    | none => s
    | some x => s.readBatchArgs x ((x.node.bind (fun n => s.node? x.ctx n.1)).map NodeDesc.args |>.getD 0)
  | .done g =>
    match s.grid? g with
    | none => s
    | some x => s.storeDone x
  | .sector t c va => s.restoreSector t c va
  | .issue c => s.modCrew c (fun x => { x with hold := false })
  | .prefetch t n =>
    match s.tlbFind (s.coreOf t) (s.ctxId t) j.va with
    | none => s.walkPrefetch ⟨t, 0⟩ j.va n
    | some tr => s.askPrefetch ⟨t, 0⟩ j.va n tr

/-- The command's read of a sector replays: the sector as it stands now is what the command has of it (R142, R196). -/
def replayCmd (s : State) (i va : Nat) : State :=
  match s.cmd? i with
  | none => s
  | some c =>
    match s.reach (s.coreOf c.team) (s.ctxId c.team) va false .engRead (.cmd i) with
    | (s, .wait w) => s.modCmd i (fun c => { c with wait := w })
    | (s, .refused) => s.failWaiter (s.ctxId c.team) ⟨.cmd i, va, .engRead⟩ .denied
    | (s, .ok _ loc) =>
      let bytes := (List.range 32).map (fun k => s.devByte? (loc.sector.add k))
      (s.modCmd i (fun c => { c with wait := .none, sectors := assocSet c.sectors (va / 32) bytes })).freeLocks i

/-- The access of a waiter other than a thread replays, once (R196); unless its translation has to be found again, the lines that stayed for it may
leave then (R198). The read of an argument image, a ring entry or a layout record performs in an event of its own, and they stay until then. -/
def replayNow (s : State) (j : Joined) : State :=
  match j.who with
  | .image _ | .issue _ => s.resumeWaiter j
  | .cmd i =>
    let s := s.replayCmd i j.va
    if s.translates j.who then s else s.unpin j.who
  | _ =>
    let s := s.resumeWaiter j
    if s.translates j.who then s else s.unpin j.who.replayed

/-! ### Pending fills (R186, R187, R199) -/

/-- The classes of all fills, raised to those of their waiters; two rounds carry a rise through a nested fill (R199). -/
def raiseClasses (s : State) : State :=
  let once := fun (s : State) =>
    { s with fills := s.fills.map (fun f => { f with cls := (f.waiters.map (fun j => s.waiterClass j.who)).foldl max f.cls }) }
  once (once s)

/-- A pending-fill number that is free (R186): the first one at or after the number that the choice names. -/
def freePfid (s : State) : Option Nat :=
  ((List.range (s.fills.length + 1)).map (fun n => (s.choice + n) % Config.fillSlots)).find? (fun n => !s.fills.any (fun f => f.pfid == n))

/-- A miss whose HELD line finds no way in the cache: it waits at its slice, and the hosts of full ballast stores are notified (R203). An access
behind a link that is down waits too (R295). -/
def missWaits (s : State) (m : Miss) : Option State :=
  match m.loc with
  | .pa _ => if s.delayed m.loc then some s else none
  | .env ctx n =>
    if ((s.envLine? ctx n).map EnvLine.held).getD false then
      let r := s.makeRoom ctx n
      if r.2 then none else some r.1
    else none

/-- A miss at the home slice (R187): a HELD line is restored, once the cache has a way for it; the waiter is served when the word is valid;
otherwise GEN_NEST, GEN_FAIL, a wait for a number, or the span's fill. DESIGN CHOICE: a generator whose NODE the node table in force does not have
fails the waiter with 0xFE, as a generator that is missing does (log entry 112). -/
def missAt (s : State) (m : Miss) : State :=
  let j : Joined := ⟨m.waiter, m.va, m.kind⟩
  match m.loc with
  | .pa _ => s.queueReplay j
  | .env ctx n =>
    let room := if ((s.envLine? ctx n).map EnvLine.held).getD false then s.makeRoom ctx n else (s, true)
    if !room.2 then { room.1 with misses := room.1.misses ++ [m] }
    else
      let s := room.1.restoreEnv ctx n
      if (s.devByte? m.loc).isSome then s.queueReplay j
      else if m.depth ≥ 2 then s.failWaiter m.ctx j .nest
      else match (s.ctx? m.ctx).bind (fun c => c.gens[m.gen]?) with
        | none => s.failWaiter m.ctx j (.failed 0xFE)
        | some g =>
          let size := 128 * 2 ^ g.log2span
          let span := m.word - m.word % size
          if span < m.pageBase ∨ m.pageBase + m.pageSize < span + size then s.failWaiter m.ctx j (.failed 0xFC)
          else if span < g.vbase then s.failWaiter m.ctx j (.failed 0xFD)
          else
            let key := fun (f : Fill) => f.ctx == m.ctx && f.span == span && f.depth == m.depth + 1
            if s.fills.any key then
              { s with fills := updWhere key (fun f => { f with waiters := f.waiters ++ [j] }) s.fills }.raiseClasses
            else if s.fills.length ≥ Config.fillSlots then { s with overflow := s.overflow ++ [m] }
            else match s.freePfid, s.node? m.ctx g.node with
              | some p, some nd =>
                let f : Fill := { pfid := p, ctx := m.ctx, gen := m.gen, span := span, name := n - m.word % size,
                                  log2span := g.log2span, depth := m.depth + 1, state := .emitting,
                                  cls := max (max g.pfloor nd.prio) m.cls, waiters := [j] }
                let ws := fillRecordWords g m.gen span (m.depth + 1) (s.envLine? ctx n).isSome p
                let r : Record := { words := ws ++ List.replicate (nd.rsize - 11) 0, pfid := some p, gen := some m.gen, writer := none }
                (({ s.choose with fills := s.fills ++ [f] }.allocate m.ctx g.node (m.depth + 1) r (.fill p))).raiseClasses
              | _, _ => s.failWaiter m.ctx j (.failed 0xFE)

/-- Misses that wait for a pending-fill number try again, in arrival order, while a number is free (R187). -/
def drainOverflow : Nat → State → State
  | 0, s => s
  | n + 1, s =>
    match s.overflow with
    | [] => s
    | m :: rest => if s.fills.length ≥ Config.fillSlots then s else drainOverflow n (missAt { s with overflow := rest } m)

/-- A fill ends: its number is free, and the record that carried it names no fill any more (R186). -/
def freeFill (s : State) (pfid : Nat) : State :=
  { s with
    fills := s.fills.filter (fun x => x.pfid != pfid)
    threads := updWhere (fun t => (t.record.bind Record.pfid) == some pfid)
      (fun t => { t with record := t.record.map (fun r => { r with pfid := none }) }) s.threads }

/-- A fill ends by failure with a code (R196, R197): nothing is installed, and every waiter receives GEN_FAIL. -/
def failFill (s : State) (pfid code : Nat) : State :=
  match s.fill? pfid with
  | none => s
  | some f =>
    let s := f.waiters.foldl (fun s j => s.failWaiter f.ctx j (.failed code)) (s.freeFill pfid)
    drainOverflow s.overflow.length s

/-- Installs one line of a fill: only its invalid words take data; a HELD line drops it (R185, R196). A new line needs a way in the cache
(R203). -/
def installLine (s : State) (ctx name gen : Nat) (data : List Byte) : State × Bool :=
  match s.envLine? ctx name with
  | some l =>
    if l.held then (s, true)
    else (s.modEnv ctx name (fun l =>
      { l with valid := List.replicate 32 true,
               words := (List.range 32).map (fun i =>
                 if l.valid.getD i false then l.words.getD i 0 else (wordsOf data 32).getD i 0) }), true)
  | none =>
    let r := s.makeRoom ctx name
    if r.2 then
      ({ r.1 with envLines := r.1.envLines ++ [⟨ctx, name, false, gen, false, List.replicate 32 true, wordsOf data 32⟩] }, true)
    else r

/-- Installs a fill's lines in ascending order; the monitors of its sectors wake, as for any write that lands, and the lines stay until the
fill's waiters have replayed (R198). False when a line finds no way in the cache. -/
def installFill (s : State) (f : Fill) (team soff : Nat) : State × Bool :=
  let n := 2 ^ f.log2span
  let s := { s with pins := s.pins ++ f.waiters.map (fun j => ⟨f.ctx, f.name, n, j.who.replayed⟩) }
  (List.range n).foldl (fun (r : State × Bool) i =>
    if !r.2 then r
    else
      let name := f.name + 128 * i
      let q := r.1.installLine f.ctx name f.gen (r.1.spadBytes team (soff + 128 * i) 128)
      (q.1.wakeMonitors (fun l => l.line == .env f.ctx name), q.2)) (s, true)

/-- A fill whose lines are installed ends (R196): its waiters replay, in join order. -/
def completeFill (s : State) (pfid : Nat) : State :=
  match s.fill? pfid with
  | none => s
  | some f =>
    let s := f.waiters.foldl queueReplay (s.freeFill pfid)
    drainOverflow s.overflow.length s

end State
end Sys2Proof.Machine
end

