-- ==== Sys2Proof/Machine/Place.lean ====
section
/-!
DEFINITION. Resources of cores and clusters (R56 to R59, R281, R470), how a grid's teams are placed (R62 to R65, R200), and
what a placed team starts with (R54, R76, R145, R146, R171, R173).
-/

namespace Sys2Proof.Machine

/-! ### Demands and capacities (R56, R57) -/

/-- What a team asks of a core besides its team slot, or what a core offers (R56). -/
structure Demand where
  regs : Nat
  gran : Nat
  crews : Nat
  bars : Nat
deriving DecidableEq, Repr

/-- The register words per lane of one crew (R56). -/
def crewRegs (regs : Nat) : Nat := ceilDiv regs 8 * 8

/-- A team's demand (R56). -/
def demandOf (threads regs spad nbar : Nat) : Demand :=
  ⟨ceilDiv threads 32 * crewRegs regs, ceilDiv spad 32, ceilDiv threads 32, nbar⟩

/-- A role's demand. -/
def Role.demand (r : Role) : Demand := demandOf r.threads r.regs r.spad r.nbar

/-- The capacity of a kind: 0 ordinary (R56), 1 and 2 the fill reservations (R57). -/
def capacityOf (k : Nat) : Demand := if k = 0 then ⟨1536, 40, 56, 64⟩ else ⟨256, 4, 4, 0⟩

/-- Team slots of a capacity (R56, R57). -/
def slotsOf (k : Nat) : Nat := if k = 0 then 14 else 1

/-- The first crew slot number of a capacity (R470). -/
def firstSlot (k : Nat) : Nat := if k = 0 then 0 else if k = 1 then 56 else 60

/-- The matrix kinds. -/
def CmdKind.matrix (k : CmdKind) : Bool :=
  match k with
  | .mma | .mmast | .mmaz | .mmazRel => true
  | _ => false

/-- The teams whose engines a command runs on (R235). -/
def EngCmd.runsOn (c : EngCmd) : List Nat := if c.parts.isEmpty then [c.team] else c.parts

/-- One demand covers another. -/
def Demand.covers (c d : Demand) : Bool :=
  decide (d.regs ≤ c.regs) && decide (d.gran ≤ c.gran) && decide (d.crews ≤ c.crews) && decide (d.bars ≤ c.bars)

namespace State

/-- The team's engine queues hold no command. -/
def queuesDrained (s : State) (team : Nat) : Bool := !s.cmds.any (fun c => c.team == team)

/-- The team has a live child grid (R40). -/
def hasChildren (s : State) (team : Nat) : Bool := s.grids.any (fun g => g.parent == some team && !g.retired)

/-- The team holds its scratchpad, barriers and team slot on a core (R40, R45). -/
def holdsCore (s : State) (t : Team) (core : Nat) : Bool :=
  match t.place with
  | .resident c => c == core
  | .draining c => c == core && !s.queuesDrained t.id
  | _ => false

/-- The team occupies a team slot: also while its record finds no entry in the retained-record table (R40). -/
def holdsSlot (s : State) (t : Team) (core : Nat) : Bool :=
  s.holdsCore t core || (match t.place with | .draining c => c == core && s.hasChildren t.id | _ => false)

/-- The crews that hold a crew slot and registers on a core in a capacity (R45), with their teams' registers. -/
def crewsHeld (s : State) (core k : Nat) : List (Crew × Nat) :=
  s.crews.filterMap (fun c =>
    match s.team? c.id.team with
    | none => none
    | some t => if !t.out && t.coreD == core && t.capacity == k && (!c.retired || c.unack != 0) then some (c, t.regs) else none)

/-- The team holds a slot of the core. -/
def onCore (s : State) (team core : Nat) : Bool := ((s.team? team).map (fun t => !t.out && t.coreD == core)).getD false

/-- Copy commands of a core's engine (R227). -/
def copyLoad (s : State) (core : Nat) : Nat := (s.cmds.filter (fun c => c.kind == .cpy && s.onCore c.team core)).length

/-- Commands of a core's matrix engine, cooperative ones included (R227, R235). -/
def matrixLoad (s : State) (core : Nat) : Nat :=
  (s.cmds.filter (fun c => c.kind.matrix && c.runsOn.any (fun t => s.onCore t core))).length

/-- `PAIRS` commands of a cluster's traversal unit (R262). -/
def pairsLoad (s : State) (cluster : Nat) : Nat :=
  (s.cmds.filter (fun c => c.kind == .pairs && !s.outside c.team && clusterOf (s.coreOf c.team) == cluster)).length

/-- The lock table has room for `n` more entries (R97). -/
def lockRoom (s : State) (core n : Nat) : Bool :=
  decide ((s.locks.filter (fun l => l.core == core)).length + n ≤ Config.lockSlots)

/-- What a core's capacity has free (R58). -/
def freeOf (s : State) (core k : Nat) : Demand :=
  let cap := capacityOf k
  let held := s.crewsHeld core k
  let teams := s.teams.filter (fun t => t.capacity == k && s.holdsCore t core)
  let sum := fun (l : List Nat) => l.foldl (· + ·) 0
  ⟨cap.regs - sum (held.map (fun x => crewRegs x.2)), cap.gran - sum (teams.map (fun t => ceilDiv t.spadLines 32)),
   cap.crews - held.length, cap.bars - sum (teams.map Team.nbar)⟩

/-- Free team slots of a core's capacity. -/
def freeSlots (s : State) (core k : Nat) : Nat :=
  slotsOf k - (s.teams.filter (fun t => t.capacity == k && s.holdsSlot t core)).length

/-- A core has room for a team in a capacity (R58). -/
def room (s : State) (core k : Nat) (d : Demand) : Bool := (s.freeOf core k).covers d && decide (1 ≤ s.freeSlots core k)

/-- A pre-emption saves the team (R279): it is resident (R13), also without live threads while a command of its own, a child grid or a sector that
has to be translated keeps it on its core (R40, R45, R466). -/
def onSlot (s : State) (t : Team) : Bool :=
  match t.place with
  | .resident _ => true
  | .draining _ => !s.queuesDrained t.id || s.hasChildren t.id || t.blocked != 0
  | _ => false

/-- Teams of a context that a pre-emption would save now, or that are saved and not placed again yet: their slots of the save area are taken (R281,
log entry 96). -/
def slotsTaken (s : State) (ctx : Nat) : Nat :=
  (s.teams.filter (fun t => t.ctx == ctx && (s.onSlot t || (match t.place with | .saved _ => true | _ => false)))).length

/-- The context can hold `n` more resident teams (R281). -/
def saveRoom (s : State) (ctx n : Nat) : Bool :=
  decide (s.slotsTaken ctx + n ≤ ((s.ctx? ctx).map (fun c => c.regs.saveslots)).getD 0)

end State

/-! ### A grid's cores and units (R46, R62) -/

/-- A core is eligible (R46). -/
def Grid.eligible (g : Grid) (core : Nat) : Bool := bitAt g.clmask (clusterOf core) && bitAt g.coremask (core % 16)

/-- The eligible cores, ascending. -/
def Grid.cores (g : Grid) : List Nat := (List.range Config.cores).filter g.eligible

/-- The eligible clusters: those with an eligible core. -/
def Grid.clusters (g : Grid) : List Nat := (List.range Config.clusters).filter (fun n => bitAt g.clmask n)

/-- Teams of a role (R48). -/
def Role.teams (r : Role) : Nat := r.ntx * r.nty * r.ntz

/-- Role 0 of a grid. -/
def Grid.role0 (g : Grid) : Role := g.roles.headD ⟨0, 1, 1, 0, 1, 1, 1, 0⟩

/-- Placement units of a grid (R52, R62). -/
def Grid.unitCount (g : Grid) : Nat :=
  if g.gang then 1 else if g.cgrp then g.role0.teams / (max 1 g.group) else g.role0.teams

/-- The teams of unit `u`: role and linear index within the role (R62). DESIGN CHOICE: the teams of a gang choose their cores in the order of this list,
those of role 0 first (log entry 132). -/
def Grid.unitTeams (g : Grid) (u : Nat) : List (Nat × Nat) :=
  if g.gang then g.roles.zipIdx.flatMap (fun r => (List.range r.1.teams).map (fun i => (r.2, i)))
  else if g.cgrp then (List.range g.group).map (fun i => (0, g.group * u + i))
  else [(0, u)]

/-- The unit of a team is placed on a cluster as a whole (R16, R42). -/
def Grid.grouped (g : Grid) : Bool := g.cgrp || g.gang

/-- A role by number. -/
def Grid.role (g : Grid) (r : Nat) : Role := g.roles.getD r g.role0

/-- The key of a cluster among the dispatch counts of R63, beside the keys of cores. -/
def clusterKey (n : Nat) : Nat := Config.cores + n

/-! ### The rules of R63 and R64 -/

/-- Least count / speed, by cross products; ties go to the earlier one (R63). -/
def leastRatio (count speed : Nat → Nat) : List Nat → Option Nat
  | [] => none
  | c :: cs => some (cs.foldl (fun b c => if count c * speed b < count b * speed c then c else b) c)

/-- The first at or after the pointer, wrapping (R64). -/
def fromPointer (p : Nat) (l : List Nat) : Option Nat :=
  match l.find? (fun c => decide (p ≤ c)) with
  | some c => some c
  | none => l.head?

/-- Puts a core into a list ordered by count / speed; among equals the earlier one stays first (R63). -/
def ratioInsert (count speed : Nat → Nat) (c : Nat) : List Nat → List Nat
  | [] => [c]
  | b :: l => if count b * speed c ≤ count c * speed b then b :: ratioInsert count speed c l else c :: b :: l

/-- Cores or clusters in the order in which the grid's rule prefers them: by least count / speed, or from the pointer on (R63, R64). -/
def ruleOrder (prop : Bool) (count speed : Nat → Nat) (p : Nat) (l : List Nat) : List Nat :=
  if prop then l.foldl (fun r c => ratioInsert count speed c r) []
  else l.filter (fun c => decide (p ≤ c)) ++ l.filter (fun c => decide (c < p))

namespace State

/-- The sum of the fused entries of a cluster's eligible cores (R63). -/
def clusterSpeed (s : State) (g : Grid) (n : Nat) : Nat :=
  (((List.range Config.coresPerCluster).map (fun i => 16 * n + i)).filter g.eligible).foldl (fun a c => a + s.speedOf c) 0

/-- Chooses among the cores of a list that have room for a team of demand `d` (R63, R64). -/
def pickCore (s : State) (g : Grid) (ptr k : Nat) (d : Demand) (l : List Nat) : Option Nat :=
  let ok := l.filter (fun c => s.room c k d)
  if g.prop then leastRatio (assocD g.counts · 0) s.speedOf ok else fromPointer ptr ok

/-- The lowest free crew slot of a core's capacity (R470). -/
def freeCrewSlot (s : State) (core k : Nat) : Nat :=
  let used := (s.crewsHeld core k).map (fun c => c.1.slot)
  ((List.range (capacityOf k).crews).map (fun i => firstSlot k + i)).find? (fun n => !used.contains n) |>.getD (firstSlot k)

end State

/-! ### What starts on a core (R54) -/

/-- The record that thread `i` of a batch receives, and its start registers when PRELOAD = 1 (R171, R173). -/
def startRegs (node : Option NodeDesc) (r : Option Record) : List Word :=
  let zero := List.replicate 64 (0 : Word)
  match node, r with
  | some n, some x =>
    if n.preload then (x.words.take n.rsize).zipIdx.foldl (fun l w => setAt l (n.creg + w.2) w.1) zero else zero
  | _, _ => zero

/-- A new thread (R54). -/
def Thread.start (id : ThreadId) (entry : Nat) (v : List Word) (r : Option Record) : Thread :=
  { id := id, pc := BitVec.ofNat 32 entry, v := v, p := List.replicate 7 false, live := true, park := .none, stall := .none,
    arrived := none, conv := none, inh := false, cause := 0, trapc := 0, trapv := 0, clockHi := none, wait := 0, aged := false,
    demoted := none, held := [], record := r, loads := [], committed := false, woken := false, late := none, run := none, cont := false }

/-- A new crew (R54). -/
def Crew.start (id : CrewId) (args : List Word) (slot : Nat) : Crew :=
  { id := id, k := (args ++ List.replicate 63 0).take 63, q := List.replicate 7 false, sat := 0, satArm := false, cflict := 0,
    stragId := 0, stragWait := 0, phArm := false, phCount := 0, phLimit := 0, notice := false, unack := 0, slot := slot,
    clockHi := none, stalled := false, hold := false, absent := none, fence := none, issuing := none, complete := false, begun := false, rdvFrom
    := none, exitAt := none,
    retired := false, drops := [] }

/-- A new barrier with an expected count (R146). -/
def Barrier.start (e : Nat) : Barrier := ⟨e, 0, 0, [], none⟩

/-- Members of a barrier in a team: threads, or crews in elected style (R146). -/
def members (elected : Bool) (threads : Nat) : Nat := if elected then ceilDiv threads 32 else threads

namespace State

/-- Creates a team on a core with its threads and crews (R54, R76, R145, R146, R470). -/
def createTeam (s : State) (g : Grid) (role index unit core k : Nat) : State :=
  let r := g.role role
  let id := s.lastId + 1
  let nd := g.node.bind (fun n => s.node? g.ctx n.1)
  let team : Team :=
    { id := id, grid := g.id, ctx := g.ctx, role := role, index := index, unit := unit, place := .resident core, capacity := k,
      threads := r.threads, regs := r.regs, nbar := r.nbar, spadLines := r.spad, spad := [], absent := [],
      gslots := List.replicate 8 .unresolved, bars := List.replicate r.nbar (.start (members g.elected r.threads)),
      fdepth := g.fdepth, node := g.node.map Prod.fst, parkedSince := none, parkExpired := false, wake := false,
      heldReport := none, blocked := if g.node.isSome then 1 else 0 }
  let ts := (List.range r.threads).map (fun i =>
    let x := g.records[i]?
    Thread.start ⟨id, i⟩ r.entry (startRegs nd x) x)
  let s := { s with lastId := id, teams := s.teams ++ [team], threads := s.threads ++ ts }
  let s := (List.range (ceilDiv r.threads 32)).foldl (fun s c =>
    { s with crews := s.crews ++ [Crew.start ⟨id, c⟩ g.args (s.freeCrewSlot core k)] }) s
  -- a fill record's fill runs from the placement of its holder (R186)
  let running := g.records.filterMap Record.pfid
  { s with fills := updWhere (fun f => running.contains f.pfid) (fun f => { f with state := .running }) s.fills }

/-- Adds one to a dispatch count (R63). -/
def countUp (s : State) (g key : Nat) : State :=
  s.modGrid g (fun g => { g with counts := assocSet g.counts key (assocD g.counts key 0 + 1) })

/-- A team of a grid gets a core chosen from a list, and what is done there; the grid's count or pointer moves on (R63, R64). -/
def placeOn (s : State) (gid : Nat) (role : Nat) (ptr : Nat) (l : List Nat) (f : State → Grid → Nat → State) :
    Option (State × Nat) :=
  match s.grid? gid with
  | none => none
  | some g =>
    (s.pickCore g ptr 0 (g.role role).demand l).map (fun c => (f s g c, c + 1))

/-- Gives the teams of a unit cores of one cluster, each the core that the grid's rule prefers among those that leave room for the rest: so the
unit is placed whenever every team can be given a core at the same time (R59). -/
def placeTeams (gid : Nat) (cores : List Nat) (f : State → Grid → Nat × Nat → Nat → State) :
    List (Nat × Nat) → State → Nat → Option State
  | [], s, _ => some s
  | t :: ts, s, ptr =>
    match s.grid? gid with
    | none => none
    | some g =>
      let ok := cores.filter (fun c => s.room c 0 (g.role t.1).demand)
      (ruleOrder g.prop (assocD g.counts · 0) s.speedOf ptr ok).findSome? (fun c =>
        let s := f s g t c
        placeTeams gid cores f ts (if g.prop then s.countUp gid c else s) (c + 1))

/-- How many teams of a demand a core has room for (R58). -/
def timesIn (s : State) (core : Nat) (d : Demand) : Nat :=
  let c := s.freeOf core 0
  let q := fun (a b : Nat) => if b = 0 then 14 else a / b
  min (min (q c.regs d.regs) (q c.gran d.gran)) (min (q c.crews d.crews) (min (s.freeSlots core 0) (q c.bars d.bars)))

/-- Some demands are together within what the cores have, and each has a core with room for it alone: without that no search is needed. -/
def unitMayFit (s : State) (ds : List Demand) (cores : List Nat) : Bool :=
  let sum := fun (f : Demand → Nat) (l : List Demand) => (l.map f).foldl (· + ·) 0
  let free := cores.map (fun c => s.freeOf c 0)
  let slots := (cores.map (fun c => s.freeSlots c 0)).foldl (· + ·) 0
  decide (sum Demand.regs ds ≤ sum Demand.regs free) && decide (sum Demand.gran ds ≤ sum Demand.gran free)
    && decide (sum Demand.crews ds ≤ sum Demand.crews free) && decide (sum Demand.bars ds ≤ sum Demand.bars free)
    && decide (ds.length ≤ slots) && (ds.eraseDups).all (fun d =>
      decide ((ds.filter (fun x => x == d)).length ≤ (cores.map (fun c => s.timesIn c d)).foldl (· + ·) 0))

/-- Tries to give every team of a unit a core of one cluster by the grid's rule (R59); the cluster's barriers must be free too. -/
def placeUnitOn (s : State) (gid u cluster : Nat) (f : State → Grid → Nat × Nat → Nat → State) : Option State :=
  match s.grid? gid with
  | none => none
  | some g =>
    let cores := ((List.range Config.coresPerCluster).map (fun i => 16 * cluster + i)).filter g.eligible
    let used := (s.units.filter (fun x => x.cluster == some cluster)).foldl (fun n x => n + x.bars.length) 0
    if used + g.cbar > 32 || !s.unitMayFit ((g.unitTeams u).map (fun t => (g.role t.1).demand)) cores then none
    else placeTeams gid cores f (g.unitTeams u) s (16 * cluster)

/-- Places the next unit of a grid if some core or cluster has room (R58, R59, R62 to R64, R281). -/
def placeNext (s : State) (gid : Nat) : Option State :=
  match s.grid? gid with
  | none => none
  | some g =>
    let u := g.nextUnit
    if u ≥ g.unitCount || !s.saveRoom g.ctx (g.unitTeams u).length then none
    else if g.grouped then
      let fits := g.clusters.filterMap (fun n =>
        (s.placeUnitOn gid u n (fun s g t c => s.createTeam g t.1 t.2 u c 0)).map (fun x => (n, x)))
      let pick := (ruleOrder g.prop (fun n => assocD g.counts (clusterKey n) 0) (s.clusterSpeed g) g.pointer (fits.map Prod.fst)).head?
      (pick.bind (fun n => fits.find? (fun x => x.1 == n))).map (fun x =>
        let e := (g.unitTeams u).foldl (fun n t => n + members g.elected (g.role t.1).threads) 0
        let pu : PUnit := { grid := gid, index := u, cluster := some x.1, bars := List.replicate g.cbar (.start e) }
        let s := { x.2 with units := x.2.units ++ [pu] }
        let s := if g.prop then s.countUp gid (clusterKey x.1) else s
        s.modGrid gid (fun g => { g with nextUnit := u + 1, pointer := x.1 + 1 }))
    else
      (s.placeOn gid 0 g.pointer g.cores (fun s g c => s.createTeam g 0 u u c 0)).map (fun r =>
        let s := if g.prop then r.1.countUp gid (r.2 - 1) else r.1
        s.modGrid gid (fun g => { g with nextUnit := u + 1, pointer := r.2 }))

/-- Places units of one grid until one has no room (R63, R64). -/
def placeGrid (gid : Nat) : Nat → State → State
  | 0, s => s
  | n + 1, s =>
    match s.placeNext gid with
    | none => s
    | some s => placeGrid gid n s

end State

/-! ### Teams that come back (R62 to R65, R68, R470) -/

namespace State

/-- The crews of a team take the lowest free crew slots of its capacity, in ascending order (R470). -/
def giveSlots (s : State) (t : Team) (core : Nat) : State :=
  let others := ((s.crewsHeld core t.capacity).filter (fun c => c.1.id.team != t.id)).map (fun c => c.1.slot)
  let free := ((List.range (capacityOf t.capacity).crews).map (fun i => firstSlot t.capacity + i)).filter
    (fun n => !others.contains n)
  let mine := (s.crewsOf t.id).filter (fun c => !c.retired)
  (mine.zip free).foldl (fun s x => s.modCrew x.1.id (fun c => { c with slot := x.2 })) s

/-- The demand of a team (R56). -/
def teamDemand (t : Team) : Demand := demandOf t.threads t.regs t.spadLines t.nbar

/-- The banks that the team holds are free on a core (R231): no team there holds one of the same number, nor one that gets the core with it. -/
def banksFit (s : State) (t : Team) (core : Nat) : Bool :=
  (s.banks.filter (fun b => b.team == some t.id)).all (fun b =>
    !s.banks.any (fun x => x.bank == b.bank && x.team.isSome && x.team != some t.id &&
      (x.core == core || (x.core == Config.cores && (x.team.bind s.team?).bind Team.core? == some core))))

/-- The engines and the range-lock tables of a cluster's cores hold what their teams have with them, commands and locks of teams that have just
got their cores included (R97, R227, R262). DESIGN CHOICE: a team that comes back waits for a core with that room (log entry 118). -/
def enginesFit (s : State) (core : Nat) : Bool :=
  let back := fun (l : RangeLock) => l.core == Config.cores && ((s.cmd? l.cmd).map (fun c => s.onCore c.team core)).getD false
  decide (s.copyLoad core ≤ Config.copySlots) && decide (s.pairsLoad (clusterOf core) ≤ Config.pairsSlots)
    && ((List.range Config.coresPerCluster).all (fun i =>
      decide (s.matrixLoad (clusterOf core * Config.coresPerCluster + i) ≤ Config.matrixSlots)))
    && decide ((s.locks.filter (fun l => l.core == core || back l)).length ≤ Config.lockSlots)

/-- The sectors of a team's image, at crew and team reach and at cluster reach (R285). -/
def imageSectors (s : State) (t : Team) : Nat × Nat :=
  match s.imageBase? t with
  | none => (0, 0)
  | some base =>
    let n := min (s.readPhysNat (base + 0x20) 4) 1792
    let far := ((List.range n).filter (fun i => decide (2 ≤ s.readPhysNat (base + 0x90000 + 64 * i + 0xC) 1))).length
    (n - far, far)

/-- The store collectors and the cluster buffer take the sectors that some teams, given as they were while out, bring along to their cores
(R119, log entry 87). -/
def sectorsFit (s : State) (ts : List Team) : Bool :=
  let seats := ts.map (fun t => (s.coreOf t.id, s.imageSectors t))
  let sum := fun (l : List Nat) => l.foldl (· + ·) 0
  seats.all (fun x =>
    decide (s.collectorCount s.buffers x.1 + sum ((seats.filter (fun y => y.1 == x.1)).map (fun y => y.2.1)) ≤ Config.collectorSectors)
    && decide (sectorCount (s.buffers.filter (fun b => b.buf == .cluster (clusterOf x.1)))
        + sum ((seats.filter (fun y => clusterOf y.1 == clusterOf x.1)).map (fun y => y.2.2)) ≤ Config.clusterSectors))

/-- The dispatch counts that rule a grid's placement: its own, or those of the node of a batch (R63, R171). -/
def countsOf (s : State) (g : Grid) : List (Nat × Nat) :=
  match g.node with
  | none => g.counts
  | some n => (((s.ctx? g.ctx).map Ctx.counts).getD []).filterMap (fun x => if x.1 = n.1 then some x.2 else none)

/-- Gives teams that were placed before cores of a list, each the core that the grid's rule prefers among those that leave room for the rest
(R59, R63, R64); dispatch counts stay. `all` are the teams of the whole unit. -/
def seatAll (g : Grid) (all : List Team) (cores : List Nat) : List Team → State → Nat → Option (State × Nat)
  | [], s, ptr => if s.sectorsFit all then some (s, ptr) else none
  | t :: ts, s, ptr =>
    let ok := cores.filter (fun c => s.room c t.capacity (teamDemand t) && s.banksFit t c)
    (ruleOrder g.prop (assocD (s.countsOf g) · 0) s.speedOf ptr ok).findSome? (fun c =>
      let s := (s.modTeam t.id (fun x => { x with place := .resident c })).giveSlots t c
      if s.enginesFit c then seatAll g all cores ts s (c + 1) else none)

/-- Gives every team of a list a core, all on one cluster when the grid groups them (R16, R42, R59). -/
def seatTeams (s : State) (g : Grid) (ts : List Team) : Option State :=
  let swapped := ts.filter (fun t => match t.place with | .swapped _ _ => true | _ => false)
  if !s.saveRoom g.ctx swapped.length then none
  else if g.grouped then
    let u := (ts.head?.map Team.unit).getD 0
    let on := fun (cl : Nat) =>
      let cores := ((List.range Config.coresPerCluster).map (fun i => 16 * cl + i)).filter g.eligible
      let used := (s.units.filter (fun x => x.cluster == some cl)).foldl (fun n x => n + x.bars.length) 0
      if used + g.cbar > 32 || !s.unitMayFit (ts.map teamDemand) cores then none
      else (seatAll g ts cores ts s (16 * cl)).map Prod.fst
    let fits := g.clusters.filterMap (fun cl => (on cl).map (fun x => (cl, x)))
    let pick := (ruleOrder g.prop (fun n => assocD g.counts (clusterKey n) 0) (s.clusterSpeed g) g.pointer (fits.map Prod.fst)).head?
    (pick.bind (fun n => fits.find? (fun x => x.1 == n))).map (fun x =>
      (x.2.modUnit g.id u (fun p => { p with cluster := some x.1 })).modGrid g.id (fun g => { g with pointer := x.1 + 1 }))
  else
    (seatAll g ts g.cores ts s g.pointer).map (fun r => r.1.modGrid g.id (fun g => { g with pointer := r.2 }))

/-- The teams of a unit that are out, with the first bytes of their images. -/
def outOf (s : State) (t : Team) : List (Team × Nat) :=
  (s.teams.filter (fun x => x.grid == t.grid && x.unit == t.unit && x.out)).filterMap (fun x => (s.imageBase? x).map (fun b => (x, b)))

/-- A slot holds the saved image of the team: STATE is 1, and the grid, role and index are the team's (R283). -/
def hasImage (s : State) (t : Team) (base : Nat) : Bool :=
  s.readPhysNat base 4 == 1 && t.grid == s.readPhysNat (base + 4) 4 && t.role == s.readPhysNat (base + 0x12) 1 % 4
    && t.index == s.readPhysNat (base + 8) 4

/-- A team that is out may come back (R68, R286): a swapped-out one once a wake event has occurred in its unit, a saved one once its
context is restored and its image says that it was saved. -/
def canReturn (s : State) (t : Team) : Bool :=
  s.scheduled t.ctx &&
    (s.outOf t).all (fun x => match x.1.place with | .saved _ => s.hasImage x.1 x.2 | _ => true) &&
    (match t.place with
     | .swapped _ _ => (s.outOf t).any (fun x => x.1.wake)
     | .saved _ => true
     | _ => false)

/-- The order of R62 among the teams of a grid that are out: swapped-out ones by the time they left. DESIGN CHOICE: saved ones come before them, by slot,
and of teams that left at one time the one created first (log entry 129). -/
def outKey (t : Team) : Nat :=
  match t.place with
  | .saved n => n
  | .swapped at_ _ => 2 ^ 20 + at_
  | _ => 0

/-- The team of a grid that comes back first (R62). -/
def firstBack (s : State) (g : Grid) : Option Team :=
  (s.teams.filter (fun t => t.grid == g.id && s.canReturn t)).foldl (fun (b : Option Team) t =>
    match b with
    | none => some t
    | some u => if outKey t < outKey u then some t else some u) none

/-- There is room for the unit of a team that comes back. -/
def backFits (s : State) (t : Team) : Bool :=
  match s.grid? t.grid with
  | none => false
  | some g => (s.seatTeams g ((s.outOf t).map Prod.fst)).isSome

end State

/-! ### Batches (R171, R199, R200) -/

/-- The effective class of a formed batch (R171, R199). -/
def batchClass (s : State) (d : NodeDesc) (b : Batch) : Nat :=
  let held := b.records.filterMap Record.pfid
  ((s.fills.filter (fun f => held.contains f.pfid)).map Fill.cls).foldl max d.prio

/-- The grid of a batch (R171). -/
def batchGrid (id ctx : Nat) (d : NodeDesc) (b : Batch) : Grid :=
  { id := id, ctx := ctx, prio := d.prio, prop := true, cgrp := false, group := 0, cbar := 0, elected := false, gang := false,
    clmask := 2 ^ 36 - 1, coremask := 0xFFFF,
    roles := [{ entry := d.entry, threads := b.records.length, regs := d.regs, nbar := d.nbar, ntx := 1, nty := 1, ntz := 1,
                spad := d.spad }],
    done := 0, donev := 0, args := List.replicate 16 0, depth := 0, fdepth := b.part, parent := none,
    node := some (b.node, b.part), records := b.records, bars := [], nextUnit := 1, counts := [], pointer := 0, stopped := false,
    retired := false }

/-- Where a batch can be placed: the core, and the capacity that takes it; ordinary room first, then the reservation of its depth
(R171, R200). -/
def batchPlace (s : State) (ctx : Nat) (b : Batch) : Option (Nat × Nat) :=
  match s.ctx? ctx, s.node? ctx b.node with
  | some c, some d =>
    let demand := demandOf b.records.length d.regs d.spad d.nbar
    let count := fun (core : Nat) =>
      ((c.counts.find? (fun x => x.1 == b.node && x.2.1 == core)).map (fun x => x.2.2)).getD 0
    let pick := fun (k : Nat) => leastRatio count s.speedOf ((List.range Config.cores).filter (fun n => s.room n k demand))
    if !s.saveRoom ctx 1 || !s.scheduled ctx then none
    else match pick 0 with
      | some n => some (n, 0)
      | none => if b.part = 0 ∨ d.nbar ≠ 0 then none else (pick b.part).map (fun n => (n, b.part))
  | _, _ => none

/-- The class of a formed batch of a context, by its number. -/
def classAt (s : State) (ctx : Nat) (b : Batch) : Nat := ((s.node? ctx b.node).map (fun d => batchClass s d b)).getD 0

/-! ### Offers (R65) -/

/-- Who waits for an offer: unplaced teams of a grid, a team of a grid that comes back, or a formed batch by its number in its context. -/
inductive Offer where
  | place (grid : Nat)
  | back (grid team : Nat)
  | batch (ctx i : Nat)
deriving DecidableEq, Repr

/-- An offer with its class and its place in the order of admission and forming (R65, R171). -/
structure Ranked where
  cls : Nat
  key : Nat
  offer : Offer

/-- Puts an offer into a list by its key; among equal keys the earlier one stays first. -/
def rankedInsert (x : Ranked) : List Ranked → List Ranked
  | [] => [x]
  | y :: l => if y.key ≤ x.key then y :: rankedInsert x l else x :: y :: l

namespace State

/-- The effective class of a grid (R32, R199): that of its teams. -/
def gridClass (s : State) (g : Grid) : Nat := ((s.teams.filter (fun t => t.grid == g.id)).map (fun t => s.effClass t.id)).foldl max g.prio

/-- What a grid asks for: the return of its first team that is out, otherwise its unplaced teams (R62). -/
def gridOffer (s : State) (g : Grid) : Option Offer :=
  match s.firstBack g with
  | some t => some (.back g.id t.id)
  | none => if g.nextUnit < g.unitCount then some (.place g.id) else none

/-- Everyone who waits for an offer, in the order in which offers are made: descending effective class, and admission or forming order within
a class (R65, R171). -/
def offerOrder (s : State) : List Ranked :=
  let gs := (s.grids.filter (fun g => !g.retired && !g.stopped && s.scheduled g.ctx)).filterMap (fun g =>
    (s.gridOffer g).map (fun o => Ranked.mk (s.gridClass g) g.id o))
  let bs := (s.ctxs.filter (fun c => s.scheduled c.id)).flatMap (fun c =>
    c.batches.zipIdx.map (fun b => Ranked.mk (classAt s c.id b.1) b.1.formed (.batch c.id b.2)))
  let all := (gs ++ bs).foldl (fun l x => rankedInsert x l) []
  [3, 2, 1, 0].flatMap (fun c => all.filter (fun x => x.cls == c))

/-- A batch whose bin has no earlier batch, and for which there is room (R170, R171). -/
def batchFits (s : State) (ctx i : Nat) : Bool :=
  match s.ctx? ctx with
  | none => false
  | some c =>
    match c.batches[i]? with
    | none => false
    | some b => (c.batches.take i).all (fun x => !(x.node == b.node && x.part == b.part)) && (batchPlace s ctx b).isSome

/-- A batch or a team that comes back finds room: its own event takes the offer. -/
def offerFits (s : State) : Offer → Bool
  | .place _ => false
  | .back _ t => ((s.team? t).map s.backFits).getD false
  | .batch c i => s.batchFits c i

/-- Nobody whose turn is earlier is about to take its offer (R65). -/
def offerTurn (s : State) (o : Offer) : Bool := ((s.offerOrder.takeWhile (fun x => x.offer != o)).all (fun x => !s.offerFits x.offer))

/-- The placement offers of a cycle (R63 to R65), in order. The round stands before a batch or a returning team that finds room, until its event has
taken the offer, and then goes on. -/
def offers (s : State) : State :=
  let r := s.offerOrder.foldl (fun (r : State × Bool) x =>
    if r.2 then r
    else match x.offer with
      | .place gid => ((match r.1.grid? gid with | none => r.1 | some g => placeGrid gid (g.unitCount - g.nextUnit) r.1), false)
      | o => (r.1, r.1.offerFits o)) (s, false)
  { r.1 with offering := r.2 }

end State

/-- The batch's turn (R65, R170, R171). -/
def batchTurn (s : State) (ctx i : Nat) : Bool := s.batchFits ctx i && s.offerTurn (.batch ctx i)

/-! ### Does a grid fit at all (R49, R52, R66)? -/

namespace State

/-- The device with no team on it, for TOO_BIG (R49). -/
def emptied (s : State) : State :=
  { s with teams := [], threads := [], crews := [], units := [], ctxs := s.ctxs.map (fun c =>
      { c with regs := { c.regs with saveslots := 2 ^ 32 } }) }

/-- The grid's first placement unit fits on an empty eligible core or cluster (R49). -/
def fitsEmpty (s : State) (g : Grid) : Bool := (State.placeNext { s.emptied with grids := [g] } g.id).isSome

/-- Teams that one unit has. -/
def unitSize (g : Grid) : Nat := (g.unitTeams 0).length

end State

/-- The number of a demand that one empty core holds, the least over the resources (R58). -/
def perCore (d : Demand) : Nat :=
  let c := capacityOf 0
  let q := fun (a b : Nat) => if b = 0 then 14 else a / b
  min (min (q c.regs d.regs) (q c.gran d.gran)) (min (q c.crews d.crews) (min 14 (q c.bars d.bars)))

namespace State

/-- Teams of the grid that cannot be resident at once (R66). -/
def excess (s : State) (g : Grid) : Nat :=
  let total := g.unitCount * unitSize g
  let held :=
    if g.gang then (if s.fitsEmpty g then total else 0)
    else if g.cgrp then
      g.clusters.foldl (fun n cl =>
        let cores := (((List.range Config.coresPerCluster).map (fun i => 16 * cl + i)).filter g.eligible).length
        let byTeams := cores * perCore g.role0.demand / (max 1 g.group)
        n + g.group * (if g.cbar = 0 then byTeams else min byTeams (32 / g.cbar))) 0
    else g.cores.length * perCore g.role0.demand
  total - held

/-- The grid needs swapping and its context's swap area, if it has one (R289), cannot hold what is not resident (R66). DESIGN CHOICE: the area is taken
as a whole: slots that other teams hold or other grids may need are not taken off (log entry 128). -/
def noSwap (s : State) (g : Grid) : Bool :=
  g.bars.length != 0 &&
    decide (((s.ctx? g.ctx).map (fun c => if c.regs.swapbase = 0 then 0 else c.regs.swapslots)).getD 0 < s.excess g)

end State

end Sys2Proof.Machine
end

