-- ==== Sys2Proof/Machine/Retire.lean ====
section
/-!
DEFINITION. The end of a thread (R44, R147, R350), of a record (R166, R197), of a crew (R45), of a team and of a grid (R40, R41,
R55), and the grants of the parked-allocation queue (R166).
-/

namespace Sys2Proof.Machine

namespace State

/-! ### Threads -/

/-- A thread's exit lowers E of every barrier it belongs to (R147). `lastOfCrew`: it was the last live thread of its crew. -/
def leaveBarriers (s : State) (t : ThreadId) (lastOfCrew : Bool) : State :=
  match s.team? t.team with
  | none => s
  | some tm =>
    match s.grid? tm.grid with
    | none => s
    | some g =>
      if g.elected && !lastOfCrew then s
      else
        let f := fun (x : Barrier) => x.leave t.tid tm.coreD
        let s := s.modTeam tm.id (fun x => { x with bars := x.bars.map f })
        let s := s.modUnit tm.grid tm.unit (fun u => { u with bars := u.bars.map f })
        s.modGrid g.id (fun g => { g with bars := g.bars.map f })

/-- The record that a thread held is freed (R166), and a RUNNING fill that it carried fails (R197). -/
def freeRecord (s : State) (t : Thread) : State :=
  match t.record, (s.team? t.id.team).bind Team.node with
  | some r, some n =>
    let s := s.modThread t.id (fun x => { x with record := none })
    let s := s.modCtx (s.ctxId t.id.team) (fun c => { c with used := assocSet c.used n (c.usedBy n - 1) })
    match r.pfid with
    | none => s
    | some p => if s.fills.any (fun f => f.pfid == p && f.state == .running) then s.failFill p 0xFF else s
  | _, _ => s

/-- The places where a team that has no live thread, no engine command and live child grids can keep its record (R40). -/
def retainedCount (s : State) (cluster : Nat) : Nat :=
  (s.teams.filter (fun t => match t.place with | .retained c => clusterOf c == cluster | _ => false)).length

/-- Teams without live threads and engine commands whose child grids live on keep only their record, while the cluster's table
has an entry (R40). DESIGN CHOICE: of several that wait for an entry, the team that was created first takes it (log entry 88). -/
def settleRetained (s : State) : State :=
  s.teams.foldl (fun s t =>
    match t.place with
    | .draining c =>
      if s.queuesDrained t.id && s.hasChildren t.id && decide (s.retainedCount (clusterOf c) < Config.retainedSlots) then
        s.modTeam t.id (fun x => { x with place := .retained c })
      else s
    | _ => s) s

/-- A crew retires with its last live thread (R45): its crew-reach bytes are committed (R127). The team's last crew leaves the
team without live threads. -/
def retireCrew (s : State) (c : CrewId) : State :=
  let s := (s.modCrew c (fun x => { x.released with retired := true })).impliedCrew c
  if (s.liveTeam c.team).isEmpty then
    (s.modTeam c.team (fun t => match t.place with | .resident n => { t with place := .draining n } | _ => t)).settleRetained
  else s

/-- A thread ends (R44, R350): the part of `EXIT` and of the continuation form of `TRAV` before any grant. -/
def endThread (s : State) (id : ThreadId) : State :=
  match s.thread? id with
  | none => s
  | some t =>
    if !t.live then s
    else
      let s := (s.leaveQueues id).modThread id (fun x =>
        { x with live := false, park := .none, stall := .none, arrived := none, loads := [] })
      let last := (s.liveOf id.crewId).isEmpty
      let s := s.leaveBarriers id last
      let s := s.modCrew id.crewId (fun c => { c with exitAt := some (id.tid, s.cycleOf (s.coreOf id.team)) })
      let s := s.freeRecord t
      if last then s.retireCrew id.crewId else s

/-! ### Grants (R166) -/

/-- What the grant of a parked allocation does: its record enters the bin, and the waiter goes on; for a team that is out, once it is back (R68). A
continuation does not end its thread while the team still waits for a translation or its arguments (R466). -/
def grant (s : State) (ctx : Nat) (a : Alloc) : State :=
  let s := s.modCtx ctx (fun c => { c with allocs := c.allocs.filter (fun x => x != a) })
  let s := s.enterBin ctx a.node a.part a.record
  match a.who with
  | .spawn t => (s.noteWake [t]).modThread t (fun x => { x with park := .none, pc := x.pc + 4 })
  | .cont t =>
    if s.outside t.team || ((s.team? t.team).map (fun x => x.blocked != 0)).getD false then
      (s.noteWake [t]).modThread t (fun x => { x with park := .ending })
    else s.endThread t
  | .fill _ => s
  | .pairs c =>
    let team := ((s.cmd? c).map EngCmd.team).getD 0
    if s.outside team then (s.modTeam team (fun t => { t with wake := true })).modCmd c (fun x => { x with wait := .granted })
    else s.modCmd c (fun x => { x with wait := .none, progress := x.progress + 1 })

/-- Walks the queue from its head and grants every waiter that can be granted (R166); a grant that ends a thread frees its
record, and the walk starts again. -/
def grantsOf (ctx : Nat) : Nat → State → State
  | 0, s => s
  | n + 1, s =>
    match s.ctx? ctx with
    | none => s
    | some c =>
      match c.allocs.find? (fun a => c.canAlloc a.node) with
      | none => s
      | some a => grantsOf ctx n (s.grant ctx a)

/-- The grants after a free, and the drains they bring (R166, R170). -/
def grants (s : State) (ctx : Nat) : State :=
  (grantsOf ctx ((((s.ctx? ctx).map (fun c => c.allocs.length)).getD 0) + 1) s).drainBins ctx

/-- A thread ends, and what its record's slot allows is granted (R166, R350). -/
def exitThread (s : State) (id : ThreadId) : State := (s.endThread id).grants (s.ctxId id.team)

/-! ### Teams and grids (R40, R41) -/

/-- Every thread of the team has exited. -/
def allExited (_s : State) (t : Team) : Bool :=
  match t.place with
  | .draining _ | .retained _ => true
  | _ => false

/-- A team can retire (R41): no live thread, no engine command, no unacknowledged operation, no live child grid; what a restore brought with it has
found its translation again (R466). -/
def canRetire (s : State) (t : Team) : Bool :=
  s.allExited t && t.blocked == 0 && s.queuesDrained t.id && (s.crewsOf t.id).all (fun c => c.unack == 0) && !s.hasChildren t.id

/-- The crews of the team author bytes that are not at device reach. -/
def holdsBytes (s : State) (team : Nat) : Bool :=
  s.buffers.any (fun b => match b.author with | .crew c => c.team == team | .unit => false)

/-- Every team of the grid has been placed and has retired. -/
def gridDone (s : State) (g : Grid) : Bool :=
  decide (g.unitCount ≤ g.nextUnit) && !s.teams.any (fun t => t.grid == g.id)

/-- The grid retires (R41): DONEV is stored (R55), its barriers go, and a parent's record may fall free. -/
def retireGrid (s : State) (g : Grid) : State :=
  let s := s.modGrid g.id (fun g => { g with retired := true, bars := [], records := [] })
  let s := { s with units := s.units.filter (fun u => u.grid != g.id) }
  (s.storeDone g).settleRetained

/-- Teams release their banks (R231): the words stay in the accumulator memory, and what a team holds while it is out goes. -/
def freeBanks (own : Nat → Bool) (l : List Bank) : List Bank :=
  (l.filter (fun b => !(b.core == Config.cores && (b.team.map own).getD false))).map (fun (b : Bank) =>
    { b with team := b.team.bind (fun n => if own n then none else some n) })

/-- The team's structures go: threads, crews, banks, and the cluster barriers of a unit whose teams are all gone (R41, R231). DESIGN CHOICE: a
unit's cluster barriers stay claimed until its last team retires, and while the unit is out they are free (log entry 89). -/
def removeTeam (s : State) (t : Team) : State :=
  let s := { s with
    teams := s.teams.filter (fun x => x.id != t.id)
    threads := s.threads.filter (fun x => x.id.team != t.id)
    crews := s.crews.filter (fun x => x.id.team != t.id)
    commits := s.commits.filter (fun w => w.crew.team != t.id)
    banks := freeBanks (fun n => n == t.id) s.banks }
  if s.teams.any (fun x => x.grid == t.grid && x.unit == t.unit) then s
  else { s with units := s.units.filter (fun u => !(u.grid == t.grid && u.index == t.unit)) }

/-- A team retires (R41, R127): bytes it still holds below device reach are sent first, and it retires once they are
acknowledged. Its grid may retire with it, bins may drain (R170), and a round of placement offers falls due (R63 to R65). -/
def retireTeam (s : State) (t : Team) : State :=
  if s.holdsBytes t.id then s.impliedTeam t.id
  else
    let s := (s.removeTeam t).settleRetained
    let s := match s.grid? t.grid with
      | none => s
      | some g => if s.gridDone g && !g.retired then s.retireGrid g else s
    { s.drainBins t.ctx with offering := true }

/-- A team can retire now: the offers of the cycle wait for it (R65). -/
def retiresNow (s : State) : Bool := s.teams.any (fun t => s.canRetire t && !s.holdsBytes t.id)

/-! ### Removing a grid (R468) -/

/-- The grids that one removal takes: the grid and every grid that their teams launched, at every depth (at most 11). -/
def removalSet (s : State) (g : Nat) : List Nat :=
  (List.range 11).foldl (fun (l : List Nat) _ =>
    l ++ (s.grids.filter (fun x => !x.retired && !l.contains x.id &&
      (match x.parent.bind s.team? with | some t => l.contains t.grid | none => false))).map Grid.id) [g]

end State

end Sys2Proof.Machine
end

