-- ==== Sys2Proof/Machine/ControlLane.lean ====
section
/-!
DEFINITION. The lane instructions that change the flow of control: `BRA` (R336), `CALL` (R340), `BRX`, `RET`, `CALLX` (R338),
`TRET` (R271, R417), `EXIT` (R350), `YIELD` (R35) and `TRAP` (R272).
-/

namespace Sys2Proof.Machine

/-- `BRA` (R336). -/
def execBra (o : OpBra) (s : State) : Out :=
  .next (laneEach 4 o.g (fun s t => s.modThread t.id (fun x => { x with pc := branchTo t.pc 21 o.off.toNat })) s)

/-- `CALL` (R340). -/
def execCall (o : OpCall) (s : State) : Out :=
  .next (laneEach 4 o.g (fun s t =>
    s.modThread t.id (fun x => { x.setReg o.d.val (linkOf t) with pc := branchTo t.pc 15 o.off.toNat })) s)

/-- The target check of R276, then the jump. -/
def jumpTo (s : State) (t : Thread) (target : Word) (f : Thread → Thread) : State :=
  if target.toNat % 16 ≠ 0 then s.threadTrap t .badTarget target 0
  else s.modThread t.id (fun x => { f x with pc := target })

/-- `BRX` (R276, R338). -/
def execBrx (o : OpReg1) (s : State) : Out := .next (laneEach 4 o.g (fun s t => jumpTo s t (t.reg o.a.val) id) s)

/-- `RET` (R276, R338): it acts as `BRX`. -/
def execRet (o : OpReg1) (s : State) : Out := .next (laneEach 4 o.g (fun s t => jumpTo s t (t.reg o.a.val) id) s)

/-- `CALLX` (R276, R338): the target is read before the link is written. -/
def execCallx (o : OpReg2) (s : State) : Out :=
  .next (laneEach 4 o.g (fun s t => jumpTo s t (t.reg o.a.val) (fun x => x.setReg o.d.val (linkOf t))) s)

/-! ### TRET -/

/-- `TRET` outside the handler raises ILLEGAL_INSTR with its own word (R271); inside it returns to the target. -/
def tretThread (i : Instr) (s : State) (t : Thread) (target : Word) : State :=
  if t.inh then s.returnTo t target
  else s.threadTrap t .illegal ((encode i).headD 0) 0

/-- `TRET` (R271): back to `%trapc`. -/
def execTret (g : Guard) (s : State) : Out := .next (laneEach 4 g (fun s t => tretThread (.tret g) s t t.trapc) s)

/-- A word of the code window as a fetch reads it now (R102): the core's instruction cache, else device reach through a TLB entry or a walk (R92); a
denied read is counted (R297). -/
def codeRead (s : State) (team : Nat) (pc : Word) : State × Option Word :=
  match s.team? team with
  | none => (s, none)
  | some t =>
    let va := (((s.ctx? t.ctx).map (fun c => c.regs.codebase)).getD 0 + pc.toNat) % 2 ^ 52
    let at_ := fun (s : State) (tr : Translation) =>
      let loc := tr.loc t.ctx va
      if s.reachable loc false then (s, (s.devBytes? loc 4).map (fun bs => (BitVec.ofNat 32 (leNat bs) : Word)))
      else (s.logDenial loc .device false, none)
    match s.icache.find? (fun w => w.core == t.coreD && w.grid == t.grid && w.va == va), s.tlbFind t.coreD t.ctx va with
    | some w, _ => (s, some w.word)
    | none, some tr => at_ s tr
    | none, none =>
      let r := s.walk t.coreD ⟨t.ctx, va, false, true⟩
      match r.2 with
      | .ok tr => at_ r.1 tr
      | .error _ => (r.1, none)

/-- The length of the instruction at `%trapc` (R271, R306, R417): 8 when its word takes the escape; 4 otherwise, also for a
word that cannot be read. -/
def lengthAt (s : State) (t : Thread) : Nat :=
  match (codeRead s t.id.team t.trapc).2 with
  | none => 4
  | some w => if needsExt w then 8 else 4

/-- `TRET.NEXT` (R271, R417): inside the handler it reads the word at `%trapc` for its length. -/
def execTretNext (g : Guard) (s : State) : Out :=
  .next (laneEach 4 g (fun s t =>
    tretThread (.tretNext g) (if t.inh then (codeRead s t.id.team t.trapc).1 else s) t (t.trapc + BitVec.ofNat 32 (lengthAt s t))) s)

/-- `TRET va` (R271, R417): an unaligned target raises BAD_TARGET while the in-handler flag is set, so it escalates with
REASON 2 (R274). -/
def tretRegThread (o : OpReg1) (s : State) (t : Thread) : State :=
  let target := t.reg o.a.val
  if t.inh && target.toNat % 16 != 0 then
    s.escalate t (causeWord .badTarget false true 0) target t.pc 2 0
  else tretThread (.tretReg o) s t target

/-- `TRET va` (R271, R417). -/
def execTretReg (o : OpReg1) (s : State) : Out := .next (laneEach 4 o.g (tretRegThread o) s)

/-! ### EXIT, YIELD, TRAP -/

/-- `EXIT` (R44, R350). -/
def execExit (g : Guard) (s : State) : Out := .next (laneEach 4 g (fun s t => s.exitThread t.id) s)

/-- What `YIELD` does to a thread (R35): its wait restarts and it is demoted for 64 cycles. -/
def yieldThread (s : State) (t : Thread) : Thread :=
  { t with wait := 0, demoted := some (s.cycleOf (s.coreOf t.id.team) + Config.demoteCycles) }

/-- `YIELD` (R35, R420). -/
def execYield (g : Guard) (s : State) : Out := .next (laneReg 4 g yieldThread s)

/-- `TRAP` with a direct number (R272, R414). -/
def execTrap (o : OpTrap) (s : State) : Out :=
  .next (laneEach 4 o.g (fun s t => s.threadTrap t .soft (BitVec.ofNat 32 o.n.toNat) 0) s)

/-- `TRAP` with its number in the extension word (R272, R414). -/
def execTrapExt (o : OpTrapExt) (s : State) : Out := .next (laneEach 8 o.g (fun s t => s.threadTrap t .soft o.n 0) s)

end Sys2Proof.Machine
end

