-- ==== Sys2Proof/Machine/SpecialRead.lean ====
section
/-!
DEFINITION. The special registers (R18, R315, R316): what a thread's or a crew's read of each one gives, and the instructions `SRD`
(R409) and `KSRD` (R376).
-/

namespace Sys2Proof.Machine

/-- The position of a team within its grid or role: x, y, z of a linear index (R18, R62). -/
def teamPos (r : Role) (i : Nat) : Nat × Nat × Nat :=
  (i % (max 1 r.ntx), i / (max 1 r.ntx) % (max 1 r.nty), i / (max 1 r.ntx) / (max 1 r.nty))

namespace State

/-- `%share` (R61). -/
def shareOf (s : State) (g : Grid) (core : Nat) : Nat :=
  0x10000 * s.speedOf core / (g.cores.foldl (fun a c => a + s.speedOf c) 0)

/-- The team's copy commands that are issued and not complete (R245). -/
def copiesOf (s : State) (team : Nat) : Nat := (s.cmds.filter (fun c => c.team == team && c.kind == .cpy)).length

/-- A barrier's phase token, if the barrier is claimed (R154). -/
def bphase (s : State) (team : Nat) (b : BarRef) : Option Word := (s.barrier? team b).map (fun x => tokenOf b x.p)

/-- The value of a special register for a thread, with the crew's or the thread's latch of `%clock.hi` (R315, R316); none for
an unclaimed barrier's token. -/
def readSReg (s : State) (t : Thread) (latch : Option Word) (r : SReg) : Option Word :=
  match s.team? t.id.team, s.crew? t.id.crewId with
  | some tm, some c =>
    match s.grid? tm.grid with
    | none => none
    | some g =>
      let role := g.role tm.role
      let pos := teamPos role tm.index
      let w := fun (n : Nat) => some (BitVec.ofNat 32 n : Word)
      match r with
      | .lane => w t.id.lane
      | .tid => w t.id.tid
      | .crew => w t.id.crewId.crew
      | .ncrew => w tm.ncrew
      | .teamX => w pos.1
      | .teamY => w pos.2.1
      | .teamZ => w pos.2.2
      | .nteamX => w role.ntx
      | .nteamY => w role.nty
      | .nteamZ => w role.ntz
      | .role => w tm.role
      | .core => w tm.coreD
      | .cluster => w (clusterOf tm.coreD)
      | .speed => w (s.speedOf tm.coreD)
      | .share => w (s.shareOf g tm.coreD)
      | .depth => w g.depth
      | .clockLo => w s.ns
      | .clockHi => some (latch.getD (BitVec.ofNat 32 (s.ns / 2 ^ 32)))
      | .fdepth => w tm.fdepth
      | .prio => w (s.effClass tm.id)
      | .sat => some c.sat
      | .cflict => some c.cflict
      | .stragId => some c.stragId
      | .stragWait => some c.stragWait
      | .cause => some t.cause
      | .trapc => some t.trapc
      | .trapv => some t.trapv
      | .copies => w (s.copiesOf tm.id)
      | .gen => w (((t.record.bind Record.gen)).getD 0xFFFFFFFF)
      | .node => w (tm.node.getD 0xFFFFFFFF)
      | .bphaseT n => s.bphase tm.id ⟨.team, n.val⟩
      | .bphaseC n => s.bphase tm.id ⟨.cluster, n.val⟩
      | .bphaseG n => s.bphase tm.id ⟨.grid, n.val⟩
  | _, _ => none

/-- Bits 63:32 of device time, which a read of `%clock.lo` latches (R316). -/
def clockTop (s : State) : Word := BitVec.ofNat 32 (s.ns / 2 ^ 32)

end State

/-- One thread of `SRD` (R316, R409). -/
def srdThread (o : OpSrd) (s : State) (t : Thread) : State :=
  match s.readSReg t t.clockHi o.sr with
  | none => s.threadTrap t .badHandle (BitVec.ofNat 32 (o.sr.code)) 0
  | some w =>
    let hi := if o.sr = .clockLo then some s.clockTop else t.clockHi
    s.modThread t.id (fun x => { (x.setReg o.d.val w).advance 4 with clockHi := hi })

/-- `SRD` (R409). -/
def execSrd (o : OpSrd) (s : State) : Out := .next (laneEach 4 o.g (srdThread o) s)

/-- What `KSRD` does for its crew: a thread-scope register is that of the lowest-lane live thread (R316, R376). -/
def ksrdCrew (o : OpSrd) (s : State) (c : Crew) : State :=
  match (s.liveOf c.id).head? with
  | none => s.finishUniform c.id 4
  | some t =>
    match s.readSReg t c.clockHi o.sr with
    | none => s.uniformTrap c.id .badHandle (BitVec.ofNat 32 (o.sr.code)) 0
    | some w =>
      let hi := if o.sr = .clockLo then some s.clockTop else c.clockHi
      (s.modCrew c.id (fun x => { x.setReg o.d.val w with clockHi := hi })).finishUniform c.id 4

/-- `KSRD` (R376). -/
def execKsrd (o : OpSrd) (s : State) : Out := .next (uniformRun 4 o.g (ksrdCrew o) s)

end Sys2Proof.Machine
end

