-- ==== Sys2Proof/Machine/Uniform.lean ====
section
/-!
DEFINITION. The uniform instructions on k registers (R366 to R375), `BSTAT` (R339), and those that change crew and team state:
`GSET` (R228), `PHASE` (R278), `SATARM` (R215) and `FENCE` (R101, R246, R355).
-/

namespace Sys2Proof.Machine

/-! ### Arithmetic (R367, R368, R375) -/

/-- A uniform instruction that writes k[D] from k[A] and k[B] (R366). -/
def k3 (o : OpK3) (f : Word → Word → Word) (s : State) : Out :=
  .next (uniformReg 4 o.g (fun _ c => c.setReg o.d.val (f (c.reg o.a.val) (c.reg o.b.val))) s)

/-- `KADD` (R367). -/
def execKadd (o : OpK3) (s : State) : Out := k3 o (fun a b => a + b) s

/-- `KSUB` (R367). -/
def execKsub (o : OpK3) (s : State) : Out := k3 o (fun a b => a - b) s

/-- `KMUL` (R367). -/
def execKmul (o : OpK3) (s : State) : Out := k3 o (fun a b => a * b) s

/-- `KAND` (R368). -/
def execKand (o : OpK3) (s : State) : Out := k3 o (fun a b => a &&& b) s

/-- `KOR` (R368). -/
def execKor (o : OpK3) (s : State) : Out := k3 o (fun a b => a ||| b) s

/-- `KXOR` (R368). -/
def execKxor (o : OpK3) (s : State) : Out := k3 o (fun a b => a ^^^ b) s

/-- `KSHL` (R375): bits 4:0 of k[B] are the amount. -/
def execKshl (o : OpK3) (s : State) : Out := k3 o (fun a b => a <<< (b.toNat % 32)) s

/-- `KSHR` (R375). -/
def execKshr (o : OpK3) (s : State) : Out := k3 o (fun a b => a >>> (b.toNat % 32)) s

/-- `KADD` with a direct immediate (R367). -/
def execKaddImm (o : OpImm9) (s : State) : Out :=
  .next (uniformReg 4 o.g (fun _ c => c.setReg o.d.val (c.reg o.a.val + imm9 o.imm)) s)

/-- `KADD` with an extension word (R306, R367). -/
def execKaddImmExt (o : OpExt) (s : State) : Out :=
  .next (uniformReg 8 o.g (fun _ c => c.setReg o.d.val (c.reg o.a.val + o.imm)) s)

/-- `KSHL` by an immediate (R375). -/
def execKshlImm (o : OpShift) (s : State) : Out :=
  .next (uniformReg 4 o.g (fun _ c => c.setReg o.d.val (c.reg o.a.val <<< o.s.val)) s)

/-- `KSHR` by an immediate (R375). -/
def execKshrImm (o : OpShift) (s : State) : Out :=
  .next (uniformReg 4 o.g (fun _ c => c.setReg o.d.val (c.reg o.a.val >>> o.s.val)) s)

/-! ### Compares, selects and moves (R370, R373, R374) -/

/-- `KCMP` (R312, R370). -/
def execKcmp (o : OpKcmp) (s : State) : Out :=
  .next (uniformReg 4 o.g (fun _ c =>
    c.setPred o.qd.val (o.comb.apply (c.pred o.qd.val) (o.cond.holds (c.reg o.a.val) (c.reg o.b.val)))) s)

/-- `KSEL` (R374): G and NG choose, and there is no guard. -/
def execKsel (o : OpK3) (s : State) : Out :=
  .next (uniformReg 4 guardTrue (fun _ c =>
    c.setReg o.d.val (if c.guard o.g then c.reg o.a.val else c.reg o.b.val)) s)

/-- `KMOV` (R373). -/
def execKmov (o : OpKmov) (s : State) : Out :=
  .next (uniformReg 4 o.g (fun _ c => c.setReg o.d.val (c.reg o.b.val)) s)

/-- `KMOV.V` (R373): the v register of the lowest-lane live thread. -/
def execKmovV (o : OpKmov) (s : State) : Out :=
  .next (uniformReg 4 o.g (fun s c => c.setReg o.d.val (((s.liveOf c.id).head?.map (fun t => t.reg o.b.val)).getD 0)) s)

/-- `KMOV` with a direct immediate (R373). -/
def execKmovImm (o : OpImm15) (s : State) : Out :=
  .next (uniformReg 4 o.g (fun _ c => c.setReg o.d.val (imm15 o.imm)) s)

/-- `KMOV` with an extension word (R306, R373). -/
def execKmovImmExt (o : OpExt15) (s : State) : Out :=
  .next (uniformReg 8 o.g (fun _ c => c.setReg o.d.val o.imm) s)

/-! ### Branches (R339, R369) -/

/-- Every live thread of a crew continues at an offset from its uniform instruction, and leaves the rendezvous (R26). -/
def State.branchUniform (s : State) (c : CrewId) (w off : Nat) : State :=
  { s with threads := updWhere (fun t => t.id.crewId == c && t.live)
             (fun t => { t.leave 4 with pc := branchTo t.pc w off }) s.threads,
           crews := updWhere (fun x => x.id == c) (fun x => x.released) s.crews }

/-- `KBRA` (R369). -/
def execKbra (o : OpBra) (s : State) : Out := .next (uniformRun 4 o.g (fun s c => s.branchUniform c.id 21 o.off.toNat) s)

/-- `BSTAT` (R314, R339). -/
def execBstat (o : OpBstat) (s : State) : Out :=
  .next (uniformRun 4 o.g (fun s c =>
    if o.t.holds (c.reg o.a.val) then s.branchUniform c.id 12 o.off.toNat else s.finishUniform c.id 4) s)

/-! ### Scratchpad (R371, R372) -/

/-- The scratchpad offset of `KLD` and `KST`, exact (R372). -/
def kAddr (c : Crew) (o : OpKmem) : Nat := (c.reg o.a.val).toNat + o.off.val * (if o.wide then 8 else 4)

/-- A crew's scratchpad access follows every scratchpad access that its threads issued before (R132): their outstanding reductions perform first,
and the crew waits for an absent line of theirs. -/
def withReds (s : State) (c : CrewId) (f : State → State) : State :=
  match (spadReds s c).find? (fun r => !redReady s r) with
  | some r => s.waitLine c (r.off / 128)
  | none => f (performSpadReds s c)

/-- The checks of a crew's scratchpad access of `n` bytes (R372), then what `f` does; the crew waits for an absent line. -/
def withCrewSpad (s : State) (c : Crew) (ea n : Nat) (f : State → State) : State :=
  match s.team? c.id.team with
  | none => s
  | some tm =>
    if ea % n ≠ 0 then s.uniformTrap c.id .misaligned (BitVec.ofNat 32 ea) 0
    else if ea + n > tm.spadSize then s.uniformTrap c.id .access (BitVec.ofNat 32 ea) 0
    else if !tm.present ea then s.waitLine c.id (ea / 128)
    else withReds s c.id f

/-- `KLD` (R372). -/
def execKld (o : OpKmem) (s : State) : Out :=
  .next (uniformRun 4 o.g (fun s c =>
    let ea := kAddr c o
    withCrewSpad s c ea (if o.wide then 8 else 4) (fun s =>
      let lo : Word := BitVec.ofNat 32 (s.spadNat c.id.team ea 4)
      let c1 := c.setReg o.d.val lo
      let c2 := if o.wide then c1.setReg (o.d.val + 1) (BitVec.ofNat 32 (s.spadNat c.id.team (ea + 4) 4)) else c1
      (s.modCrew c.id (fun _ => c2)).finishUniform c.id 4)) s)

/-- `KST` (R372). -/
def execKst (o : OpKmem) (s : State) : Out :=
  .next (uniformRun 4 o.g (fun s c =>
    let ea := kAddr c o
    withCrewSpad s c ea (if o.wide then 8 else 4) (fun s =>
      let bs := leBytes 4 (c.reg o.d.val).toNat ++ (if o.wide then leBytes 4 (c.reg (o.d.val + 1)).toNat else [])
      (s.spadWrite c.id.team ea bs).finishUniform c.id 4)) s)

/-! ### Guard slots (R228, R360) -/

/-- Sets a guard slot of the crew's team. -/
def setSlot (s : State) (c : Crew) (n : Nat) (x : Slot) : State :=
  (s.modTeam c.id.team (fun t => { t with gslots := setAt t.gslots n x })).finishUniform c.id 4

/-- `GSET` (R228, R360). -/
def execGset (o : OpGset) (s : State) : Out :=
  .next (uniformRun 4 o.g (fun s c => setSlot s c o.gs.val (if c.pred o.qa.val then .true else .false)) s)

/-- `GSET.NOT` (R228, R360). -/
def execGsetNot (o : OpGset) (s : State) : Out :=
  .next (uniformRun 4 o.g (fun s c => setSlot s c o.gs.val (if c.pred o.qa.val then .false else .true)) s)

/-- `GSET.CLR` (R228, R360). -/
def execGsetClr (o : OpGsetClr) (s : State) : Out :=
  .next (uniformRun 4 o.g (fun s c => setSlot s c o.gs.val .unresolved) s)

/-! ### Timers and traps (R215, R278) -/

/-- `PHASE` (R278, R395). -/
def execPhase (o : OpPhase) (s : State) : Out :=
  .next (uniformReg 4 o.g (fun s c =>
    let n := (c.reg o.kb.val).toNat
    { c with phArm := n != 0, phCount := 0, phLimit := min (n + s.phmargin) (2 ^ 32 - 1) }) s)

/-- `PHASE.OFF` (R278, R395). -/
def execPhaseOff (g : Guard) (s : State) : Out := .next (uniformReg 4 g (fun _ c => { c with phArm := false }) s)

/-- `SATARM` (R215, R403). -/
def execSatarm (o : OpSatarm) (s : State) : Out :=
  .next (uniformReg 4 o.g (fun _ c => { c with sat := if o.clr then 0 else c.sat, satArm := !o.off }) s)

/-! ### Fences (R101, R246, R355) -/

/-- A copy that waits for room with a layout record read reads it again after a `FENCE.LR` of its cluster, since it has not issued (R101, R355,
log entry 123). -/
def Crew.reread (c : Crew) : Crew :=
  match c.issuing with
  | some (.checked cmd _) =>
    let f := (cmd.block.headD 0).toNat
    if cmd.kind == .cpy && (f % 4 == 2 || f / 4 % 4 == 2) then { c with issuing := some (.block cmd.block) } else c
  | _ => c

/-- `FENCE.LR` (R101, R355): waits for the crew's acknowledgements, then empties its cluster's layout-record cache. -/
def execFenceLr (g : Guard) (s : State) : Out :=
  .next (uniformRun 4 g (fun s c =>
    if c.unack ≠ 0 then s.stallUniform c.id
    else
      let cl := s.clusterOfCrew c.id
      State.finishUniform { s with layouts := s.layouts.filter (fun l => l.cluster != cl),
                                   crews := updWhere (fun x => s.clusterOfCrew x.id == cl) Crew.reread s.crews } c.id 4) s)

/-- `FENCE.ENG` (R246, R355): waits for the copy and matrix commands of the team that issued before its rendezvous completed. -/
def execFenceEng (g : Guard) (s : State) : Out :=
  .next (uniformRun 4 g (fun s c =>
    if s.cmds.any (fun x => x.team == c.id.team && x.kind != .pairs && decide (x.id ≤ c.fence.getD s.lastId)) then
      s.stallUniform c.id
    else s.finishUniform c.id 4) s)

end Sys2Proof.Machine
end

