-- ==== Sys2Proof/Machine/EngineIssue.lean ====
section
/-!
DEFINITION. The uniform instructions that issue engine commands: `CPY`, `CPYQ` (R226, R343, R344), `MMA`, `MMAST`, `MMAZ` (R384
to R389) and `PAIRS` (R262, R393), with their checks, range locks (R97) and presence bits (R78).
-/

namespace Sys2Proof.Machine

/-- A failed issue check: the cause, `%trapv` and AUX. -/
structure IssueTrap where
  cause : Cause
  trapv : Word
  aux : Nat

/-- BAD_HANDLE with the byte offset of a field (R226). -/
def badAt (off : Nat) : IssueTrap := ⟨.badHandle, BitVec.ofNat 32 off, 0⟩

/-- An address trap of an issue check (R226, R266): a scratchpad offset has no AUX. -/
def addrBad (c : Cause) (spad : Bool) (a : Int) : IssueTrap :=
  let n := (a % (2 ^ 64 : Nat)).toNat
  ⟨c, BitVec.ofNat 32 n, if spad then 0 else n / 2 ^ 32⟩

namespace State

/-- The crew takes the trap of a failed issue check (R226). -/
def issueTrap (s : State) (c : CrewId) (t : IssueTrap) : State := s.uniformTrap c t.cause t.trapv t.aux

/-- Every load and returning atomic of the crew has returned (R140). -/
def loadsBack (s : State) (c : CrewId) : Bool := (s.liveOf c).all (fun t => t.loads.isEmpty)

/-- The guard slot of a command (R225). -/
def guardSlot (gs : Nat) (ge : Bool) : Option Nat := if ge then some gs else none

/-- A new command's record. -/
def newCmd (s : State) (c : Crew) (k : CmdKind) (guard : Option Nat) (addr : Nat) (block : List Word) : EngCmd :=
  { id := s.lastId + 1, team := c.id.team, crew := c.id.crew, kind := k, guard := guard, addr := addr, block := block, bank := 0,
    started := none, wait := .none, src := 0, dst := 0, sstr := [], dstr := [], slimit := 0, dlimit := 0, pending := [],
    out := none, sectors := [], progress := 0, result := none, parts := [] }

/-- The command enters its team's queue: its presence bits are cleared, its locks taken, and the crew continues (R78, R97,
R226). -/
def enterQueue (s : State) (c : CrewId) (cmd : EngCmd) (locks : List RangeLock) : State :=
  let s := (cmd.pending.filter (fun p => p.1 != 0)).foldl (fun s p => s.clearPresent p.1 [p.2]) s
  let id := s.lastId + 1
  State.finishUniform { s.fresh with cmds := s.cmds ++ [{ cmd with id := id }],
                                     locks := s.locks ++ locks.map (fun l => { l with cmd := id }) } c 4

/-! ### Room (R97, R227, R262) -/

/-- There is room for a command: an entry of its engine, or of each engine that it runs on, and its range locks (R97, R227, R235, R262). -/
def cmdRoom (s : State) (cmd : EngCmd) (locks : List RangeLock) : Bool :=
  let core := s.coreOf cmd.team
  match cmd.kind with
  | .cpy => decide (s.copyLoad core < Config.copySlots) && s.lockRoom core locks.length
  | .pairs => decide (s.pairsLoad (clusterOf core) < Config.pairsSlots) && s.lockRoom core locks.length
  | _ => cmd.runsOn.all (fun t => decide (s.matrixLoad (s.coreOf t) < Config.matrixSlots))

/-- A command that has passed its checks enters its queue, or waits for room without being checked again (R227, R343, R384, R393). -/
def issueCmd (s : State) (c : CrewId) (cmd : EngCmd) (locks : List RangeLock) : State :=
  if s.cmdRoom cmd locks then s.enterQueue c cmd locks
  else (s.stallUniform c).modCrew c (fun x => { x with issuing := some (.checked cmd locks) })

/-- A block-carrying command (R140, R226 steps 1 and 2): the crew's loads have returned, the address is aligned and inside the
scratchpad, the block's lines are present; then what `f` does with the block's words, which are read once. -/
def withBlock (s : State) (c : Crew) (addr n align : Nat) (f : State → List Word → State) : State :=
  match s.team? c.id.team, c.issuing with
  | none, _ => s
  | some _, some (.checked cmd locks) => s.issueCmd c.id cmd locks
  | some _, some (.block ws) => f s ws
  | some tm, none =>
    if !s.loadsBack c.id then s.stallUniform c.id
    else if addr % align ≠ 0 then s.uniformTrap c.id .misaligned (BitVec.ofNat 32 addr) 0
    else if addr + n > tm.spadSize then s.uniformTrap c.id .access (BitVec.ofNat 32 addr) 0
    else match s.absentLine? tm.id addr n with
      | some l => s.waitLine c.id l
      | none => withReds s c.id (fun s => f s (wordsOf (s.spadBytes tm.id addr n) (n / 4)))

/-! ### Layout records (R99, R100, R240) -/

/-- What reading a layout record at issue finds. -/
inductive LayoutRead where
  | ok (bs : List Byte)
  | wait
  | refused (va : Nat)
  /-- The record breaks the limits of R240. -/
  | malformed

/-- Reads a layout record through the cluster's cache (R100); a miss reads device reach. -/
def layoutRead (s : State) (c : CrewId) (h : Nat) : State × LayoutRead :=
  let core := s.coreOf c.team
  let ctx := s.ctxId c.team
  match s.layouts.find? (fun l => l.cluster == clusterOf core && l.ctx == ctx && l.handle == h) with
  | some l => (s, .ok l.bytes)
  | none =>
    let va := (((s.ctx? ctx).map (fun x => x.regs.lrbase)).getD 0) + 64 * h
    match s.reachRead core ctx va 64 (s.fdepthOf c.team) (s.effClass c.team) .engRead (.issue c) with
    | (s, .ok bs) => ((s.unpin (.issue c)).layoutFill (clusterOf core) ctx h bs, .ok bs)
    | (s, .wait _) => (s, .wait)
    | (s, .refused) => (s, .refused va)

/-- One side of a copy: base, strides, LIMIT. -/
structure Side where
  base : Nat
  str : List Int
  limit : Nat

/-- The operand that a side of a copy names (R239, R240), or what the crew waits for. -/
def sideOf (s : State) (c : CrewId) (kind addr : Nat) (str : List Int) : State × Except LayoutRead Side :=
  match kind with
  | 0 => (s, .ok ⟨addr, str, 0⟩)
  | 1 => (s, .ok ⟨addr % 2 ^ 32, str, 0⟩)
  | _ =>
    match s.layoutRead c (addr % 0x10000) with
    | (s, .ok bs) =>
      let ws := wordsOf bs 16
      if blockDword ws 0 ≥ 2 ^ 52 || (ws.drop 13).any (· != 0) then (s, .error .malformed)
      else (s, .ok ⟨blockDword ws 0, (List.range 9).map (fun d => sintOf 32 (blockWord ws (8 + 4 * d))), blockDword ws 0x2C⟩)
    | (s, r) => (s, .error r)

/-! ### CPY -/

/-- The team at a position of the issuing team's cluster group or gang (R235, R243). -/
def unitMember (s : State) (tm : Team) (p : Nat) : Option Team :=
  match s.grid? tm.grid with
  | none => none
  | some g =>
    if !g.grouped then none
    else (g.unitTeams tm.unit)[p]?.bind (fun t =>
      s.teams.find? (fun x => x.grid == tm.grid && x.unit == tm.unit && x.role == t.1 && x.index == t.2))

/-- The teams that a copy's scratchpad destination names (R243); none when the multicast is not allowed. -/
def targets (s : State) (tm : Team) (b : CopyBlock) : Option (List Team) :=
  if b.dstk ≠ 1 then some []
  else if b.mcast = 0 then some [tm]
  else (setBits 16 b.mcast).mapM (fun i => s.unitMember tm (b.mbase + i))

/-- The first operand byte that the checks of step 4 refuse (R226): outside a scratchpad, or above 52 bits. -/
def rangeBad (src : Nat) (dst : Nat) (r : OpRange) : Option IssueTrap :=
  let lim : Int := if r.kind = 1 then ((if r.write then dst else src : Nat) : Int) else ((2 ^ 52 : Nat) : Int)
  if r.a < 0 then some (addrBad .access (r.kind == 1) r.a)
  else if r.a + r.n > lim then some (addrBad .access (r.kind == 1) (max r.a lim))
  else none

/-- The first element that the check of step 5 refuses (R226). -/
def alignBad (r : OpRange) : Option IssueTrap :=
  if r.a % (r.align : Int) ≠ 0 then some (addrBad .misaligned (r.kind == 1) r.a) else none

/-- The first trap of a list of checks. -/
def firstTrap (l : List OpRange) (f : OpRange → Option IssueTrap) : Option IssueTrap := l.findSome? f

/-- The range locks of a copy (R97): one for each global operand: the source, the argument or table operand, and the destination. -/
def copyLocks (tm : Team) (rs : List OpRange) : List RangeLock :=
  let lock := fun (w arg : Bool) =>
    ((hull (rs.filter (fun r => r.kind == 0 && r.n != 0 && r.write == w && r.arg == arg))).map (fun h =>
      ({ core := tm.coreD, ctx := tm.ctx, lo := h.1.toNat / 128, hi := h.2.toNat / 128, write := w, cmd := 0, arg := arg } : RangeLock))).toList
  lock false false ++ lock false true ++ lock true false

/-- Entries of the code table of XOP 6 (R242): NCODE of its first word as it stands at issue; 512, the most that a table has, where the issue
cannot read a global word at once (log entry 92), and 0 where an access table denies it, which reads zeros (R297). -/
def tableCodes (s : State) (tm : Team) (b : CopyBlock) : Nat :=
  let n := fun (bs : List Byte) => min (leNat bs % 1024) 512
  if b.xop ≠ 6 then 0
  else if b.srck = 1 then n (s.spadBytes tm.id b.xarg 4)
  else match s.tlbFind tm.coreD tm.ctx b.xarg with
    | none => 512
    | some tr =>
      let loc := tr.loc tm.ctx b.xarg
      if s.reachable loc false then ((s.devBytes? loc 4).map n).getD 512 else 0

/-- A denied read of a code table's first word is counted (R297). -/
def logTable (s : State) (tm : Team) (b : CopyBlock) : State :=
  if b.xop = 6 ∧ b.srck ≠ 1 then
    (match s.tlbFind tm.coreD tm.ctx b.xarg with
     | none => s
     | some tr => s.logDenial (tr.loc tm.ctx b.xarg) .device false)
  else s

/-- The absent line that holds the first word of a code table in the scratchpad: an earlier copy has still to land it, and the crew waits for it
(R79, R242, log entry 122). -/
def tableWaits (s : State) (tm : Team) (b : CopyBlock) : Option Nat :=
  if b.xop = 6 ∧ b.srck = 1 ∧ b.xarg % 2 ^ 32 + 4 ≤ tm.spadSize then s.absentLine? tm.id (b.xarg % 2 ^ 32) 4 else none

/-- Steps 4 and 5 of the checks of a copy whose operands are known, then room and the queue (R226, R227, R343). -/
def cpyChecked (s : State) (c : Crew) (guard : Option Nat) (addr : Nat) (ws : List Word) (tm : Team) (b : CopyBlock) (ts : List Team)
    (src dst : Side) : State :=
  let o : Operands := ⟨src.base, dst.base, src.str, dst.str⟩
  let b := if b.srck = 1 ∧ b.xop ≠ 8 then { b with xarg := b.xarg % 2 ^ 32 } else b
  let rs := b.ranges o (s.tableCodes tm b)
  let s := s.logTable tm b
  let dlim := (ts.tail.map Team.spadSize).foldl min (((ts.head?).map Team.spadSize).getD 0)
  match (firstTrap rs (rangeBad tm.spadSize dlim)).orElse (fun _ => firstTrap rs alignBad) with
  | some t => s.issueTrap c.id t
  | none =>
    let lines := destLines (b.elems o)
    let dests := if b.dstk = 1 then ts.map Team.id else [0]
    s.issueCmd c.id { s.newCmd c .cpy guard addr ws with
      src := src.base, dst := dst.base, sstr := src.str, dstr := dst.str, slimit := src.limit, dlimit := dst.limit,
      pending := dests.flatMap (fun t => lines.map (fun l => (t, l))) } (copyLocks tm rs)

/-- `CPY` after its block is read: steps 3 to 5, room, and the queue (R226, R227, R343). A crew whose layout record is not at hand waits with
the block as read. -/
def cpyBlock (c : Crew) (guard : Option Nat) (addr : Nat) (s : State) (ws : List Word) : State :=
  match s.team? c.id.team with
  | none => s
  | some tm =>
    let b := CopyBlock.of ws
    let lrcount := ((s.ctx? tm.ctx).map (fun x => x.regs.lrcount)).getD 0
    match b.badField lrcount with
    | some off => s.issueTrap c.id (badAt off)
    | none =>
      if !b.rulesOk then s.issueTrap c.id (badAt 0)
      else match s.targets tm b with
        | none => s.issueTrap c.id (badAt 4)
        | some ts =>
          let stuck := fun (s : State) (off : Nat) (r : LayoutRead) =>
            match r with
            | .refused va => s.issueTrap c.id (addrBad .access false va)
            | .malformed => s.issueTrap c.id (badAt off)
            | _ => (s.stallUniform c.id).modCrew c.id (fun x => { x with hold := true, issuing := some (.block ws) })
          match s.sideOf c.id b.srck b.src b.sstr with
          | (s, .error r) => stuck s 0x08 r
          | (s, .ok src) =>
            match s.sideOf c.id b.dstk b.dst b.dstr with
            | (s, .error r) => stuck s 0x10 r
            | (s, .ok dst) =>
              match s.tableWaits tm b with
              | some l => (s.waitLine c.id l).modCrew c.id (fun x => { x with issuing := some (.block ws) })
              | none => s.cpyChecked c guard addr ws tm b ts src dst

end State

/-- `CPY` (R225, R226, R343). -/
def execCpy (o : OpBlock) (s : State) : Out :=
  .next (uniformRun 4 o.g (fun s c =>
    let addr := (c.reg o.kp.val).toNat
    s.withBlock c addr 128 128 (State.cpyBlock c (State.guardSlot o.gs.val o.ge) addr)) s)

/-- `CPYQ` (R245, R344). -/
def execCpyq (o : OpKp) (s : State) : Out :=
  .next (uniformReg 4 o.g (fun s c => c.setReg o.kp.val (BitVec.ofNat 32 (s.copiesOf c.id.team))) s)

/-- `CPYQ.W` (R245, R344): waits until at most `n` copies are in flight. -/
def execCpyqW (o : OpCpyqW) (s : State) : Out :=
  .next (uniformRun 4 o.g (fun s c =>
    let k := s.copiesOf c.id.team
    if k ≤ o.n.val then
      (s.modCrew c.id (fun x => x.setReg o.kp.val (BitVec.ofNat 32 k))).finishUniform c.id 4
    else s.stallUniform c.id) s)

/-! ### MMA (R233, R235, R384, R385) -/

/-- The block of an `MMA` (R233). -/
structure MmaBlock where
  type : Nat
  bank : Nat
  coop : Bool
  upper : Nat
  m : Nat
  n : Nat
  k : Nat
  aoff : Nat
  boff : Nat
  saoff : Nat
  sboff : Nat
  plane : Nat
  cteam : Nat
deriving DecidableEq, Repr

/-- The fields of an `MMA` block. -/
def MmaBlock.of (ws : List Word) : MmaBlock :=
  let f := blockWord ws 0
  { type := bits f 3 0, bank := bits f 4 4, coop := bitAt f 5, upper := bits f 31 6, m := blockHalf ws 4, n := blockHalf ws 6,
    k := blockWord ws 8, aoff := blockWord ws 12, boff := blockWord ws 16, saoff := blockWord ws 20, sboff := blockWord ws 24,
    plane := blockWord ws 28, cteam := blockHalf ws 32 }

/-- Every byte of a block from `lo` to its end is zero. -/
def tailZero (ws : List Word) (lo : Nat) : Bool :=
  (if lo % 4 = 2 then blockHalf ws lo == 0 else true) && (ws.drop (ceilDiv lo 4)).all (· == 0)

/-- The depth of K for a type (R233). -/
def MmaBlock.depth (b : MmaBlock) : Nat := if b.type = 4 ∨ b.type = 5 then 64 else 128

/-- Bytes of an A element; B elements of types 0 to 6 are as long (R232). -/
def MmaBlock.size (b : MmaBlock) : Nat := if b.type = 4 ∨ b.type = 5 then 2 else 1

/-- The block has an sa and an sb operand. -/
def MmaBlock.scaled (b : MmaBlock) : Bool := decide (b.type ≤ 3)

/-- The first field of an `MMA` block outside its limits (R226 step 3, R233): BANK is in the first one, and it must be held; COOP's
participants are named at 0x20. -/
def MmaBlock.badField (b : MmaBlock) (ws : List Word) (held parts : Bool) : Option Nat :=
  let checks : List (Nat × Bool) :=
    [(0x00, decide (b.type ≤ 8) && b.upper == 0 && held), (0x04, decide (1 ≤ b.m) && decide (b.m ≤ 64)),
     (0x06, decide (1 ≤ b.n) && decide (b.n ≤ 128)),
     (0x08, b.k != 0 && decide (b.k ≤ 16384) && b.k % b.depth == 0),
     (0x0C, b.aoff % 128 == 0), (0x10, b.boff % 128 == 0),
     (0x14, if b.scaled then b.saoff % 128 == 0 else b.saoff == 0),
     (0x18, if b.scaled then b.sboff % 128 == 0 else b.sboff == 0),
     (0x1C, if b.type = 8 then b.plane % 128 == 0 else b.plane == 0),
     (0x20, (b.coop || b.cteam == 0) && parts), (0x22, tailZero ws 0x22)]
  (checks.find? (fun c => !c.2)).map Prod.fst

/-- The operands of an `MMA` in a scratchpad: offset and bytes (R232). -/
def MmaBlock.operands (b : MmaBlock) : List (Nat × Nat) :=
  [(b.aoff, b.size * b.m * b.k),
   (b.boff, if b.type ≥ 7 then b.k / 128 * 16 * b.n else b.size * b.n * b.k)]
  ++ (if b.scaled then [(b.saoff, 4 * b.m * (b.k / 128)), (b.sboff, 4 * (b.k / 128))] else [])
  ++ (if b.type = 8 then [(b.boff + b.plane, b.k / 128 * 16 * b.n)] else [])

/-- The first operand byte at or beyond a scratchpad's end (R385). -/
def spadBad (lim : Nat) (l : List (Nat × Nat)) : Option IssueTrap :=
  l.findSome? (fun o => if o.1 + o.2 > lim then some (addrBad .access true (max o.1 lim : Nat)) else none)

namespace State

/-- A team's `MMAZ.REL` of a bank has issued and not taken effect (R389). -/
def releasing (s : State) (team b : Nat) : Bool := s.cmds.any (fun c => c.team == team && c.kind == .mmazRel && c.bank == b)

/-- A team holds a bank of its core (R231). -/
def ownsBank (s : State) (t : Team) (b : Nat) : Bool :=
  s.banks.any (fun x => x.core == t.coreD && x.bank == b && x.team == some t.id)

/-- The team holds the bank for an `MMA` or `MMAST` that issues now (R385, R389): a release that has issued ends that. -/
def holdsBank (s : State) (t : Team) (b : Nat) : Bool := s.ownsBank t b && !s.releasing t.id b

/-- A team claims a free bank of a core; of one that it holds it claims nothing new (R389). -/
def claimBank (s : State) (core b team : Nat) : State :=
  { s with
    banks := if s.banks.any (fun x => x.core == core && x.bank == b) then
        updWhere (fun x => x.core == core && x.bank == b) (fun (x : Bank) => { x with team := some team }) s.banks
      else s.banks ++ [⟨core, b, some team, [], false, false⟩] }

/-- The teams that run an `MMA` (R235): the issuing team, or 12 teams of its unit on 12 cores, each holding its bank. -/
def participants (s : State) (tm : Team) (b : MmaBlock) : Option (List Team) :=
  if !b.coop then some [tm]
  else
    match (List.range 12).mapM (fun p => s.unitMember tm (b.cteam + p)) with
    | none => none
    | some ts =>
      if (ts.map Team.coreD).eraseDups.length = 12 ∧ ts.all (fun t => s.holdsBank t b.bank) then some ts else none

/-- `MMA` after its block is read (R226, R235, R384, R385). -/
def mmaBlock (c : Crew) (guard : Option Nat) (addr : Nat) (s : State) (ws : List Word) : State :=
  match s.team? c.id.team with
  | none => s
  | some tm =>
    let b := MmaBlock.of ws
    let parts := s.participants tm b
    match b.badField ws (s.holdsBank tm b.bank) parts.isSome with
    | some off => s.issueTrap c.id (badAt off)
    | none =>
      let ts := parts.getD []
      match (tm :: ts).findSome? (fun t => spadBad t.spadSize b.operands) with
      | some t => s.issueTrap c.id t
      | none =>
        s.issueCmd c.id { s.newCmd c .mma guard addr ws with bank := b.bank, parts := ts.map Team.id } []

end State

/-- `MMA` (R225, R226, R384). -/
def execMma (o : OpBlock) (s : State) : Out :=
  .next (uniformRun 4 o.g (fun s c =>
    let addr := (c.reg o.kp.val).toNat
    s.withBlock c addr 64 64 (State.mmaBlock c (State.guardSlot o.gs.val o.ge) addr)) s)

/-! ### MMAST (R236, R386) -/

/-- The block of an `MMAST` (R236). -/
structure MmastBlock where
  bank : Nat
  ofmt : Nat
  upper : Nat
  m : Nat
  n : Nat
  doff : Nat
  dstride : Nat
  oscale : Word
  soff : Nat
deriving DecidableEq, Repr

/-- The fields of an `MMAST` block. -/
def MmastBlock.of (ws : List Word) : MmastBlock :=
  let f := blockWord ws 0
  { bank := bits f 0 0, ofmt := bits f 3 1, upper := bits f 31 4, m := blockHalf ws 4, n := blockHalf ws 6, doff := blockWord ws 8,
    dstride := blockWord ws 12, oscale := ws.getD 4 0, soff := blockWord ws 20 }

/-- Bytes of a stored element (R236). -/
def MmastBlock.size (b : MmastBlock) : Nat :=
  match b.ofmt with
  | 1 | 2 => 2
  | 3 | 4 => 1
  | _ => 4

/-- Result rows: offset and bytes (R236). -/
def MmastBlock.rows (b : MmastBlock) : List (Nat × Nat) := (List.range b.m).map (fun i => (b.doff + i * b.dstride, b.n * b.size))

/-- The first field of an `MMAST` block outside its limits (R226 step 3, R236, R386); BANK, in the first one, must be held. -/
def MmastBlock.badField (b : MmastBlock) (ws : List Word) (held : Bool) : Option Nat :=
  let checks : List (Nat × Bool) :=
    [(0x00, decide (b.ofmt ≤ 5) && b.upper == 0 && held), (0x04, decide (1 ≤ b.m) && decide (b.m ≤ 64)),
     (0x06, decide (1 ≤ b.n) && decide (b.n ≤ 128)), (0x08, b.doff % 128 == 0),
     (0x0C, b.dstride % 16 == 0 && decide (b.n * b.size ≤ b.dstride)), (0x10, b.ofmt != 5 || b.oscale == 0),
     (0x14, b.soff % 4 == 0 && b.rows.all (fun r => decide (b.soff + 4 ≤ r.1) || decide (r.1 + r.2 ≤ b.soff))),
     (0x18, tailZero ws 0x18)]
  (checks.find? (fun c => !c.2)).map Prod.fst

/-- The scratchpad lines that an `MMAST` writes, the status word's line last (R237). -/
def MmastBlock.lines (b : MmastBlock) : List Nat :=
  let rows := (b.rows.flatMap (fun r => (List.range (ceilDiv (r.1 % 128 + r.2) 128)).map (fun i => r.1 / 128 + i))).eraseDups
  rows.filter (fun l => l != b.soff / 128) ++ [b.soff / 128]

namespace State

/-- `MMAST` after its block is read (R226, R237, R386). -/
def mmastBlock (c : Crew) (guard : Option Nat) (addr : Nat) (s : State) (ws : List Word) : State :=
  match s.team? c.id.team with
  | none => s
  | some tm =>
    let b := MmastBlock.of ws
    match b.badField ws (s.holdsBank tm b.bank) with
    | some off => s.issueTrap c.id (badAt off)
    | none =>
      match spadBad tm.spadSize (b.rows ++ [(b.soff, 4)]) with
      | some t => s.issueTrap c.id t
      | none =>
        s.issueCmd c.id { s.newCmd c .mmast guard addr ws with bank := b.bank, pending := b.lines.map (fun l => (tm.id, l)) } []

/-! ### MMAZ (R231, R388, R389) -/

/-- `MMAZ b`: the claim, and the command (R389). -/
def mmazIssue (c : Crew) (guard : Option Nat) (b : Nat) (s : State) : State :=
  match s.team? c.id.team with
  | none => s
  | some tm =>
    let holder := (s.banks.find? (fun x => x.core == tm.coreD && x.bank == b)).bind Bank.team
    if !s.loadsBack c.id then s.stallUniform c.id
    else if (holder.map (fun n => n != tm.id)).getD false then s.issueTrap c.id (badAt b)
    else if s.matrixLoad tm.coreD ≥ Config.matrixSlots then s.stallUniform c.id
    else
      let s := s.claimBank tm.coreD b tm.id
      s.enterQueue c.id { s.newCmd c .mmaz guard 0 [] with bank := b } []

/-- `MMAZ.REL b` (R389): a bank stays held until a release takes effect, so a second one may issue. -/
def mmazRelIssue (c : Crew) (guard : Option Nat) (b : Nat) (s : State) : State :=
  match s.team? c.id.team with
  | none => s
  | some tm =>
    if !s.loadsBack c.id then s.stallUniform c.id
    else if !s.ownsBank tm b then s.issueTrap c.id (badAt b)
    else if s.matrixLoad tm.coreD ≥ Config.matrixSlots then s.stallUniform c.id
    else s.enterQueue c.id { s.newCmd c .mmazRel guard 0 [] with bank := b } []

end State

/-- `MMAST` (R225, R226, R386). -/
def execMmast (o : OpBlock) (s : State) : Out :=
  .next (uniformRun 4 o.g (fun s c =>
    let addr := (c.reg o.kp.val).toNat
    s.withBlock c addr 64 64 (State.mmastBlock c (State.guardSlot o.gs.val o.ge) addr)) s)

/-- `MMAZ` (R225, R388, R389). -/
def execMmaz (o : OpMmaz) (s : State) : Out :=
  .next (uniformRun 4 o.g (fun s c => s.mmazIssue c (State.guardSlot o.gs.val o.ge) o.bank.val) s)

/-- `MMAZ.REL` (R225, R388, R389). -/
def execMmazRel (o : OpMmaz) (s : State) : Out :=
  .next (uniformRun 4 o.g (fun s c => s.mmazRelIssue c (State.guardSlot o.gs.val o.ge) o.bank.val) s)

/-! ### PAIRS (R261, R262, R393) -/

/-- The block of a `PAIRS` command (R261). -/
structure PairsBlock where
  self : Bool
  resume : Bool
  upper : Nat
  node : Nat
  abase : Nat
  bbase : Nat
  abytes : Nat
  bbytes : Nat
  limit : Nat
  user : Word
  token : Nat
deriving DecidableEq, Repr

/-- The fields of a `PAIRS` block. -/
def PairsBlock.of (ws : List Word) : PairsBlock :=
  let f := blockWord ws 0
  { self := bitAt f 0, resume := bitAt f 1, upper := bits f 31 2, node := blockHalf ws 4, abase := blockDword ws 8,
    bbase := blockDword ws 16, abytes := blockWord ws 24, bbytes := blockWord ws 28, limit := blockWord ws 32,
    user := ws.getD 9 0, token := blockDword ws 40 }

/-- The first field of a `PAIRS` block outside its limits (R261), given the node descriptor that NODE names. -/
def PairsBlock.badField (b : PairsBlock) (ws : List Word) (nd : Option NodeDesc) : Option Nat :=
  let checks : List (Nat × Bool) :=
    [(0x00, b.upper == 0), (0x04, (nd.map (fun d => !d.fill && decide (6 ≤ d.rsize))).getD false), (0x06, blockHalf ws 6 == 0),
     (0x08, b.abase % 128 == 0 && decide (b.abase < 2 ^ 52)),
     (0x10, if b.self then b.bbase == 0 else b.bbase % 128 == 0 && decide (b.bbase < 2 ^ 52)),
     (0x18, b.abytes % 128 == 0 && b.abytes != 0),
     (0x1C, if b.self then b.bbytes == 0 else b.bbytes % 128 == 0 && b.bbytes != 0),
     (0x20, b.limit != 0), (0x28, b.resume || b.token == 0), (0x34, blockWord ws 52 == 0 && blockWord ws 56 == 0)]
  (checks.find? (fun c => !c.2)).map Prod.fst

namespace State

/-- `PAIRS` after its block is read (R262, R393). -/
def pairsBlock (c : Crew) (guard : Option Nat) (addr : Nat) (s : State) (ws : List Word) : State :=
  match s.team? c.id.team with
  | none => s
  | some tm =>
    let b := PairsBlock.of ws
    match b.badField ws (s.node? tm.ctx b.node) with
    | some off => s.issueTrap c.id (badAt off)
    | none =>
      let lock := fun (base bytes : Nat) =>
        ({ core := tm.coreD, ctx := tm.ctx, lo := base / 128, hi := (base + bytes - 1) / 128, write := false, cmd := 0, arg := false } : RangeLock)
      s.issueCmd c.id { s.newCmd c .pairs guard addr ws with pending := [(tm.id, addr / 128)] }
        (lock b.abase b.abytes :: (if b.self then [] else [lock b.bbase b.bbytes]))

end State

/-- `PAIRS` (R225, R262, R393). -/
def execPairs (o : OpBlock) (s : State) : Out :=
  .next (uniformRun 4 o.g (fun s c =>
    let addr := (c.reg o.kp.val).toNat
    s.withBlock c addr 64 64 (State.pairsBlock c (State.guardSlot o.gs.val o.ge) addr)) s)

end Sys2Proof.Machine
end

