-- ==== Sys2Proof/Machine/Special.lean ====
section
/-!
DEFINITION. The special functions of `FSFN` (R219, R359). The exact result is enclosed by fixed-point arithmetic with an error
far below the bound; a free candidate value is taken when it lies within the bound, and the nearest FP32 value otherwise.
-/

namespace Sys2Proof.Machine

namespace Sfn

/-- Fraction bits of the fixed-point arithmetic. -/
def prec : Nat := 160

/-- One. -/
def one : Nat := 2 ^ prec

/-- ln 2 and π, rounded down. -/
def ln2 : Nat := 1013035739299659071135698605846798551586536899366
def pi : Nat := 4591442807048218921384805199743311128454155024418

/-- Product of two fixed-point numbers. -/
def mulF (a b : Nat) : Nat := a * b / one

/-- The terms of exp's series from term `k` on. -/
def expTerms (y : Nat) : Nat → Nat → Nat → Nat
  | 0, _, _ => 0
  | n + 1, k, t => t + expTerms y n (k + 1) (mulF t y / (k + 1))

/-- 2^f for a fraction f. -/
def exp2Frac (f : Nat) : Nat := expTerms (mulF f ln2) 44 0 one

/-- The terms of atanh's series: z^(2k+1) / (2k+1). -/
def atanhTerms (z2 : Nat) : Nat → Nat → Nat → Nat
  | 0, _, _ => 0
  | n + 1, k, t => t / (2 * k + 1) + atanhTerms z2 n (k + 1) (mulF t z2)

/-- The terms of sin w / w, by sign: even terms less odd terms. -/
def sincTerms (w2 : Nat) : Nat → Nat → Nat → Int
  | 0, _, _ => 0
  | n + 1, k, t => (t : Int) - sincTerms w2 n (k + 1) (mulF t w2 / ((2 * k + 2) * (2 * k + 3)))

/-- Integer square root, bit by bit from bit `n` down. -/
def isqrtBits (x : Nat) : Nat → Nat → Nat
  | 0, r => r
  | n + 1, r => isqrtBits x n (if (r + 2 ^ n) * (r + 2 ^ n) ≤ x then r + 2 ^ n else r)

/-- m·2^e as a fixed-point number, rounded down. -/
def toFixed (m : Nat) (e : Int) : Nat :=
  if 0 ≤ e + prec then m * 2 ^ (e + prec).toNat else m / 2 ^ (-(e + prec)).toNat

/-- 2^x of a fixed-point number with a sign. -/
def exp2Of (x : Int) : Fp := .fin false (exp2Frac (x % (one : Int)).toNat) (x / (one : Int) - prec)

/-- The exact result, or an approximation with relative error below 2^−90, of a finite operand ±m·2^e, m > 0. One next to 1 stays on its side of 1. -/
def approx (fn : SfnCode) (s : Bool) (m : Nat) (e : Int) : Fp :=
  match fn with
  | .rcp => .fin s (one / m) (-(prec : Int) - e)
  | .rsq =>
    if s then .nan
    else if e % 2 = 0 then .fin false (isqrtBits (one * one / m) 161 0) (-(prec : Int) - e / 2)
    else .fin false (isqrtBits (one * one / (2 * m)) 161 0) (-(prec : Int) - (e - 1) / 2)
  | .sqrt =>
    if s then .nan
    else
      let m' := if e % 2 = 0 then m else 2 * m
      let e' := if e % 2 = 0 then e else e - 1
      let r := isqrtBits (m' * 2 ^ 120) 90 0
      .fin false (2 * r + (if r * r = m' * 2 ^ 120 then 0 else 1)) (e' / 2 - 61)
  | .exp2 =>
    if (Nat.log2 m : Int) + e ≥ 10 then (if s then .fin false 1 (-1024) else .fin false 1 1024)
    else exp2Of (if s then -(toFixed m e : Int) else toFixed m e)
  | .log2 =>
    if s then .nan
    else
      let b := Nat.log2 m
      let z := (m - 2 ^ b) * one / (m + 2 ^ b)
      let l := 2 * atanhTerms (mulF z z) 60 0 z * one / ln2
      let t : Int := ((b : Int) + e) * (one : Int) + l
      .fin (decide (t < 0)) t.natAbs (-(prec : Int))
  | .sinpi => sinTurn s m e
  | .cospi =>
    if 0 ≤ e then .fin (m * 2 ^ e.toNat % 2 == 1) 1 0
    else
      let d := (-e).toNat
      sinTurn false (2 * m + 2 ^ d) (e - 1)
  | .tanh =>
    if (Nat.log2 m : Int) + e < -12 then .fin s m e
    else if (Nat.log2 m : Int) + e ≥ 6 then .fin s (one - 1) (-(prec : Int))
    else
      let q := toFixed (2 * m) e * one / ln2
      let f := q % one
      let t := max 1 ((if f = 0 then one else exp2Frac (one - f) / 2) / 2 ^ (q / one))
      .fin s ((one - t) * one / (one + t)) (-(prec : Int))
where
  /-- sin(π·±m·2^e), exact at multiples of one half, and below 1 in magnitude elsewhere. -/
  sinTurn (s : Bool) (m : Nat) (e : Int) : Fp :=
    if 0 ≤ e then .fin s 0 0
    else
      let d := (-e).toNat
      let u := m % 2 ^ (d + 1)
      let s' := if u ≥ 2 ^ d then !s else s
      let u := u % 2 ^ d
      let u := if 2 * u > 2 ^ d then 2 ^ d - u else u
      if u = 0 then .fin s 0 0
      else if 2 * u = 2 ^ d then .fin s' 1 0
      else
        let w := mulF (u * one / 2 ^ d) pi
        .fin s' (min (mulF pi (sincTerms (mulF w w) 40 0 one).toNat * u) (2 ^ (prec + d) - 1)) (-(prec : Int) - d)

/-- Values the table or R359 fixes: special operands, and results that are exact (R219, R359). -/
def special (fn : SfnCode) (x : Fp) : Option Fp :=
  match fn, x with
  | _, .nan => some .nan
  | .rcp, .inf s => some (.fin s 0 0)
  | .rcp, .fin s 0 _ => some (.inf s)
  | .rcp, .fin _ _ _ => none
  | .rsq, .inf s => some (if s then .nan else .fin false 0 0)
  | .rsq, .fin s 0 _ => some (.inf s)
  | .rsq, .fin true _ _ => some .nan
  | .rsq, .fin false _ _ => none
  | .sqrt, .inf s => some (if s then .nan else .inf false)
  | .sqrt, .fin s 0 _ => some (.fin s 0 0)
  | .sqrt, .fin s m e => some (approx .sqrt s m e)
  | .exp2, .inf s => some (if s then .fin false 0 0 else .inf false)
  | .exp2, .fin _ 0 _ => some (.fin false 1 0)
  | .exp2, .fin s m e =>
    if 0 ≤ e ∨ m % 2 ^ (-e).toNat = 0 then
      let n := if 0 ≤ e then m * 2 ^ (min e 12).toNat else m / 2 ^ (-e).toNat
      if n > 149 ∧ s then none else some (.fin false 1 (if s then -(n : Int) else (min n 1000 : Nat)))
    else none
  | .log2, .inf s => some (if s then .nan else .inf false)
  | .log2, .fin _ 0 _ => some (.inf true)
  | .log2, .fin true _ _ => some .nan
  | .log2, .fin false m e => if Fp.cmp (.fin false m e) (.fin false 1 0) == .eq then some (.fin false 0 0) else none
  | .sinpi, .inf _ => some .nan
  | .sinpi, .fin s 0 _ => some (.fin s 0 0)
  | .sinpi, .fin s m e => if 0 ≤ e + 1 ∨ m % 2 ^ (-(e + 1)).toNat = 0 then some (approx .sinpi s m e) else none
  | .cospi, .inf _ => some .nan
  | .cospi, .fin _ 0 _ => some (.fin false 1 0)
  | .cospi, .fin s m e => if 0 ≤ e + 1 ∨ m % 2 ^ (-(e + 1)).toNat = 0 then some (approx .cospi s m e) else none
  | .tanh, .inf s => some (.fin s 1 0)
  | .tanh, .fin s 0 _ => some (.fin s 0 0)
  | .tanh, .fin s m e => if (Nat.log2 m : Int) + e < -12 then some (.fin s m e) else none

/-- Ulps of the bound (R219). -/
def ulps : SfnCode → Nat
  | .rcp => 1
  | _ => 2

/-- The candidate lies within the bound of the exact result (R219, R359), the bound itself included; the ulp is that of the FP32 grid at the result.
`r` is the result, or stands for it on the same side of every FP32 value (log entry 13). -/
def within (fn : SfnCode) (x r : Fp) (y : Word) : Bool :=
  match r, f32 y with
  | .fin s m e, .fin t n f =>
    let top := (Nat.log2 m : Int) + e
    if top < -149 then s == t && (n == 0 || y.toNat % 0x80000000 == 1)
    else
      let wide := fn == .log2 && Fp.cmp x (.fin false 1 (-1)) != .lt && Fp.cmp x (.fin false 2 0) != .gt
      let bound : Fp := if wide then .fin false 1 (-22) else .fin false (ulps fn) (max (top - 23) (-149))
      (match Fp.add (.fin t n f) (.fin (!s) m e) with
       | .fin _ k g => Fp.cmp (.fin false k g) bound != .gt
       | _ => false)
  | _, _ => false

/-- What `FSFN` writes (R219): the fixed value where the spec fixes one; else the free candidate when it lies within the bound,
and the nearest value when it does not. -/
def value (fn : SfnCode) (x : Word) : Word :=
  match special fn (f32 x) with
  | some v => rneF32 v
  | none =>
    match f32 x with
    | .fin s m e =>
      let r := approx fn s m e
      let y := Config.sfnCandidate fn.code x
      if within fn (f32 x) r y then y else rneF32 r
    | _ => rneF32 .nan

end Sfn

end Sys2Proof.Machine
end

