-- ==== Sys2Proof/Machine/FloatLane.lean ====
section
/-!
DEFINITION. The floating-point lane instructions (R212, R216 to R219, R347, R351 to R353, R358, R359, R398).
-/

namespace Sys2Proof.Machine

/-- `FADD.F32` (R352). -/
def execFaddF32 (o : OpReg3) (s : State) : Out :=
  .next (laneReg 4 o.g (fun s t => t.setReg o.d.val
    (single (FloatOp.elem .add .f32) (t.reg o.a.val) (opb s t o.b) (t.reg o.d.val))) s)

/-- `FSUB.F32` (R352). -/
def execFsubF32 (o : OpReg3) (s : State) : Out :=
  .next (laneReg 4 o.g (fun s t => t.setReg o.d.val
    (single (FloatOp.elem .sub .f32) (t.reg o.a.val) (opb s t o.b) (t.reg o.d.val))) s)

/-- `FMUL.F32` (R352). -/
def execFmulF32 (o : OpReg3) (s : State) : Out :=
  .next (laneReg 4 o.g (fun s t => t.setReg o.d.val
    (single (FloatOp.elem .mul .f32) (t.reg o.a.val) (opb s t o.b) (t.reg o.d.val))) s)

/-- `FFMA.F32` (R352). -/
def execFfmaF32 (o : OpReg3) (s : State) : Out :=
  .next (laneReg 4 o.g (fun s t => t.setReg o.d.val
    (single (FloatOp.elem .ffma .f32) (t.reg o.a.val) (opb s t o.b) (t.reg o.d.val))) s)

/-- `FADD.F16X2` (R352). -/
def execFaddF16x2 (o : OpReg3) (s : State) : Out :=
  .next (laneReg 4 o.g (fun s t => t.setReg o.d.val
    (packed (FloatOp.elem .add .f16) (t.reg o.a.val) (opb s t o.b) (t.reg o.d.val))) s)

/-- `FSUB.F16X2` (R352). -/
def execFsubF16x2 (o : OpReg3) (s : State) : Out :=
  .next (laneReg 4 o.g (fun s t => t.setReg o.d.val
    (packed (FloatOp.elem .sub .f16) (t.reg o.a.val) (opb s t o.b) (t.reg o.d.val))) s)

/-- `FMUL.F16X2` (R352). -/
def execFmulF16x2 (o : OpReg3) (s : State) : Out :=
  .next (laneReg 4 o.g (fun s t => t.setReg o.d.val
    (packed (FloatOp.elem .mul .f16) (t.reg o.a.val) (opb s t o.b) (t.reg o.d.val))) s)

/-- `FFMA.F16X2` (R352). -/
def execFfmaF16x2 (o : OpReg3) (s : State) : Out :=
  .next (laneReg 4 o.g (fun s t => t.setReg o.d.val
    (packed (FloatOp.elem .ffma .f16) (t.reg o.a.val) (opb s t o.b) (t.reg o.d.val))) s)

/-- `FADD.BF16X2` (R352). -/
def execFaddBf16x2 (o : OpReg3) (s : State) : Out :=
  .next (laneReg 4 o.g (fun s t => t.setReg o.d.val
    (packed (FloatOp.elem .add .bf16) (t.reg o.a.val) (opb s t o.b) (t.reg o.d.val))) s)

/-- `FSUB.BF16X2` (R352). -/
def execFsubBf16x2 (o : OpReg3) (s : State) : Out :=
  .next (laneReg 4 o.g (fun s t => t.setReg o.d.val
    (packed (FloatOp.elem .sub .bf16) (t.reg o.a.val) (opb s t o.b) (t.reg o.d.val))) s)

/-- `FMUL.BF16X2` (R352). -/
def execFmulBf16x2 (o : OpReg3) (s : State) : Out :=
  .next (laneReg 4 o.g (fun s t => t.setReg o.d.val
    (packed (FloatOp.elem .mul .bf16) (t.reg o.a.val) (opb s t o.b) (t.reg o.d.val))) s)

/-- `FFMA.BF16X2` (R352). -/
def execFfmaBf16x2 (o : OpReg3) (s : State) : Out :=
  .next (laneReg 4 o.g (fun s t => t.setReg o.d.val
    (packed (FloatOp.elem .ffma .bf16) (t.reg o.a.val) (opb s t o.b) (t.reg o.d.val))) s)

/-- `FMIN.F32` (R358). -/
def execFminF32 (o : OpReg3) (s : State) : Out :=
  .next (laneReg 4 o.g (fun s t => t.setReg o.d.val
    (single (fun a b _ => Fmt.f32.minNum a b) (t.reg o.a.val) (opb s t o.b) 0)) s)

/-- `FMAX.F32` (R358). -/
def execFmaxF32 (o : OpReg3) (s : State) : Out :=
  .next (laneReg 4 o.g (fun s t => t.setReg o.d.val
    (single (fun a b _ => Fmt.f32.maxNum a b) (t.reg o.a.val) (opb s t o.b) 0)) s)

/-- `FMIN.F16X2` (R358). -/
def execFminF16x2 (o : OpReg3) (s : State) : Out :=
  .next (laneReg 4 o.g (fun s t => t.setReg o.d.val
    (packed (fun a b _ => Fmt.f16.minNum a b) (t.reg o.a.val) (opb s t o.b) 0)) s)

/-- `FMAX.F16X2` (R358). -/
def execFmaxF16x2 (o : OpReg3) (s : State) : Out :=
  .next (laneReg 4 o.g (fun s t => t.setReg o.d.val
    (packed (fun a b _ => Fmt.f16.maxNum a b) (t.reg o.a.val) (opb s t o.b) 0)) s)

/-- `FMIN.BF16X2` (R358). -/
def execFminBf16x2 (o : OpReg3) (s : State) : Out :=
  .next (laneReg 4 o.g (fun s t => t.setReg o.d.val
    (packed (fun a b _ => Fmt.bf16.minNum a b) (t.reg o.a.val) (opb s t o.b) 0)) s)

/-- `FMAX.BF16X2` (R358). -/
def execFmaxBf16x2 (o : OpReg3) (s : State) : Out :=
  .next (laneReg 4 o.g (fun s t => t.setReg o.d.val
    (packed (fun a b _ => Fmt.bf16.maxNum a b) (t.reg o.a.val) (opb s t o.b) 0)) s)

/-- `FCMP` (R353, R312). -/
def execFcmp (o : OpFcmp) (s : State) : Out :=
  .next (laneReg 4 o.g (fun s t => t.setPred o.pd.val
    (o.comb.apply (t.pred o.pd.val) (o.cond.holds (t.reg o.a.val) (opb s t o.b)))) s)

/-- `FSFN` (R219, R359). -/
def execFsfn (o : OpSfn) (s : State) : Out :=
  .next (laneReg 4 o.g (fun _ t => t.setReg o.d.val (Sfn.value o.fn (t.reg o.a.val))) s)

/-! ### CVT (R216, R217, R347) -/

/-- A conversion to an integer, clamped to [lo, hi]: the value, and whether the sticky flag is set (R217). -/
def cvtInt (mode : RMode) (lo hi : Int) (x : Fp) : Word × Bool :=
  match x with
  | .nan => (0, true)
  | .inf s => (BitVec.ofInt 32 (if s then lo else hi), true)
  | .fin s m e =>
    -- a magnitude of 2^40 or more is out of range whatever its fraction
    let y := if m ≠ 0 ∧ (Nat.log2 m : Int) + e ≥ 40 then (if s then -(2 ^ 40) else 2 ^ 40) else roundInt mode s m e
    if y < lo then (BitVec.ofInt 32 lo, true) else if y > hi then (BitVec.ofInt 32 hi, true)
    else (BitVec.ofInt 32 y, false)

/-- A signed or natural integer as an exact value. -/
def intFp (x : Int) : Fp := .fin (decide (x < 0)) x.natAbs 0

/-- Two halves of a register. -/
def halves (a b : Nat) : Word := BitVec.ofNat 32 (a + 0x10000 * b)

/-- Byte `i` of a register. -/
def byteOf (w : Word) (i : Nat) : Nat := w.toNat / 2 ^ (8 * i) % 0x100

/-- Nibble `i` of a register. -/
def nibbleOf (w : Word) (i : Nat) : Nat := w.toNat / 2 ^ (4 * i) % 0x10

/-- An E4M3 byte as BF16, exact (R217). -/
def bf16OfE4m3 (x : Nat) : Nat := Fmt.bf16.round .rn (decodeE4m3 x)

/-- An E5M2 byte as FP16, exact (R217). -/
def f16OfE5m2 (x : Nat) : Nat := Fmt.f16.round .rn (Fmt.e5m2.decode x)

/-- An E2M1 code as FP16, exact (R217). -/
def f16OfE2m1 (x : Nat) : Nat := Fmt.f16.round .rn (decodeE2m1 x)

/-- A signed byte as FP16, exact (R217). -/
def f16OfS8 (x : Nat) : Nat := Fmt.f16.round .rn (intFp (sintOf 8 x))

/-- The destination registers of a conversion and whether `%sat`[1] is set (R217, R347): `a` is the first source, `b` the
register after it. -/
def cvtValue (code : CvtCode) (mode : RMode) (a b : Word) : List Word × Bool :=
  match code with
  | .s32F32 => let r := cvtInt mode (-(2 ^ 31)) (2 ^ 31 - 1) (f32 a); ([r.1], r.2)
  | .n32F32 => let r := cvtInt mode 0 (2 ^ 32 - 1) (f32 a); ([r.1], r.2)
  | .f32S32 => ([BitVec.ofNat 32 (Fmt.f32.round mode (intFp (sint a)))], false)
  | .f32N32 => ([BitVec.ofNat 32 (Fmt.f32.round mode (intFp a.toNat))], false)
  | .f16F32 => ([BitVec.ofNat 32 (Fmt.f16.round mode (f32 a))], false)
  | .f32F16 => ([rneF32 (Fmt.f16.decode (a.toNat % 0x10000))], false)
  | .bf16F32 => ([BitVec.ofNat 32 (Fmt.bf16.round mode (f32 a))], false)
  | .f32Bf16 => ([rneF32 (Fmt.bf16.decode (a.toNat % 0x10000))], false)
  | .f16x2F32 => ([halves (Fmt.f16.round mode (f32 a)) (Fmt.f16.round mode (f32 b))], false)
  | .bf16x2F32 => ([halves (Fmt.bf16.round mode (f32 a)) (Fmt.bf16.round mode (f32 b))], false)
  | .bf16x4E4m3 => ([halves (bf16OfE4m3 (byteOf a 0)) (bf16OfE4m3 (byteOf a 1)),
      halves (bf16OfE4m3 (byteOf a 2)) (bf16OfE4m3 (byteOf a 3))], false)
  | .f16x4E5m2 => ([halves (f16OfE5m2 (byteOf a 0)) (f16OfE5m2 (byteOf a 1)),
      halves (f16OfE5m2 (byteOf a 2)) (f16OfE5m2 (byteOf a 3))], false)
  | .f16x8E2m1 => ((List.range 4).map (fun i =>
      halves (f16OfE2m1 (nibbleOf a (2 * i))) (f16OfE2m1 (nibbleOf a (2 * i + 1)))), false)
  | .f16x4S8 => ([halves (f16OfS8 (byteOf a 0)) (f16OfS8 (byteOf a 1)),
      halves (f16OfS8 (byteOf a 2)) (f16OfS8 (byteOf a 3))], false)

/-- `CVT` (R216, R217, R347). -/
def execCvt (o : OpCvt) (s : State) : Out :=
  .next (laneEach 4 o.g (fun s t =>
    let r := cvtValue o.code o.mode (t.reg o.a.val) (t.reg (o.a.val + 1))
    let s := s.modThread t.id (fun t => (t.setRegs o.d.val r.1).advance 4)
    if r.2 then s.setSat t.id.crewId 2 else s) s)

/-! ### QSCL (R218, R398) -/

/-- The packed result and whether an element saturated (R218). -/
def qsclValue (e5m2 : Bool) (scale : Word) (xs : List Word) : Word × Bool :=
  let rs := xs.map (fun x => satF8 e5m2 ((f32 x).mul (f32 scale)))
  (BitVec.ofNat 32 (leNat (rs.map (fun r => BitVec.ofNat 8 r.1))), rs.any Prod.snd)

/-- `QSCL` (R218). -/
def execQscl (o : OpQscl) (s : State) : Out :=
  .next (laneEach 4 o.g (fun s t =>
    let r := qsclValue o.e5m2 (opb s t o.b) ((List.range 4).map (fun i => t.reg (o.a.val + i)))
    let s := s.modThread t.id (fun t => (t.setReg o.d.val r.1).advance 4)
    if r.2 then s.setSat t.id.crewId 1 else s) s)

end Sys2Proof.Machine
end

