-- ==== Sys2Proof/Machine/EngineData.lean ====
section
/-!
DEFINITION. What the engines compute: the output of the sequential copy transforms (R87, R223, R242), the sums of `MMA` (R220 to
R222, R232) and the narrowing of `MMAST` (R237); and how a command reads its operands (R126, R187, R230).
-/

namespace Sys2Proof.Machine

/-! ### MXFP4 to E4M3 (R223) -/

/-- The output of transform 4: the columns, then the tile scale. `packed` holds 64 bytes and `scales` 4 bytes for each column. -/
def expandMx (packed scales : List Byte) (cols : Nat) : List Byte :=
  let xs := (scales.take (4 * cols)).map BitVec.toNat
  let known := xs.filter (· != 255)
  let top := known.foldl max 0
  let code := fun (j k : Nat) =>
    let x := xs.getD (4 * j + k / 32) 0
    if x = 255 then 0x7F
    else
      let b := (packed.getD (64 * j + k / 2) 0).toNat
      match decodeE2m1 (if k % 2 = 0 then b % 0x10 else b / 0x10) with
      | .fin s m e => (satF8 false (.fin s m (e + (x : Int) - top + 6))).1
      | _ => 0x7F
  let st : Word := if known.isEmpty then 0x3F800000 else rneF32 (.fin false 1 ((top : Int) - 133))
  ((List.range cols).flatMap (fun j => (List.range 128).map (fun k => BitVec.ofNat 8 (code j k)))) ++ leBytes 4 st.toNat

/-! ### Sector decompress (R87): the inverse of `packSector` -/

/-- Bytes that a sector takes in the form of a tag. -/
def tagBytes : Nat → Nat
  | 0 => 0
  | 1 => 8
  | 2 => 16
  | _ => 32

/-- Expands `n` sectors stored back to back. -/
def expandSectors (tags : List Byte) : Nat → Nat → List Byte → List Byte
  | 0, _, _ => []
  | n + 1, i, src =>
    let t := (tags.getD (i / 4) 0).toNat / 4 ^ (i % 4) % 4
    State.expandSector t (src.take (tagBytes t)) ++ expandSectors tags n (i + 1) (src.drop (tagBytes t))

/-! ### Stream decode (R242) -/

/-- `n` stream bits from bit `p`, the first in bit 0; bits beyond the source read as zero. -/
def streamBits (src : List Byte) (p n : Nat) : Nat :=
  packBits ((List.range n).map (fun i => bitAt ((src.getD ((p + i) / 8) 0).toNat) ((p + i) % 8)))
where
  /-- A number whose bits are given, bit 0 first. -/
  packBits : List Bool → Nat
    | [] => 0
    | b :: bs => b.toNat + 2 * packBits bs

/-- A code-table entry that keeps its limits. -/
inductive Code where
  | literal (b : Nat)
  | ref (len xb obase : Nat)

/-- The entry of a table word; none when it breaks its limits. -/
def codeOf (w : Nat) : Option Code :=
  if w % 2 = 0 then (if w / 0x200 = 0 then some (.literal (bits w 8 1)) else none)
  else if bits w 14 10 ≤ 16 ∧ 1 ≤ bits w 31 15 ∧ bits w 31 15 ≤ 65536 then some (.ref (bits w 9 1 + 3) (bits w 14 10) (bits w 31 15))
  else none

/-- Emits up to `n` bytes that repeat the output at a distance; the output is kept last byte first. -/
def copyBack (dist total : Nat) : Nat → List Byte → List Byte
  | 0, out => out
  | n + 1, out => if out.length ≥ total then out else copyBack dist total n (out.getD (dist - 1) 0 :: out)

/-- The decoder's loop: the output so far, last byte first; the bit position; the detail of a failure. -/
def decodeLoop (src : List Byte) (table : List Word) (total : Nat) : Nat → List Byte → Nat → List Byte × Nat
  | 0, out, _ => (out, 0)
  | n + 1, out, p =>
    if out.length ≥ total then (out, 0)
    else
      let c := streamBits src p 9
      if c ≥ (table.headD 0).toNat % 0x400 then (out, 1)
      else match codeOf ((table.getD (c + 1) 0).toNat) with
        | none => (out, 1)
        | some (.literal b) => decodeLoop src table total n (BitVec.ofNat 8 b :: out) (p + 9)
        | some (.ref len xb obase) =>
          let dist := obase + streamBits src (p + 9) xb
          if dist > out.length ∨ dist > 65536 then (out, 2)
          else decodeLoop src table total n (copyBack dist total len out) (p + 9 + xb)

/-- The output of transform 6 and the detail of BAD_STREAM, 0 without failure. -/
def streamDecode (src : List Byte) (table : List Word) (total : Nat) : List Byte × Nat :=
  let r := decodeLoop src table total total [] 0
  let out := r.1.reverse
  (out ++ List.replicate (total - out.length) 0, r.2)

/-! ### Reading operands -/

/-- What a command's read finds. -/
inductive EngRead where
  | ok (bs : List Byte)
  | wait (w : CmdWait)
  /-- It stands behind an absent scratchpad line. -/
  | absent
  | refused

namespace State

/-- A copy or `MMAST` that issued before the command `id` still has to land in a line of a team: the command waits for what its own team, which
issued it, and the team whose line it is have cleared there, and for no other (R230, R235, log entry 121). -/
def clearedBefore (s : State) (id issuer team line : Nat) : Bool :=
  s.cmds.any (fun c => decide (c.id < id) && (c.team == issuer || c.team == team) && (c.kind == .cpy || c.kind == .mmast)
    && c.pending.contains (team, line))

/-- Reads `n` bytes of a team's scratchpad for a command (R230). -/
def engSpad (s : State) (id team off n : Nat) : EngRead :=
  match s.team? team with
  | none => .refused
  | some t =>
    if off + n > t.spadSize then .refused
    else if (List.range (ceilDiv (off % 128 + n) 128)).any (fun i => s.clearedBefore id team team (off / 128 + i)) then .absent
    else .ok (t.spad.readBytes off n)

/-- Reads those of `n` bytes of one global sector that are wanted, for a command at device reach (R126), and gives 0 for the others: from what the
command has read of the sector before, or from the whole sector as it stands now, all at one time (R135, R142). An invalid envelope word takes the
miss path (R187) where a wanted byte or a later read of the command needs it, as `want` and `also` say by address; nothing is kept then. -/
def engSector (s : State) (cmd : EngCmd) (va n : Nat) (want also : Nat → Bool) : State × EngRead :=
  let old := assocD (((s.cmd? cmd.id).map EngCmd.sectors).getD []) (va / 32) []
  let at_ := fun (l : List (Option Byte)) (i : Nat) => l.getD (va % 32 + i) none
  let give := fun (l : List (Option Byte)) => (List.range n).map (fun i => if want (va + i) then (at_ l i).getD 0 else 0)
  if (List.range n).all (fun i => !want (va + i) || (at_ old i).isSome) then (s, .ok (give old))
  else
    match s.reach (s.coreOf cmd.team) (s.ctxId cmd.team) va false .engRead (.cmd cmd.id) with
    | (s, .wait w) => (s, .wait w)
    | (s, .refused) => (s, .refused)
    | (s, .ok tr loc) =>
      let base := va - va % 32
      let miss := fun (i : Nat) =>
        (s.sendMiss (s.ctxId cmd.team) (base + i) 0 tr (loc.sector.add i) (s.fdepthOf cmd.team) (s.effClass cmd.team) (.cmd cmd.id) .engRead,
         EngRead.wait .fill)
      let new := (List.range 32).map (fun i => s.devByte? (loc.sector.add i))
      if s.delayed loc then miss (va % 32)
      else match (List.range 32).find? (fun i => (new.getD i none).isNone &&
          ((decide (va ≤ base + i) && decide (base + i < va + n) && want (base + i)) || also (base + i))) with
        | some i => miss i
        | none => (s.modCmd cmd.id (fun x => { x with sectors := assocSet x.sectors (va / 32) new }), .ok (give new))

/-- Reads global bytes for a command, sector by sector. -/
def engGlobal (cmd : EngCmd) (want also : Nat → Bool) : Nat → Nat → Nat → State → State × EngRead
  | 0, _, _, s => (s, .ok [])
  | fuel + 1, va, n, s =>
    if n = 0 then (s, .ok [])
    else
      let k := min n (32 - va % 32)
      match s.engSector cmd va k want also with
      | (s, .ok bs) =>
        match engGlobal cmd want also fuel (va + k) (n - k) s with
        | (s, .ok rest) => (s, .ok (bs ++ rest))
        | r => r
      | r => r

/-- Reads an operand of a command: kind 1 is the issuing team's scratchpad, other kinds are global. `also` names the global bytes that the command
reads besides. -/
def engRead (s : State) (cmd : EngCmd) (kind : Nat) (a : Int) (n : Nat) (also : Nat → Bool) : State × EngRead :=
  if a < 0 then (s, .refused)
  else if kind = 1 then (s, s.engSpad cmd.id cmd.team a.toNat n)
  else if a.toNat + n > 2 ^ 52 then (s, .refused)
  else engGlobal cmd (fun _ => true) also (n + 1) a.toNat n s

end State

/-! ### MMA (R220 to R222) -/

/-- The exact value of an element of A or B for a type and a code. -/
def mmaElem (type : Nat) (isA : Bool) (x : Nat) : Fp :=
  let e5 := if isA then type == 2 || type == 3 else type == 1 || type == 3
  if type ≤ 3 then (if e5 then Fmt.e5m2.decode x else decodeE4m3 x)
  else if type = 4 then Fmt.bf16.decode x
  else if type = 5 then Fmt.f16.decode x
  else intFp (sintOf 8 x)

/-- Operand accessors: the codes of A and B by index and depth, bits of the weight planes, and the scales. -/
structure MmaOperands where
  a : Nat → Nat → Nat
  b : Nat → Nat → Nat
  hi : Nat → Nat → Bool
  lo : Nat → Nat → Bool
  sa : Nat → Nat → Word
  sb : Nat → Word

/-- The operands of a block in a scratchpad (R232). -/
def mmaOperands (b : MmaBlock) (m : Memory) : MmaOperands :=
  let d := b.depth
  let sz := b.size
  let plane := fun (base j k : Nat) => bitAt (m.read (base + k / 128 * 16 * b.n + 16 * j + k % 128 / 8)).toNat (k % 8)
  { a := fun i k => m.readNat (b.aoff + sz * (k / d * d * b.m + d * i + k % d)) sz
    b := fun j k => m.readNat (b.boff + sz * (k / d * d * b.n + d * j + k % d)) sz
    hi := fun j k => plane b.boff j k
    lo := fun j k => plane (b.boff + b.plane) j k
    sa := fun i k => BitVec.ofNat 32 (m.readNat (b.saoff + 4 * (k / 128 * b.m + i)) 4)
    sb := fun k => BitVec.ofNat 32 (m.readNat (b.sboff + 4 * (k / 128)) 4) }

/-- An FP32 group sum over 32 consecutive k (R220, R221). -/
def groupSum (b : MmaBlock) (o : MmaOperands) (i j k : Nat) : Word :=
  rneF32 (Fp.sum ((List.range 32).map (fun u =>
    Fp.mul (mmaElem b.type true (o.a i (k + u))) (mmaElem b.type false (o.b j (k + u))))))

/-- An FP32 product rounded once. -/
def mulF32 (x y : Word) : Word := rneF32 (Fp.mul (f32 x) (f32 y))

/-- The weight of a bit (R222). -/
def wbit (b : Bool) : Int := if b then 1 else -1

/-- The new accumulator of row `i` and column `j`. -/
def mmaAcc (b : MmaBlock) (o : MmaOperands) (i j : Nat) (acc : Word) : Word :=
  if b.type ≤ 3 then
    (List.range (b.k / 128)).foldl (fun acc n =>
      let k0 := 128 * n
      let p := (List.range 3).foldl (fun p g => addF32 p (groupSum b o i j (k0 + 32 * (g + 1)))) (groupSum b o i j k0)
      addF32 acc (mulF32 p (mulF32 (o.sa i k0) (o.sb k0)))) acc
  else if b.type ≤ 5 then (List.range (b.k / 32)).foldl (fun acc g => addF32 acc (groupSum b o i j (32 * g))) acc
  else
    let w := fun (k : Nat) =>
      if b.type = 6 then sintOf 8 (o.b j k)
      else if b.type = 7 then wbit (o.hi j k)
      else 2 * wbit (o.hi j k) + wbit (o.lo j k)
    let t := (List.range b.k).foldl (fun (t : Int) k => t + sintOf 8 (o.a i k) * w k) (acc.toNat : Int)
    BitVec.ofInt 32 t

/-- A NaN among the elements of A and B (R234). -/
def mmaNan (b : MmaBlock) (o : MmaOperands) : Bool :=
  decide (b.type ≤ 5) &&
    ((List.range b.m).any (fun i => (List.range b.k).any (fun k => (mmaElem b.type true (o.a i k)).isNan))
      || (List.range b.n).any (fun j => (List.range b.k).any (fun k => (mmaElem b.type false (o.b j k)).isNan)))

/-- A NaN among the scales (R234). -/
def mmaScaleNan (b : MmaBlock) (o : MmaOperands) : Bool :=
  b.scaled && (List.range (b.k / 128)).any (fun n =>
    (f32 (o.sb (128 * n))).isNan || (List.range b.m).any (fun i => (f32 (o.sa i (128 * n))).isNan))

/-- A bank after an `MMA` (R234): rows below M and columns below N take their new sums. -/
def Bank.mma (x : Bank) (b : MmaBlock) (o : MmaOperands) : Bank :=
  let tile := (List.range b.m).flatMap (fun i => (List.range b.n).map (fun j =>
    (128 * i + j, mmaAcc b o i j (assocD x.words (128 * i + j) 0))))
  { x with
    words := x.words.filter (fun w => !(decide (w.1 / 128 < b.m) && decide (w.1 % 128 < b.n))) ++ tile.filter (fun w => w.2 != 0)
    nanIn := x.nanIn || mmaNan b o, scaleNan := x.scaleNan || mmaScaleNan b o }

/-! ### MMAST (R237, R238) -/

/-- The stored code of an accumulator, and whether it saturated. -/
def storeElem (ofmt : Nat) (scale a : Word) : Nat × Bool :=
  let x := Fp.mul (f32 a) (f32 scale)
  match ofmt with
  | 0 => (Fmt.f32.round .rn x, false)
  | 1 => (Fmt.bf16.round .rn x, false)
  | 2 => (Fmt.f16.round .rn x, false)
  | 3 => satF8 false x
  | 4 => satF8 true x
  | _ => (a.toNat, false)

/-- The tile status word (R238). -/
def tileStatus (x : Bank) (inf sat : Bool) : Nat :=
  x.nanIn.toNat + 2 * inf.toNat + 4 * sat.toNat + 8 * x.scaleNan.toNat + 16 * x.bank + 2 ^ 31

end Sys2Proof.Machine
end

