-- ==== Sys2Proof/Machine/EngineEvents.lean ====
section
/-!
DEFINITION. The events of the copy and matrix engines: ENGINE_DISPATCH and DISCARDED (R229, R350), COPY_LINE_LANDING (R78, R243),
COPY_COMPLETION (R244), MMA_COMPLETION (R234, R235), MMAST_COMPLETION (R237) and MMAZ_COMPLETION (R389). An event that cannot
happen in a state leaves the state as it is.
-/

namespace Sys2Proof.Machine

/-! ### Queues -/

/-- The queue of a command (R227, R262). -/
def CmdKind.queue (k : CmdKind) : Queue :=
  match k with
  | .cpy => .copy
  | .pairs => .pairs
  | _ => .matrix

/-- The head of a team's queue: its first command that no engine has. -/
def queueHead? (s : State) (team : Nat) (q : Queue) : Option EngCmd :=
  s.cmds.find? (fun c => c.team == team && c.kind.queue == q && c.started.isNone)

/-- A guard slot of a team. -/
def guardState (s : State) (team : Nat) (g : Option Nat) : Slot :=
  match g with
  | none => .true
  | some n => ((s.team? team).map (fun t => t.gslots.getD n .unresolved)).getD .unresolved

/-- A head that its slot sends to the engine (R229). -/
def dispatches (s : State) (c : EngCmd) : Bool := guardState s c.team c.guard == .true

/-- A head that is discarded: its slot is FALSE, or UNRESOLVED in a team without live threads (R229, R350). -/
def isDiscarded (s : State) (c : EngCmd) : Bool :=
  match guardState s c.team c.guard with
  | .true => false
  | .false => true
  | .unresolved => (s.liveTeam c.team).isEmpty

/-- ENGINE_DISPATCH (R229): the head of a queue goes to its engine. DESIGN CHOICE: a cooperative `MMA` has its place in the order of all its engines
from this event on (R235, log entry 117). -/
def execEngineDispatch (team : Nat) (q : Queue) (s : State) : Out :=
  whenOn (fun s => match queueHead? s team q with
    | none => s
    | some c =>
      if dispatches s c && !s.outside team then s.fresh.modCmd c.id (fun x => { x with started := some (s.lastId + 1) }) else s) s

namespace State

/-- A command is over: its locks are free, the presence bits of its scratchpad lines are set, and its team's record may settle. -/
def endCmd (s : State) (c : EngCmd) : State :=
  let s := { s with cmds := s.cmds.filter (fun x => x.id != c.id), locks := s.locks.filter (fun l => l.cmd != c.id) }
  ((c.pending.filter (fun p => p.1 != 0)).foldl (fun s p => s.setPresent p.1 [p.2]) s).settleRetained

end State

/-- The offset and value of the status that a discarded command writes (R229, R244, R265, R387). -/
def discardStatus (c : EngCmd) : Option (Nat × Nat) :=
  match c.kind with
  | .cpy => some (c.addr + 0x7C, 0xFE)
  | .mmast => some ((MmastBlock.of c.block).soff, 0)
  | .pairs => some (c.addr + 0x3C, 0xFE)
  | _ => none

/-- DISCARDED (R229). -/
def execDiscarded (team : Nat) (q : Queue) (s : State) : Out :=
  whenOn (fun s => match queueHead? s team q with
    | none => s
    | some c =>
      if isDiscarded s c && !s.outside team then
        (match discardStatus c with
         | none => s
         | some (a, v) => s.spadWrite team a (leBytes 4 v)).endCmd c
      else s) s

/-! ### Copies -/

/-- How far a copy's step comes. -/
inductive CopyStep where
  | done
  | wait (w : CmdWait)
  /-- It stands behind an absent line. -/
  | absent
  | fail (detail : Nat)
deriving DecidableEq, Repr

/-- An element access at or beyond the LIMIT of its record (R241). -/
def beyond (limit base : Nat) (a : Int) (n : Nat) : Bool := limit != 0 && decide (a - base + n > (limit : Int))

/-- The copy reads the byte at a global address as part of an element of its source: its sector is read as a whole, with every such byte at one
time (R142). The rows of a gather are known once its index table is read. -/
def copyReads (s : State) (c : EngCmd) (p : Nat) : Bool :=
  let b := c.copy
  let at_ := fun (a : Int) (n : Nat) => decide (a ≤ (p : Int)) && decide ((p : Int) < a + n) && !beyond c.slimit c.src a n
  b.srck != 1 && (b.elems c.operands).any (fun e =>
    match e.src with
    | .mem a => at_ a e.n
    | .gather i rest => (((s.cmd? c.id).bind (fun x => x.word? (b.xarg + 4 * i))).map (fun x => at_ (rest + x * c.sstr.getD 1 0) e.n)).getD false
    | _ => false)

/-- Reads an operand, and goes on with its bytes. -/
def withRead (s : State) (c : EngCmd) (kind : Nat) (a : Int) (n : Nat) (f : State → List Byte → State × CopyStep) : State × CopyStep :=
  match s.engRead c kind a n (copyReads s c) with
  | (s, .ok bs) => f s bs
  | (s, .wait w) => (s, .wait w)
  | (s, .absent) => (s, .absent)
  | (s, .refused) => (s, .fail 1)

/-- The bytes of a source, filled up to `n` bytes with free values where a sector decompress runs past the source. -/
def padFree (s : State) (bs : List Byte) (n : Nat) : List Byte :=
  bs ++ (List.range (n - bs.length)).map (fun i => BitVec.ofNat 8 (Config.freeWord (s.freeCtr + i)).toNat)

/-- Computes the output of a sequential transform once (R223, R241, R242). -/
def computeOut (c : EngCmd) (s : State) : State × CopyStep :=
  let b := c.copy
  match b.xop with
  | 4 =>
    if beyond c.slimit c.src c.src (64 * b.extAt 1) then (s, .fail 4)
    else withRead s c b.srck c.src (64 * b.extAt 1) (fun s packed =>
      withRead s c b.srck b.xarg (4 * b.extAt 1) (fun s scales =>
        (s.modCmd c.id (fun x => { x with out := some (expandMx packed scales (b.extAt 1)) }), .done)))
  | 5 =>
    withRead s c b.srck c.src (b.sstrAt 0).toNat (fun s src =>
      withRead s c b.srck b.xarg (ceilDiv (b.total / 32) 4) (fun s tags =>
        let out := expandSectors tags (b.total / 32) 0 (padFree s src b.total)
        ({ s with freeCtr := s.freeCtr + b.total }.modCmd c.id (fun x => { x with out := some out }), .done)))
  | 6 =>
    withRead s c b.srck c.src (b.sstrAt 0).toNat (fun s src =>
      withRead s c b.srck b.xarg 4 (fun s head =>
        withRead s c b.srck b.xarg (4 * (leNat head % 0x400 + 1)) (fun s tab =>
          let r := streamDecode src (State.wordsOf tab (leNat head % 0x400 + 1)) b.total
          (s.modCmd c.id (fun x => { x with out := some r.1, result := if r.2 = 0 then none else some (0x10, r.2) }), .done))))
  | _ => (s, .done)

/-- The bytes of one element. -/
def elemBytes (c : EngCmd) (e : Elem) (s : State) (f : State → List Byte → State × CopyStep) : State × CopyStep :=
  let b := c.copy
  match e.src with
  | .fill => f s (leBytes e.n b.xarg)
  | .out i => f s (((((s.cmd? c.id).bind EngCmd.out).getD []).drop i).take e.n)
  | .mem a => if beyond c.slimit c.src a e.n then (s, .fail 4) else withRead s c b.srck a e.n f
  | .gather i rest =>
    withRead s c b.srck ((b.xarg + 4 * i : Nat) : Int) 4 (fun s idx =>
      let a := rest + leNat idx * c.sstr.getD 1 0
      if beyond c.slimit c.src a e.n then (s, .fail 4) else withRead s c b.srck a e.n f)

/-- The bytes of the elements that lie in a destination line: offset in the line and value, in element order. -/
def lineBytes (c : EngCmd) (line : Nat) : List Elem → List (Nat × Byte) → (State → List (Nat × Byte) → State × CopyStep) → State →
    State × CopyStep
  | [], acc, f, s => f s acc
  | e :: es, acc, f, s =>
    if beyond c.dlimit c.dst e.dst e.n then (s, .fail 4)
    else elemBytes c e s (fun s bs =>
      lineBytes c line es (acc ++ bs.zipIdx.map (fun b => (e.dst.toNat % 128 + b.2, b.1))) f s)

/-- One value for each written byte of a line; where several elements write it, a choice says which value it receives (R241). -/
def pickBytes (s : State) (l : List (Nat × Byte)) : State × List (Nat × Byte) :=
  (List.range 128).foldl (fun (r : State × List (Nat × Byte)) i =>
    match (l.filter (fun b => b.1 == i)).map Prod.snd with
    | [] => r
    | [b] => (r.1, r.2 ++ [(i, b)])
    | bs => (r.1.choose, r.2 ++ [(i, bs.getD (r.1.choice % bs.length) 0)])) (s, [])

/-- Sends what a copy writes in one virtual line to device reach: its sectors land one by one, in no order (R126, R141, R465). -/
def engLand (c : EngCmd) (line : Nat) (bs : List (Nat × Byte)) (s : State) : State × CopyStep :=
  match bs with
  | [] => (s, .done)
  | (first, _) :: _ =>
    let ctx := s.ctxId c.team
    match s.reach (s.coreOf c.team) ctx (128 * line + first) true .engWrite (.cmd c.id) with
    | (s, .wait w) => (s, .wait w)
    | (s, .refused) => (s, .fail 1)
    | (s, .ok tr loc) =>
      let ls := [0, 1, 2, 3].filterMap (fun k =>
        match (bs.filter (fun b => b.1 / 32 == k)).map (fun b => (b.1 % 32, b.2)) with
        | [] => none
        | part =>
          some ({ author := .unit, crew := ⟨c.team, c.crew⟩, fdepth := s.fdepthOf c.team, ctx := ctx, va := 128 * line + 32 * k,
                  loc := loc.line.add (32 * k), tr := tr, bytes := part, implied := 0, core := Config.noCore, seen := 0, id := 0,
                  cmd := c.id } : Landing))
      ({ s with landings := s.landings ++ ls }, .done)

/-- Moves everything that a copy writes in one destination line (R241, R243): into a scratchpad line at once, into global memory by landings. -/
def copyLine (c : EngCmd) (target line : Nat) (s : State) : State × CopyStep :=
  let b := c.copy
  let (s, r) :=
    if decide (4 ≤ b.xop) && decide (b.xop ≤ 6) && c.out.isNone then computeOut c s
    else if b.xop = 7 then withRead s c b.srck b.xarg (4 * b.extAt 1) (fun s _ => (s, .done))
    else (s, .done)
  if r ≠ .done then (s, r)
  else
    let es := (b.elems c.operands).filter (fun e => e.dst.toNat / 128 == line)
    lineBytes c line es [] (fun s bs =>
      let (s, bs) := pickBytes s bs
      let s := s.modCmd c.id (fun x => { x with progress := x.progress + es.length })
      if target = 0 then engLand c line bs s
      else (bs.foldl (fun s x => s.spadWrite target (128 * line + x.1) [x.2]) s, .done)) s

/-- A copy that its engine runs and that does not wait: neither at an access, nor at a write to part of an invalid word, which waits for its fill
(R465). -/
def copyRuns (s : State) (id : Nat) : Option EngCmd :=
  (s.cmd? id).bind (fun c =>
    if c.kind == .cpy && c.started.isSome && c.wait == .none && !s.outside c.team && s.parkedLandings.all (fun l => l.cmd != id) then some c
    else none)

/-- The command's step ended without its line: it waits, it stands behind an absent line, or it fails (R93, R187, R244). What it has read stays
with it, and the locks of operands that it accesses no more are free (R97). -/
def stepEnds (id : Nat) (r : State × CopyStep) : State :=
  (match r.2 with
   | .done | .absent => r.1
   | .wait w => r.1.modCmd id (fun x => { x with wait := w })
   | .fail d => r.1.modCmd id (fun x => { x with result := some (0x0F, d) })).freeLocks id

/-- A copy's result ends it before every line has landed. -/
def failed (c : EngCmd) : Bool := (c.result.map Prod.fst) == some 0x0F

/-- A command has written a line: the line's presence bit is set (R78). The locks of operands that it accesses no more are free (R97). -/
def lineDone (s : State) (id target line : Nat) : State :=
  let s := s.modCmd id (fun x => { x with pending := x.pending.filter (fun p => p != (target, line)) })
  (if target = 0 then s else s.setPresent target [line]).freeLocks id

/-- COPY_LINE_LANDING (R78, R243): a scratchpad line that is not the command's last lands, and its presence bit is set. A line of global memory
(target 0) is sent, and lands by SECTOR_LANDING (log entry 98). -/
def execCopyLineLanding (id target line : Nat) (s : State) : Out :=
  whenOn (fun s => match copyRuns s id with
    | none => s
    | some c =>
      if failed c || !c.pending.contains (target, line) || (target != 0 && decide (c.pending.length ≤ 1)) then s
      else
        let r := copyLine c target line s
        if r.2 = .done then lineDone r.1 id target line else stepEnds id r) s

/-- The end of a copy (R244): STATUS is written before the last presence bit is set, and the locks are free. -/
def finishCopy (s : State) (id : Nat) : State :=
  match s.cmd? id with
  | none => s
  | some c =>
    let r := c.result.getD (0, 0)
    (s.spadWrite c.team (c.addr + 0x7C) (leBytes 4 (r.1 + 0x100 * r.2))).endCmd c

/-- COPY_COMPLETION (R244): the last scratchpad line lands, every global sector has landed, or the command has failed; what it has sent has landed
before it is complete. -/
def execCopyCompletion (id : Nat) (s : State) : Out :=
  whenOn (fun s => match copyRuns s id with
    | none => s
    | some c =>
      if s.landingLeft id then s
      else if failed c then finishCopy s id
      else match c.pending with
        | [] => finishCopy s id
        | [(target, line)] =>
          if target = 0 then s
          else
            let r := copyLine c target line s
            (match r.2 with
             | .done => finishCopy r.1 id
             | .fail _ => finishCopy (stepEnds id r) id
             | _ => stepEnds id r)
        | _ => s) s

/-! ### The matrix engines -/

/-- The cores whose matrix engines a command takes (R235). -/
def engineCores (s : State) (c : EngCmd) : List Nat :=
  if c.parts.isEmpty then [s.coreOf c.team] else c.parts.map s.coreOf

/-- A matrix command that every engine it takes has reached in its order of arrival (R234, R237), and before which every earlier one of its team is
complete (R389). -/
def matrixTurn (s : State) (id : Nat) : Option EngCmd :=
  (s.cmd? id).bind (fun c =>
    if c.kind.matrix && c.started.isSome && !s.outside c.team &&
        s.cmds.all (fun d => !(d.kind.matrix && d.id != c.id && decide (d.started.getD 0 < c.started.getD 0) && d.started.isSome
          && (d.team == c.team || (engineCores s d).any (fun n => (engineCores s c).contains n)))) then some c else none)

/-- No earlier command of the issuing team or of the participant has still to write an operand line of the participant (R230, R235). -/
def operandsPresent (s : State) (id issuer team : Nat) (l : List (Nat × Nat)) : Bool :=
  l.all (fun o => (List.range (ceilDiv (o.1 % 128 + o.2) 128)).all (fun i => !s.clearedBefore id issuer team (o.1 / 128 + i)))

/-- MMA_COMPLETION (R234, R235): the bank of every participant's core takes its sums. DESIGN CHOICE: the sticky bits of each participant's bank follow
from that participant's own operands (log entry 116). -/
def execMmaCompletion (id : Nat) (s : State) : Out :=
  whenOn (fun s => match matrixTurn s id with
    | none => s
    | some c =>
      let b := MmaBlock.of c.block
      if c.kind != .mma || c.parts.any (fun t => s.outside t) || !c.parts.all (fun t => operandsPresent s id c.team t b.operands) then s
      else
        State.endCmd (c.parts.foldl (fun s p =>
          match s.team? p with
          | none => s
          | some t => { s with banks := updWhere (fun x => x.core == t.coreD && x.bank == b.bank)
                                 (fun x => x.mma b (mmaOperands b t.spad)) s.banks }) s) c) s

/-- MMAST_COMPLETION (R237, R238): the result lines, then the status word; saturation sets `%sat`[2] of the issuing crew. -/
def execMmastCompletion (id : Nat) (s : State) : Out :=
  whenOn (fun s => match matrixTurn s id with
    | none => s
    | some c =>
      if c.kind != .mmast then s
      else
        let b := MmastBlock.of c.block
        let x := (s.banks.find? (fun x => x.core == s.coreOf c.team && x.bank == b.bank)).getD ⟨0, b.bank, none, [], false, false⟩
        let word := fun (i j : Nat) => assocD x.words (128 * i + j) 0
        let cells := (List.range b.m).flatMap (fun i => (List.range b.n).map (fun j => (i, j)))
        let inf := b.ofmt != 5 && cells.any (fun k => (f32 (word k.1 k.2)).isInf)
        let sat := cells.any (fun k => (storeElem b.ofmt b.oscale (word k.1 k.2)).2)
        let s := cells.foldl (fun s k =>
          s.spadWrite c.team (b.doff + k.1 * b.dstride + k.2 * b.size)
            (leBytes b.size (storeElem b.ofmt b.oscale (word k.1 k.2)).1)) s
        let s := s.spadWrite c.team b.soff (leBytes 4 (tileStatus x inf sat))
        let s := if sat then s.setSat ⟨c.team, c.crew⟩ 4 else s
        s.endCmd c) s

/-- MMAZ_COMPLETION (R231, R389): the bank is zeroed with its sticky status, or its team holds it no more; its words then stay. -/
def execMmazCompletion (id : Nat) (s : State) : Out :=
  whenOn (fun s => match matrixTurn s id with
    | none => s
    | some c =>
      let mine := fun (x : Bank) => x.core == s.coreOf c.team && x.bank == c.bank
      match c.kind with
      | .mmaz =>
        { s with banks := updWhere mine (fun x => { x with words := [], nanIn := false, scaleNan := false }) s.banks }.endCmd c
      | .mmazRel =>
        { s with banks := updWhere (fun x => mine x && x.team == some c.team) (fun x => { x with team := none }) s.banks }.endCmd c
      | _ => s) s

end Sys2Proof.Machine
end

