-- ==== Sys2Proof/Machine/Rest.lean ====
section
/-!
DEFINITION. When teams can leave their cores: what stands parked (R31), what has to be over before a team is saved (R247, R280), which unit
a swap-out takes (R67), and the offers of a cycle, which follow its retirements and swap-outs (R65).
-/

namespace Sys2Proof.Machine

namespace State

/-- The team is resident on the core. -/
def residentOn (s : State) (team core : Nat) : Bool := (s.team? team).bind Team.core? == some core

/-! ### Rendezvous (R25, R26) -/

/-- The word at which the threads of a crew have arrived. -/
def convOf (s : State) (c : CrewId) : Option Word := (s.liveOf c).head?.bind Thread.conv

/-- The crew's rendezvous is at a uniform word. -/
def atUniform (s : State) (c : CrewId) : Bool := ((s.convOf c).map (fun w => decide (0x80000000 ≤ w.toNat))).getD false

/-- The instruction of the word at which a crew has arrived. -/
def convInstr (s : State) (c : CrewId) : Option Instr :=
  (s.convOf c).bind (fun w => match decode w 0 with | .ok i => some i | .error _ => none)

/-- The crew's threads stand at `BAR.CREW`. -/
def atCrewBar (s : State) (c : CrewId) : Bool :=
  match s.convInstr c with
  | some (.bar o) => o.level == .crew
  | _ => false

/-- `LAUNCH`, `FILLDONE` and `FILLFAIL` complete from wherever they are (R356, R378). -/
def mustEnd (s : State) (c : CrewId) : Bool :=
  match s.convInstr c with
  | some (.launch _) | some (.filldone _) | some (.fillfail _) => true
  | _ => false

/-- The crew executes a uniform instruction, or `BAR.CREW`: its rendezvous has completed, and a pre-emption or an escalation lets it complete the
instruction first (R280, log entry 119). One that waits for an absent scratchpad line before it has done anything counts as parked (R31). -/
def executing (s : State) (c : Crew) : Bool :=
  c.complete && s.scheduled (s.ctxId c.id.team) &&
    (s.atCrewBar c.id || (s.atUniform c.id && (c.absent.isNone || c.issuing.isSome || s.mustEnd c.id)))

/-! ### Parked threads (R31, R67) -/

/-- The thread is parked (R31): for a reason of its own, at a rendezvous that has not completed, or at a uniform instruction that waits for an
absent scratchpad line (R372). -/
def parkedNow (s : State) (t : Thread) : Bool :=
  t.park != .none ||
    (match s.crew? t.id.crewId with
     | none => false
     | some c => c.absent.isSome || (t.arrived.isSome && !c.complete && t.stall == .none))

/-- Every live thread of the team is parked. -/
def allParked (s : State) (team : Nat) : Bool :=
  !(s.liveTeam team).isEmpty && (s.liveTeam team).all s.parkedNow

/-- Every live thread of the team has been parked without a break for 100 µs (R67). -/
def longParked (s : State) (t : Team) : Bool :=
  s.allParked t.id && (t.parkExpired || (t.parkedSince.map (fun n => decide (n + Config.parkTimeFs ≤ s.time))).getD false)

/-! ### Bringing teams to rest (R247, R280) -/

/-- An acknowledgement arrives (R111): its author's count falls, and commits may complete (R110). Every commit that waits for a landing of the
cluster unit has then seen it (R124). -/
def applyAck (s : State) (a : Ack) : State :=
  match a.author with
  | .crew d => (s.modCrew d (fun x => { x with unack := x.unack - 1 })).tryCommits d
  | .unit =>
    let s := { s with commits := s.commits.map (fun (w : CommitWait) => { w with unitWait := w.unitWait.filter (fun n => n != a.id) }) }
    ((s.commits.map CommitWait.crew).eraseDups).foldl State.tryCommits s

/-- Lands some of the sectors on their way and acknowledges them; words that wait for a fill or for a link stay (R280). -/
def landSome (s : State) (due : Landing → Bool) : State :=
  let ls := s.landings.filter due
  let s := ls.foldl land { s with landings := s.landings.filter (fun l => !due l) }
  let mine := fun (a : Ack) => ls.any (fun l => l.author == a.author && l.id == a.id && l.core == a.core)
  (s.acks.filter mine).foldl applyAck { s with acks := s.acks.filter (fun a => !mine a) }

/-- The acknowledgements of some crews arrive. -/
def ackSome (s : State) (mine : CrewId → Bool) : State :=
  let due := fun (a : Ack) => match a.author with | .crew c => mine c | .unit => false
  (s.acks.filter due).foldl applyAck { s with acks := s.acks.filter (fun a => !due a) }

/-- Performs every outstanding `RED` of some crews that can perform (R280). -/
def performReds (s : State) (mine : CrewId → Bool) : State :=
  let due := s.reds.filter (fun r => r.crews.any mine && redReady s r)
  due.foldl (fun s r => performRed s r) { s with reds := s.reds.filter (fun r => !due.contains r) }

/-- What has to be over before the teams' images are written: reductions, landings, acknowledgements. -/
def quiesce (s : State) (teams : List Nat) : State :=
  let mine := fun (c : CrewId) => teams.contains c.team
  ((s.performReds mine).landSome (fun l => match l.author with | .crew c => mine c | .unit => l.cmd != 0 && mine l.crew)).ackSome mine

/-- Nothing of the teams is outstanding that an image cannot hold (R247, R280): counts are zero, no reduction is on its way, no load waits for a
link, no crew executes a uniform instruction, and no cooperative `MMA` in which one of them takes part has started. -/
def atRest (s : State) (teams : List Nat) : Bool :=
  s.crews.all (fun c => !teams.contains c.id.team || (c.unack == 0 && !s.executing c))
    && s.commits.all (fun w => !teams.contains w.crew.team)
    && s.reds.all (fun r => !teams.contains r.team)
    && s.threads.all (fun t => !teams.contains t.id.team || t.loads.all (fun l => !s.delayed l.loc))
    && s.cmds.all (fun c => !(c.started.isSome && decide (1 < c.parts.length) && c.parts.any (fun t => teams.contains t)))

/-- What a context's crews have begun may wait for threads of the team: an instruction that a crew executes, or, if the team fills, unacknowledged
operations (log entry 119). -/
def awaited (s : State) (t : Team) : Bool :=
  s.crews.any (fun x => s.ctxId x.id.team == t.ctx && !s.outside x.id.team &&
    ((x.begun && s.executing x) || (decide (1 ≤ t.fdepth) && x.unack != 0)))

/-- A pre-emption has begun (R279, R280): the threads of the context stand at their instructions, but for those that what has begun may wait for. -/
def held (s : State) (t : Team) : Bool := ((s.ctx? t.ctx).map Ctx.stopping).getD false && !s.awaited t

/-! ### What a swap-out takes (R67) -/

/-- The lowest slots of an area that no team of the context holds. -/
def freeSlotsOf (s : State) (ctx n : Nat) (slot : Place → Option Nat) : List Nat :=
  let used := (s.teams.filter (fun t => t.ctx == ctx)).filterMap (fun t => slot t.place)
  (List.range n).filter (fun i => !used.contains i)

/-- The slot of a swapped-out team. -/
def swapSlot : Place → Option Nat
  | .swapped _ n => some n
  | _ => none

/-- The slot of a saved team. -/
def saveSlot : Place → Option Nat
  | .saved n => some n
  | _ => none

end State

/-- A resident team is a swap candidate (R67). DESIGN CHOICE: a team without live threads, which its commands or child grids keep, is none, and stays on
its core when the rest of its unit is swapped out (log entry 131). -/
def swapCandidate (s : State) (t : Team) : Bool :=
  t.core?.isSome && s.allParked t.id &&
    (s.longParked t || (s.liveTeam t.id).any (fun x => match x.park with | .barrier b _ _ _ => b.level == .grid | _ => false))

/-- The grid has a pending team, and none of its eligible cores has room for the next one (R62, R67). -/
def needsRoom (s : State) (g : Grid) : Bool :=
  match s.firstBack g with
  | some t => !s.backFits t
  | none => decide (g.nextUnit < g.unitCount) && (s.placeNext g.id).isNone

/-- The resident teams of a unit, without those that have no live thread any more (log entry 131). -/
def unitResident (s : State) (t : Team) : List Team := s.teams.filter (fun x => x.grid == t.grid && x.unit == t.unit && x.core?.isSome)

/-- The time since which the whole unit has been parked. -/
def unitParked (s : State) (t : Team) : Nat := ((unitResident s t).map (fun x => x.parkedSince.getD s.time)).foldl max 0

/-- The unit is a candidate as a whole (R67). -/
def unitCandidate (s : State) (t : Team) : Bool := (unitResident s t).all (swapCandidate s)

/-- The team's unit is the one that the device picks: parked longest, the lower core number on a tie (R67). -/
def pickedForSwap (s : State) (t : Team) : Bool :=
  unitCandidate s t &&
    s.teams.all (fun x => !(x.grid == t.grid && x.unit != t.unit && x.core?.isSome && unitCandidate s x)
      || decide (unitParked s t < unitParked s x) || (unitParked s t == unitParked s x && decide (t.coreD ≤ x.coreD)))

namespace State

/-- The unit of a team can be swapped out now (R67, R68): its teams at rest, with the slots that take them. -/
def swapReady (s : State) (t : Team) : Option (State × List (Team × Nat)) :=
  match s.grid? t.grid, s.ctx? t.ctx with
  | some g, some c =>
    if t.core?.isNone || !s.scheduled t.ctx || !pickedForSwap s t || !needsRoom s g || c.regs.swapbase == 0 then none
    else
      let ts := unitResident s t
      let s' := s.quiesce (ts.map Team.id)
      let slots := s.freeSlotsOf t.ctx c.regs.swapslots swapSlot
      if slots.length < ts.length || !s'.atRest (ts.map Team.id) then none else some (s', ts.zip slots)
  | _, _ => none

/-- A unit leaves its cores now: the offers of the cycle wait for it (R65). -/
def swapsNow (s : State) : Bool := s.power == .active && s.teams.any (fun t => (s.swapReady t).isSome)

/-! ### The offers of a cycle (R65) -/

/-- The round of offers goes on, if one is due and no retirement and no swap-out stands before it (R65). -/
def resumeOffers (s : State) : State := if s.offering && !s.retiresNow && !s.swapsNow then s.offers else s

/-- What comes after the offers of a cycle, a launch's decision or the next cycle (R65): once they are made. -/
def afterOffers (s : State) (f : State → State) : State := if s.resumeOffers.offering then s.resumeOffers else f s.resumeOffers

end State

end Sys2Proof.Machine
end

