-- ==== Sys2Proof/Machine/MemEvents.lean ====
section
/-!
DEFINITION. The events of the memory system: PAGE_WALK (R92), FAULT_REPLY (R94), SECTOR_LANDING (R136), ACKNOWLEDGEMENT (R111),
RED_PERFORM (R134), CLUSTER_UNIT_EVICTION (R124), LINE_EVICTION (R185) and ENVELOPE_MISS (R187). An event that cannot happen in a
state leaves the state as it is.
-/

namespace Sys2Proof.Machine

/-- The list without its element `n`. -/
def dropAt {α : Type} (l : List α) (n : Nat) : List α := l.take n ++ l.drop (n + 1)

/-! ### PAGE_WALK -/

/-- Waiters of a walk try again: a thread translates once more, another unit goes on. -/
def walkDone (s : State) (joined : List Joined) : State :=
  joined.foldl (fun s j =>
    match j.who with
    | .thread t => s.modThread t (fun x => { x with stall := .none })
    | _ => s.resumeWaiter j) s

/-- A walk that failed fatally: ACCESS in every thread that waits for it, and the other units' accesses are refused (R93). -/
def walkFatal (s : State) (ctx : Nat) (joined : List Joined) : State :=
  joined.foldl (fun s j =>
    match j.who with
    | .thread t =>
      (match s.thread? t with
       | none => s
       | some x => s.lateTrap x .access (BitVec.ofNat 32 j.va) (j.va / 2 ^ 32))
    | _ => s.failWaiter ctx j .denied) s

/-- The access is of the walk's own sort: both write, both fetch, or neither (R92). -/
def sameSort (w : Walk) (k : Kind) : Bool :=
  (k == .fetch) == (w.kind == .fetch) && (k == .write || k == .atomic || k == .engWrite || k == .devWrite) == w.write

/-- Another walk of the same context and cluster whose frame lies in a leaf that is now known: its waiters join (R92). -/
def inLeaf (w : Walk) (base size : Nat) (o : Walk) : Bool :=
  o.ctx == w.ctx && clusterOf o.core == clusterOf w.core && decide (base ≤ o.frame * 0x1000) && decide (o.frame * 0x1000 < base + size)

/-- PAGE_WALK (R92, R93): the walk completes and its result is sorted. Misses inside the range of its leaf join it once the leaf is known.
Accesses that joined a walk which fails for its W or X try again if they are of another sort. No walk completes while its context is disabled (R289,
log entry 110). -/
def execPageWalk (i : Nat) (s : State) : Out :=
  .next (match s.walks[i]? with
    | none => s
    | some w =>
      if !s.enabled w.ctx then s
      else
      let r := State.walk { s with walks := dropAt s.walks i } w.core ⟨w.ctx, w.va, w.write, w.kind == .fetch⟩
      let all := fun (base size : Nat) => w.joined ++ (r.1.walks.filter (inLeaf w base size)).flatMap Walk.joined
      let rest := fun (base size : Nat) => { r.1 with walks := r.1.walks.filter (fun o => !inLeaf w base size o) }
      match r.2 with
      | .ok t => walkDone (rest t.base t.size) (all t.base t.size)
      | .error .fatal => walkFatal r.1 w.ctx w.joined
      | .error .replay => r.1.raiseFault w.ctx w.core w.va w.kind w.joined
      | .error (.denied base size) =>
        walkDone ((rest base size).raiseFault w.ctx w.core w.va w.kind ((all base size).filter (fun j => sameSort w j.kind)))
          ((all base size).filter (fun j => !sameSort w j.kind)))

/-! ### FAULT_REPLY -/

/-- A write of the fault-reply register (R94, R289): every access joined to the record replays, or is denied; a value that matches no record is
ignored. -/
def State.faultReply (s : State) (ctx : Nat) (value : Word) : State :=
  let s := s.modCtx ctx (fun c => { c with regs := { c.regs with freply := value.toNat } })
  match s.ctx? ctx with
  | none => s
  | some c =>
    match c.faults.find? (fun f => f.seq == some (value.toNat % 2 ^ 31)) with
    | none => s
    | some f =>
      let s := s.modCtx ctx (fun c => { c with faults := c.faults.filter (fun x => x != f) })
      if bitAt value.toNat 31 then f.joined.foldl (fun s j => s.failWaiter ctx j .denied) s
      else f.joined.foldl (fun s j => s.resumeWaiter j) s

/-- FAULT_REPLY (R94): the host writes the fault-reply register. -/
def execFaultReply (ctx : Nat) (value : Word) (s : State) : Out :=
  .next (s.hostWrite (0x1008C + 256 * ctx) (·.faultReply ctx value))

/-! ### Landings, acknowledgements, reductions -/

/-- SECTOR_LANDING (R135, R136): one sector lands at its place, or waits for a way in the cache. -/
def execSectorLanding (i : Nat) (s : State) : Out :=
  .next (match s.landings[i]? with
    | none => s
    | some l => (s.landWaits l).getD (State.land { s with landings := dropAt s.landings i } l))

/-- ACKNOWLEDGEMENT (R111). -/
def execAcknowledgement (i : Nat) (s : State) : Out :=
  .next (match s.acks[i]? with
    | none => s
    | some a => State.applyAck { s with acks := dropAt s.acks i } a)

/-- Two reductions of the same operation and address, whose home is the same (R125). -/
def sameRed (a b : RedOp) : Bool :=
  a.scope == b.scope && a.op == b.op && a.wide == b.wide && a.loc == b.loc && a.off == b.off &&
    (match a.scope with
     | .team => a.team == b.team
     | .cluster => clusterOf a.core == clusterOf b.core
     | _ => true)

/-- RED_PERFORM (R125, R134): a choice of 0 performs the reduction; a choice of k combines it with the k-th other one of the same
operation and address, where there is one. -/
def execRedPerform (i : Nat) (s : State) : Out :=
  .next (match s.reds[i]? with
    | none => s
    | some r =>
      if !redReady s r then s
      else
        let rest := dropAt s.reds i
        let others := rest.filter (sameRed r)
        match (if s.choice = 0 then none else others[s.choice - 1]?) with
        | none => performRed { s.choose with reds := rest } r
        | some q =>
          let both := { q with crews := q.crews ++ r.crews, operand := atomApply r.op r.wide q.operand r.operand }
          { s.choose with reds := (rest.erase q) ++ [both] })

/-! ### Evictions -/

/-- CLUSTER_UNIT_EVICTION (R124): a word that the unit authors goes to device reach. -/
def execClusterUnitEviction (cluster : Nat) (word : Loc) (s : State) : Out :=
  .next (s.sendUnit cluster ⟨0, 0⟩ 0 (fun b => b.loc.down 4 == word.down 4))

/-- A line of an envelope leaves the cache (R185), unless a waiter has still to replay on it (R198), or it must be kept and finds no free
entry (R203). -/
def evictEnv (s : State) (ctx n : Nat) : State :=
  match s.envLine? ctx n with
  | none => s
  | some l => if l.held || s.pinned ctx l.name || s.noEntry l then s else s.evictLine l

/-- LINE_EVICTION: from the last-level cache (R185, R203, R277), an L1 (R108), a layout-record cache (R100) or an instruction
cache (R102). -/
def execLineEviction (target : EvictTarget) (s : State) : Out :=
  .next (match target with
    | .llc (.env ctx n) => evictEnv s ctx n
    | .llc (.pa a) => if isLocal a then s.wakeMonitors (fun l => l.line == Loc.line (.pa a)) else s
    | .l1 core line => { s with l1 := s.l1.filter (fun x => !(x.core == core && x.loc.line == line.line)) }
    | .lrec cluster ctx h =>
      { s with layouts := s.layouts.filter (fun l => !(l.cluster == cluster && l.ctx == ctx && l.handle == h)) }
    | .icache core grid line =>
      { s with icache := s.icache.filter (fun w => !(w.core == core && w.grid == grid && w.va / 128 == line / 128)) })

/-! ### ENVELOPE_MISS -/

/-- ENVELOPE_MISS (R187): a miss reaches its home slice, or waits for a way in the cache. -/
def execEnvelopeMiss (i : Nat) (s : State) : Out :=
  .next (match s.misses[i]? with
    | none => s
    | some m => (s.missWaits m).getD (State.missAt { s with misses := dropAt s.misses i } m))

end Sys2Proof.Machine
end

