-- ==== Sys2Proof/Machine/Launch.lean ====
section
/-!
DEFINITION. Launch blocks (R46 to R48), the decision of a launch (R49 to R54, R66, R467), `LAUNCH` (R378), and the ends of fills by
`FILLDONE` and `FILLFAIL` (R195, R196, R356).
-/

namespace Sys2Proof.Machine

/-! ### Launch blocks -/

/-- A byte of a block. -/
def blockByte (ws : List Word) (off : Nat) : Nat := bits (ws.getD (off / 4) 0).toNat (8 * (off % 4) + 7) (8 * (off % 4))

/-- A launch block (R46, R47). -/
structure LaunchBlock where
  prio : Nat
  prop : Bool
  cgrp : Bool
  nrole : Nat
  elected : Bool
  gang : Bool
  upper : Nat
  group : Nat
  cbar : Nat
  gbar : Nat
  clmask : Nat
  coremask : Nat
  args : Nat
  done : Nat
  donev : Nat
  roles : List Role
deriving DecidableEq, Repr

/-- A role descriptor at a byte offset (R48). -/
def roleOf (ws : List Word) (o : Nat) : Role :=
  { entry := blockWord ws o, threads := blockHalf ws (o + 4), regs := blockByte ws (o + 6), nbar := blockByte ws (o + 7),
    ntx := blockHalf ws (o + 8), nty := blockHalf ws (o + 10), ntz := blockHalf ws (o + 12), spad := blockHalf ws (o + 14) }

/-- The fields of a block's 32 words. -/
def LaunchBlock.of (ws : List Word) : LaunchBlock :=
  let f := blockWord ws 0
  { prio := bits f 1 0, prop := bitAt f 2, cgrp := bitAt f 3, nrole := bits f 5 4, elected := bitAt f 6, gang := bitAt f 7,
    upper := bits f 31 8, group := blockHalf ws 4, cbar := blockByte ws 6, gbar := blockByte ws 7, clmask := blockDword ws 8,
    coremask := blockHalf ws 0x10, args := blockDword ws 0x18, done := blockDword ws 0x20, donev := blockDword ws 0x28,
    roles := (List.range 4).map (fun n => roleOf ws (0x40 + 16 * n)) }

/-- The checks of a role in use: field offsets and whether the limits hold (R48). -/
def Role.checks (r : Role) (o : Nat) : List (Nat × Bool) :=
  [(o, r.entry % 16 == 0), (o + 4, decide (1 ≤ r.threads) && decide (r.threads ≤ 1024)),
   (o + 6, decide (1 ≤ r.regs) && decide (r.regs ≤ 64)), (o + 7, decide (r.nbar ≤ 16)), (o + 8, r.ntx != 0),
   (o + 10, r.nty != 0), (o + 12, r.ntz != 0), (o + 14, decide (r.spad ≤ 1536))]

/-- The checks of a role that is not in use: every field zero (R46). -/
def Role.zeroChecks (r : Role) (o : Nat) : List (Nat × Bool) :=
  [(o, r.entry == 0), (o + 4, r.threads == 0), (o + 6, r.regs == 0), (o + 7, r.nbar == 0), (o + 8, r.ntx == 0),
   (o + 10, r.nty == 0), (o + 12, r.ntz == 0), (o + 14, r.spad == 0)]

/-- The byte offset of the first field that breaks R46 to R48. -/
def LaunchBlock.badField (b : LaunchBlock) (ws : List Word) : Option Nat :=
  let r0 := b.roles.headD ⟨0, 0, 0, 0, 0, 0, 0, 0⟩
  let checks : List (Nat × Bool) :=
    [(0x00, b.upper == 0 && !(b.cgrp && b.gang) && (b.gang || b.nrole == 0)),
     (0x04, if b.cgrp then decide (1 ≤ b.group) && decide (b.group ≤ 64) && r0.teams % b.group == 0 else b.group == 0),
     (0x06, decide (b.cbar ≤ 32) && (b.cgrp || b.gang || b.cbar == 0)), (0x07, decide (b.gbar ≤ 4)),
     (0x08, decide (b.clmask < 2 ^ 36) && b.clmask != 0), (0x10, b.coremask != 0),
     (0x12, blockHalf ws 0x12 == 0 && blockWord ws 0x14 == 0), (0x18, b.args % 64 == 0), (0x20, b.done % 8 == 0),
     (0x30, blockWord ws 0x30 == 0 && blockWord ws 0x34 == 0 && blockWord ws 0x38 == 0)]
    ++ b.roles.zipIdx.flatMap (fun r =>
      if r.2 ≤ b.nrole then r.1.checks (0x40 + 16 * r.2) else r.1.zeroChecks (0x40 + 16 * r.2))
  (checks.find? (fun c => !c.2)).map Prod.fst

/-! ### The decision (R49, R52) -/

namespace State

/-- The grid of a launch, before its admission (R39, R46, R54, R146). -/
def gridOfBlock (s : State) (b : LaunchBlock) (ctx depth : Nat) (parent : Option Nat) (args : List Word) : Grid :=
  let roles := b.roles.take (b.nrole + 1)
  let e := roles.foldl (fun n r => n + r.teams * members b.elected r.threads) 0
  let g : Grid :=
    { id := s.lastId + 1, ctx := ctx, prio := b.prio, prop := b.prop, cgrp := b.cgrp, group := b.group, cbar := b.cbar,
      elected := b.elected, gang := b.gang, clmask := b.clmask, coremask := b.coremask, roles := roles, done := b.done,
      donev := b.donev, args := args, depth := depth, fdepth := 0, parent := parent, node := none, records := [],
      bars := List.replicate b.gbar (.start e), nextUnit := 0, counts := [], pointer := 0, stopped := false, retired := false }
  g

/-- What a launch decides: the code of R49, and the state with the grid admitted and placed (R52, R63). -/
def decideLaunch (s : State) (b : LaunchBlock) (ctx depth : Nat) (parent : Option Nat) (args : List Word) : State × Nat :=
  let g := s.gridOfBlock b ctx depth parent args
  if !s.fitsEmpty g then (s, 2)
  else if s.noSwap g then (s, 3)
  else
    match State.placeNext { s.fresh with grids := s.grids ++ [g] } g.id with
    | none => (s, 1)
    | some t => (placeGrid g.id g.unitCount t, 0)

/-! ### LAUNCH (R378) -/

/-- Steps 7 and 8 of R378 once the argument image is known: the decision and STATUS; the crew continues. -/
def finishLaunch (s : State) (c : CrewId) (addr : Nat) (b : LaunchBlock) (args : List Word) : State :=
  let g := s.gridOf c.team
  let r := s.decideLaunch b (s.ctxId c.team) ((g.map Grid.depth).getD 0 + 1) (some c.team) args
  (r.1.spadWrite c.team (addr + 0x3C) (leBytes 4 r.2)).finishUniform c 4

/-- The steps of `LAUNCH` for a crew (R378). A launch with an argument image waits for ARGUMENT_IMAGE_READ. -/
def launchCrew (c : Crew) (addr : Nat) (s : State) : State :=
  let bad := fun (s : State) (n : Nat) => s.uniformTrap c.id .badLaunch (BitVec.ofNat 32 n) 0
  match s.team? c.id.team with
  | none => s
  | some tm =>
    if c.id.crew ≠ 0 then bad s 0
    else if ((s.gridOf tm.id).map Grid.depth).getD 0 ≥ 10 then s.uniformTrap c.id .nestLimit 0 0
    else if addr % 64 ≠ 0 then bad s 0
    else if addr + 128 > tm.spadSize then bad s 0
    else if s.images.any (fun m => m.crew == some c.id) then s.stallUniform c.id
    else match s.absentLine? tm.id addr 128 with
    | some l => s.waitLine c.id l
    | none => withReds s c.id (fun s =>
      let bytes := s.spadBytes tm.id addr 128
      let ws := wordsOf bytes 32
      let b := LaunchBlock.of ws
      match b.badField ws with
      | some off => bad s off
      | none =>
        if b.args = 0 then s.finishLaunch c.id addr b (List.replicate 16 0)
        else
          let m : ImageRead := { id := s.lastId + 1, ctx := tm.ctx, crew := some c.id, page := 0, reg := addr, block := bytes,
                                 wait := .none, bad := false, mute := false }
          (State.stallUniform { s.fresh with images := s.images ++ [m] } c.id).modCrew c.id (fun x => { x with hold := true }))

end State

/-- `LAUNCH` (R377, R378). -/
def execLaunch (o : OpKp) (s : State) : Out :=
  .next (uniformRun 4 o.g (fun s c => s.launchCrew c (c.reg o.kp.val).toNat) s)

/-! ### FILLDONE and FILLFAIL -/

/-- An entry of a fill block (R196). -/
structure FillEntry where
  pfid : Nat
  code : Nat
  rsvd : Nat
  soff : Nat
deriving DecidableEq, Repr

/-- The entries of a block (R196). -/
def fillEntries (ws : List Word) (n : Nat) : List FillEntry :=
  (List.range n).map (fun e =>
    ⟨blockHalf ws (8 * e), blockByte ws (8 * e + 2), blockByte ws (8 * e + 3), blockWord ws (8 * e + 4)⟩)

namespace State

/-- A live thread of the crew holds the record of a RUNNING fill (R196). -/
def holdsFill (s : State) (c : CrewId) (pfid : Nat) : Bool :=
  s.fills.any (fun f => f.pfid == pfid && f.state == .running) &&
    (s.liveOf c).any (fun t => t.record.bind Record.pfid == some pfid)

/-- Lines that a fill's data takes (R196). -/
def spanBytes (s : State) (pfid : Nat) : Nat := 128 * 2 ^ (((s.fill? pfid).map Fill.log2span).getD 0)

/-- The byte offset of the first bad field of a fill block (R196, R356). -/
def fillBad (s : State) (c : CrewId) (spad : Nat) (done : Bool) (es : List FillEntry) : Option Nat :=
  let checks := es.zipIdx.flatMap (fun x =>
    let e := x.1
    let o := 8 * x.2
    [(o, s.holdsFill c e.pfid && !(es.take x.2).any (fun y => y.pfid == e.pfid)),
     (o + 2, if done then e.code == 0 else decide (e.code ≤ 0xEF)), (o + 3, e.rsvd == 0),
     (o + 4, if done then e.soff % 128 == 0 && decide (e.soff + s.spanBytes e.pfid ≤ spad) else e.soff == 0)])
  (checks.find? (fun c => !c.2)).map Prod.fst

/-- Every fill of a block takes its data (R196). Where a line finds no way in the cache nothing is installed, and only the hosts that R203
names are told. -/
def installAll (s : State) (team : Nat) (es : List FillEntry) : State × Bool :=
  let r := es.foldl (fun (r : State × Bool) e =>
    match (if r.2 then r.1.fill? e.pfid else none) with
    | none => r
    | some f => r.1.installFill f team e.soff) (s, true)
  if r.2 then r else ({ s with ctxs := r.1.ctxs, irqs := r.1.irqs }, false)

/-- The steps of `FILLDONE` and `FILLFAIL` for a crew (R196, R356, R357). -/
def fillCrew (c : Crew) (addr n : Nat) (done : Bool) (s : State) : State :=
  match s.team? c.id.team with
  | none => s
  | some tm =>
    if addr % 64 ≠ 0 then s.uniformTrap c.id .misaligned (BitVec.ofNat 32 addr) 0
    else if addr + 64 > tm.spadSize then s.uniformTrap c.id .access (BitVec.ofNat 32 addr) 0
    else match s.absentLine? tm.id addr (8 * n) with
    | some l => s.waitLine c.id l
    | none => withReds s c.id (fun s =>
      let es := fillEntries (wordsOf (s.spadBytes tm.id addr 64) 16) n
      match s.fillBad c.id tm.spadSize done es with
      | some off => s.uniformTrap c.id .badHandle (BitVec.ofNat 32 off) 0
      | none =>
        if !done then (es.foldl (fun s e => s.failFill e.pfid e.code) s).finishUniform c.id 4
        else match es.findSome? (fun e => s.absentLine? tm.id e.soff (s.spanBytes e.pfid)) with
        | some l => s.waitLine c.id l
        | none =>
          let r := s.installAll tm.id es
          if r.2 then (es.foldl (fun s e => s.completeFill e.pfid) r.1).finishUniform c.id 4 else r.1.stallUniform c.id)

end State

/-- `FILLDONE` (R195, R196, R356). -/
def execFilldone (o : OpFill) (s : State) : Out :=
  .next (uniformRun 4 o.g (fun s c => s.fillCrew c (c.reg o.kp.val).toNat (o.n.val + 1) true) s)

/-- `FILLFAIL` (R195, R196, R356). -/
def execFillfail (o : OpFill) (s : State) : Out :=
  .next (uniformRun 4 o.g (fun s c => s.fillCrew c (c.reg o.kp.val).toNat (o.n.val + 1) false) s)

end Sys2Proof.Machine
end

