-- ==== Sys2Proof/Machine/Fetch.lean ====
section
/-!
DEFINITION. Fetch and decode (R72, R93, R102, R306 to R310), which registers a word names (R20), when a thread arrives at a rendezvous
(R24, R25), and the instruction that the focus of the state runs.
-/

namespace Sys2Proof

/-- The v register of a B source, as first register and count. -/
def Src.range : Src → List (Nat × Nat)
  | .v n => [(n.val, 1)]
  | .k _ => []

/-- The v pair of a 64-bit B source. -/
def Src.pairRange : Src → List (Nat × Nat)
  | .v n => [(n.val, 2)]
  | .k _ => []

/-- The v registers that a word names, as first registers and counts. For `SPAWN` the run is the longest record. -/
def Instr.vregs : Instr → List (Nat × Nat)
  | .iadd o => [(o.d.val, 1), (o.a.val, 1)] ++ o.b.range
  | .isub o => [(o.d.val, 1), (o.a.val, 1)] ++ o.b.range
  | .imul o => [(o.d.val, 1), (o.a.val, 1)] ++ o.b.range
  | .imulhS32 o => [(o.d.val, 1), (o.a.val, 1)] ++ o.b.range
  | .imulhN32 o => [(o.d.val, 1), (o.a.val, 1)] ++ o.b.range
  | .imad o => [(o.d.val, 1), (o.a.val, 1)] ++ o.b.range
  | .iminS o => [(o.d.val, 1), (o.a.val, 1)] ++ o.b.range
  | .imaxS o => [(o.d.val, 1), (o.a.val, 1)] ++ o.b.range
  | .iminN o => [(o.d.val, 1), (o.a.val, 1)] ++ o.b.range
  | .imaxN o => [(o.d.val, 1), (o.a.val, 1)] ++ o.b.range
  | .and o => [(o.d.val, 1), (o.a.val, 1)] ++ o.b.range
  | .or o => [(o.d.val, 1), (o.a.val, 1)] ++ o.b.range
  | .xor o => [(o.d.val, 1), (o.a.val, 1)] ++ o.b.range
  | .andn o => [(o.d.val, 1), (o.a.val, 1)] ++ o.b.range
  | .shl o => [(o.d.val, 1), (o.a.val, 1)] ++ o.b.range
  | .shr o => [(o.d.val, 1), (o.a.val, 1)] ++ o.b.range
  | .sra o => [(o.d.val, 1), (o.a.val, 1)] ++ o.b.range
  | .bfxN o => [(o.d.val, 1), (o.a.val, 1)] ++ o.b.range
  | .bfxS o => [(o.d.val, 1), (o.a.val, 1)] ++ o.b.range
  | .bfi o => [(o.d.val, 1), (o.a.val, 1)] ++ o.b.range
  | .sel o => [(o.d.val, 1), (o.a.val, 1)] ++ o.b.range
  | .faddF32 o => [(o.d.val, 1), (o.a.val, 1)] ++ o.b.range
  | .fsubF32 o => [(o.d.val, 1), (o.a.val, 1)] ++ o.b.range
  | .fmulF32 o => [(o.d.val, 1), (o.a.val, 1)] ++ o.b.range
  | .ffmaF32 o => [(o.d.val, 1), (o.a.val, 1)] ++ o.b.range
  | .faddF16x2 o => [(o.d.val, 1), (o.a.val, 1)] ++ o.b.range
  | .fsubF16x2 o => [(o.d.val, 1), (o.a.val, 1)] ++ o.b.range
  | .fmulF16x2 o => [(o.d.val, 1), (o.a.val, 1)] ++ o.b.range
  | .ffmaF16x2 o => [(o.d.val, 1), (o.a.val, 1)] ++ o.b.range
  | .faddBf16x2 o => [(o.d.val, 1), (o.a.val, 1)] ++ o.b.range
  | .fsubBf16x2 o => [(o.d.val, 1), (o.a.val, 1)] ++ o.b.range
  | .fmulBf16x2 o => [(o.d.val, 1), (o.a.val, 1)] ++ o.b.range
  | .ffmaBf16x2 o => [(o.d.val, 1), (o.a.val, 1)] ++ o.b.range
  | .fminF32 o => [(o.d.val, 1), (o.a.val, 1)] ++ o.b.range
  | .fmaxF32 o => [(o.d.val, 1), (o.a.val, 1)] ++ o.b.range
  | .fminF16x2 o => [(o.d.val, 1), (o.a.val, 1)] ++ o.b.range
  | .fmaxF16x2 o => [(o.d.val, 1), (o.a.val, 1)] ++ o.b.range
  | .fminBf16x2 o => [(o.d.val, 1), (o.a.val, 1)] ++ o.b.range
  | .fmaxBf16x2 o => [(o.d.val, 1), (o.a.val, 1)] ++ o.b.range
  | .shfl o => [(o.d.val, 1), (o.a.val, 1)] ++ o.b.range
  | .iaddw o => [(o.d.val, 2), (o.a.val, 2)] ++ o.b.range
  | .lea o => [(o.d.val, 2), (o.a.val, 2)] ++ o.b.range
  | .clz o => [(o.d.val, 1), (o.a.val, 1)]
  | .popc o => [(o.d.val, 1), (o.a.val, 1)]
  | .brev o => [(o.d.val, 1), (o.a.val, 1)]
  | .fsfn o => [(o.d.val, 1), (o.a.val, 1)]
  | .creduce o => [(o.d.val, 1), (o.a.val, 1)]
  | .callx o => [(o.d.val, 1), (o.a.val, 1)]
  | .iaddImm o => [(o.d.val, 1), (o.a.val, 1)]
  | .iaddImmExt o => [(o.d.val, 1), (o.a.val, 1)]
  | .imulImm o => [(o.d.val, 1), (o.a.val, 1)]
  | .imulImmExt o => [(o.d.val, 1), (o.a.val, 1)]
  | .andImm o => [(o.d.val, 1), (o.a.val, 1)]
  | .andImmExt o => [(o.d.val, 1), (o.a.val, 1)]
  | .orImm o => [(o.d.val, 1), (o.a.val, 1)]
  | .orImmExt o => [(o.d.val, 1), (o.a.val, 1)]
  | .xorImm o => [(o.d.val, 1), (o.a.val, 1)]
  | .xorImmExt o => [(o.d.val, 1), (o.a.val, 1)]
  | .shlImm o => [(o.d.val, 1), (o.a.val, 1)]
  | .shrImm o => [(o.d.val, 1), (o.a.val, 1)]
  | .sraImm o => [(o.d.val, 1), (o.a.val, 1)]
  | .icmp o => [(o.a.val, 1)] ++ o.b.range
  | .fcmp o => [(o.a.val, 1)] ++ o.b.range
  | .mov o => [(o.d.val, 1)] ++ o.b.range
  | .bara o => [(o.d.val, 1)] ++ o.b.range
  | .mov64 o => [(o.d.val, 2)] ++ o.b.pairRange
  | .cvt o => [(o.d.val, o.code.dstRegs), (o.a.val, o.code.srcRegs)]
  | .qscl o => [(o.d.val, 1), (o.a.val, 4)] ++ o.b.range
  | .voteBallot o => [(o.d.val, 1)]
  | .srd o => [(o.d.val, 1)]
  | .call o => [(o.d.val, 1)]
  | .movi o => [(o.d.val, 1)]
  | .moviExt o => [(o.d.val, 1)]
  | .ldt o => [(o.d.val, szRegs o.sz.val), (o.a.val, 1)]
  | .lds o => [(o.d.val, szRegs o.sz.val), (o.a.val, 1)]
  | .sts o => [(o.d.val, szRegs o.sz.val), (o.a.val, 1)]
  | .trav o => [(o.d.val, 4), (o.a.val, 8)]
  | .travCont o => [(o.d.val, 1), (o.a.val, 8)]
  | .spawn o => (o.a.val, 16) :: o.b.range
  | .spawnNb o => (o.a.val, 16) :: o.b.range
  | .recld o => [(o.d.val, o.n.val + 1)]
  | .ld o => [(o.d.val, szRegs o.sz.val), (o.a.val, 2)]
  | .st o => [(o.d.val, szRegs o.sz.val), (o.a.val, 2)]
  | .waitm o => [(o.d.val, szRegs o.sz.val), (o.a.val, 2)]
  | .pref o => [(o.a.val, 2)]
  | .atom o => [(o.d.val, if o.w then 2 else 1), (o.a.val, if o.sc == .team then 1 else 2)]
  | .red o => [(o.d.val, if o.w then 2 else 1), (o.a.val, if o.sc == .team then 1 else 2)]
  | .cas o => [(o.d.val, if o.w then 4 else 2), (o.a.val, if o.sc == .team then 1 else 2)]
  | .barw o => [(o.a.val, 1)]
  | .brx o => [(o.a.val, 1)]
  | .ret o => [(o.a.val, 1)]
  | .tretReg o => [(o.a.val, 1)]
  | .icmpImm o => [(o.a.val, 1)]
  | .icmpImmExt o => [(o.a.val, 1)]
  | .kmovV o => [(o.b.val, 1)]
  | .nop _ | .vote _ | .elect _ | .cmt _ | .abt _ | .acq _ | .bar _ | .bra _ | .tret _ | .tretNext _ | .exit _
  | .yield _ | .trap _ | .trapExt _ | .kadd _ | .ksub _ | .kmul _ | .kand _ | .kor _ | .kxor _ | .kshl _
  | .kshr _ | .kcmp _ | .ksel _ | .kmov _ | .ksrd _ | .kld _ | .kst _ | .kbra _ | .kaddImm _ | .kaddImmExt _
  | .kmovImm _ | .kmovImmExt _ | .kshlImm _ | .kshrImm _ | .bstat _ | .cpy _ | .cpyq _ | .cpyqW _ | .mma _
  | .mmast _ | .mmaz _ | .mmazRel _ | .pairs _ | .launch _ | .filldone _ | .fillfail _ | .gset _ | .gsetNot _
  | .gsetClr _ | .phase _ | .phaseOff _ | .satarm _ | .fenceLr _ | .fenceEng _ | .flightIssue _
  | .rendezvousCompletion _ | .threadAgeing _ | .demotionExpiry _ | .phaseOverrun _ | .waitmTimeout _
  | .spuriousWake _ | .loadReturn _ _ | .pageWalk _ | .faultReply _ _ | .sectorLanding _ | .acknowledgement _
  | .redPerform _ | .clusterUnitEviction _ _ | .lineEviction _ | .envelopeMiss _ | .binTimer _ _ _
  | .batchLaunch _ _ | .notifyProdWrite _ _ _ | .nstatRead _ _ | .launchRingEntry _ _ | .recordRingEntry _ _
  | .argumentImageRead _ | .parkTimeout _ | .swapOut _ | .swapIn _ | .teamRetire _ | .barrierCompletion _
  | .engineDispatch _ _ | .discarded _ _ | .copyLineLanding _ _ _ | .copyCompletion _ | .mmaCompletion _
  | .mmastCompletion _ | .mmazCompletion _ | .traversalResult _ | .pairsEmission _ | .pairsCompletion _
  | .softError _ | .loadNodeTable _ | .loadGeneratorTable _ | .preEmpt _ | .restore _
  | .invalidateTranslations _ | .removeGrid _ | .commandCompletion _ | .cstatWrite _ _ | .frconsWrite _ _
  | .erconsWrite _ _ | .registerWrite _ _ | .tetherRequest _ _ | .linkOutOfService _ | .powerArbiterInterval
  | .clockFactorChange _ | .deepPowerOff | .wakeRequest | .reset _ | .identityReport _ | .fomorCoreAccess _ _ _
  | .linkDown _ | .correctedSoftError => []

namespace Machine

/-! ### Fetch -/

/-- The virtual address of a code-window offset (R72). -/
def codeVa (s : State) (team : Nat) (pc : Word) : Nat := ((s.ctxOf team).map (fun c => c.regs.codebase)).getD 0 + pc.toNat

/-- What a fetch finds (R93, R102). -/
inductive Fetched where
  | ok (w : Word)
  | walk
  | refused
deriving DecidableEq, Repr

/-- Fetches one word for a grid (R102): from the core's instruction cache, else at device reach through an entry with X = 1. -/
def fetchWord (s : State) (team grid : Nat) (pc : Word) : State × Fetched :=
  let va := codeVa s team pc
  let core := s.coreOf team
  match s.icache.find? (fun w => w.core == core && w.grid == grid && w.va == va) with
  | some w => (s, .ok w.word)
  | none =>
    match s.tlbFind core (s.ctxId team) va with
    | none => (s, .walk)
    | some tr =>
      if !tr.x then (s, .walk)
      else
        let loc := tr.loc (s.ctxId team) va
        if !s.reachable loc false then (s.logDenial loc .device false, .refused)
        else match s.devBytes? loc 4 with
          | none => (s, .refused)
          | some bs =>
            let w : Word := BitVec.ofNat 32 (leNat bs)
            ({ s with icache := s.icache ++ [⟨core, grid, va, w⟩] }, .ok w)

/-- The grid of a thread. -/
def gridId (s : State) (t : ThreadId) : Nat := ((s.team? t.team).map Team.grid).getD 0

/-- Of a flight's threads, one of the youngest grid: its fetch serves the flight, since an older grid may see either version of
a changed word (R102). -/
def leadOf (s : State) (ids : List ThreadId) : Option ThreadId :=
  ids.foldl (fun (b : Option ThreadId) t =>
    match b with
    | none => some t
    | some u => if gridId s u < gridId s t then some t else some u) none

/-- Threads wait for a page walk of a fetch (R92). -/
def fetchWalk (s : State) (ids : List ThreadId) (pc : Word) : State :=
  ids.foldl (fun s t =>
    (s.joinWalk (s.ctxId t.team) (s.coreOf t.team) (codeVa s t.team pc) .fetch false (.thread t)).modThread t
      (fun x => { x with stall := .walk })) s

/-- A fetch that is refused raises ACCESS in each thread that fetches (R93, R276). -/
def fetchRefused (s : State) (ids : List ThreadId) (pc : Word) : State :=
  ids.foldl (fun s t => match s.thread? t with
    | none => s
    | some x => s.addrTrap x .access (codeVa s t.team pc)) s

/-- The one or two words at a program counter, for some threads that stand there; none when they have to wait or have trapped. -/
def fetchPair (s : State) (ids : List ThreadId) (lead : ThreadId) (pc : Word) : State × Option (Word × Word) :=
  let grid := gridId s lead
  match fetchWord s lead.team grid pc with
  | (s, .walk) => (fetchWalk s ids pc, none)
  | (s, .refused) => (fetchRefused s ids pc, none)
  | (s, .ok w) =>
    if !needsExt w then (s, some (w, 0))
    else match fetchWord s lead.team grid (pc + 4) with
      | (s, .walk) => (fetchWalk s ids (pc + 4), none)
      | (s, .refused) => (fetchRefused s ids (pc + 4), none)
      | (s, .ok x) => (s, some (w, x))

/-! ### The instruction of the focus -/

/-- Registers of a thread's team. -/
def regsOf (s : State) (t : ThreadId) : Nat := ((s.team? t.team).map Team.regs).getD 0

/-- ILLEGAL_INSTR in threads that fetched a word illegal for them, whatever their guards (R275, R310). -/
def illegalEach (s : State) (ids : List ThreadId) (w : Word) : State :=
  ids.foldl (fun s t => match s.thread? t with
    | none => s
    | some x => s.threadTrap x .illegal w 0) s

/-- The threads that stand at a convergent word outside a rendezvous arrive there (R25). -/
def arriveAll (s : State) (ids : List ThreadId) (w : Word) : State :=
  { s with threads := updWhere (fun t => ids.contains t.id)
             (fun t => { t with arrived := some (s.cycleOf (s.coreOf t.id.team)), conv := some w }) s.threads }

/-- The word at which some threads have arrived is found to be no convergent word any more, since its code has changed (R102): they stand at no
rendezvous. -/
def disperse (s : State) (ids : List ThreadId) : State :=
  { s with threads := updWhere (fun t => ids.contains t.id) (fun t => { t with arrived := none }) s.threads,
           crews := updWhere (fun c => ids.any (fun t => t.crewId == c.id)) Crew.released s.crews }

/-- The focus is done without an instruction. -/
def unfocus (s : State) : State := { s with cur := .idle }

/-- A flight's instruction: decoded once, and legal or illegal for each thread on its own (R21, R310); at a uniform word, legal or not, its threads
arrive (R25). -/
def prepareFlight (s : State) (core : Nat) (ids : List ThreadId) (rdv : Bool) (pc : Word) (lead : ThreadId) :
    State × Option Instr :=
  match fetchPair s ids lead pc with
  | (s, none) => (unfocus s, none)
  | (s, some (w, x)) =>
    if 0x80000000 ≤ w.toNat then (unfocus (arriveAll s ids w), none)
    else match decode w x with
    | .error _ => (unfocus (illegalEach s ids w), none)
    | .ok i =>
      let bad := ids.filter (fun t => !i.legalFor (regsOf s t))
      let good := ids.filter (fun t => i.legalFor (regsOf s t))
      let s := illegalEach s bad w
      if good.isEmpty then (unfocus s, none)
      else if i.isConvergent && !rdv then (unfocus (arriveAll s good w), none)
      else if rdv && !i.isConvergent then ({ disperse s ids with cur := .flight core good false }, some i)
      else ({ s with cur := .flight core good rdv }, some i)

/-- A crew's uniform instruction; an illegal word reaches the whole crew (R266, R310). -/
def prepareUniform (s : State) (c : CrewId) (ids : List ThreadId) (pc : Word) (lead : ThreadId) : State × Option Instr :=
  match fetchPair s ids lead pc with
  | (s, none) => (unfocus s, none)
  | (s, some (w, x)) =>
    match decode w x with
    | .error _ => (unfocus (s.uniformTrap c .illegal w 0), none)
    | .ok i =>
      if !i.legalFor (regsOf s lead) then (unfocus (s.uniformTrap c .illegal w 0), none)
      else if !i.isUniform then (unfocus (disperse s ids), none)
      else (s, some i)

/-- What the focus runs next: the state after the fetch, and the instruction if there is one; none for a focus on threads or
crews that do not exist. -/
def prepare (s : State) : Option (State × Option Instr) :=
  match s.cur with
  | .idle => some (s, none)
  | .flight core ids rdv =>
    match leadOf s ids with
    | none => none
    | some lead => (s.thread? lead).map (fun t => prepareFlight s core ids rdv t.pc lead)
  | .uniform c =>
    match (s.liveOf c).head? with
    | none => none
    | some t => some (prepareUniform s c ((s.liveOf c).map Thread.id) t.pc t.id)

/-- Threads that have run have performed their replays, but for those that still wait for a translation, a fill or a unit: the lines that stayed for
the others may leave (R198). -/
def performedPins (s : State) (ids : List ThreadId) : State :=
  let done := fun (p : Pin) =>
    match p.who with
    | .thread t => ids.contains t && ((s.thread? t).map (fun x =>
        !(x.stall == .walk || x.stall == .busy || x.park == .fill || x.park == .fault))).getD true
    | _ => false
  { s with pins := s.pins.filter (fun p => !done p) }

/-! ### Looking ahead (R20, R25) -/

/-- The word at an offset as far as a fetch could read it without waiting. -/
def peekWord? (s : State) (t : ThreadId) (pc : Word) : Option Word :=
  match (fetchWord s t.team (gridId s t) pc).2 with
  | .ok w => some w
  | _ => none

/-- The instruction at a thread's program counter, as far as a fetch could read it without waiting. -/
def peek? (s : State) (t : Thread) : Option Instr :=
  match peekWord? s t.id t.pc with
  | none => none
  | some w =>
    let x := if needsExt w then (peekWord? s t.id (t.pc + 4)).getD 0 else 0
    match decode w x with
    | .ok i => some i
    | .error _ => none

/-- The thread stands at a crew-convergent word (R24): a uniform word, or a legal crew collective. -/
def atConvergent (s : State) (t : Thread) : Bool :=
  match peekWord? s t.id t.pc with
  | none => false
  | some w =>
    decide (0x80000000 ≤ w.toNat) ||
      (match peek? s t with
       | some i => i.isCollective && i.legalFor (regsOf s t.id)
       | none => false)

/-- A thread whose next word has no translation waits for the walk, and takes no place in a flight (R20, R92). -/
def fetchAhead (s : State) (t : Thread) : State :=
  match (fetchWord s t.id.team (gridId s t.id) t.pc).2 with
  | .walk => fetchWalk s [t.id] t.pc
  | .ok w =>
    if needsExt w && (fetchWord s t.id.team (gridId s t.id) (t.pc + 4)).2 == .walk then fetchWalk s [t.id] (t.pc + 4) else s
  | .refused => s

/-- The operands that the thread's next instruction reads or writes do not wait for loads (R20, R380); an `ACQ` waits for all loads of the thread
(R122, R327), while the `.ACQ` of a barrier waits once its barrier lets the thread go (R151). -/
def operandsReady (s : State) (t : Thread) : Bool :=
  t.loads.isEmpty ||
    (match peek? s t with
     | none => true
     | some (.acq _) => false
     | some i => free t i.vregs)
where
  /-- No outstanding load of the thread names one of the registers. -/
  free (t : Thread) (rs : List (Nat × Nat)) : Bool :=
    t.loads.all (fun l => rs.all (fun r => decide (r.1 + r.2 ≤ l.dst) || decide (l.dst + l.regs ≤ r.1)))

end Machine
end Sys2Proof
end

