-- ==== Sys2Proof/Machine/Sched.lean ====
section
/-!
DEFINITION. The events of the scheduler: FLIGHT_ISSUE (R19 to R23, R33), RENDEZVOUS_COMPLETION (R26, R33), THREAD_AGEING (R34),
DEMOTION_EXPIRY (R35), PHASE_OVERRUN (R278), WAITM_TIMEOUT and SPURIOUS_WAKE (R277), LOAD_RETURN (R380), BARRIER_COMPLETION (R148)
and SOFT_ERROR (R274). An event that cannot happen in a state leaves the state as it is.
-/

namespace Sys2Proof.Machine

namespace State

/-! ### One cycle of a core -/

/-- The core's next cycle (R9, R60, R300): one cycle at entry · F / 64 · G / 64 MHz, in femtoseconds; device time follows. -/
def tick (s : State) (core : Nat) : State :=
  match s.cores[core]? with
  | none => s
  | some c =>
    let den := s.speedOf core * c.f * s.gate
    let num := 10 ^ 9 * 4096 + c.rem
    let c' := { c with cycle := c.cycle + 1, time := c.time + num / den, rem := num % den }
    { s with cores := setAt s.cores core c', time := max s.time c'.time }

/-- The threads of a core that may issue at all: live, of a resident team that waits for no reply, in a scheduled context (R279, R289) that is not
about to be saved, and a grid that is not stopped; an instruction that a crew executes completes all the same (R280, log entry 119). -/
def runnable (s : State) (core : Nat) (t : Thread) : Bool :=
  t.live &&
    (match s.team? t.id.team with
     | none => false
     | some tm => tm.core? == some core && tm.blocked == 0 && s.scheduled tm.ctx &&
         ((!s.held tm && (match s.grid? tm.grid with | none => false | some g => !g.stopped))
           || ((s.crew? t.id.crewId).map s.executing).getD false))

/-- The crew goes on waiting: for a reply, or for a scratchpad line that is still absent. -/
def waitsOn (s : State) (c : Crew) : Bool :=
  c.hold || (match c.absent, s.team? c.id.team with
    | some l, some t => t.absent.contains l
    | _, _ => false)

/-- What a new cycle of the core brings to its crews, threads and teams: those that found no room try again (R111, R227), armed
phase timers count (R278), and it is noted since when all threads of a team are parked (R67). -/
def newCycle (s : State) (core : Nat) : State :=
  let on := fun (team : Nat) => s.residentOn team core
  { s with
    threads := updWhere (fun t => on t.id.team && t.stall == .busy) (fun t => { t with stall := .none }) s.threads
    crews := updWhere (fun c => on c.id.team) (fun c =>
      { c with stalled := c.stalled && s.waitsOn c, absent := if s.waitsOn c then c.absent else none,
               phCount := if c.phArm && !c.retired then min (c.phCount + 1) (2 ^ 32 - 1) else c.phCount }) s.crews
    teams := updWhere (fun t => on t.id) (fun t =>
      if s.allParked t.id then { t with parkedSince := some (t.parkedSince.getD s.time) }
      else { t with parkedSince := none, parkExpired := false }) s.teams }

/-- The key of a thread in the PC tables (R19): its core, its context and its program counter. -/
def pcKey (s : State) (t : Thread) : Option (Nat × Nat × Word) :=
  if t.live then (s.team? t.id.team).bind (fun tm => tm.core?.map (fun c => (c, tm.ctx, t.pc))) else none

/-- The key of an entry. -/
def entryKey (e : PcEntry) : Nat × Nat × Word := (e.core, e.ctx, e.pc)

/-- The PC tables as the threads stand (R19): entries without threads go, and a key without an entry gets one whose age is the cycle of its
core. An entry that is emptied and entered again within one event of the model keeps its age. -/
def sweepTable (s : State) : State :=
  let keys := (s.threads.filterMap s.pcKey).eraseDups
  { s with pcTable := s.pcTable.filter (fun e => keys.contains (entryKey e))
      ++ (keys.filter (fun k => !s.pcTable.any (fun e => entryKey e == k))).map (fun k => ⟨k.1, k.2.1, k.2.2, s.cycleOf k.1⟩) }

/-- Threads of the core that may issue and whose next word is not known to be convergent. -/
def arriving (s : State) (core : Nat) (t : Thread) : Bool :=
  s.runnable core t && t.park == .none && t.stall == .none && (t.arrived.isNone || t.conv.isNone)

/-- A thread as its next word makes it: at a convergent one it arrives, or has arrived where an image said so; at another it is at no rendezvous
(R25). Without a translation nothing is known of the word. -/
def arrivalOf (s : State) (core : Nat) (t : Thread) : Thread :=
  match (fetchWord s t.id.team (gridId s t.id) t.pc).2 with
  | .walk => t
  | .refused => { t with arrived := none }
  | .ok w =>
    if atConvergent s t then { t with arrived := some (t.arrived.getD (s.cycleOf core)), conv := some w, wait := 0 }
    else { t with arrived := none }

/-- Threads of the core whose program counter has reached a crew-convergent instruction arrive there, in the cycle that runs (R25); those whose
next word has no translation wait for a walk (R92). -/
def markArrivals (s : State) (core : Nat) : State :=
  let s := (s.threads.filter (s.arriving core)).foldl fetchAhead s
  { s with threads := updWhere (s.arriving core) (s.arrivalOf core) s.threads }

/-- Threads whose continuation was granted while their team was out end, once it is back and waits for no reply (R68, R175). -/
def endGranted (s : State) (core : Nat) : State :=
  (s.threads.filter (fun t => t.live && t.park == .ending &&
    ((s.team? t.id.team).map (fun tm => tm.core? == some core && tm.blocked == 0)).getD false)).foldl (fun s t => s.exitThread t.id) s

/-- The thread is ready (R20). -/
def ready (s : State) (core : Nat) (t : Thread) : Bool :=
  s.runnable core t && t.park == .none && t.stall == .none && t.arrived.isNone && operandsReady s t

/-- The waits of a cycle (R20): a ready thread's grows, another thread's starts again when it becomes ready. -/
def countWaits (s : State) (core : Nat) : State :=
  { s with threads := updWhere (fun t => s.residentOn t.id.team core)
             (fun t => { t with wait := if s.ready core t then t.wait + 1 else 0 }) s.threads }

/-! ### Ranks (R33) -/

/-- The thread is aged (R34). -/
def isAged (t : Thread) : Bool := t.aged || decide (Config.ageCycles ≤ t.wait)

/-- The thread is demoted in a cycle (R35). -/
def isDemoted (t : Thread) (cycle : Nat) : Bool :=
  match t.demoted with
  | none => false
  | some n => decide (cycle < n)

end State

/-- What ranks: the keys of R33, and the threads that would issue. `slot` orders crews that are equal otherwise. -/
structure Cand where
  aged : Bool
  wait : Nat
  /-- One more than the highest class among threads that are not demoted; 0 when all are demoted. -/
  cls : Nat
  created : Nat
  pc : Nat
  ctx : Nat
  slot : Nat
  threads : List ThreadId
  rdv : Bool
deriving DecidableEq, Repr

/-- `a` ranks before `b` (R33). DESIGN CHOICE: of two crews' completed collectives that are equal in every key of R33, the crew in the lower slot goes
first, as in the uniform pipe (log entry 127). -/
def Cand.before (a b : Cand) : Bool :=
  if a.aged != b.aged then a.aged
  else if a.aged && a.wait != b.wait then decide (b.wait < a.wait)
  else if a.cls != b.cls then decide (b.cls < a.cls)
  else if a.created != b.created then decide (a.created < b.created)
  else if a.pc != b.pc then decide (a.pc < b.pc)
  else if a.ctx != b.ctx then decide (a.ctx < b.ctx)
  else decide (a.slot < b.slot)

/-- The candidate that ranks first. -/
def firstCand : List Cand → Option Cand
  | [] => none
  | c :: cs => some (cs.foldl (fun a b => if b.before a then b else a) c)

namespace State

/-- The rank of some threads that stand at one program counter, with waits as given: the longest of all of them counts, aged or not (R33). -/
def candOf (s : State) (core ctx : Nat) (pc : Word) (ts : List Thread) (wait : Thread → Nat) (slot : Nat) (rdv : Bool)
    (flight : List ThreadId) : Cand :=
  let cyc := s.cycleOf core
  { aged := ts.any (fun t => t.aged || decide (Config.ageCycles ≤ wait t)), wait := (ts.map wait).foldl max 0,
    cls := ((ts.filter (fun t => !isDemoted t cyc)).map (fun t => s.effClass t.id.team + 1)).foldl max 0,
    created := ((s.pcTable.find? (fun e => e.core == core && e.ctx == ctx && e.pc == pc)).map PcEntry.created).getD cyc,
    pc := pc.toNat, ctx := ctx, slot := slot, threads := flight, rdv := rdv }

/-- Crew slot of a thread. -/
def slotOf (s : State) (t : ThreadId) : Nat := ((s.crew? t.crewId).map Crew.slot).getD 0

/-- The flight of an entry: on each lane the ready thread with the longest wait, ties by lower crew slot (R21). -/
def flightOf (s : State) (ts : List Thread) : List ThreadId :=
  (List.range 32).filterMap (fun l =>
    (ts.filter (fun t => t.id.lane == l)).foldl (fun (b : Option Thread) t =>
      match b with
      | none => some t
      | some u =>
        if u.wait < t.wait || (u.wait == t.wait && decide (s.slotOf t.id < s.slotOf u.id)) then some t else some u) none
      |>.map Thread.id)

/-- A crew stands complete at a rendezvous (R26): every live thread waits at the same address for a known word, none parked or stalled. -/
def rendezvousAt (s : State) (c : CrewId) : Option (Nat × Word) :=
  let ts := s.liveOf c
  match ts with
  | [] => none
  | t :: _ =>
    match (s.team? c.team).bind Team.core? with
    | none => none
    | some core =>
      if ts.all (fun x => x.pc == t.pc && x.arrived.isSome && x.conv.isSome && x.park == .none && x.stall == .none && s.runnable core x) then
        some (core, t.pc)
      else none

/-- The crew's phase timer has passed its limit, and PHASE_OVERRUN is due (R278). -/
def overrun (c : Crew) : Bool := c.phArm && decide (c.phLimit < c.phCount)

/-- A crew that stands complete at a rendezvous notes its completion in the cycle that runs (R26, R28): its members' waits start from 0, a
`FENCE.ENG` waits for the commands issued so far (R355), and `BAR.CREW` completes its phase (R150). PHASE_OVERRUN that is due comes first (R395).
One whose begun instruction is due again waits from now. A crew that a trap has taken from its rendezvous forgets it. DESIGN CHOICE: where the trap comes
after the completion of `BAR.CREW` and before its flight, the crew arrives again after `TRET`, and a second report follows (log entry 133). -/
def noteCrew (s : State) (core : Nat) (c : Crew) : State :=
  if c.complete then
    if !(s.liveOf c.id).all (fun t => t.arrived.isSome) then s.modCrew c.id Crew.released
    else if c.stalled || c.rdvFrom.isSome then s
    else s.modCrew c.id (fun x => { x with rdvFrom := some (s.cycleOf core) })
  else if overrun c || (s.rendezvousAt c.id).isNone then s
  else
    let s := s.modCrew c.id (fun x =>
      { x with complete := true, rdvFrom := some (s.cycleOf core), fence := some (x.fence.getD s.lastId) })
    if s.atCrewBar c.id then s.completeCrewBar c (s.liveOf c.id) else s

/-- Every crew of the core whose rendezvous is complete notes it. -/
def noteRendezvous (s : State) (core : Nat) : State :=
  (s.crews.filter (fun c => s.residentOn c.id.team core && !c.retired)).foldl (fun s c => s.noteCrew core c) s

/-- Arrivals and completed rendezvous of a core, in the cycle that runs (R25, R26). -/
def settleCore (s : State) (core : Nat) : State := ((s.endGranted core).markArrivals core).noteRendezvous core

/-- The wait of a crew whose rendezvous has completed, counted from then (R26). -/
def rdvWait (s : State) (core : Nat) (c : Crew) : Nat := s.cycleOf core - c.rdvFrom.getD (s.cycleOf core)

/-- The candidate of a crew whose rendezvous has completed. -/
def crewCand (s : State) (core : Nat) (pc : Word) (c : Crew) : Cand :=
  let ts := s.liveOf c.id
  s.candOf core (s.ctxId c.id.team) pc ts (fun _ => s.rdvWait core c) c.slot true (ts.map Thread.id)

/-- Crews of a core whose rendezvous has completed and has been noted, and whose threads have their operands (R20), with the address;
uniform ones or collectives. -/
def completed (s : State) (core : Nat) (uniform : Bool) : List (Crew × Word) :=
  s.crews.filterMap (fun c =>
    if c.rdvFrom.isSome && !c.stalled && s.atUniform c.id == uniform && (s.liveOf c.id).all (operandsReady s) then
      match s.rendezvousAt c.id with
      | some (n, pc) => if n == core then some (c, pc) else none
      | none => none
    else none)

/-- The candidates of the vector pipe: the entries with ready threads, and completed collectives (R21, R26). -/
def candidates (s : State) (core : Nat) : List Cand :=
  let rs := s.threads.filter (s.ready core)
  let keys := (rs.map (fun t => (s.ctxId t.id.team, t.pc))).eraseDups
  keys.map (fun k =>
    let ts := rs.filter (fun t => s.ctxId t.id.team == k.1 && t.pc == k.2)
    s.candOf core k.1 k.2 ts Thread.wait 0 false (s.flightOf ts))
  ++ (s.completed core false).map (fun x => s.crewCand core x.2 x.1)

/-- Threads that a team barrier released in an earlier cycle than the one that runs are ready from the next one on (R157). -/
def freeReleased (s : State) (core : Nat) : State :=
  { s with threads := updWhere (fun t => s.residentOn t.id.team core && t.stall == .released) (fun t => { t with stall := .none }) s.threads }

/-- What issuing does to the waits of the threads that issue (R20, R34). -/
def issued (s : State) (ids : List ThreadId) : State :=
  { s with threads := updWhere (fun t => ids.contains t.id) (fun t => { t with wait := 0, aged := false }) s.threads }

end State

/-! ### The events -/

/-- The scheduler's work in one cycle of a core (R19 to R23, R33): what the last cycle brought is settled, the cycle passes, and the flight that
ranks first, if any, is the next to run. -/
def issueCycle (s : State) (core : Nat) : State :=
  let s := (((s.settleCore core).tick core).newCycle core).countWaits core
  match firstCand (s.candidates core) with
  | none => s.freeReleased core
  | some c => { (s.freeReleased core).issued c.threads with cur := .flight core c.threads c.rdv, flightNo := s.flightNo + 1 }

/-- FLIGHT_ISSUE (R21). No instruction issues in DEEP_OFF (R301), or in recovery, where no core starts (R298). The offers of a cycle are made
before the next one (R65). -/
def execFlightIssue (core : Nat) (s : State) : Out :=
  .next (if s.power = .active ∧ s.recovery = false ∧ s.cur = .idle ∧ core < s.cores.length then
      s.afterOffers (fun s => issueCycle s core)
    else s)

/-- The crew's uniform instruction runs, when the uniform pipe is free in this cycle and the crew ranks first among those whose rendezvous is
complete (R22, R33). Launches are decided after the offers of the cycle (R65). -/
def runUniform (s : State) (c : CrewId) (core : Nat) : State :=
  let cyc := s.cycleOf core
  let free := ((s.cores[core]?).map (fun k => k.pipe != some cyc)).getD false
  match firstCand ((s.completed core true).map (fun x => s.crewCand core x.2 x.1)) with
  | none => s
  | some k =>
    if free && (k.threads.head?.map ThreadId.crewId) == some c then
      s.afterOffers (fun s =>
        { (s.issued k.threads).modCore core (fun k => { k with pipe := some cyc }) with cur := .uniform c })
    else s

/-- RENDEZVOUS_COMPLETION (R26): the core's arrivals and completed rendezvous are noted, and the crew's uniform instruction runs if it is its
turn; a collective's flight competes in FLIGHT_ISSUE. -/
def execRendezvousCompletion (c : CrewId) (s : State) : Out :=
  .next (match (s.team? c.team).bind Team.core? with
    | none => s
    | some core => if s.cur = .idle ∧ s.recovery = false ∧ s.power = .active then runUniform (s.settleCore core) c core else s)

/-- THREAD_AGEING (R34). -/
def execThreadAgeing (t : ThreadId) (s : State) : Out :=
  .next (s.modThread t (fun x => if Config.ageCycles ≤ x.wait then { x with aged := true } else x))

/-- DEMOTION_EXPIRY (R35): 64 cycles of the core after the `YIELD`. -/
def execDemotionExpiry (t : ThreadId) (s : State) : Out :=
  let cyc := s.cycleOf (s.coreOf t.team)
  .next (s.modThread t (fun x => if State.isDemoted x cyc then x else { x with demoted := none }))

/-- PHASE_OVERRUN (R278): the timer of a crew on a core is disarmed and the crew takes the trap, OWN in no thread (R475). -/
def execPhaseOverrun (c : CrewId) (s : State) : Out :=
  .next (match s.crew? c with
    | none => s
    | some x =>
      if State.overrun x && ((s.team? c.team).bind Team.core?).isSome then
        (s.modCrew c (fun x => { x with phArm := false })).crewTrap c .phaseOverrun (fun _ => false)
          (fun _ => BitVec.ofNat 32 x.phCount) 0
      else s)

/-- A thread parked in `WAITM` continues at the next instruction (R277). -/
def endMonitor (s : State) (t : ThreadId) : State :=
  State.modThread { s with monitors := s.monitors.filter (fun m => m.thread != t) } t
    (fun x => { x with park := .none, pc := x.pc + 4 })

/-- The thread is parked in `WAITM` on a core. -/
def monitorOf (s : State) (t : ThreadId) : Option Monitor :=
  match s.thread? t with
  | none => none
  | some x => if x.park = .monitor then s.monitors.find? (fun m => m.thread == t) else none

/-- WAITM_TIMEOUT (R277): 65,536 cycles of the core after arming. -/
def execWaitmTimeout (t : ThreadId) (s : State) : Out :=
  .next (match monitorOf s t with
    | none => s
    | some m =>
      if !s.outside t.team && decide (m.since + Config.waitmCycles ≤ s.cycleOf (s.coreOf t.team)) then endMonitor s t else s)

/-- SPURIOUS_WAKE (R277). -/
def execSpuriousWake (t : ThreadId) (s : State) : Out :=
  .next (match monitorOf s t with
    | none => s
    | some _ => if s.outside t.team then s else endMonitor s t)

/-- The load of a thread by its number. -/
def State.load? (s : State) (t : ThreadId) (slot : Nat) : Option Load := (s.thread? t).bind (fun x => x.loads.find? (fun l => l.slot == slot))

/-- An `.ACQ` that waits for its thread's loads acts once the last one has returned, and the thread continues (R122, R151). -/
def State.endAcquire (s : State) (t : ThreadId) : State :=
  match s.thread? t with
  | none => s
  | some x =>
    match x.stall with
    | .acq lvl =>
      if x.loads.isEmpty then
        (acquire s t.team lvl).modThread t (fun x => { x with stall := if lvl = BarLevel.team.commitLevel then .released else .none })
      else s
    | _ => s

/-- A load of a thread returns (R20, R80, R380): it performs now if it has not, with the loads of its flight from the sector (R23); its sector may be
installed in L1, and its registers are ready. -/
def State.endLoad (s : State) (t : ThreadId) (slot : Nat) : State :=
  match s.load? t slot with
  | none => s
  | some l =>
    let core := s.coreOf t.team
    let s := if l.done then s else s.settleFlight core l.at_ l.loc.sector
    if l.remote then s
    else
      let s := (s.settleLandings core t.crewId l.loc.sector).installLoad core l
      (s.modThread t (fun x => { x with loads := x.loads.filter (fun y => y.slot != slot) })).endAcquire t

/-- LOAD_RETURN (R20, R80, R380). A load behind a link that is down does not return (R295). -/
def execLoadReturn (t : ThreadId) (slot : Nat) (s : State) : Out :=
  .next (match s.load? t slot with
    | none => s
    | some l => if s.needsFar t.crewId (s.coreOf t.team) l.loc l.size && s.delayed l.loc then s else s.endLoad t slot)

/-- The teams that belong to a barrier, and one of them with its reference (R145). DESIGN CHOICE: teams that are not placed yet are none of them, so
that a phase of a grid barrier which completes before leaves no report in their crews (log entry 103). -/
def barMembers (s : State) (b : BarUnit) : List Nat × Option (Nat × BarRef) :=
  match b with
  | .team t id => ([t], some (t, ⟨.team, id⟩))
  | .cluster g u id =>
    let ts := (s.teams.filter (fun t => t.grid == g && t.unit == u)).map Team.id
    (ts, ts.head?.map (fun t => (t, ⟨.cluster, id⟩)))
  | .grid g id =>
    let ts := (s.teams.filter (fun t => t.grid == g)).map Team.id
    (ts, ts.head?.map (fun t => (t, ⟨.grid, id⟩)))

/-- A phase of a grid barrier completes while no team of the grid is on the device or out (R148): nobody waits, and nobody takes a report. -/
def completeAlone (s : State) (b : BarUnit) : State :=
  match b with
  | .grid g id =>
    s.modGrid g (fun x => { x with bars := State.modBarAt x.bars id (fun y => if y.complete? then y.next s.time else y) })
  | _ => s

/-- BARRIER_COMPLETION (R148, R159): the phase completes, its waiters are released and a report is latched. -/
def execBarrierCompletion (b : BarUnit) (s : State) : Out :=
  .next (match barMembers s b with
    | (ts, some (team, ref)) => s.completePhase ts team ref
    | (_, none) => completeAlone s b)

/-- SOFT_ERROR (R274): an uncorrectable error in a team escalates as MACHINE, with REASON 3. The record's other trap words are
free values. -/
def execSoftError (team : Nat) (s : State) : Out :=
  .next (match s.team? team with
    | none => s
    | some tm =>
      match s.grid? tm.grid with
      | none => s
      | some g =>
        if g.stopped then s
        else
          let n := s.freeCtr
          let s := { s with freeCtr := n + 3 }
          (s.modGrid g.id (fun g => { g with stopped := true })).escRecord tm.ctx
            { cause := causeWord .machine false false 0, trapv := Config.freeWord n, trapc := Config.freeWord (n + 1),
              grid := g.id, core := tm.coreD, tid := (Config.freeWord (n + 2)).toNat % 1024, reason := 3, first := 0 })

end Sys2Proof.Machine
end

