-- ==== Sys2Proof/Machine/WorkEvents.lean ====
section
/-!
DEFINITION. The events of the record scheduler and of the work distributor: BIN_TIMER (R170), BATCH_LAUNCH (R171, R200), the notify
rings (R69 to R71): NOTIFY_PROD_WRITE, NSTAT_READ, LAUNCH_RING_ENTRY, RECORD_RING_ENTRY; ARGUMENT_IMAGE_READ (R467), PARK_TIMEOUT
(R67) and TEAM_RETIRE (R41). An event that cannot happen in a state leaves the state as it is.
-/

namespace Sys2Proof.Machine

/-! ### Bins and batches -/

/-- BIN_TIMER (R170): the oldest record of a bin part has waited 100·T ns of device time; with T = 0 a batch forms as soon as the entries of a
cycle are in the bin. -/
def execBinTimer (ctx node part : Nat) (s : State) : Out :=
  .next (match s.ctx? ctx, s.node? ctx node with
    | some c, some d =>
      (match (c.binPart node part).head? with
       | none => s
       | some e =>
         if s.power = .active ∧ d.t ≠ 0xFFFF ∧ e.entered + d.t * 100000000 ≤ s.time then s.formBatch ctx node part d.c else s)
    | _, _ => s)

/-- Adds one to a node's dispatch count of a core (R171). -/
def countBatch (node core : Nat) : List (Nat × Nat × Nat) → List (Nat × Nat × Nat)
  | [] => [(node, core, 1)]
  | (n, c, k) :: l => if n = node ∧ c = core then (n, c, k + 1) :: l else (n, c, k) :: countBatch node core l

/-- BATCH_LAUNCH (R65, R171, R200): when it is the batch's turn, the batch becomes a grid of one team, placed on a core, and its argument image
is read; a round of offers that stood before it goes on. -/
def execBatchLaunch (ctx i : Nat) (s : State) : Out :=
  let s := s.resumeOffers
  .next (match (s.ctx? ctx).bind (fun c => c.batches[i]?) with
    | none => s
    | some b =>
      match s.node? ctx b.node, batchPlace s ctx b with
      | some d, some (core, k) =>
        if !batchTurn s ctx i then s
        else
          let g := batchGrid (s.lastId + 1) ctx d b
          let s := s.fresh.modCtx ctx (fun c => { c with
            batches := c.batches.take i ++ c.batches.drop (i + 1), counts := countBatch b.node core c.counts })
          let s := State.createTeam { s with grids := s.grids ++ [g] } g 0 0 0 core k
          ((s.modGrid g.id (fun g => { g with records := [] })).readBatchArgs g d.args).resumeOffers
      | _, _ => s)

/-! ### Notify registers -/

/-- A notify register that nothing has configured (R69): BASE 0 disables its ring. -/
def NotifyReg.empty (page reg : Nat) : NotifyReg :=
  { page := page, reg := reg, base := 0, log2n := 0, record := false, node := 0, prod := 0, cons := 0, nstat := 0 }

namespace State

/-- A notify register (R69). -/
def notifyReg (s : State) (page reg : Nat) : NotifyReg :=
  (s.notify.find? (fun r => r.page == page && r.reg == reg)).getD (.empty page reg)

/-- Stores a notify register. -/
def setNotify (s : State) (r : NotifyReg) : State :=
  { s with notify := s.notify.filter (fun x => !(x.page == r.page && x.reg == r.reg)) ++ [r] }

/-- The context that a notify page is bound to (R69). -/
def pageContext (s : State) (page : Nat) : Nat := assocD s.pageCtx page 0

/-- A write to PROD (R70); a ring that it leaves without entries may let bins drain (R170). -/
def writeProd (s : State) (page reg : Nat) (value : Word) : State :=
  if page ≥ 4096 ∨ reg ≥ 64 then s
  else
    let r := s.notifyReg page reg
    if r.base = 0 then s.setNotify { r with nstat := 2 }
    else if (value.toNat + 2 ^ 32 - r.cons) % 2 ^ 32 ≤ 2 ^ r.log2n then
      (s.setNotify { r with prod := value.toNat }).drainBins (s.pageContext page)
    else s.setNotify { r with nstat := 1 }

/-- CONS passes an entry, and bins may drain (R70, R170). -/
def passEntry (s : State) (r : NotifyReg) (nstat : Nat) : State :=
  (s.setNotify { r with cons := (r.cons + 1) % 2 ^ 32, nstat := nstat }).drainBins (s.pageContext r.page)

/-- The image read that stands for a ring's head entry, if there is one. -/
def ringImage (s : State) (page reg : Nat) : Option ImageRead :=
  s.images.find? (fun m => m.crew.isNone && m.page == page && m.reg == reg)

/-- Changes an image read. -/
def modImage (s : State) (id : Nat) (f : ImageRead → ImageRead) : State :=
  { s with images := updWhere (fun m => m.id == id) f s.images }

/-- An image read is over. -/
def dropImage (s : State) (id : Nat) : State := { s with images := s.images.filter (fun m => m.id != id) }

/-- The image read of a ring's head entry, new or present. -/
def openImage (s : State) (page reg : Nat) : State × ImageRead :=
  match s.ringImage page reg with
  | some m => (s, m)
  | none =>
    let m : ImageRead := { id := s.lastId + 1, ctx := s.pageContext page, crew := none, page := page, reg := reg, block := [],
                           wait := .none, bad := false, mute := false }
    ({ s.fresh with images := s.images ++ [m] }, m)

end State

/-- The register offset of a notify register in the user view (R288). -/
def notifyOff (page reg : Nat) : Nat := 0x1000000 + 4096 * page + 64 * reg

/-- NOTIFY_PROD_WRITE (R70): a write from the host's side; a peer's comes by TETHER_REQUEST. -/
def execNotifyProdWrite (page reg : Nat) (value : Word) (s : State) : Out :=
  .next (s.hostWrite (notifyOff page reg + 0x10) (·.writeProd page reg value))

/-- NSTAT_READ (R69): the read answers the last error and clears it; a denied read answers zero and clears nothing (R297). -/
def execNstatRead (page reg : Nat) (s : State) : Out :=
  .next (if page < 4096 ∧ reg < 64 then
      s.hostAccess (notifyOff page reg + 0x18) false (fun s denied =>
        let r := s.notifyReg page reg
        let t := { s with replies := s.replies ++ [.nstat (if denied then 0 else r.nstat)] }
        if denied || r.nstat = 0 then t else t.setNotify { r with nstat := 0 })
    else s)

/-! ### Launch rings -/

/-- The virtual address of a ring's head entry (R70). -/
def NotifyReg.entryVa (r : NotifyReg) : Nat := r.base + (if r.record then 64 else 128) * (r.cons % 2 ^ r.log2n)

/-- Decides a ring entry and writes STATUS at system reach before CONS passes it (R71); an entry without room stays at the head with
nothing done. STATUS is translated first, so that a fault there leaves the entry undecided. DESIGN CHOICE: an entry whose STATUS word cannot be
written, by a fatal failure or by a denied fault, is decided and passed without it (log entry 93). -/
def decideEntry (s : State) (m : ImageRead) (r : NotifyReg) (f : State → State × Nat) : State :=
  let silent := fun (t : State) =>
    let q := f (t.dropImage m.id)
    if q.2 = 1 then s else q.1.passEntry r r.nstat
  if m.mute then silent s
  else match s.reach Config.noCore m.ctx (r.entryVa + 0x3C) true .devWrite (.image m.id) with
    | (t, .wait w) => t.modImage m.id (fun x => { x with wait := w })
    | (t, .ok tr loc) =>
      let q := f (t.dropImage m.id)
      if q.2 = 1 then s else (q.1.devWrite m.ctx (r.entryVa + 0x3C) tr loc (leBytes 4 q.2)).passEntry r r.nstat
    | (t, .refused) => silent t

/-- A ring entry that is malformed, or whose argument image cannot be read (R49, R467). -/
def entryMalformed (s : State) (m : ImageRead) (r : NotifyReg) : State := decideEntry s m r (fun s => (s, 0x80))

/-- The decision of a ring entry with its arguments known (R52, R71). -/
def entryLaunch (s : State) (m : ImageRead) (r : NotifyReg) (b : LaunchBlock) (args : List Word) : State :=
  decideEntry s m r (fun s => s.decideLaunch b m.ctx 0 none args)

/-- The head entry with its block read: checked, and decided unless it names an argument image (R71, R467). DESIGN CHOICE: an entry that stays at the
head is read anew at each try when its ARGS is 0, and keeps the block first read when it names an image (log entry 130). -/
def entryBlock (s : State) (m : ImageRead) (r : NotifyReg) (bytes : List Byte) : State :=
  let ws := State.wordsOf bytes 32
  let b := LaunchBlock.of ws
  if (b.badField ws).isSome then entryMalformed s m r
  else if b.args = 0 then entryLaunch s m r b (List.replicate 16 0)
  else if m.block.isEmpty then s.modImage m.id (fun x => { x with block := bytes })
  else s

/-- LAUNCH_RING_ENTRY (R71): the head entry of a launch ring is read at system reach and decided. An entry that cannot be read is
treated as malformed. -/
def execLaunchRingEntry (page reg : Nat) (s : State) : Out :=
  .next (s.afterOffers (fun s =>
    let r := s.notifyReg page reg
    if r.record || r.base == 0 || r.prod == r.cons || !s.scheduled (s.pageContext page) then s
    else
      let (s', m) := s.openImage page reg
      if m.wait ≠ .none then s
      else if !m.block.isEmpty then s
      else if m.bad then entryMalformed s' m r
      else match s'.reachRead Config.noCore m.ctx r.entryVa 128 0 0 .devRead (.image m.id) with
        | (t, .wait w) => t.modImage m.id (fun x => { x with wait := w })
        | (t, .refused) => entryMalformed t m r
        | (t, .ok bs) =>
          let t := t.unpin (.image m.id)
          let q := entryBlock t m r bs
          -- nothing is decided for want of room
          if q == t then { s with pins := t.pins } else q))

/-- The end of an argument image read (R467): the launch of a crew or of a ring entry is decided, or refused. -/
def finishImage (s : State) (m : ImageRead) (args : Option (List Word)) : State :=
  let ws := State.wordsOf m.block 32
  let b := LaunchBlock.of ws
  match m.crew with
  | some c =>
    (match args with
     | none => (s.dropImage m.id).uniformTrap c .badLaunch 0x18 0
     | some a => (s.dropImage m.id).finishLaunch c m.reg b a)
  | none =>
    let r := s.notifyReg m.page m.reg
    (match args with
     | none => entryMalformed s m r
     | some a => entryLaunch s m r b a)

/-- ARGUMENT_IMAGE_READ (R467): the image of a pending launch is read at device reach in the grid's context, and the launch decided. -/
def execArgumentImageRead (i : Nat) (s : State) : Out :=
  .next (s.afterOffers (fun s => match s.images[i]? with
    | none => s
    | some m =>
      if m.wait ≠ .none || m.block.isEmpty || !s.scheduled m.ctx then s
      else if m.bad then finishImage s m none
      else
        let core := (m.crew.map (fun c => s.coreOf c.team)).getD Config.noCore
        let depth := (m.crew.map (fun c => s.fdepthOf c.team)).getD 0
        let cls := (m.crew.map (fun c => s.effClass c.team)).getD 0
        let b := LaunchBlock.of (State.wordsOf m.block 32)
        match s.reachRead core m.ctx b.args 64 depth cls .devRead (.image m.id) with
        | (t, .wait w) => t.modImage m.id (fun x => { x with wait := w })
        | (t, .refused) => finishImage t m none
        | (t, .ok bs) =>
          let t := t.unpin (.image m.id)
          let q := finishImage t m (some (State.wordsOf bs 16))
          if q == t then { s with pins := t.pins } else q))

/-! ### Record rings -/

/-- RECORD_RING_ENTRY (R71): the head entry of a record ring becomes a record of its node, while the pool allows. -/
def execRecordRingEntry (page reg : Nat) (s : State) : Out :=
  let r := s.notifyReg page reg
  let ctx := s.pageContext page
  .next (if !r.record || r.base == 0 || r.prod == r.cons || !s.scheduled ctx then s
    else match s.node? ctx r.node with
      | none => ((s.ringImage page reg).elim s (fun m => s.dropImage m.id)).passEntry r 3
      | some d =>
        if !s.canAlloc ctx r.node then s
        else
          let (s', m) := s.openImage page reg
          if m.wait ≠ .none then s
          else if m.bad then (s'.dropImage m.id).passEntry r r.nstat
          else match s'.reachRead Config.noCore ctx r.entryVa (4 * d.rsize) 0 0 .devRead (.image m.id) with
            | (t, .wait w) => t.modImage m.id (fun x => { x with wait := w })
            | (t, .refused) => (t.dropImage m.id).passEntry r r.nstat
            | (t, .ok bs) =>
              let rec_ : Record := { words := State.wordsOf bs d.rsize, pfid := none, gen := none, writer := none }
              ((t.dropImage m.id).enterBin ctx r.node (d.partOf 0) rec_).passEntry r r.nstat)

/-! ### PARK_TIMEOUT and TEAM_RETIRE -/

/-- PARK_TIMEOUT (R67): every live thread of the team has been parked without a break for 100 µs. -/
def execParkTimeout (team : Nat) (s : State) : Out :=
  whenOn (fun s => s.modTeam team (fun t => if t.core?.isSome && s.longParked t then { t with parkExpired := true } else t)) s

/-- TEAM_RETIRE (R41, R127). The offers of the cycle follow its last retirement (R65). -/
def execTeamRetire (team : Nat) (s : State) : Out :=
  whenOn (fun s => match s.team? team with
    | none => s
    | some t => if s.canRetire t then (s.retireTeam t).resumeOffers else s) s

end Sys2Proof.Machine
end

