-- ==== Sys2Proof/Machine/Registers.lean ====
section
/-!
DEFINITION. The device registers (R288): context descriptors (R289) with their commands (R290), the notify pages (R69), PHMARGIN
(R292), the access tables (R297) and the capability list (R296): what a read finds and what a write does.
-/

namespace Sys2Proof.Machine

/-! ### Context descriptors (R289) -/

/-- A field of a context descriptor: offset, bytes, how it is read, and how a write stores it; none for a field that a write does not
change, or that has a behaviour of its own. -/
structure DescField where
  off : Nat
  size : Nat
  get : CtxRegs → Nat
  put : Option (CtxRegs → Nat → CtxRegs)

/-- The fields of a context descriptor. -/
def descFields : List DescField :=
  [⟨0x00, 8, CtxRegs.ptroot, some (fun r v => { r with ptroot := v })⟩,
   ⟨0x08, 8, CtxRegs.codebase, some (fun r v => { r with codebase := v })⟩,
   ⟨0x10, 4, CtxRegs.traph, some (fun r v => { r with traph := v })⟩,
   ⟨0x14, 4, CtxRegs.cstat, none⟩,
   ⟨0x18, 8, CtxRegs.lrbase, some (fun r v => { r with lrbase := v })⟩,
   ⟨0x20, 4, CtxRegs.lrcount, some (fun r v => { r with lrcount := v })⟩,
   ⟨0x28, 8, CtxRegs.nodebase, some (fun r v => { r with nodebase := v })⟩,
   ⟨0x30, 2, CtxRegs.nodecount, some (fun r v => { r with nodecount := v })⟩,
   ⟨0x38, 8, CtxRegs.genbase, some (fun r v => { r with genbase := v })⟩,
   ⟨0x40, 2, CtxRegs.gencount, some (fun r v => { r with gencount := v })⟩,
   ⟨0x48, 8, CtxRegs.poolbase, some (fun r v => { r with poolbase := v })⟩,
   ⟨0x50, 2, CtxRegs.poolsize, some (fun r v => { r with poolsize := v })⟩] ++
  [⟨0x58, 8, CtxRegs.savebase, some (fun r v => { r with savebase := v })⟩,
   ⟨0x60, 2, CtxRegs.saveslots, some (fun r v => { r with saveslots := v })⟩,
   ⟨0x68, 8, CtxRegs.swapbase, some (fun r v => { r with swapbase := v })⟩,
   ⟨0x70, 2, CtxRegs.swapslots, some (fun r v => { r with swapslots := v })⟩,
   ⟨0x78, 8, CtxRegs.frbase, some (fun r v => { r with frbase := v })⟩,
   ⟨0x80, 1, CtxRegs.frlog2, some (fun r v => { r with frlog2 := v })⟩,
   ⟨0x84, 4, CtxRegs.frprod, none⟩,
   ⟨0x88, 4, CtxRegs.frcons, none⟩,
   ⟨0x8C, 4, CtxRegs.freply, none⟩,
   ⟨0x90, 8, CtxRegs.erbase, some (fun r v => { r with erbase := v })⟩,
   ⟨0x98, 1, CtxRegs.erlog2, some (fun r v => { r with erlog2 := v })⟩] ++
  [⟨0x9C, 4, CtxRegs.erprod, none⟩,
   ⟨0xA0, 4, CtxRegs.ercons, none⟩,
   ⟨0xA8, 8, CtxRegs.tagbase, some (fun r v => { r with tagbase := v })⟩,
   ⟨0xB0, 4, CtxRegs.ballast, none⟩,
   ⟨0xB8, 8, CtxRegs.cmdarg0, some (fun r v => { r with cmdarg0 := v })⟩,
   ⟨0xC0, 8, CtxRegs.cmdarg1, some (fun r v => { r with cmdarg1 := v })⟩,
   ⟨0xC8, 4, CtxRegs.cmd, none⟩,
   ⟨0xCC, 4, CtxRegs.cmdstat, none⟩]

/-- A byte of a context descriptor; reserved bytes are zero. -/
def CtxRegs.byte (r : CtxRegs) (off : Nat) : Byte :=
  match descFields.find? (fun f => decide (f.off ≤ off) && decide (off < f.off + f.size)) with
  | none => 0
  | some f => BitVec.ofNat 8 (f.get r / 2 ^ (8 * (off - f.off)))

namespace State

/-- Changes a context's registers. -/
def modRegs (s : State) (ctx : Nat) (f : CtxRegs → CtxRegs) : State := s.modCtx ctx (fun c => { c with regs := f c.regs })

/-- A write to CSTAT clears the bits written as 1; FAULTRING_FULL stays set while the fault ring is full (R289, R291). -/
def writeCstat (s : State) (ctx : Nat) (v : Word) : State :=
  (s.modRegs ctx (fun r => { r with cstat := (BitVec.ofNat 32 r.cstat &&& ~~~v).toNat })).faultRingCheck ctx

/-- Writes fault records that waited for room, oldest first (R291). -/
def writeFaults (ctx : Nat) : Nat → State → State
  | 0, s => s
  | n + 1, s => writeFaults ctx n (s.writeFault ctx)

/-- A write to FRCONS makes room in the fault ring (R291). -/
def writeFrcons (s : State) (ctx : Nat) (v : Word) : State :=
  let n := ((s.ctx? ctx).map (fun c => c.faults.length)).getD 0
  writeFaults ctx n (s.modRegs ctx (fun r => { r with frcons := v.toNat }))

/-- A write to ERCONS makes room in the escalation ring (R291). -/
def writeErcons (s : State) (ctx : Nat) (v : Word) : State :=
  let n := ((s.ctx? ctx).map (fun c => c.erwait.length)).getD 0
  drainEsc ctx n (s.modRegs ctx (fun r => { r with ercons := v.toNat }))

/-- A command that is refused as it starts (R290): 3, 4, 5 and 6. -/
def cmdRefused (s : State) (c : Ctx) (v : Nat) : Bool :=
  match v with
  | 3 => c.preempted
  | 4 => c.lost || !c.preempted
  | 5 => c.regs.cmdarg1 == 0
  | 6 => !s.grids.any (fun g => g.id == c.regs.cmdarg0 && g.ctx == c.id && !g.retired)
  | _ => false

/-- A write to CMD (R290): the command takes its arguments as they stand now. -/
def writeCmd (s : State) (ctx : Nat) (v : Word) : State :=
  match s.ctx? ctx with
  | none => s
  | some c =>
    if bitAt c.regs.cmdstat 0 then s.modRegs ctx (fun r => { r with cmdstat := 0x201 })
    else if v = 0 ∨ 6 < v.toNat then s.modRegs ctx (fun r => { r with cmd := v.toNat, cmdstat := 0x100 })
    else
      let s := s.modRegs ctx (fun r => { r with cmd := v.toNat, cmdstat := 1 })
      if s.cmdRefused c v.toNat then s.modCtx ctx (fun c => { c with outcome := some 1 })
      else s.modCtx ctx (fun c => { c with running := some v.toNat, cmdArgs := (c.regs.cmdarg0, c.regs.cmdarg1) })

/-- A write to BALLAST: while the context runs it may only grow (R289). -/
def writeBallast (s : State) (ctx v : Nat) : State :=
  match s.ctx? ctx with
  | none => s
  | some c => if s.scheduled ctx && decide (v < c.regs.ballast) then s else s.modRegs ctx (fun r => { r with ballast := v })

/-- A write of a whole field of a context descriptor. -/
def writeDesc (s : State) (ctx off v : Nat) : State :=
  let w : Word := BitVec.ofNat 32 v
  if off = 0x14 then s.writeCstat ctx w
  else if off = 0x88 then s.writeFrcons ctx w
  else if off = 0x8C then s.faultReply ctx w
  else if off = 0xA0 then s.writeErcons ctx w
  else if off = 0xB0 then s.writeBallast ctx w.toNat
  else if off = 0xC8 then s.writeCmd ctx w
  else match descFields.find? (fun f => f.off == off) with
    | none => s
    | some f => (match f.put with | none => s | some g => s.modRegs ctx (fun r => g r (v % 2 ^ (8 * f.size))))

end State

/-! ### Notify pages (R69) -/

/-- A byte of a notify register. -/
def NotifyReg.byte (r : NotifyReg) (off : Nat) : Byte :=
  let size := r.log2n + 0x100 * r.record.toNat
  let x := leBytes 8 r.base ++ leBytes 4 size ++ leBytes 2 r.node ++ leBytes 2 0 ++ leBytes 4 r.prod ++ leBytes 4 r.cons
    ++ leBytes 4 r.nstat
  x.getD off 0

/-- A write of a whole field of a notify register: the configuration fields only through the control view, PROD by R70. A ring that turns to another
node or kind may let bins drain (R170). DESIGN CHOICE: a BASE, LOG2N or NODE outside its limits stands as written (log entry 54). -/
def State.writeNotify (s : State) (control : Bool) (page reg off v : Nat) : State :=
  let r := s.notifyReg page reg
  match off with
  | 0x00 => if control then s.setNotify { r with base := v } else s
  | 0x08 => if control then (s.setNotify { r with log2n := v % 0x20, record := bitAt v 8 }).drainBins (s.pageContext page) else s
  | 0x0C => if control then (s.setNotify { r with node := v % 0x10000 }).drainBins (s.pageContext page) else s
  | 0x10 => s.writeProd page reg (BitVec.ofNat 32 v)
  | _ => s

/-! ### The whole register space (R288) -/

/-- What an offset of the register space belongs to. -/
inductive RegBlock where
  | phmargin (off : Nat)
  /-- The device control that binds a notify page to a context (R69). -/
  | bind (page off : Nat)
  | desc (ctx off : Nat)
  /-- The access tables (R297). -/
  | table (off : Nat)
  | notify (control : Bool) (page reg off : Nat)
  | capability (off : Nat)
  | other
deriving DecidableEq, Repr

/-- The device control of 4 bytes that an offset lies in, if it binds a notify page (R69, log entry 49). -/
def bindAt (o : Nat) : Option (Nat × Nat) := (List.range 4).findSome? (fun k => (Config.bindPage (o - k)).map (fun p => (p % 4096, k)))

/-- The block of an offset (R288, R292, R296). -/
def regBlock (o : Nat) : RegBlock :=
  if 0x100 ≤ o ∧ o < 0x170 then .capability (o - 0x100)
  else if 0x1010 ≤ o ∧ o < 0x1014 then .phmargin (o - 0x1010)
  else if 0x1000 ≤ o ∧ o < 0x10000 then (match bindAt o with | some x => .bind x.1 x.2 | none => .other)
  else if 0x10000 ≤ o ∧ o < 0x14000 then .desc ((o - 0x10000) / 256) (o % 256)
  else if 0x20000 ≤ o ∧ o < 0x1000000 then .table (o - 0x20000)
  else if 0x1000000 ≤ o ∧ o < 0x2000000 then .notify false ((o - 0x1000000) / 4096) (o % 4096 / 64) (o % 64)
  else if 0x2000000 ≤ o ∧ o < 0x3000000 then .notify true ((o - 0x2000000) / 4096) (o % 4096 / 64) (o % 64)
  else .other

/-- The words of a capability's data (R296), in the order of the table, as 32-bit numbers (log entry 99). The code of an algorithm and a
missing peer number are left free. -/
def capabilityData (s : State) : Nat → List Nat
  | 1 => [Config.cores, Config.clusters]
  | 2 => [256, Config.fillSlots]
  | 3 => [4096, 0x1000000]
  | 4 => [Config.querySlots]
  | 5 => s.links.length :: s.peer.toList
  | _ => []

/-- A byte of the capability list (R296): seven entries, in the order of their IDs. -/
def capabilityByte (s : State) (off : Nat) : Byte :=
  let i := off / 16
  match off % 16 with
  | 0 => BitVec.ofNat 8 (i + 1)
  | 1 => 1
  | 2 => if i = 6 then 0 else BitVec.ofNat 8 (0x110 + 16 * i)
  | 3 => if i = 6 then 0 else 1
  | k =>
    match (capabilityData s (i + 1))[(k - 4) / 4]? with
    | some n => BitVec.ofNat 8 (n / 2 ^ (8 * (k % 4)))
    | none => Config.registerByte (0x100 + off)

/-! ### Access tables (R297) -/

/-- The target and class that the numbers of an access-table entry name. -/
def bootRight (x : Nat × Nat × Nat × Fin 4 × Nat) : Right :=
  { target := (match x.1 with | 0 => .controller x.2.1 | 1 => .slice x.2.1 | 2 => .fabric | _ => .tether x.2.1),
    cls := (match x.2.2.1 with | 0 => .device | 1 => .fomor | 2 => .display | 3 => .firmware | _ => .peer x.2.2.2.1),
    right := x.2.2.2.2 % 4 }

/-- The numbers of an access-table entry. -/
def Right.numbers (r : Right) : Nat × Nat × Nat × Nat × Nat :=
  let t := match r.target with | .controller n => (0, n) | .slice n => (1, n) | .fabric => (2, 0) | .tether n => (3, n)
  let c := match r.cls with | .device => (0, 0) | .fomor => (1, 0) | .display => (2, 0) | .firmware => (3, 0) | .peer p => (4, p.val)
  (t.1, t.2, c.1, c.2, r.right)

namespace State

/-- A byte of the register space. -/
def registerByte (s : State) (o : Nat) : Byte :=
  match regBlock o with
  | .phmargin k => BitVec.ofNat 8 (s.phmargin / 2 ^ (8 * k))
  | .desc ctx k => ((s.ctx? ctx).map (fun c => c.regs.byte k)).getD 0
  | .notify _ page reg k => (s.notifyReg page reg).byte k
  | .capability k => capabilityByte s k
  | .table k => Config.tableByte (s.rights.map Right.numbers) k
  | .bind page k => BitVec.ofNat 8 (s.pageContext page / 2 ^ (8 * k))
  | .other => Config.registerByte o

/-- A read of registers: the bytes, and NSTAT fields that the read clears (R69). -/
def readRegisters (s : State) (o n : Nat) : State × List Byte :=
  let bs := (List.range n).map (fun i => s.registerByte (o + i))
  let s := (List.range n).foldl (fun s i =>
    match regBlock (o + i) with
    | .notify _ page reg 0x18 =>
      let r := s.notifyReg page reg
      if r.nstat = 0 then s else s.setNotify { r with nstat := 0 }
    | _ => s) s
  (s, bs)

/-- The size of the field that begins at an offset; 0 when none does. -/
def fieldSize (o : Nat) : Nat :=
  match regBlock o with
  | .phmargin 0 | .bind _ 0 => 4
  | .desc _ k => ((descFields.find? (fun f => f.off == k)).map DescField.size).getD 0
  | .notify _ _ _ k => if k = 0 then 8 else if k = 8 ∨ k = 0x10 then 4 else if k = 0x0C then 2 else 0
  | _ => 0

/-- A write of a whole field that begins at an offset. -/
def writeField (s : State) (o v : Nat) : State :=
  match regBlock o with
  | .phmargin 0 => { s with phmargin := v % 2 ^ 32 }
  | .bind page 0 =>
    ({ s with pageCtx := assocSet s.pageCtx page (v % Config.contexts) }.drainBins (s.pageContext page)).drainBins (v % Config.contexts)
  | .desc ctx k => s.writeDesc ctx k v
  | .notify control page reg k => s.writeNotify control page reg k v
  | _ => s

/-- A write of bytes to registers: every field that lies wholly within them is written, in ascending order. -/
def writeRegisters (s : State) (o : Nat) (bs : List Byte) : State :=
  (List.range bs.length).foldl (fun s i =>
    let n := fieldSize (o + i)
    if n = 0 ∨ bs.length < i + n then s else s.writeField (o + i) (leNat ((bs.drop i).take n))) s

end State

end Sys2Proof.Machine
end

