-- ==== Sys2Proof/Machine/Image.lean ====
section
/-!
DEFINITION. Team images (R282 to R285): writing the image of a team, checking one (R286), and reading one back. A team that is out
keeps its records in the state; every field that the image holds is read back from the image, so that the host's edits take effect.
-/

namespace Sys2Proof.Machine

/-- Bytes of a team slot (R282). -/
def slotSize : Nat := 0x100000

/-! ### Parts of an image -/

/-- The PARK code of a thread record (R284): barrier 4, dry pool 6; every other park is saved as none. -/
def Park.code : Park → Nat
  | .barrier _ _ _ _ => 4
  | .dryPool => 6
  | _ => 0

/-- GSLOT (R283). -/
def slotCode : Slot → Nat
  | .unresolved => 0
  | .true => 1
  | .false => 2

/-- The guard-slot state of a code. -/
def slotOfCode : Nat → Slot
  | 1 => .true
  | 2 => .false
  | _ => .unresolved

/-- KIND of an engine entry (R285). -/
def CmdKind.imageCode : CmdKind → Nat
  | .cpy => 0
  | .mma => 1
  | .mmast => 2
  | .mmaz | .mmazRel => 3
  | .pairs => 4

/-- A number whose bits are given, bit 0 first. -/
def packBits : List Bool → Nat
  | [] => 0
  | b :: bs => b.toNat + 2 * packBits bs

/-- A barrier record (R283): E, A, P, zero. -/
def Barrier.bytes (b : Barrier) : List Byte := leBytes 4 b.e ++ leBytes 4 b.a ++ leBytes 4 b.p ++ leBytes 4 0

/-- The sectors that a team's crews author below device reach: reach, author crew and virtual address (R285). -/
def sectorKeys (s : State) (team : Nat) : List (Nat × Nat × Nat) :=
  (s.buffers.filterMap (fun b =>
    match b.author with
    | .crew c =>
      if c.team = team then
        some ((match b.buf with | .crew _ => 0 | .team _ => 1 | .cluster _ => 2), c.crew, b.va - b.va % 32)
      else none
    | .unit => none)).eraseDups

/-- The reach of a buffer instance (R103). -/
def Buf.reach : Buf → Nat
  | .crew _ => 0
  | .team _ => 1
  | .cluster _ => 2

/-- A sector entry (R285). -/
def sectorEntry (s : State) (team : Nat) (k : Nat × Nat × Nat) : List Byte :=
  let mine := s.buffers.filter (fun b => b.author == .crew ⟨team, k.2.1⟩ && b.buf.reach == k.1 && b.va - b.va % 32 == k.2.2)
  let at_ := fun (i : Nat) => mine.find? (fun b => b.va % 32 == i)
  leBytes 8 k.2.2 ++ leBytes 4 (packBits ((List.range 32).map (fun i => (at_ i).isSome))) ++ leBytes 1 k.1 ++ leBytes 1 k.2.1
    ++ leBytes 2 0 ++ (List.range 32).map (fun i => ((at_ i).map BufByte.val).getD 0) ++ List.replicate 16 0

/-- The commands of a team in issue order. -/
def teamCmds (s : State) (team : Nat) : List EngCmd := s.cmds.filter (fun c => c.team == team)

/-- The position of a command in its queue (R285). -/
def queuePos (s : State) (c : EngCmd) : Nat :=
  ((teamCmds s c.team).filter (fun d => decide (d.id < c.id) && (d.kind.matrix == c.kind.matrix)
    && ((d.kind == .pairs) == (c.kind == .pairs)))).length

/-- An engine entry (R285). -/
def engineEntry (s : State) (c : EngCmd) : List Byte :=
  leBytes 1 c.kind.imageCode ++ leBytes 1 (match c.guard with | none => 0 | some g => g + 8) ++ leBytes 2 (queuePos s c)
    ++ leBytes 4 0 ++ leBytes 8 c.progress ++ leBytes 8 c.addr ++ List.replicate 0x68 0
    ++ (List.range 32).flatMap (fun i => leBytes 4 ((c.block.getD i 0).toNat))

/-- The phase token or the position in the allocation queue (R284). -/
def parkArg (s : State) (t : Thread) : Nat :=
  match t.park with
  | .barrier b ph _ _ => (tokenOf b ph).toNat
  | .dryPool => (((s.ctxOf t.id.team).map Ctx.allocs).getD []).findIdx (fun a => a.who == .spawn t.id || a.who == .cont t.id)
  | _ => 0

/-- The program counter that a thread's record holds: a thread parked in `WAITM` continues after it (R280). -/
def savedPc (t : Thread) : Word := if t.park = .monitor then t.pc + 4 else t.pc

/-- A thread record (R284). -/
def threadEntry (s : State) (t : Thread) : List Byte :=
  leBytes 4 (savedPc t).toNat ++ leBytes 1 (t.live.toNat + 2 * t.inh.toNat + 4 * t.park.code + 0x20 * t.arrived.isSome.toNat)
    ++ leBytes 1 (packBits t.p) ++ leBytes 2 0 ++ leBytes 4 t.cause.toNat ++ leBytes 4 t.trapc.toNat ++ leBytes 4 t.trapv.toNat
    ++ leBytes 8 (parkArg s t) ++ leBytes 4 0

/-- A crew record (R284). -/
def crewEntry (c : Crew) : List Byte :=
  (List.range 63).flatMap (fun i => leBytes 4 ((c.k.getD i 0).toNat)) ++ leBytes 4 0 ++ leBytes 1 (packBits c.q)
    ++ leBytes 1 (packBits [c.satArm, c.notice, c.phArm]) ++ leBytes 2 0 ++ leBytes 4 c.sat.toNat ++ leBytes 4 c.cflict.toNat
    ++ leBytes 4 c.stragId.toNat ++ leBytes 4 c.stragWait.toNat ++ leBytes 4 c.phCount ++ leBytes 4 c.phLimit
    ++ List.replicate 0xE4 0

/-- The team leads its cluster group or gang: of those of its unit's teams that leave together it has the lowest index (R283, log entry 94). -/
def leads (s : State) (t : Team) (together : List Team) : Bool :=
  match s.grid? t.grid with
  | none => false
  | some g =>
    g.grouped && ((g.unitTeams t.unit).find? (fun k =>
      together.any (fun x => x.grid == t.grid && x.unit == t.unit && (x.role, x.index) == k)) == some (t.role, t.index))

/-- The teams of a team's unit that left together with it. -/
def outMates (s : State) (t : Team) : List Team :=
  s.teams.filter (fun x => x.grid == t.grid && x.unit == t.unit && x.out && (State.swapSlot x.place).isSome == (State.swapSlot t.place).isSome)

/-- The header after STATE (R283); `lead` says that the team leads its unit. -/
def headerBytes (s : State) (t : Team) (lead : Bool) : List Byte :=
  let cbars := if lead then ((s.unit? t.grid t.unit).map PUnit.bars).getD [] else []
  leBytes 4 t.grid ++ leBytes 4 t.index ++ leBytes 2 t.threads ++ leBytes 1 t.regs ++ leBytes 1 t.nbar ++ leBytes 2 t.spadLines
    ++ leBytes 1 (t.role + 4 * t.fdepth + 16 * (((s.grid? t.grid).map Grid.prio).getD 0) + 64 * lead.toNat) ++ leBytes 1 0
    ++ leBytes 4 (t.node.getD 0xFFFFFFFF) ++ leBytes 2 t.coreD
    ++ leBytes 2 ((t.gslots.reverse.map slotCode).foldl (fun n c => 4 * n + c) 0)
    ++ leBytes 1 (packBits [s.ownsBank t 0, s.ownsBank t 1]) ++ leBytes 3 0 ++ leBytes 4 (sectorKeys s t.id).length
    ++ leBytes 4 (teamCmds s t.id).length ++ List.replicate 0x18 0
    ++ (List.range 16).flatMap (fun i => (t.bars[i]?.map Barrier.bytes).getD (List.replicate 16 0))
    ++ (List.range 32).flatMap (fun i => (cbars[i]?.map Barrier.bytes).getD (List.replicate 16 0))
    ++ (List.range 192).map (fun i =>
      BitVec.ofNat 8 (packBits ((List.range 8).map (fun j => decide (8 * i + j < t.spadLines) && !t.absent.contains (8 * i + j)))))

/-! ### Writing and reading -/

/-- A physical place at which the device's own store or load succeeds: memory, with the right to it (R287, R297). -/
def physOk (s : State) (pa : Nat) (write : Bool) : Bool :=
  decide (pa < 2 ^ 44) && !isReserved pa && !isRegister pa && s.reachable (.pa pa) write

/-- Every line of a team slot can be stored to, or loaded from. -/
def slotOk (s : State) (base : Nat) (write : Bool) : Bool :=
  (List.range (slotSize / 128)).all (fun i => physOk s (base + 128 * i) write)

/-- The first access to a team slot that faults is counted where an access table has denied it (R297). -/
def logSlot (s : State) (base : Nat) (write : Bool) : State :=
  match (List.range (slotSize / 128)).find? (fun i => !physOk s (base + 128 * i) write) with
  | none => s
  | some i => s.logDenial (.pa (base + 128 * i)) .device write

namespace State

/-- Memory with a range all zero. -/
def zeroRange (s : State) (a n : Nat) : State :=
  { s with mem := s.mem.filter (fun c => !(decide (a ≤ c.1) && decide (c.1 < a + n))) }

/-- Writes the image of a team into a slot (R282 to R285), STATE last. DESIGN CHOICE: a team with more than 1,792 sector entries, one for each
sector, reach and author, writes them all, past their area; NSECT then fails the check at restore, and the context is lost (log entry 108). -/
def writeImage (s : State) (t : Team) (base : Nat) (lead : Bool) : State :=
  let ts := s.threads.filter (fun x => x.id.team == t.id)
  let s0 := s
  let s := ((s.zeroRange base 0x10000).zeroRange (base + 0xC0000) 0x40000).writePhys (base + 4) (headerBytes s0 t lead)
  let s := ts.foldl (fun s x => s.writePhys (base + 0x400 + 32 * x.id.tid) (threadEntry s0 x)) s
  let s := (s0.crewsOf t.id).foldl (fun s c => s.writePhys (base + 0x8400 + 512 * c.id.crew) (crewEntry c)) s
  let s := ts.foldl (fun s x =>
    s.writePhys (base + 0x10000 + 256 * x.id.tid) ((x.v.take t.regs).flatMap (fun w => leBytes 4 w.toNat))) s
  let s := s.writePhys (base + 0x50000) (t.spad.readBytes 0 t.spadSize)
  let s := (s0.banks.filter (fun b => b.team == some t.id)).foldl (fun s b =>
    (s.zeroRange (base + 0x80000 + 0x8000 * b.bank) 0x8000).writePhys (base + 0x80000 + 0x8000 * b.bank)
      ((List.range 0x2000).flatMap (fun i => leBytes 4 (assocD b.words i 0).toNat))) s
  let s := (sectorKeys s0 t.id).zipIdx.foldl (fun s k => s.writePhys (base + 0x90000 + 64 * k.2) (sectorEntry s0 t.id k.1)) s
  let s := (teamCmds s0 t.id).zipIdx.foldl (fun s c => s.writePhys (base + 0xAC000 + 256 * c.2) (engineEntry s0 c.1)) s
  s.writePhysNat base 4 1

/-- A range of memory is all zero. -/
def isZero (s : State) (a n : Nat) : Bool := s.mem.all (fun c => !(decide (a ≤ c.1) && decide (c.1 < a + n)))

/-- The saved team of a context whose image a slot holds. -/
def imageTeam? (s : State) (ctx base : Nat) : Option Team :=
  s.teams.find? (fun t => t.ctx == ctx && (saveSlot t.place).isSome && s.hasImage t base)

/-- BANKS (R283): the accumulator banks that the team holds, or has with it while it is out. -/
def banksCode (s : State) (t : Team) : Nat :=
  packBits ([0, 1].map (fun k => s.banks.any (fun b => b.team == some t.id && b.bank == k)))

/-- The header of an image keeps the limits of R283 and is that of the team (R286, log entry 94). -/
def headerOk (s : State) (t : Team) (base : Nat) : Bool :=
  let rd := fun (off n : Nat) => s.readPhysNat (base + off) n
  let info := rd 0x12 1
  rd 0x0C 2 == t.threads && rd 0x0E 1 == t.regs && rd 0x0F 1 == t.nbar && rd 0x10 2 == t.spadLines
    && bits info 3 2 == t.fdepth && bits info 5 4 == ((s.grid? t.grid).map Grid.prio).getD 0 && !bitAt info 7 && rd 0x13 1 == 0
    && rd 0x14 4 == t.node.getD 0xFFFFFFFF && decide (rd 0x18 2 < Config.cores)
    && (List.range 8).all (fun i => bits (rd 0x1A 2) (2 * i + 1) (2 * i) != 3) && rd 0x1C 1 == s.banksCode t
    && bitAt info 6 == leads s t (outMates s t) && rd 0x1D 3 == 0
    && decide (rd 0x20 4 ≤ 1792) && rd 0x24 4 == (teamCmds s t.id).length && decide (rd 0x24 4 ≤ 320) && s.isZero (base + 0x28) 0x18
    && (List.range 48).all (fun i => rd (0x40 + 16 * i + 12) 4 == 0) && (bitAt info 6 || s.isZero (base + 0x140) 0x200)

/-- A thread record keeps the limits of R284; `%cause`[11:10] is reserved (R269). -/
def threadOk (s : State) (a : Nat) : Bool :=
  let rd := fun (off n : Nat) => s.readPhysNat (a + off) n
  rd 0 4 % 4 == 0 && decide (rd 4 1 < 0x40) && [0, 4, 6].contains (bits (rd 4 1) 4 2) && decide (rd 5 1 < 0x80)
    && rd 6 2 == 0 && bits (rd 8 4) 11 10 == 0 && rd 0x1C 4 == 0

/-- A crew record keeps the limits of R284; so do the reserved bits of `%sat` (R214), `%cflict` (R112) and `%strag.id` (R159). -/
def crewOk (s : State) (a : Nat) : Bool :=
  let rd := fun (off n : Nat) => s.readPhysNat (a + off) n
  rd 0xFC 4 == 0 && decide (rd 0x101 1 < 8) && rd 0x102 2 == 0 && decide (rd 0x104 4 < 8) && decide (rd 0x108 4 < 8)
    && bits (rd 0x10C 4) 29 20 == 0 && s.isZero (a + 0x11C) 0xE4

/-- A sector entry keeps the limits of R285. -/
def sectorOk (s : State) (a : Nat) : Bool :=
  let rd := fun (off n : Nat) => s.readPhysNat (a + off) n
  rd 0 8 % 32 == 0 && decide (rd 0xC 1 ≤ 2) && decide (rd 0xD 1 ≤ 31) && rd 0xE 2 == 0 && s.isZero (a + 0x30) 0x10

/-- An engine entry keeps the limits of R285 and is of the command's kind, at its position in its queue. -/
def engineOk (s : State) (c : EngCmd) (a : Nat) : Bool :=
  let rd := fun (off n : Nat) => s.readPhysNat (a + off) n
  rd 0 1 == c.kind.imageCode && decide (rd 1 1 < 16) && rd 2 2 == queuePos s c && rd 4 4 == 0 && s.isZero (a + 0x18) 0x68

/-- The image of a team keeps the limits of R282 to R285 (R286). -/
def imageOk (s : State) (t : Team) (base : Nat) : Bool :=
  slotOk s base false && s.headerOk t base
    && (List.range 1024).all (fun i =>
      if i < t.threads then s.threadOk (base + 0x400 + 32 * i) else s.isZero (base + 0x400 + 32 * i) 32)
    && (List.range 32).all (fun i => s.crewOk (base + 0x8400 + 512 * i))
    && s.isZero (base + 0xC400) 0x3C00 && s.isZero (base + 0xC0000) 0x40000
    && (List.range (s.readPhysNat (base + 0x20) 4)).all (fun i => s.sectorOk (base + 0x90000 + 64 * i))
    && (teamCmds s t.id).zipIdx.all (fun c => s.engineOk c.1 (base + 0xAC000 + 256 * c.2))

/-- A thread no longer waits for an access that it makes again (R280): walks, faults, misses, fills, queries and its monitor. -/
def leaveAccess (s : State) (t : ThreadId) : State :=
  { s with
    walks := s.walks.map (fun w => { w with joined := w.joined.filter (fun x => !x.who.isThread t) })
    ctxs := s.ctxs.map (fun c => { c with
      faults := c.faults.map (fun f => { f with joined := f.joined.filter (fun x => !x.who.isThread t) }) })
    misses := s.misses.filter (fun m => !m.waiter.isThread t)
    overflow := s.overflow.filter (fun m => !m.waiter.isThread t)
    pins := s.pins.filter (fun p => !p.who.isThread t)
    fills := s.fills.map (fun f => { f with waiters := f.waiters.filter (fun x => !x.who.isThread t) })
    monitors := s.monitors.filter (fun m => m.thread != t)
    queries := s.queries.filter (fun q => q.thread != t)
    replays := s.replays.filter (fun j => !j.who.isThread t) }

/-- The park that an image's thread record says (R284); the kind of wait at a barrier is kept from the thread. -/
def parkOf (s : State) (t : Thread) (code arg : Nat) : Park :=
  if code = 4 then
    match barrierOfNumber (arg % 0x100) with
    | none => .none
    | some b =>
      match t.park with
      | .barrier _ _ acq arr => .barrier b (arg / 0x100 % 2 ^ 24) acq arr
      | _ => .barrier b (arg / 0x100 % 2 ^ 24) false true
  else if code = 6 ∧ ((s.ctxOf t.id.team).map (fun c => c.allocs.any (fun a => a.who == .spawn t.id || a.who == .cont t.id))).getD false
  then .dryPool
  else .none

/-- The park that a thread comes back with. One whose allocation was granted while it was saved goes on after its `SPAWN`, or ends (R166, R175). -/
def backPark (s : State) (t : Thread) (swap : Bool) (code arg : Nat) : Park :=
  match code, s.parkOf t code arg, t.park with
  | 0, _, .absent l => if swap then .absent l else .none
  | 0, _, .fill => if swap then .fill else .none
  | 0, _, .fault => if swap then .fault else .none
  | 6, .none, .ending => .ending
  | _, p, _ => p

/-- Reads a thread back. After a swap a wake event or a trap that reached the thread while its team was out takes effect now (R68): its program
counter, park and trap registers stay as that event left them, and a thread that still waits for an access goes on waiting; after a pre-emption the
access is made again (R280). A `WAITM` park ends (R68, R280). DESIGN CHOICE: a thread that waits at `BAR.CREW` counts as arrived in the cycle of
its return (log entry 97). -/
def readThread (s : State) (t : Thread) (regs base cycle : Nat) (swap : Bool) : State :=
  let rd := fun (off n : Nat) => s.readPhysNat (base + 0x400 + 32 * t.id.tid + off) n
  let v := (List.range regs).map (fun i => (BitVec.ofNat 32 (s.readPhysNat (base + 0x10000 + 256 * t.id.tid + 4 * i) 4) : Word))
  let x := { t with v := v ++ t.v.drop regs, p := (List.range 7).map (fun i => bitAt (rd 5 1) i), woken := false, wait := 0, conv := none }
  let s := { s with monitors := s.monitors.filter (fun m => m.thread != t.id) }
  if t.woken && swap then s.modThread t.id (fun _ => x)
  else
    let st := rd 4 1
    let code := bits st 4 2
    let park := s.backPark t swap code (rd 0x14 8)
    let granted := code == 6 && park == .none && t.woken
    let s := if swap then s else s.leaveAccess t.id
    let s := if park = .dryPool then s else
      { s with ctxs := s.ctxs.map (fun c => { c with allocs := c.allocs.filter (fun a => a.who != .spawn t.id && a.who != .cont t.id) }) }
    s.modThread t.id (fun _ =>
      { x with pc := BitVec.ofNat 32 (rd 0 4) + (if granted then 4 else 0), live := bitAt st 0, inh := bitAt st 1, park := park,
               arrived := if bitAt st 5 then some cycle else none, cause := BitVec.ofNat 32 (rd 8 4),
               trapc := BitVec.ofNat 32 (rd 0xC 4), trapv := BitVec.ofNat 32 (rd 0x10 4) })

/-- Reads a crew back (R284). -/
def readCrew (s : State) (c : Crew) (base : Nat) : Crew :=
  let rd := fun (off n : Nat) => s.readPhysNat (base + 0x8400 + 512 * c.id.crew + off) n
  let w := fun (off : Nat) => (BitVec.ofNat 32 (rd off 4) : Word)
  { c with k := (List.range 63).map (fun i => w (4 * i)), q := (List.range 7).map (fun i => bitAt (rd 0x100 1) i),
           satArm := bitAt (rd 0x101 1) 0, notice := bitAt (rd 0x101 1) 1, phArm := bitAt (rd 0x101 1) 2, sat := w 0x104,
           cflict := w 0x108, stragId := w 0x10C, stragWait := w 0x110, phCount := rd 0x114 4, phLimit := rd 0x118 4, exitAt := none }

/-- Reads a barrier back: E, A and P (R158). A swap-out keeps what the next report needs; a pre-emption saves E, A and P only. -/
def readBarrier (s : State) (keep : Bool) (a : Nat) (b : Barrier) : Barrier :=
  { e := s.readPhysNat a 4, a := s.readPhysNat (a + 4) 4, p := s.readPhysNat (a + 8) 4 % 2 ^ 24,
    arr := if keep then b.arr else [], exit := if keep then b.exit else none }

/-- The place that a restored byte has until its sector is translated (R466): outside every context. -/
def limbo (ctx va : Nat) : Loc := .env (Config.contexts + ctx) va

/-- Reads the sector entries back into the buffers of the team's core and cluster (R285, R286). -/
def readSectors (s : State) (t : Team) (base core : Nat) : State :=
  (List.range (s.readPhysNat (base + 0x20) 4)).foldl (fun s i =>
    let o := base + 0x90000 + 64 * i
    let va := s.readPhysNat o 8
    let c : CrewId := ⟨t.id, s.readPhysNat (o + 0xD) 1⟩
    let buf : Buf := match s.readPhysNat (o + 0xC) 1 with
      | 0 => .crew c
      | 1 => .team t.id
      | _ => .cluster (clusterOf core)
    let bytes := ((List.range 32).filter (fun j => bitAt (s.readPhysNat (o + 8) 4) j)).map (fun j =>
      ({ buf := buf, author := .crew c, ctx := t.ctx, va := va + j, loc := limbo t.ctx (va + j),
         tr := ⟨0, 0, 0, false, false, false, false, false, 0⟩, val := s.mem.read (o + 0x10 + j) } : BufByte))
    { s with buffers := s.buffers ++ bytes }) s

/-- Reads the engine entries back, in order (R285): guard, block and progress. A command starts again at its engine (R247), a `PAIRS` whose
record was granted while the team was out after that record (R265). -/
def readCmds (s : State) (t : Team) (base : Nat) : State :=
  (teamCmds s t.id).zipIdx.foldl (fun s c =>
    let o := base + 0xAC000 + 256 * c.2
    let g := s.readPhysNat (o + 1) 1
    s.modCmd c.1.id (fun x =>
      { x with guard := if bitAt g 3 then some (g % 8) else none, addr := s.readPhysNat (o + 0x10) 8,
               progress := s.readPhysNat (o + 8) 8 + (if x.wait = .granted then 1 else 0),
               wait := if x.wait = .granted then .none else x.wait,
               block := (List.range x.block.length).map (fun i => (BitVec.ofNat 32 (s.readPhysNat (o + 0x80 + 4 * i) 4) : Word)) })) s

/-- Reads a whole image back for a team that has its core and crew slots again, and empties its slot. `swap`: the team was swapped out,
not pre-empted. -/
def readImage (s : State) (id base : Nat) (swap : Bool) : State :=
  match s.team? id with
  | none => s
  | some t =>
    let core := t.coreD
    let rd := fun (off n : Nat) => s.readPhysNat (base + off) n
    let back := s.banks.filter (fun (b : Bank) => b.team == some id && bitAt (rd 0x1C 1) b.bank)
    let s0 := s
    let s := s.modTeam id (fun t =>
      { t with
        gslots := (List.range 8).map (fun i => slotOfCode (bits (rd 0x1A 2) (2 * i + 1) (2 * i)))
        bars := t.bars.zipIdx.map (fun b => s0.readBarrier swap (base + 0x40 + 16 * b.2) b.1)
        spad := Memory.writeBytes [] 0 (s0.mem.readBytes (base + 0x50000) t.spadSize)
        absent := (List.range t.spadLines).filter (fun l => !bitAt (rd (0x340 + l / 8) 1) (l % 8)) })
    let s := if bitAt (rd 0x12 1) 6 then
        s.modUnit t.grid t.unit (fun u => { u with bars := u.bars.zipIdx.map (fun b => s0.readBarrier swap (base + 0x140 + 16 * b.2) b.1) })
      else s
    let s := { s with
      crews := updWhere (fun c => c.id.team == id) (fun c => s0.readCrew c base) s.crews
      banks := s.banks.filter (fun (b : Bank) => b.team != some id && !(b.core == core && back.any (fun x => x.bank == b.bank))) ++
        back.map (fun (b : Bank) =>
          let words := (List.range 0x2000).map (fun i =>
            (i, (BitVec.ofNat 32 (rd (0x80000 + 0x8000 * b.bank + 4 * i) 4) : Word)))
          { b with core := core, words := words.filter (fun x => x.2 != 0) })
      locks := updWhere (fun l => (s.cmd? l.cmd).map EngCmd.team == some id) (fun l => { l with core := core }) s.locks }
    let s := (s0.threads.filter (fun x => x.id.team == id)).foldl (fun s x => s.readThread x t.regs base (s0.cycleOf core) swap) s
    let s := ((s.readSectors t base core).readCmds t base).writePhysNat base 4 0
    match t.heldReport with
    | none => s
    | some (i, w) => (s.modTeam id (fun t => { t with heldReport := none })).report id i w

end State

end Sys2Proof.Machine
end

