-- ==== Sys2Proof/Machine/SwapEvents.lean ====
section
/-!
DEFINITION. Teams that leave their cores and come back: SWAP_OUT and SWAP_IN (R67, R68), PRE_EMPT (R279, R280, R287) and RESTORE
(R286). An event that cannot happen in a state leaves the state as it is.
-/

namespace Sys2Proof.Machine

namespace State

/-! ### Leaving a core -/

/-- A waiter of a team that leaves its core gives up its wait: the team's commands, its uniform instructions, prefetches and sectors, and for a
pre-emption its threads (R280). -/
def leaves (s : State) (team : Nat) (preempt : Bool) (w : Waiter) : Bool :=
  match w with
  | .cmd i => (s.cmd? i).map EngCmd.team == some team
  | .issue c => c.team == team
  | .sector t _ _ | .prefetch t _ => t == team
  | .query i => (s.query? i).map (fun q => q.thread.team) == some team
  | .thread t => preempt && t.team == team
  | _ => false

/-- Every wait list without some waiters. -/
def leaveWaitLists (s : State) (gone : Waiter → Bool) : State :=
  { s with
    walks := s.walks.map (fun (w : Walk) => { w with joined := w.joined.filter (fun j => !gone j.who) })
    ctxs := s.ctxs.map (fun (c : Ctx) => { c with
      faults := c.faults.map (fun (f : Fault94) => { f with joined := f.joined.filter (fun j => !gone j.who) }) })
    misses := s.misses.filter (fun m => !gone m.waiter)
    overflow := s.overflow.filter (fun m => !gone m.waiter)
    pins := s.pins.filter (fun p => !gone p.who)
    replays := s.replays.filter (fun j => !gone j.who)
    fills := s.fills.map (fun (f : Fill) => { f with waiters := f.waiters.filter (fun j => !gone j.who) }) }

/-- The number of a team's sectors that wait to be translated. -/
def sectorWaits (s : State) (team : Nat) : Nat :=
  let n := fun (l : List Joined) => (l.filter (fun j => match j.who with | .sector t _ _ => t == team | _ => false)).length
  (s.walks.map (fun w => n w.joined)).foldl (· + ·) 0
    + s.ctxs.foldl (fun k c => c.faults.foldl (fun k f => k + n f.joined) k) 0

/-- A command of a team that leaves its core stops (R247). One that an engine has taken has passed its guard slot (R229): it resumes without
reading it again (log entry 95). -/
def EngCmd.stopped (c : EngCmd) : EngCmd :=
  { c with started := none, guard := if c.started.isSome then none else c.guard,
           wait := match c.wait with | .pool => .pool | .granted => .granted | _ => .none }

/-- The park of a thread that leaves its core: after a pre-emption it makes its access again (R280), and a query is always made again (R259). -/
def parkOut (preempt : Bool) : Park → Park
  | .query => .none
  | .absent l => if preempt then .none else .absent l
  | .fill => if preempt then .none else .fill
  | .fault => if preempt then .none else .fault
  | p => p

/-- The loads of a thread return now, in the order of their flights (R68, R280). -/
def endLoads (s : State) (t : ThreadId) : State :=
  (((s.thread? t).map Thread.loads).getD []).foldl (fun s l => s.endLoad t l.slot) s

/-- A team leaves its core for a slot (R68, R280): loads have returned, threads stand at an instruction boundary, queries are
cancelled, commands stop, the image is written, and the buffered bytes go with it. After a swap-out threads go on waiting for their accesses; a
team with a query or a command has a wake event at once, since they go on only once it is back. `lead` says that it leads its unit. DESIGN CHOICE:
a thread's aged state (R34) and its demotion (R35), for which an image has no field, are dropped, and its wait starts again at its return (log
entry 106). -/
def takeOut (s : State) (id base : Nat) (place : Nat → Place) (slot : Nat) (preempt lead : Bool) : State :=
  let own := fun (t : ThreadId) => t.team == id
  let ids := (s.threads.filter (fun t => own t.id)).map Thread.id
  let wake := s.queries.any (fun q => own q.thread) || s.cmds.any (fun c => c.team == id)
  let s := ids.foldl endLoads s
  let sectors := s.sectorWaits id
  let s := s.leaveWaitLists (s.leaves id preempt)
  let s := { s with
    queries := s.queries.filter (fun q => !own q.thread)
    images := s.images.filter (fun m => (m.crew.map CrewId.team) != some id)
    cmds := updWhere (fun c => c.team == id) EngCmd.stopped s.cmds
    crews := updWhere (fun c => c.id.team == id) Crew.released s.crews
    locks := updWhere (fun l => (s.cmd? l.cmd).map EngCmd.team == some id) (fun (l : RangeLock) => { l with core := Config.cores }) s.locks
    threads := updWhere (fun t => own t.id) (fun (t : Thread) =>
      { t with loads := [], stall := .none, wait := 0, aged := false, demoted := none, park := parkOut preempt t.park, run := none }) s.threads }
  let s := match s.team? id with
    | none => s
    | some t => s.writeImage t base lead
  { s with
    monitors := if preempt then s.monitors.filter (fun m => !own m.thread) else s.monitors
    buffers := s.buffers.filter (fun b => match b.author with | .crew c => c.team != id | .unit => true)
    banks := freeBanks (fun n => n == id) s.banks ++
      (s.banks.filter (fun (b : Bank) => b.team == some id)).map (fun (b : Bank) => { b with core := Config.cores })
    teams := updWhere (fun t => t.id == id)
      (fun (t : Team) => { t with place := place slot, wake := wake, parkedSince := none, parkExpired := false,
                                  blocked := t.blocked - sectors }) s.teams }

/-- The context is lost (R286, R287): the host learns it by its status, and none of its teams runs or is restored again. -/
def loseContext (s : State) (ctx : Nat) : State := (s.setCstat ctx 0).modCtx ctx (fun c => { c with lost := true })

/-! ### Bringing teams back (R62 to R65, R68, R470) -/

/-- What a thread finds when its team is back (R68): a trap that reached it is taken, and a waiter whose phase has completed leaves. -/
def settleThread (s : State) (team : Nat) (id : ThreadId) : State :=
  match s.thread? id with
  | none => s
  | some t =>
    match t.late, t.park with
    | some r, _ => (s.modThread id (fun x => { x with late := none })).takeTrap { t with late := none } true r t.pc
    | none, .barrier b ph acq _ =>
      (match s.barrier? team b with
       | some x => if tokenDone x.p ph then s.leaveBarrier t b.level acq else s
       | none => s)
    | none, _ => s

/-- What takes effect when a team is back (R68, R139, R466): the saved sectors are translated again; traps that reached its threads are taken and
waiters whose phase has completed leave; threads whose continuation was granted end (R175), unless the team has to wait for a translation. A team
without live threads waits to retire. -/
def settleBack (s : State) (id : Nat) : State :=
  let secs := ((s.buffers.filterMap (fun b =>
    match b.author with
    | .crew c => if c.team = id then some (c.crew, b.va - b.va % 32) else none
    | .unit => none))).eraseDups
  let s := s.modTeam id (fun t => { t with wake := false, blocked := t.blocked + secs.length })
  let s := ((s.liveTeam id).map Thread.id).foldl (fun s t => s.settleThread id t) s
  let s := (secs.foldl (fun s k => s.restoreSector id k.1 k.2) s).endGranted (s.coreOf id)
  if (s.liveTeam id).isEmpty then
    (s.modTeam id (fun t => match t.place with | .resident n => { t with place := .draining n } | _ => t)).settleRetained
  else s

/-- Brings the teams of a unit back onto cores, from their images, if there is room. -/
def bringBack (s : State) (t : Team) : Option State :=
  let ts := s.outOf t
  match s.grid? t.grid with
  | none => none
  | some g =>
    (s.seatTeams g (ts.map Prod.fst)).map (fun s =>
      let s := ts.foldl (fun s x => s.readImage x.1.id x.2 (swapSlot x.1.place).isSome) s
      ts.foldl (fun s x => s.settleBack x.1.id) s)

end State

/-! ### SWAP_OUT -/

/-- Takes teams out into slots of an area, one after another; a store that faults stops it and loses the context (R287). -/
def takeAll (s : State) (ctx area : Nat) (place : Nat → Nat → Place) (preempt : Bool) (l : List (Team × Nat)) : State × Bool :=
  l.foldl (fun (r : State × Bool) x =>
    let base := area + slotSize * x.2
    if !r.2 then r
    else if slotOk r.1 base true then
      (r.1.takeOut x.1.id base (place r.1.time) x.2 preempt (leads r.1 x.1 (l.map Prod.fst)), true)
    else ((logSlot r.1 base true).loseContext ctx, false)) (s, true)

/-- SWAP_OUT (R67, R68): the unit of the team is saved into the swap area, if the device picks it and it can be saved now; the room is offered once
no further unit leaves (R65). A store that faults loses the context (R287). -/
def execSwapOut (team : Nat) (s : State) : Out :=
  whenOn (fun s => match s.team? team with
    | none => s
    | some t =>
      match s.swapReady t with
      | none => s
      | some x =>
        let area := ((s.ctx? t.ctx).map (fun c => c.regs.swapbase)).getD 0
        let r := (takeAll x.1 t.ctx area (fun now => Place.swapped now) false x.2).1
        State.resumeOffers { r.modUnit t.grid t.unit (fun u => { u with cluster := none }) with offering := true }) s

/-- SWAP_IN (R62, R65, R68, R286): at its turn the unit of a team that is out comes back onto cores with room; a round of offers that stood before
it goes on. An image that cannot be read back loses the context. -/
def execSwapIn (team : Nat) (s : State) : Out :=
  whenOn (fun s =>
    let s := s.resumeOffers
    match s.team? team with
    | none => s
    | some t =>
      match (s.grid? t.grid).bind s.firstBack with
      | none => s
      | some u =>
        if u.unit != t.unit || !s.backFits u || !s.offerTurn (.back u.grid u.id) then s
        else if (s.outOf u).any (fun x => !s.imageOk x.1 x.2) then
          ((s.outOf u).foldl (fun s x => logSlot s x.2 false) s).loseContext t.ctx
        else ((s.bringBack u).getD s).resumeOffers) s

/-! ### PRE_EMPT and RESTORE -/

/-- A command's work is done, with a result (R290). -/
def State.commandDone (s : State) (ctx result : Nat) : State :=
  s.modCtx ctx (fun c => { c with running := none, outcome := some result })

/-- Words that cluster units author for the context go to device reach (R280). -/
def flushUnits (s : State) (ctx : Nat) : State :=
  ((List.range Config.clusters).foldl (fun s cl => s.sendUnit cl ⟨0, 0⟩ 0 (fun b => b.ctx == ctx)) s).landSome
    (fun l => l.author == .unit && l.ctx == ctx)

/-- Nothing of the context stands between its teams and their save: they are at rest, the cluster units' words have landed, a team that can retire
has done so, and every other one has a slot. -/
def savable (s : State) (c : Ctx) (ts : List Team) (slots : List Nat) : Bool :=
  s.atRest ((s.teams.filter (fun t => t.ctx == c.id && !t.out)).map Team.id)
    && !s.landings.any (fun l => l.author == .unit && l.ctx == c.id)
    && !s.teams.any (fun t => t.ctx == c.id && s.canRetire t) && decide (ts.length ≤ slots.length)

/-- PRE_EMPT (R279, R280, R287): every resident team of the context is saved and frees its resources. While an operation of its crews
cannot end, only what can end does, the context's threads issue nothing new, and the save comes later (log entry 119). -/
def execPreEmpt (ctx : Nat) (s : State) : Out :=
  .next (match s.ctx? ctx with
    | none => s
    | some c =>
      if c.running ≠ some 3 ∨ s.cur ≠ .idle ∨ s.power ≠ .active then s
      else
        let s := (flushUnits s ctx).quiesce ((s.teams.filter (fun t => t.ctx == ctx && !t.out)).map Team.id)
        let ts := s.teams.filter (fun t => t.ctx == ctx && s.onSlot t)
        let slots := s.freeSlotsOf ctx c.regs.saveslots State.saveSlot
        if !savable s c ts slots then s.modCtx ctx (fun c => { c with stopping := true })
        else
          let r := takeAll s ctx c.regs.savebase (fun _ => Place.saved) true (ts.zip slots)
          let s := { r.1 with units := updWhere (fun u => ts.any (fun t => t.grid == u.grid && t.unit == u.index))
                                (fun u => { u with cluster := none }) r.1.units }
          (s.modCtx ctx (fun c => { c with preempted := true, stopping := false })).commandDone ctx 0)

/-- The slots of a context's save area whose STATE says that they hold an image (R286). -/
def savedSlots (s : State) (c : Ctx) : List Nat :=
  (List.range c.regs.saveslots).filter (fun i => s.readPhysNat (c.regs.savebase + slotSize * i) 4 == 1)

/-- The denials of the reads of every slot's STATE are counted (R297). -/
def logStates (s : State) (c : Ctx) : State :=
  s.logLines ((List.range c.regs.saveslots).flatMap (fun i => s.physBlocked (c.regs.savebase + slotSize * i) 4 false)) false

/-- The images of a context are good (R286): each keeps R282 to R285 and is that of a saved team, no two are the same team's, and the slots of the
saved teams can be read. -/
def imagesOk (s : State) (c : Ctx) : Bool :=
  let at_ := fun (i : Nat) => c.regs.savebase + slotSize * i
  let found := (savedSlots s c).map (fun i => (s.imageTeam? c.id (at_ i)).map Team.id)
  (savedSlots s c).all (fun i => ((s.imageTeam? c.id (at_ i)).map (fun t => s.imageOk t (at_ i))).getD false)
    && found.eraseDups.length == found.length
    && s.teams.all (fun t => t.ctx != c.id || ((State.saveSlot t.place).map (fun i => slotOk s (at_ i) false)).getD true)

/-- The device finds the images where they stand now: a saved team's slot is the one that holds its image (log entry 124). -/
def findImages (s : State) (c : Ctx) : State :=
  (savedSlots s c).foldl (fun x i =>
    match s.imageTeam? c.id (c.regs.savebase + slotSize * i) with
    | none => x
    | some t => x.modTeam t.id (fun t => { t with place := .saved i })) s

/-- RESTORE (R286): the saved images are checked, and the teams are offered room again (R62 to R65), those that find none as soon as there is some.
An image that fails loses the context, and a lost context is never restored (R287). Escalated grids run again, as the host has edited their images
(R274). -/
def execRestore (ctx : Nat) (s : State) : Out :=
  .next (match s.ctx? ctx with
    | none => s
    | some c =>
      if c.running ≠ some 4 ∨ s.cur ≠ .idle ∨ s.power ≠ .active then s
      else if c.lost then s.commandDone ctx 0
      else
      let s := logStates s c
      if !imagesOk s c then
        ((s.teams.filter (fun t => t.ctx == ctx && (State.saveSlot t.place).isSome)).foldl
          (fun s t => ((s.imageBase? t).map (fun b => logSlot s b false)).getD s) s |>.loseContext ctx).commandDone ctx 0
      else
        let s := ((findImages s c).modCtx ctx (fun c => { c with preempted := false })).commandDone ctx 0
        State.resumeOffers { s with offering := true,
                                    grids := updWhere (fun g => g.ctx == ctx) (fun g => { g with stopped := false }) s.grids })

end Sys2Proof.Machine
end

