-- ==== Sys2Proof/Machine/HostEvents.lean ====
section
/-!
DEFINITION. What the host and the peers do: the context commands LOAD_NODE_TABLE (R162), LOAD_GENERATOR_TABLE (R182),
INVALIDATE_TRANSLATIONS (R95), REMOVE_GRID (R468) and COMMAND_COMPLETION (R290); CSTAT_WRITE, FRCONS_WRITE, ERCONS_WRITE (R289,
R291) and REGISTER_WRITE (R288); FOMOR_CORE_ACCESS (R297), TETHER_REQUEST, LINK_DOWN and LINK_OUT_OF_SERVICE (R295). An event that
cannot happen in a state leaves the state as it is.
-/

namespace Sys2Proof.Machine

/-- The context carries out this command, the device is ACTIVE (R301), and no instruction is half done. -/
def runsCommand (s : State) (ctx n : Nat) : Option Ctx :=
  (s.ctx? ctx).bind (fun c => if c.running = some n ∧ s.cur = .idle ∧ s.power = .active then some c else none)

/-! ### Loading tables -/

/-- What the reading of a table finds. -/
inductive TableRead (α : Type) where
  | ok (a : α)
  /-- It cannot be read, or a descriptor breaks its limits. -/
  | bad
  /-- A HELD line finds no way in the cache yet (R203). -/
  | later

/-- Reads bytes of a table that lie in one line, without fault records or fills (R162); a HELD line is restored (R185), and a denial is counted
(R297). DESIGN CHOICE: the TLB of core 0 translates (log entry 100). -/
def tableRead (s : State) (ctx va n : Nat) : State × TableRead (List Byte) :=
  let go := fun (s : State) (tr : Translation) =>
    let loc := tr.loc ctx va
    if !s.reachable loc false then (s.logDenial loc .device false, .bad)
    else
      let r := match loc with
        | .pa _ => (s, true)
        | .env c m =>
          if ((s.envLine? c m).map EnvLine.held).getD false then
            let q := s.makeRoom c m
            (if q.2 then q.1.restoreEnv c m else q.1, q.2)
          else (s, true)
      if !r.2 then (r.1, .later)
      else match r.1.devBytes? loc n with
        | none => (r.1, .bad)
        | some bs => (r.1, .ok bs)
  if va + n > 2 ^ 52 then (s, .bad)
  else match s.tlbFind 0 ctx va with
    | some tr => go s tr
    | none =>
      let r := s.walk 0 ⟨ctx, va, false, false⟩
      match r.2 with
      | .ok tr => go r.1 tr
      | .error _ => (r.1, .bad)

/-- Reads `n` descriptors of a table, and makes each of them with `f`, until one cannot be read or breaks its limits. -/
def tableLoad {α : Type} (ctx size : Nat) (f : List Byte → Option α) : Nat → Nat → State → State × TableRead (List α)
  | 0, _, s => (s, .ok [])
  | n + 1, va, s =>
    match tableRead s ctx va size with
    | (s, .bad) => (s, .bad)
    | (s, .later) => (s, .later)
    | (s, .ok bs) =>
      match f bs with
      | none => (s, .bad)
      | some d =>
        match tableLoad ctx size f n (va + size) s with
        | (s, .ok ds) => (s, .ok (d :: ds))
        | r => r

/-- A number in a descriptor. -/
def descNat (bs : List Byte) (off n : Nat) : Nat := leNat ((bs.drop off).take n)

/-- A node descriptor, if it keeps R161. -/
def nodeDesc? (bs : List Byte) : Option NodeDesc :=
  let f := descNat bs
  let flags := f 0x16 1
  let d : NodeDesc :=
    { entry := f 0 4, regs := f 4 1, nbar := f 5 1, spad := f 6 2, c := f 8 2, t := f 0xA 2, floor := f 0xC 4, cap := f 0x10 4,
      rsize := f 0x14 1, creg := f 0x15 1, prio := flags % 4, fill := bitAt flags 2, preload := bitAt flags 3, args := f 0x18 8 }
  if d.entry % 16 = 0 ∧ 1 ≤ d.regs ∧ d.regs ≤ 64 ∧ d.nbar ≤ 16 ∧ d.spad ≤ 1536 ∧ 1 ≤ d.c ∧ d.c ≤ 256 ∧ d.floor ≤ 262144
      ∧ (d.cap = 0 ∨ (d.floor ≤ d.cap ∧ d.cap ≤ 262144)) ∧ 1 ≤ d.rsize ∧ d.rsize ≤ 16 ∧ d.creg + d.rsize ≤ 64
      ∧ flags / 16 = 0 ∧ f 0x17 1 = 0 ∧ d.args % 64 = 0 then some d
  else none

/-- A node table may be loaded now (R162): nothing of the context lives by the one in force. -/
def nodesFree (s : State) (c : Ctx) : Bool :=
  c.nodes.isEmpty ||
    (c.bins.isEmpty && c.batches.isEmpty && c.allocs.isEmpty
      && s.teams.all (fun t => t.ctx != c.id || t.node.isNone)
      && s.threads.all (fun t => !(t.live && t.cont) || s.ctxId t.id.team != c.id))

/-- LOAD_NODE_TABLE (R162): dispatch counts of the nodes start again (R171). -/
def execLoadNodeTable (ctx : Nat) (s : State) : Out :=
  .next (match runsCommand s ctx 1 with
    | none => s
    | some c =>
      if c.regs.nodecount = 0 ∨ 4096 < c.regs.nodecount ∨ c.regs.nodebase % 32 ≠ 0 ∨ !nodesFree s c then s.commandDone ctx 1
      else
        match tableLoad ctx 32 nodeDesc? c.regs.nodecount c.regs.nodebase s with
        | (s, .bad) => s.commandDone ctx 1
        | (s, .later) => s
        | (s, .ok ds) =>
          if c.poolSlots < (ds.map NodeDesc.floor).foldl (· + ·) 0 then s.commandDone ctx 1
          else (s.modCtx ctx (fun c => { c with nodes := ds, counts := [], used := [] })).commandDone ctx 0)

/-- A generator descriptor, if it keeps R182 with the node table in force. -/
def genDesc? (nodes : List NodeDesc) (bs : List Byte) : Option GenDesc :=
  let f := descNat bs
  let flags := f 3 1
  let d : GenDesc :=
    { node := f 0 2, log2span := f 2 1, ballast := bitAt flags 0, pfloor := bits flags 2 1, vbase := f 8 8, src := f 0x10 8,
      args := (List.range 4).map (fun i => BitVec.ofNat 32 (f (0x18 + 4 * i) 4)) }
  let nodeOk := ((nodes[d.node]?).map (fun n => n.fill && decide (11 ≤ n.rsize))).getD false
  if nodeOk ∧ d.log2span ≤ 6 ∧ flags / 8 = 0 ∧ f 4 4 = 0 ∧ d.vbase % (128 * 2 ^ d.log2span) = 0 ∧ d.vbase < 2 ^ 52
      ∧ f 0x28 24 = 0 then some d
  else none

/-- LOAD_GENERATOR_TABLE (R182). -/
def execLoadGeneratorTable (ctx : Nat) (s : State) : Out :=
  .next (match runsCommand s ctx 2 with
    | none => s
    | some c =>
      if c.regs.gencount = 0 ∨ 256 < c.regs.gencount ∨ c.regs.genbase % 64 ≠ 0 ∨ s.fills.any (fun f => f.ctx == ctx) then
        s.commandDone ctx 1
      else
        match tableLoad ctx 64 (genDesc? c.nodes) c.regs.gencount c.regs.genbase s with
        | (s, .bad) => s.commandDone ctx 1
        | (s, .later) => s
        | (s, .ok ds) => (s.modCtx ctx (fun c => { c with gens := ds })).commandDone ctx 0)

/-! ### INVALIDATE_TRANSLATIONS -/

/-- INVALIDATE_TRANSLATIONS (R95): once no walk for the range is in progress, the TLBs lose its translations, and the instruction caches its
words, since a fetch needs a leaf with X = 1 (R102). -/
def execInvalidateTranslations (ctx : Nat) (s : State) : Out :=
  .next (match runsCommand s ctx 5 with
    | none => s
    | some c =>
      let lo := c.cmdArgs.1
      let hi := c.cmdArgs.1 + c.cmdArgs.2
      if s.walks.any (fun w => w.ctx == ctx && decide (lo < (w.frame + 1) * 0x1000) && decide (w.frame * 0x1000 < hi)) then s
      else
        ({ s with
           tlb := s.tlb.filter (fun e => !(e.ctx == ctx && decide (lo < e.tr.base + e.tr.size) && decide (e.tr.base < hi)))
           icache := s.icache.filter (fun w =>
             !((s.grid? w.grid).map Grid.ctx == some ctx && decide (lo ≤ w.va) && decide (w.va < hi))) }).commandDone ctx 0)

/-! ### REMOVE_GRID (R468) -/

/-- The removed grids stand still: no unit of theirs is placed any more, nothing is stored at DONE, and their barriers are free. DESIGN CHOICE: for
the drain of a bin (R170) a removed grid counts as retired at once (log entry 111). -/
def stopGrids (s : State) (gs : List Nat) : State :=
  { s with
    grids := updWhere (fun g => gs.contains g.id)
      (fun g => { g with retired := true, stopped := true, done := 0, bars := [], records := [], nextUnit := g.unitCount }) s.grids
    units := s.units.filter (fun u => !gs.contains u.grid) }

/-- Bytes that the teams' crews author are discarded, and the L1 sectors that hold them are invalidated. -/
def discardBytes (s : State) (teams : List Nat) : State :=
  let mine := fun (b : BufByte) => match b.author with | .crew c => teams.contains c.team | .unit => false
  let gone := s.buffers.filter mine
  gone.foldl (fun s b =>
    match b.author with
    | .crew c => s.l1Drop (s.coreOf c.team) b.loc
    | .unit => s) { s with buffers := s.buffers.filter (fun b => !mine b) }

/-- The wait belongs to the teams, or to a command of theirs that is gone; commits and reductions that have been sent perform all the same. -/
def waitsFor (s : State) (teams gs : List Nat) : Waiter → Bool
  | .thread t => teams.contains t.team
  | .cmd i => (s.cmd? i).isNone
  | .query i => ((s.query? i).map (fun q => teams.contains q.thread.team)).getD false
  | .image i => ((s.images.find? (fun m => m.id == i)).bind ImageRead.crew).elim false (fun c => teams.contains c.team)
  | .batch g | .done g => gs.contains g
  | .sector t _ _ => teams.contains t
  | .issue c => teams.contains c.team
  | .prefetch t _ => teams.contains t
  | .landing _ | .red _ => false

/-- Commands of the teams that are over (R468): those that no engine has, those that stand still and those of teams that are out; each of the
others, as the device chooses, stops at an element boundary or runs to its end. Their locks are free. -/
def dropCommands (s : State) (teams : List Nat) : State :=
  let s := s.cmds.foldl (fun s c =>
    if !teams.contains c.team then s
    else if c.started.isNone || c.wait != .none || s.outside c.team then { s with cmds := s.cmds.filter (fun x => x.id != c.id) }
    else if s.choice = 0 then { s.choose with cmds := s.cmds.filter (fun x => x.id != c.id) }
    else s.choose) s
  { s with locks := s.locks.filter (fun l => s.cmds.any (fun c => c.id == l.cmd)) }

/-- The wait lists lose the teams. -/
def leaveWaits (s : State) (teams gs : List Nat) : State :=
  let s := s.leaveWaitLists (waitsFor s teams gs)
  { s with
    ctxs := s.ctxs.map (fun (c : Ctx) => { c with
      allocs := c.allocs.filter (fun a => match a.who with
        | .spawn t | .cont t => !teams.contains t.team
        | .pairs i => (s.cmd? i).isSome
        | .fill _ => true) })
    queries := s.queries.filter (fun q => !teams.contains q.thread.team)
    images := s.images.filter (fun m => !(m.crew.elim false (fun c => teams.contains c.team)))
    monitors := s.monitors.filter (fun m => !teams.contains m.thread.team)
    commits := s.commits.filter (fun w => !teams.contains w.crew.team)
    teams := updWhere (fun t => teams.contains t.id) (fun (t : Team) => { t with blocked := 0 }) s.teams
    banks := State.freeBanks (fun n => teams.contains n) s.banks }

/-- Grids are stopped and freed (R468): their teams' threads end. Teams on a core go by TEAM_RETIRE, once what they have sent is acknowledged and
their engines have stopped; the others go at once. -/
def removeGrids (s : State) (ctx : Nat) (gs : List Nat) : State :=
  let ts := s.teams.filter (fun t => gs.contains t.grid)
  let ids := ts.map Team.id
  let live := s.threads.filter (fun t => ids.contains t.id.team && t.live)
  let s := leaveWaits (dropCommands (discardBytes (stopGrids s gs) ids) ids) ids gs
  let s := live.foldl (fun s t => s.endThread t.id) s
  let s := ts.foldl (fun s t =>
    match (s.team? t.id).map Team.place with
    | some (.resident _) | some (.draining _) => s
    | _ => s.removeTeam t) s
  s.settleRetained.grants ctx

/-- REMOVE_GRID (R468): one grid and every grid that its teams launched. -/
def execRemoveGrid (ctx : Nat) (s : State) : Out :=
  .next (match runsCommand s ctx 6 with
    | none => s
    | some c =>
      State.resumeOffers { (removeGrids s ctx (s.removalSet c.cmdArgs.1)).commandDone ctx 0 with offering := true })

/-! ### COMMAND_COMPLETION -/

/-- COMMAND_COMPLETION (R290, R291): BUSY clears, the result is in CMDSTAT, and the host is interrupted. Command 6 completes once every
team of the removed grids has released its resources (R468). -/
def execCommandCompletion (ctx : Nat) (s : State) : Out :=
  whenOn (fun s => match s.ctx? ctx with
    | none => s
    | some c =>
      match c.outcome with
      | none => s
      | some r =>
        if c.regs.cmd = 6 ∧ r = 0 ∧
            s.teams.any (fun t => t.ctx == ctx && ((s.grid? t.grid).map Grid.retired).getD false) then s
        else
          (s.modCtx ctx (fun c => { c with outcome := none, regs := { c.regs with cmdstat := 0x100 * r } })).interrupt
            (.command ctx)) s

/-! ### Register writes -/

/-- CSTAT_WRITE (R289). -/
def execCstatWrite (ctx : Nat) (value : Word) (s : State) : Out := .next (s.hostWrite (0x10014 + 256 * ctx) (·.writeCstat ctx value))

/-- FRCONS_WRITE (R291). -/
def execFrconsWrite (ctx : Nat) (value : Word) (s : State) : Out := .next (s.hostWrite (0x10088 + 256 * ctx) (·.writeFrcons ctx value))

/-- ERCONS_WRITE (R291). -/
def execErconsWrite (ctx : Nat) (value : Word) (s : State) : Out := .next (s.hostWrite (0x100A0 + 256 * ctx) (·.writeErcons ctx value))

/-- REGISTER_WRITE (R288): the field that begins at the offset takes the value. -/
def execRegisterWrite (off : Nat) (value : DWord) (s : State) : Out :=
  .next (s.hostWrite off (·.writeField off (value.toNat % 2 ^ (8 * State.fieldSize off))))

/-! ### Accesses from outside -/

/-- Every byte of a run can be reached by a requester class. -/
def classReaches (s : State) (cls : ReqClass) (pa n : Nat) (write : Bool) : Bool :=
  (List.range n).all (fun i =>
    (s.deniedAt (.pa (pa + i)) cls write).isNone && !isReserved (pa + i) &&
      (match peerOf (pa + i) with | some p => s.linkTo p | none => true))

/-- The translation that stands for none: the access names a physical address. -/
def physical : Translation :=
  { base := 0, size := 0, frame := 0, w := true, x := false, c := false, e := false, d := true, gen := 0 }

/-- Writes bytes at device reach for a requester outside the cores. DESIGN CHOICE: such a write knows no page and leaves the tag byte of a sector as it
is (R86, log entry 107). -/
def outWrite (s : State) (pa : Nat) (bs : List Byte) : State :=
  bs.zipIdx.foldl (fun s b => s.devWrite 0 0 physical (.pa (pa + b.2)) [b.1]) s

/-- Every target that denies part of an access counts the denial (R297). -/
def logOut (s : State) (cls : ReqClass) (pa n : Nat) (write : Bool) : State :=
  { s with denials := s.denials ++ ((List.range n).filterMap (fun i => s.deniedAt (.pa (pa + i)) cls write)).eraseDups }

/-- The device answers. -/
def answer (s : State) (r : Reply) : State := { s with replies := s.replies ++ [r] }

/-- An atomic of a requester outside the cores, at the home, with the requester's own rights: the old value is the answer. -/
def outAtom (s : State) (pa : Nat) (wide : Bool) (f : DWord → Option DWord) : State :=
  let n := atomSize wide
  let old : DWord := BitVec.ofNat 64 (s.mem.readNat pa n)
  let s := match f old with
    | none => s
    | some new => outWrite s pa (leBytes n new.toNat)
  answer s (.data (leBytes n old.toNat))

/-- An access at a place of memory, served or denied by the access tables (R297): a denied read returns zeros, a denied write is
dropped, and the denial is logged. -/
def outAccess (s : State) (cls : ReqClass) (pa : Nat) (acc : OutAccess) : State :=
  match acc with
  | .read n =>
    if classReaches s cls pa n false then answer s (.data ((List.range n).map (fun i => s.mem.read (pa + i))))
    else answer (logOut s cls pa n false) (.data (List.replicate n 0))
  | .write bs => if classReaches s cls pa bs.length true then outWrite s pa bs else logOut s cls pa bs.length true
  | .atom op wide operand =>
    if classReaches s cls pa (atomSize wide) true && pa % atomSize wide == 0 then
      outAtom s pa wide (fun old => some (atomApply op wide old operand))
    else answer (logOut s cls pa (atomSize wide) true) .denied
  | .cas wide cmp new =>
    if classReaches s cls pa (atomSize wide) true && pa % atomSize wide == 0 then
      outAtom s pa wide (fun old => if old.toNat % 2 ^ (8 * atomSize wide) = cmp.toNat % 2 ^ (8 * atomSize wide) then some new else none)
    else answer (logOut s cls pa (atomSize wide) true) .denied

/-- The recovery mailbox (R298, log entry 58). -/
def isMailbox (off : Nat) : Bool := decide (0x200 ≤ off) && decide (off < 0x210)

/-- What the registers give an access that is not denied (R288): there are no atomics on registers. Firmware writes the access tables (R297). -/
def regServe (s : State) (cls : ReqClass) (off : Nat) (acc : OutAccess) : State :=
  match acc with
  | .read n => let r := s.readRegisters off n; answer r.1 (.data r.2)
  | .write bs =>
    if cls = .firmware then
      { s with rights := (Config.tableWrite (s.rights.map Right.numbers) (off - 0x20000) bs).map bootRight }
    else s.writeRegisters off bs
  | _ => answer s .denied

/-- An access to the device registers (R288, R297): Fomor cores alone reach them, through the access table of the fabric port (log entry 58), and
firmware its table block. A refused access is counted; a read then answers zeros. In recovery the mailbox alone answers (R298). -/
def regAccess (s : State) (cls : ReqClass) (off : Nat) (acc : OutAccess) : State :=
  let write := match acc with | .read _ => false | _ => true
  let mine := cls == .fomor || (cls == .firmware && decide (0x20000 ≤ off) && decide (off < 0x1000000))
  if !s.registersAnswer && !(s.power == .active && isMailbox off && cls == .fomor) then s
  else if !mine || (s.deniedAt (.pa (State.registerPa off)) cls write).isSome then
    let s := { s with denials := s.denials ++ [.fabric] }
    match acc with
    | .read n => answer s (.data (List.replicate n 0))
    | .write _ => s
    | _ => answer s .denied
  else regServe s cls off acc

/-- FOMOR_CORE_ACCESS (R297). In DEEP_OFF nothing answers (R301), in recovery nothing but the mailbox (R298). An access to a peer window behind a link
that is down does not come through yet (R295, log entry 105). -/
def execFomorCoreAccess (cls : ReqClass) (pa : Nat) (acc : OutAccess) (s : State) : Out :=
  .next (if isRegister pa then regAccess s cls (pa - 0x70000000000) acc
    else if s.registersAnswer && !s.delayed (.pa pa) then outAccess s cls pa acc
    else s)

/-- The address of a peer's request. -/
def tetherPa : TetherReq → Nat
  | .mem pa _ => pa
  | .notify page reg _ => State.registerPa (notifyOff page reg)

/-- TETHER_REQUEST (R295): a peer reaches local memory over a link in service, with its class's rights, and writes notify registers. Over a link that
is down nothing comes through (log entry 105). -/
def execTetherRequest (peer : Fin 4) (req : TetherReq) (s : State) : Out :=
  .next (if !s.registersAnswer ∨ !s.linkTo peer.val ∨ s.linkWaits peer.val (tetherPa req) then s
    else match req with
      | .mem pa acc => if isLocal pa then outAccess s (.peer peer) pa acc else s
      | .notify page reg value => s.writeProd page reg value)

/-! ### Links -/

/-- LINK_DOWN (R295): the count of 1 ms starts. -/
def execLinkDown (link : Fin 4) (s : State) : Out :=
  .next (match s.links[link.val]? with
    | none => s
    | some l => if l.down.isSome then s else { s with links := setAt s.links link.val { l with down := some s.time } })

/-- LINK_OUT_OF_SERVICE (R295): a link that has been down for 1 ms. -/
def execLinkOutOfService (link : Fin 4) (s : State) : Out :=
  .next (match s.links[link.val]? with
    | none => s
    | some l =>
      match l.down with
      | none => s
      | some t =>
        if t + 10 ^ 12 ≤ s.time then { s with links := setAt s.links link.val { l with outOfService := true } } else s)

end Sys2Proof.Machine
end

