-- ==== Sys2Proof/Machine/PowerEvents.lean ====
section
/-!
DEFINITION. Power, firmware and identity: POWER_ARBITER_INTERVAL and CLOCK_FACTOR_CHANGE (R300), DEEP_POWER_OFF and WAKE_REQUEST
(R301), RESET (R298), IDENTITY_REPORT (R299) and CORRECTED_SOFT_ERROR (R274). An event that cannot happen in a state leaves the state
as it is.
-/

namespace Sys2Proof.Machine

/-! ### The power arbiter (R300) -/

/-- The largest number from `lo` to `lo + n` whose prediction fits. -/
def largestFit (p : Nat → Bool) (lo : Nat) : Nat → Option Nat
  | 0 => if p lo then some lo else none
  | n + 1 => if p (lo + n + 1) then some (lo + n + 1) else largestFit p lo n

/-- F and G of an interval: the largest F from 32 to 64 that fits; where none does, F = 32 and the largest G from 1 to 64. -/
def arbiterChoice (interval : Nat) : Nat × Nat :=
  match largestFit (fun f => Config.powerFits interval f 64) 32 32 with
  | some f => (f, 64)
  | none => (32, (largestFit (fun g => Config.powerFits interval 32 g) 1 63).getD 1)

/-- POWER_ARBITER_INTERVAL (R300): at every millisecond of device time. Gating takes effect on every core. -/
def execPowerArbiterInterval (s : State) : Out :=
  .next (if s.time < (s.interval + 1) * 10 ^ 12 then s
    else
      let c := arbiterChoice s.interval
      { s with interval := s.interval + 1, factor := c.1, gate := c.2,
               cores := if c.2 = s.gate then s.cores else s.cores.map (fun x => { x with rem := 0 }) })

/-- CLOCK_FACTOR_CHANGE (R300): a core takes the arbiter's F at an instruction boundary. -/
def execClockFactorChange (core : Nat) (s : State) : Out :=
  .next (if s.cur ≠ .idle then s
    else s.modCore core (fun c => if c.f = s.factor then c else { c with f := s.factor, rem := 0 }))

/-! ### DEEP_OFF (R301) -/

/-- A context runs: it is enabled and not pre-empted. -/
def ctxRuns (c : Ctx) : Bool := c.regs.ptroot != 0 && !c.preempted

/-- A PRESENT line whose data must be kept (R185, R301). -/
def mustMove (s : State) (l : EnvLine) : Bool := !l.held && s.mustKeep l

/-- Contexts whose ballast store has no room for the lines it must take. -/
def ballastShort (s : State) : List Nat :=
  (s.ctxs.filter (fun c =>
    decide (s.ballastEntries c.id < s.ballastUsed c.id + (s.envLines.filter (fun l => l.ctx == c.id && mustMove s l)).length))).map
    Ctx.id

/-- The grids of a context that is disabled and not pre-empted have no saved image: with the power they go, as removed grids do (R301, R468). -/
def loseGrids (s : State) (ctx : Nat) : State :=
  let gs := (s.grids.filter (fun g => g.ctx == ctx && !g.retired)).map Grid.id
  let s := removeGrids s ctx gs
  let s := { s with cmds := s.cmds.filter (fun c => s.ctxId c.team != ctx) }
  (s.teams.filter (fun t => t.ctx == ctx)).foldl (fun s t => s.removeTeam t) s

/-- What is on its way ends before the power goes: what teams that keep only their record still buffer is sent (R40, log entry 40), reductions that can
perform do so, and sectors land. -/
def settleAll (s : State) : State :=
  let s := (s.teams.filter (fun t => match t.place with | .retained _ => true | _ => false)).foldl (fun s t => s.impliedTeam t.id) s
  ((s.performReds (fun _ => true)).landSome (fun _ => true)).ackSome (fun _ => true)

/-- Something is on its way that may still end in a pending fill or a landing, or that a thread waits for: a miss, a replay, a sector, a reduction, or
a walk of a context with page tables. -/
def underWay (s : State) : Bool :=
  !(s.misses.isEmpty && s.overflow.isEmpty && s.replays.isEmpty && s.landings.isEmpty && s.reds.isEmpty)
    || s.walks.any (fun w => s.enabled w.ctx)

/-- DEEP_POWER_OFF (R301): refused while a context runs, a fill is pending or a ballast store lacks room; it waits until nothing is on its way (log entry
137). Every line leaves the cache, which ends monitors (R277). What neither GDDR7, fuses nor the configuration copy hold is gone: buffers, caches,
TLBs, PC tables, and the grids of contexts that were not pre-empted. -/
def execDeepPowerOff (s : State) : Out :=
  .next (if s.power ≠ .active ∨ s.ctxs.any ctxRuns ∨ !s.fills.isEmpty ∨ s.cur ≠ .idle then s
    else
      let s := settleAll s
      if underWay s then s
      else match ballastShort s with
      | [] =>
        let s := (((s.ctxs.filter (fun c => !c.preempted)).map Ctx.id).foldl loseGrids s).wakeMonitors (fun _ => true)
        { s with
          power := .deepOff
          envLines := (s.envLines.filter (fun l => l.held || s.mustKeep l)).map (fun l => { l with held := true })
          l1 := [], icache := [], layouts := [], tlb := [], pcTable := [], buffers := [], acks := [], walks := [], pins := [], queries := []
          images := []
          locks := s.locks.filter (fun l => s.cmds.any (fun c => c.id == l.cmd))
          banks := s.banks.filter (fun b => b.core == Config.cores) }
      | cs => cs.foldl (fun s c => s.setCstat c 1) s)

/-- The image is genuine and not older than the rollback counter allows (R298). -/
def imageAccepted (img : FwImage) (rollback : Nat) : Bool :=
  Config.signatureOk img.body img.signature && decide (rollback ≤ img.version)

/-- WAKE_REQUEST (R301): firmware is verified again; an image that no longer verifies leaves the device in recovery. -/
def execWakeRequest (s : State) : Out :=
  .next (if s.power ≠ .deepOff then s
    else { s with power := .active,
                  recovery := s.recovery || (s.firmware.map (fun f => !imageAccepted f s.rollback)).getD false })

/-! ### Reset and identity -/

/-- RESET (R298): the boot ROM verifies the image; with an accepted one the device starts and firmware writes the access tables
(R297), with a refused one it is in recovery. Memory, fuses and board straps stay as they are. -/
def execReset (img : FwImage) (s : State) : Out :=
  let r := { State.reset with
    agenda := s.agenda, oracle := s.oracle, freeCtr := s.freeCtr, mem := s.mem, speeds := s.speeds, rollback := s.rollback,
    peer := s.peer, links := s.links.map (fun (l : Link) => Link.mk l.peer none false) }
  .next (if imageAccepted img s.rollback then { r with firmware := some img, rights := (Config.bootRights img.body).map bootRight }
    else { r with recovery := true })

/-- IDENTITY_REPORT (R299): a nonce of 32 bytes brings a signed report. -/
def execIdentityReport (nonce : List Byte) (s : State) : Out :=
  .next (if nonce.length ≠ 32 ∨ s.recovery ∨ s.power ≠ .active then s
    else
      match s.firmware with
      | none => s
      | some f =>
        let d := Config.digest f.body
        { s with replies := s.replies ++ [.report nonce d s.rollback s.speeds (Config.identitySign nonce d s.rollback s.speeds)] })

/-- CORRECTED_SOFT_ERROR (R274): counted, and nothing else changes. -/
def execCorrectedSoftError (s : State) : Out := .next { s with softErrors := s.softErrors + 1 }

end Sys2Proof.Machine
end

