-- ==== Sys2Proof/Machine/RecordLane.lean ====
section
/-!
DEFINITION. The lane instructions that make or read records: `SPAWN` (R168, R408), `RECLD` (R174) and `TRAV` (R416).
-/

namespace Sys2Proof.Machine

/-! ### SPAWN -/

/-- What a `SPAWN` finds before it allocates (R168, R188, R408). -/
inductive SpawnCheck where
  | trap (c : Cause)
  /-- The record and the bin part it enters. -/
  | record (r : Record) (part : Nat)

/-- The checks of `SPAWN` for a thread, a first register and a node index (R168, R188). DESIGN CHOICE: BAD_HANDLE comes before GEN_NEST (log entry
135). -/
def spawnCheck (s : State) (t : Thread) (va n : Nat) : SpawnCheck :=
  match s.team? t.id.team with
  | none => .trap .badHandle
  | some tm =>
    match s.node? tm.ctx n with
    | none => .trap .badHandle
    | some d =>
      if va + d.rsize > tm.regs then .trap .badHandle
      else if d.fill ∧ tm.fdepth = 2 then .trap .genNest
      else
        .record { words := (List.range d.rsize).map (fun j => t.reg (va + j)), pfid := none, gen := none,
                  writer := some tm.grid } (d.partOf tm.fdepth)

/-- One thread of blocking `SPAWN` (R168): its record enters the bin, or the thread parks in the queue of R166. -/
def spawnThread (o : OpSpawn) (s : State) (t : Thread) : State :=
  let n := (opb s t o.b).toNat
  match spawnCheck s t o.a.val n with
  | .trap c => s.threadTrap t c (BitVec.ofNat 32 n) 0
  | .record r part =>
    let ctx := s.ctxId t.id.team
    if s.canAlloc ctx n then ((s.enterBin ctx n part r).drainBins ctx).modThread t.id (·.advance 4)
    else (s.allocate ctx n part r (.spawn t.id)).modThread t.id (fun x => { x with park := .dryPool })

/-- `SPAWN` (R168, R408). -/
def execSpawn (o : OpSpawn) (s : State) : Out := .next (laneEach 4 o.g (spawnThread o) s)

/-- One thread of `SPAWN.NB` (R168): the predicate says whether the record entered. -/
def spawnNbThread (o : OpSpawnNb) (s : State) (t : Thread) : State :=
  let n := (opb s t o.b).toNat
  match spawnCheck s t o.a.val n with
  | .trap c => s.threadTrap t c (BitVec.ofNat 32 n) 0
  | .record r part =>
    let ctx := s.ctxId t.id.team
    if s.canAlloc ctx n then
      ((s.enterBin ctx n part r).drainBins ctx).modThread t.id (fun x => (x.setPred o.pd.val true).advance 4)
    else s.modThread t.id (fun x => (x.setPred o.pd.val false).advance 4)

/-- `SPAWN.NB` (R168, R408). -/
def execSpawnNb (o : OpSpawnNb) (s : State) : Out := .next (laneEach 4 o.g (spawnNbThread o) s)

/-! ### RECLD -/

/-- One thread of `RECLD` (R174): words at or beyond RSIZE read as zero. -/
def recldThread (o : OpRecld) (s : State) (t : Thread) : State :=
  match (s.team? t.id.team).bind (fun tm => tm.node.map (fun n => (tm.ctx, n))) with
  | none => s.threadTrap t .badHandle 0xFFFFFFFF 0
  | some (ctx, n) =>
    let size := ((s.node? ctx n).map NodeDesc.rsize).getD 0
    let words := (List.range (o.n.val + 1)).map (fun j =>
      if o.w.val + j < size then ((t.record.map Record.words).getD []).getD (o.w.val + j) 0 else 0)
    s.modThread t.id (fun x => (x.setRegs o.d.val words).advance 4)

/-- `RECLD` (R174). -/
def execRecld (o : OpRecld) (s : State) : Out := .next (laneEach 4 o.g (recldThread o) s)

/-! ### TRAV -/

/-- A thread's query goes to its cluster's traversal unit, or the thread waits for a free slot (R259, R416). -/
def issueQuery (s : State) (t : Thread) (a d base : Nat) (cont : Option Nat) : State :=
  let cl := clusterOf (s.coreOf t.id.team)
  if (s.queries.filter (fun q => clusterOf (s.coreOf q.thread.team) == cl)).length ≥ Config.querySlots then s.stallThread t.id
  else
    let q : Query := { id := s.lastId + 1, thread := t.id, cont := cont, dst := d, base := base,
                       ray := (List.range 8).map (fun i => t.reg (a + i)), wait := .none }
    State.modThread { s.fresh with queries := s.queries ++ [q] } t.id (fun x => { x with park := .query, cont := cont.isSome })

/-- The base of a query: the k pair that B names (R416). -/
def travBase (s : State) (t : Thread) (b : Nat) : Nat := ((s.crew? t.id.crewId).map (fun c => c.pair b)).getD 0

/-- The checks of a query's base (R416), then what `f` does. -/
def withBase (s : State) (t : Thread) (b : Nat) (f : Nat → State) : State :=
  let base := travBase s t b
  if base ≥ 2 ^ 52 then s.addrTrap t .access base
  else if base % 128 ≠ 0 then s.addrTrap t .misaligned base
  else f base

/-- `TRAV` (R416), the blocking form. -/
def execTrav (o : OpTrav) (s : State) : Out :=
  .next (laneEach 4 o.g (fun s t =>
    withBase s t o.b.val (fun base => issueQuery s t o.a.val o.d.val base none)) s)

/-- One thread of `TRAV.CONT` after its base's checks (R175, R188, R416). -/
def travContThread (o : OpTrav) (s : State) (t : Thread) (base : Nat) : State :=
  let n := (t.reg o.d.val).toNat
  match s.node? (s.ctxId t.id.team) n with
  | none => s.threadTrap t .badHandle (BitVec.ofNat 32 n) 0
  | some d =>
    if d.rsize < 4 then s.threadTrap t .badHandle (BitVec.ofNat 32 n) 0
    else if d.fill ∧ s.fdepthOf t.id.team = 2 then s.threadTrap t .genNest (BitVec.ofNat 32 n) 0
    else issueQuery s t o.a.val 0 base (some n)

/-- `TRAV.CONT` (R175, R416). -/
def execTravCont (o : OpTrav) (s : State) : Out :=
  .next (laneEach 4 o.g (fun s t => withBase s t o.b.val (travContThread o s t)) s)

end Sys2Proof.Machine
end

