-- ==== Sys2Proof/Machine/Hierarchy.lean ====
section
/-!
DEFINITION. Bounding-volume hierarchies (R248 to R252): interior nodes, leaf blocks, decoded boxes; and the exact tests of rays
against boxes and triangles (R254, R255), the order of hits (R256) and the hit record (R257).
-/

namespace Sys2Proof.Machine

/-! ### FP32 values as integers -/

/-- The unit of `fixed`: 2^149. -/
def fixedOne : Int := (2 ^ 149 : Nat)

/-- A finite FP32 value in units of 2^-149, in which every one of them is a whole number; 0 for the others. -/
def fixed (w : Word) : Int :=
  match f32 w with
  | .fin s m e => (if s then -1 else 1) * ((m * 2 ^ (e + 149).toNat : Nat) : Int)
  | _ => 0

/-- Is an FP32 word finite? -/
def isFinite (w : Word) : Bool :=
  match f32 w with
  | .fin _ _ _ => true
  | _ => false

/-! ### Interior nodes and leaf blocks -/

/-- A bound of a decoded box in units of 2^-149; none is an infinity. -/
abbrev Bound := Option Int

/-- A decoded box: low and high bounds on three axes. -/
structure Box where
  lo : List Bound
  hi : List Bound
deriving DecidableEq, Repr

/-- A child of an interior node. -/
structure Kid where
  ref : Nat
  leaf : Bool
  box : Box
deriving DecidableEq, Repr

/-- A bound from its FP32 word. -/
def boundOf (w : Word) : Bound := if isFinite w then some (fixed w) else none

/-- One bound of a child box: LO + h × SCALE, exact, then rounded outward (R250). -/
def childBound (mode : RMode) (lo scale : Word) (h : Nat) : Bound :=
  boundOf (BitVec.ofNat 32 (Fmt.f32.round mode (Fp.add (f32 lo) (Fp.mul (Fmt.f16.decode h) (f32 scale)))))

/-- An FP16 code is finite. -/
def finite16 (h : Nat) : Bool :=
  match Fmt.f16.decode h with
  | .fin _ _ _ => true
  | _ => false

/-- The children of an interior node, from its 128 bytes; none when it is malformed (R249, R252). -/
def interior? (bs : List Byte) : Option (List Kid) :=
  let byte := fun (i : Nat) => (bs.getD i 0).toNat
  let half := fun (i : Nat) => byte i + 0x100 * byte (i + 1)
  let word := fun (i : Nat) => (BitVec.ofNat 32 (leNat ((bs.drop i).take 4)) : Word)
  let cnt := byte 0x18
  let kind := byte 0x19
  let code := fun (c hi axis : Nat) => half (0x20 + 12 * c + 6 * hi + 2 * axis)
  let axes := [0, 1, 2]
  let head := axes.all (fun a => isFinite (word (4 * a)) && isFinite (word (0xC + 4 * a)) && decide (0 < fixed (word (0xC + 4 * a))))
    && decide (1 ≤ cnt) && decide (cnt ≤ 4) && decide (kind < 2 ^ cnt)
    && (List.range 6).all (fun i => byte (0x1A + i) == 0) && (List.range 32).all (fun i => byte (0x60 + i) == 0)
    && (List.range 4).all (fun c => decide (c < cnt) || (word (0x50 + 4 * c) == 0))
  let boxes := (List.range cnt).all (fun c => axes.all (fun a =>
    finite16 (code c 0 a) && finite16 (code c 1 a) && Fp.cmp (Fmt.f16.decode (code c 0 a)) (Fmt.f16.decode (code c 1 a)) != .gt))
  if head && boxes then
    some ((List.range cnt).map (fun c =>
      { ref := (word (0x50 + 4 * c)).toNat, leaf := bitAt kind c,
        box := { lo := axes.map (fun a => childBound .rm (word (4 * a)) (word (0xC + 4 * a)) (code c 0 a)),
                 hi := axes.map (fun a => childBound .rp (word (4 * a)) (word (0xC + 4 * a)) (code c 1 a)) } }))
  else none

/-- A triangle's vertices. -/
structure Tri where
  v0 : List Word
  v1 : List Word
  v2 : List Word
deriving DecidableEq, Repr

/-- PRIMBASE and the triangles of a leaf block, from its 384 bytes; none when it is malformed (R251, R252). -/
def leaf? (bs : List Byte) : Option (Nat × List Tri) :=
  let byte := fun (i : Nat) => (bs.getD i 0).toNat
  let word := fun (i : Nat) => (BitVec.ofNat 32 (leNat ((bs.drop i).take 4)) : Word)
  let n := byte 0
  let base := (word 4).toNat
  let zero := fun (at_ k : Nat) => (List.range k).all (fun i => byte (at_ + i) == 0)
  if decide (1 ≤ n) && decide (n ≤ 8) && zero 1 3 && decide (base + n - 1 < 2 ^ 32 - 1) && zero 8 24 && zero 0x140 64 then
    some (base, (List.range n).map (fun t =>
      let vertex := fun (k : Nat) => [0, 1, 2].map (fun a => word (0x20 + 36 * t + 12 * k + 4 * a))
      ⟨vertex 0, vertex 1, vertex 2⟩))
  else none

/-- The bytes of a block that a walk reads, by its first 32 bytes: not the boxes at or above CNT of an interior node (R250), nor the triangles at or
above NTRI of a leaf block (R251). -/
def blockBytes (leaf : Bool) (head : List Byte) (i : Nat) : Bool :=
  let count := (head.getD (if leaf then 0 else 0x18) 0).toNat
  let most := if leaf then 8 else 4
  let each := if leaf then 36 else 12
  decide (i < 0x20) || (decide (1 ≤ count) && decide (count ≤ most) && (decide (i < 0x20 + each * count) || decide (0x20 + each * most ≤ i)))

/-- Bytes of an interior node or a leaf block. -/
def blockSize (leaf : Bool) : Nat := if leaf then 384 else 128

/-! ### Boxes (R250, R254, R263) -/

/-- The lower of two low bounds. -/
def lowOf : Bound → Bound → Bound
  | some a, some b => some (min a b)
  | _, _ => none

/-- The higher of two high bounds. -/
def highOf : Bound → Bound → Bound
  | some a, some b => some (max a b)
  | _, _ => none

/-- The union of two boxes. -/
def Box.union (a b : Box) : Box :=
  ⟨List.zipWith lowOf a.lo b.lo, List.zipWith highOf a.hi b.hi⟩

/-- The box of a root: the union of its children's (R250). -/
def rootBox (l : List Kid) : Box :=
  match l.map Kid.box with
  | [] => ⟨[], []⟩
  | b :: bs => bs.foldl Box.union b

/-- A low bound is at or below a high bound. -/
def boundLe : Bound → Bound → Bool
  | some a, some b => decide (a ≤ b)
  | _, _ => true

/-- Closed boxes overlap (R263). -/
def Box.overlaps (a b : Box) : Bool :=
  (List.zipWith boundLe a.lo b.hi).all id && (List.zipWith boundLe b.lo a.hi).all id

/-! ### Rays -/

/-- A fraction with a positive denominator. -/
structure Frac where
  num : Int
  den : Int
deriving DecidableEq, Repr

/-- a ≤ b. -/
def Frac.le (a b : Frac) : Bool := decide (a.num * b.den ≤ b.num * a.den)

/-- a < b. -/
def Frac.lt (a b : Frac) : Bool := decide (a.num * b.den < b.num * a.den)

/-- The fraction n/d for a d of either sign, d ≠ 0. -/
def frac (n d : Int) : Frac := if d < 0 then ⟨-n, -d⟩ else ⟨n, d⟩

/-- A ray in units of 2^-149, with the bounds of t that are finite (R253). -/
structure Ray where
  o : List Int
  d : List Int
  tmin : Option Frac
  tmax : Option Frac
deriving DecidableEq, Repr

/-- The ray of eight words; none when the query is empty (R253), or when no real t lies between tmin and tmax. -/
def ray? (ws : List Word) : Option Ray :=
  let w := fun (i : Nat) => ws.getD i 0
  let o := [w 0, w 1, w 2]
  let d := [w 4, w 5, w 6]
  let tmin := w 3
  let tmax := w 7
  let bound := fun (t : Word) => if isFinite t then some (⟨fixed t, fixedOne⟩ : Frac) else none
  if ws.any (fun x => (f32 x).isNan) || Fp.cmp (f32 tmin) (f32 tmax) == .gt || d.all (fun x => (f32 x).isZero)
      || (o ++ d).any (fun x => (f32 x).isInf) || f32 tmin == .inf false || f32 tmax == .inf true then none
  else some ⟨o.map fixed, d.map fixed, bound tmin, bound tmax⟩

/-- The bounds of t that one axis of a box gives: lower ones, upper ones, and whether the axis allows any t. -/
def axisBounds (o d : Int) (lo hi : Bound) : List Frac × List Frac × Bool :=
  let l := (lo.map (fun x => frac (x - o) d)).toList
  let h := (hi.map (fun x => frac (x - o) d)).toList
  if d = 0 then ([], [], boundLe lo (some o) && boundLe (some o) hi)
  else if d < 0 then (h, l, true)
  else (l, h, true)

/-- The box meets the ray: some t of the interval lies within the bounds of every axis (R254). -/
def Box.meets (b : Box) (r : Ray) : Bool :=
  let ax := (List.range 3).map (fun i =>
    axisBounds (r.o.getD i 0) (r.d.getD i 0) (b.lo.getD i none) (b.hi.getD i none))
  let lows := r.tmin.toList ++ ax.flatMap (fun x => x.1)
  let highs := r.tmax.toList ++ ax.flatMap (fun x => x.2.1)
  ax.all (fun x => x.2.2) && lows.all (fun l => highs.all (fun h => l.le h))

/-- Scalar product. -/
def dot3 (a b : List Int) : Int := (List.zipWith (· * ·) a b).foldl (· + ·) 0

/-- Vector product. -/
def cross3 (a b : List Int) : List Int :=
  let x := fun (l : List Int) (i : Nat) => l.getD i 0
  [x a 1 * x b 2 - x a 2 * x b 1, x a 2 * x b 0 - x a 0 * x b 2, x a 0 * x b 1 - x a 1 * x b 0]

/-- Difference of vectors. -/
def sub3 (a b : List Int) : List Int := List.zipWith (· - ·) a b

/-- A hit (R255, R256): exact t, primitive number, leaf offset, triangle index, u and v over `den`, and BACK. -/
structure Hit where
  t : Frac
  prim : Nat
  leaf : Nat
  index : Nat
  u : Int
  v : Int
  den : Int
  back : Bool
deriving DecidableEq, Repr

/-- The test of one triangle (R255): t = (e2·q)/det, u = (s·p)/det and v = (d·q)/det with p = d × e2, q = s × e1, s = o − v0. -/
def hitTri (r : Ray) (prim leaf index : Nat) (x : Tri) : Option Hit :=
  if !(x.v0 ++ x.v1 ++ x.v2).all isFinite then none
  else
    let v0 := x.v0.map fixed
    let e1 := sub3 (x.v1.map fixed) v0
    let e2 := sub3 (x.v2.map fixed) v0
    let s := sub3 r.o v0
    let p := cross3 r.d e2
    let q := cross3 s e1
    let det := dot3 e1 p
    let sg : Int := if det < 0 then -1 else 1
    let den := sg * det
    let u := sg * dot3 s p
    let v := sg * dot3 r.d q
    let t : Frac := ⟨sg * dot3 e2 q, den⟩
    if det = 0 ∨ u < 0 ∨ v < 0 ∨ den < u + v then none
    else if (r.tmin.map (fun m => m.le t)).getD true && (r.tmax.map (fun m => t.le m)).getD true then
      some ⟨t, prim, leaf, index, u, v, den, decide (0 < dot3 r.d (cross3 e1 e2))⟩
    else none

/-- `a` comes before `b` by the key of R256. -/
def Hit.before (a b : Hit) : Bool :=
  a.t.lt b.t || (!b.t.lt a.t && (decide (a.prim < b.prim) || (a.prim == b.prim &&
    (decide (a.leaf < b.leaf) || (a.leaf == b.leaf && decide (a.index < b.index))))))

/-- The nearer of two results. -/
def nearer : Option Hit → Option Hit → Option Hit
  | none, b => b
  | a, none => a
  | some a, some b => if b.before a then some b else some a

/-- The hits of a leaf's triangles, the nearest of them. -/
def leafHit (r : Ray) (leaf base : Nat) (l : List Tri) : Option Hit :=
  (l.zipIdx.map (fun x => hitTri r (base + x.2) leaf x.2 x.1)).foldl nearer none

/-- round_rne of a fraction to FP32 (R211): 160 binary places and a sticky bit hold all that the rounding looks at. -/
def rneFrac (x : Frac) : Word :=
  let n := x.num.natAbs * 2 ^ 160
  let d := x.den.natAbs
  BitVec.ofNat 32 (Fmt.f32.round .rn (.fin (decide (x.num < 0)) (2 * (n / d) + (if n % d = 0 then 0 else 1)) (-161)))

/-- n/d rounded to the nearest integer, ties to even, for n ≥ 0 and d > 0. -/
def rneDiv (n d : Nat) : Nat :=
  let q := n / d
  if 2 * (n % d) > d ∨ (2 * (n % d) = d ∧ q % 2 = 1) then q + 1 else q

/-- The four words of a hit record (R257). -/
def hitRecord : Option Hit → List Word
  | none => [0x7F800000, 0xFFFFFFFF, 0, 0]
  | some h =>
    let unit := fun (x : Int) => rneDiv (x.toNat * 65535) h.den.toNat
    [rneFrac h.t, BitVec.ofNat 32 h.prim, BitVec.ofNat 32 (unit h.u + 0x10000 * unit h.v),
     BitVec.ofNat 32 (1 + 2 * h.back.toNat + 4 * h.index)]

end Sys2Proof.Machine
end

