-- ==== Sys2Proof/Machine/TravEvents.lean ====
section
/-!
DEFINITION. The events of the traversal units: TRAVERSAL_RESULT (R253 to R259, R175), PAIRS_EMISSION (R263, R264) and
PAIRS_COMPLETION (R265). An event that cannot happen in a state leaves the state as it is.
-/

namespace Sys2Proof.Machine

/-! ### Ray queries -/

/-- How far a query's walk comes. -/
inductive QueryWalk where
  | best (h : Option Hit)
  | wait (w : CmdWait)
  | refused (va : Nat)
  /-- A malformed block, by its offset from the base in 128-byte units (R258). -/
  | malformed (off : Nat)
deriving DecidableEq, Repr

/-- Reads those bytes of a block of a query's hierarchy that are wanted, line by line at device reach (R126, R259), and goes on with them. -/
def queryRead (q : Query) (want : Nat → Bool) :
    Nat → Nat → List Byte → State → (State → List Byte → State × QueryWalk) → State × QueryWalk
  | 0, _, acc, s, f => f s acc
  | lines + 1, va, acc, s, f =>
    let team := q.thread.team
    match s.reachSome (s.coreOf team) (s.ctxId team) va 128 (fun i => want (acc.length + i)) (s.fdepthOf team) (s.effClass team) .engRead
        (.query q.id) with
    | (s, .wait w) => (s, .wait w)
    | (s, .refused) => (s, .refused va)
    | (s, .ok bs) => queryRead q want lines (va + 128) (acc ++ bs) s f

/-- A node or leaf block at an offset from the base, its first 32 bytes first, which say what else is read (R250, R251); a block beyond 2^52 counts
as malformed (R252). -/
def queryBlock (q : Query) (off : Nat) (leaf : Bool) (s : State) (f : State → List Byte → State × QueryWalk) : State × QueryWalk :=
  let va := q.base + 128 * off
  if va + blockSize leaf > 2 ^ 52 then (s, .malformed off)
  else
    queryRead q (fun i => decide (i < 32)) 1 va [] s (fun s head => queryRead q (blockBytes leaf head) (blockSize leaf / 128) va [] s f)

/-- The walk from an interior node, for at most `n` interior nodes of a path (R248, R254, R256): children whose box meets the ray, in
index order. -/
def queryNode (q : Query) (r : Ray) : Nat → Nat → Option Hit → State → State × QueryWalk
  | 0, off, _, s => (s, .malformed off)
  | n + 1, off, h, s =>
    queryBlock q off false s (fun s bs =>
      match interior? bs with
      | none => (s, .malformed off)
      | some kids =>
        kids.foldl (fun (x : State × QueryWalk) k =>
          match x.2 with
          | .best h =>
            if !k.box.meets r then x
            else if k.leaf then
              queryBlock q k.ref true x.1 (fun s bs =>
                match leaf? bs with
                | none => (s, .malformed k.ref)
                | some (base, tris) => (s, .best (nearer h (leafHit r k.ref base tris))))
            else queryNode q r n k.ref h x.1
          | _ => x) (s, .best h))

/-- The result of a query (R253, R256). -/
def queryWalk (q : Query) (s : State) : State × QueryWalk :=
  match ray? q.ray with
  | none => (s, .best none)
  | some r => queryNode q r 64 0 none s

/-- The query is over. -/
def dropQuery (s : State) (id : Nat) : State := { s with queries := s.queries.filter (fun q => q.id != id) }

/-- The hit record of a blocking query goes to four registers, and the thread continues (R257). -/
def queryWrite (s : State) (q : Query) (ws : List Word) : State :=
  ((dropQuery s q.id).noteWake [q.thread]).modThread q.thread (fun t =>
    { (t.setRegs q.dst ws).advance 4 with park := .none })

/-- A continuation (R175): its record is allocated as a blocking `SPAWN` would allocate it, and the thread ends with the grant. DESIGN CHOICE: a carried
register at or beyond the team's REGS gives the word that the thread's list of 64 holds there (log entry 134). -/
def queryContinue (s : State) (q : Query) (n : Nat) (ws : List Word) : State :=
  match s.thread? q.thread, s.team? q.thread.team with
  | some t, some tm =>
    (match s.node? tm.ctx n with
     | none => s
     | some d =>
       let carried := (List.range (d.rsize - 4)).map (fun j => t.reg (d.creg + j))
       let r : Record := { words := carried ++ ws, pfid := none, gen := none, writer := some tm.grid }
       let part := d.partOf tm.fdepth
       let s := dropQuery s q.id
       if s.canAlloc tm.ctx n then
         (State.exitThread ((s.enterBin tm.ctx n part r).noteWake [t.id]) t.id)
       else
         (s.allocate tm.ctx n part r (.cont t.id)).modThread t.id (fun x => { x with park := .dryPool }))
  | _, _ => s

/-- A query that does not wait ends, its walk waits, or it raises a trap (R257, R258). -/
def queryResult (id : Nat) (s : State) : State :=
  match s.query? id with
    | none => s
    | some q =>
      if q.wait ≠ .none then s
      else
        match queryWalk q s with
        | (s, .wait w) => s.modQuery id (fun x => { x with wait := w })
        | (s, .refused va) => s.failWaiter (s.ctxId q.thread.team) ⟨.query id, va, .engRead⟩ .denied
        | (s, .malformed off) =>
          (match s.thread? q.thread with
           | none => s
           | some t => (dropQuery s id).threadTrap t .badHandle (BitVec.ofNat 32 off) 0)
        | (s, .best h) =>
          (match q.cont with
           | none => queryWrite s q (hitRecord h)
           | some n => queryContinue s q n (hitRecord h))

/-- TRAVERSAL_RESULT (R257, R258): the query's result is written or becomes a continuation; its walk waits, or raises a trap. -/
def execTraversalResult (id : Nat) (s : State) : Out := whenOn (queryResult id) s

/-- The access of a waiter other than a thread replays (R196): a query's whole walk starts again from the root (R259) before the next waiter's
access, and the lines that stayed for it may leave then, unless its translation has to be found again (R198). -/
def replayWaiter (s : State) (j : Joined) : State :=
  match j.who with
  | .query i =>
    let s := queryResult i (s.resumeWaiter j)
    if s.translates j.who then s else s.unpin j.who
  | _ => s.replayNow j

/-! ### PAIRS -/

/-- The two hierarchies of a command. -/
inductive Side where
  | a | b
deriving DecidableEq, Repr

/-- A block that a `PAIRS` walk has read: where it is, its box, its depth among the interior nodes of its path, its children. -/
structure HNode where
  side : Side
  ref : Nat
  leaf : Bool
  box : Box
  depth : Nat
  kids : List Kid
deriving DecidableEq, Repr

/-- How far a `PAIRS` walk comes. -/
inductive PairsWalk where
  /-- So many pairs are still to be passed over. -/
  | skip (n : Nat)
  | found (a b : Nat) (same : Bool)
  | wait (w : CmdWait)
  /-- ENG_FAULT with a detail (R265). -/
  | fail (detail : Nat)
deriving DecidableEq, Repr

/-- The block of a command. -/
def EngCmd.pairs (c : EngCmd) : PairsBlock := PairsBlock.of c.block

/-- Base and bytes of a hierarchy (R261). -/
def sideOf (b : PairsBlock) : Side → Nat × Nat
  | .a => (b.abase, b.abytes)
  | .b => (b.bbase, b.bbytes)

/-- Reads those bytes of a block of a command's hierarchy that are wanted (R126, R394), and goes on with them. -/
def pairsRead (c : EngCmd) (want : Nat → Bool) (va n : Nat) (s : State) (f : State → List Byte → State × PairsWalk) : State × PairsWalk :=
  match State.engGlobal c (fun p => want (p - va)) (fun _ => false) (n + 1) va n s with
  | (s, .ok bs) => f s bs
  | (s, .wait w) => (s, .wait w)
  | (s, .refused) | (s, .absent) => (s, .fail 1)

/-- Follows a reference: the depth limit and the permitted region are checked, and the block is read (R248, R252, R394). -/
def follow (c : EngCmd) (side : Side) (ref : Nat) (leaf : Bool) (box : List Kid → Box) (depth : Nat) (s : State)
    (f : State → HNode → State × PairsWalk) : State × PairsWalk :=
  let x := sideOf c.pairs side
  let va := x.1 + 128 * ref
  if !leaf && decide (64 < depth) then (s, .fail 5)
  else if 128 * ref + blockSize leaf > x.2 then (s, .fail 4)
  else if va + blockSize leaf > 2 ^ 52 then (s, .fail 1)
  else
    pairsRead c (fun i => decide (i < 32)) va 32 s (fun s head =>
      pairsRead c (blockBytes leaf head) va (blockSize leaf) s (fun s bs =>
        if leaf then (if (leaf? bs).isSome then f s ⟨side, ref, true, box [], depth, []⟩ else (s, .fail 5))
        else match interior? bs with
          | none => (s, .fail 5)
          | some kids => f s ⟨side, ref, false, box kids, depth, kids⟩))

/-- Goes on with a walk that still passes over pairs. -/
def goOn (x : State × PairsWalk) (f : State → Nat → State × PairsWalk) : State × PairsWalk :=
  match x.2 with
  | .skip n => f x.1 n
  | _ => x

/-- Passes over a pair, or finds it. -/
def pairAt (a b : Nat) (same : Bool) (n : Nat) (s : State) : State × PairsWalk :=
  match n with
  | 0 => (s, .found a b same)
  | k + 1 => (s, .skip k)

/-- cross(a, b) of R263; each call below follows one child, so 2·64 levels are enough. -/
def crossWalk (c : EngCmd) : Nat → HNode → HNode → Nat → State → State × PairsWalk
  | 0, _, _, _, s => (s, .fail 5)
  | fuel + 1, a, b, n, s =>
    if !a.leaf then
      a.kids.foldl (fun x k => goOn x (fun s n =>
        if k.box.overlaps b.box then
          follow c a.side k.ref k.leaf (fun _ => k.box) (a.depth + 1) s (fun s ca => crossWalk c fuel ca b n s)
        else (s, .skip n))) (s, .skip n)
    else if !b.leaf then
      b.kids.foldl (fun x k => goOn x (fun s n =>
        if a.box.overlaps k.box then
          follow c b.side k.ref k.leaf (fun _ => k.box) (b.depth + 1) s (fun s cb => crossWalk c fuel a cb n s)
        else (s, .skip n))) (s, .skip n)
    else pairAt a.ref b.ref false n s

/-- self(n) of R263. -/
def selfWalk (c : EngCmd) : Nat → HNode → Nat → State → State × PairsWalk
  | 0, _, _, s => (s, .fail 5)
  | fuel + 1, nd, n, s =>
    nd.kids.zipIdx.foldl (fun x k => goOn x (fun s n =>
      follow c nd.side k.1.ref k.1.leaf (fun _ => k.1.box) (nd.depth + 1) s (fun s ci =>
        let first := if ci.leaf then pairAt ci.ref ci.ref true n s else selfWalk c fuel ci n s
        (nd.kids.drop (k.2 + 1)).foldl (fun x j => goOn x (fun s n =>
          if k.1.box.overlaps j.box then
            follow c nd.side j.ref j.leaf (fun _ => j.box) (nd.depth + 1) s (fun s cj => crossWalk c 130 ci cj n s)
          else (s, .skip n))) first))) (s, .skip n)

/-- The pair of an ordinal in the emission sequence (R263); in self mode the lower offset comes first (R264). -/
def pairsWalk (c : EngCmd) (ordinal : Nat) (s : State) : State × PairsWalk :=
  follow c .a 0 false rootBox 1 s (fun s ra =>
    if c.pairs.self then
      match selfWalk c 65 ra ordinal s with
      | (s, .found a b same) => (s, .found (min a b) (max a b) same)
      | r => r
    else follow c .b 0 false rootBox 1 s (fun s rb => crossWalk c 130 ra rb ordinal s))

/-- The ordinal at which a command starts (R265). -/
def EngCmd.start (c : EngCmd) : Nat := if c.pairs.resume then c.pairs.token else 0

/-- The command that its traversal unit runs: the first to have reached it, one at a time (R264, R394). -/
def pairsTurn (s : State) (id : Nat) : Option EngCmd :=
  let cl := fun (c : EngCmd) => clusterOf (s.coreOf c.team)
  (s.cmd? id).bind (fun c =>
    if c.kind == .pairs && c.started.isSome && c.wait == .none && !s.outside c.team &&
        s.cmds.all (fun d => !(d.kind == .pairs && d.id != id && d.started.isSome && cl d == cl c
          && !s.outside d.team && decide (d.started.getD 0 < c.started.getD 0))) then some c else none)

/-- The record of a pair (R264). -/
def pairRecord (c : EngCmd) (rsize a b : Nat) (same : Bool) (ordinal : Nat) : Record :=
  { words := [BitVec.ofNat 32 a, BitVec.ofNat 32 b, c.pairs.user, BitVec.ofNat 32 same.toNat, BitVec.ofNat 32 ordinal,
              BitVec.ofNat 32 (ordinal / 2 ^ 32)] ++ List.replicate (rsize - 6) 0,
    pfid := none, gen := none, writer := none }

/-- PAIRS_EMISSION (R264): the next pair's record enters its bin, or the command waits for the dry pool. With the last pair that LIMIT allows the
hierarchies are read for the last time, and their locks are free (R97). -/
def execPairsEmission (id : Nat) (s : State) : Out :=
  whenOn (fun s => match pairsTurn s id with
    | none => s
    | some c =>
      if c.result.isSome || decide (c.pairs.limit ≤ c.progress) then s
      else
        let ordinal := c.start + c.progress
        match pairsWalk c ordinal s with
        | (t, .found a b same) =>
          let t := if c.progress + 1 < c.pairs.limit then t else { t with locks := t.locks.filter (fun l => l.cmd != id) }
          let ctx := s.ctxId c.team
          let rsize := ((t.node? ctx c.pairs.node).map NodeDesc.rsize).getD 6
          let r := pairRecord c rsize a b same ordinal
          if t.canAlloc ctx c.pairs.node then
            ((t.enterBin ctx c.pairs.node 0 r).modCmd id (fun x => { x with progress := x.progress + 1 })).drainBins ctx
          else (t.allocate ctx c.pairs.node 0 r (.pairs id)).modCmd id (fun x => { x with wait := .pool })
        | (t, .wait w) => t.modCmd id (fun x => { x with wait := w })
        | _ => s) s

/-- The end of a command (R265): COUNT, TOKEN and STATUS are written, the line's presence bit is set, the locks are free. -/
def finishPairs (s : State) (c : EngCmd) (status : Nat) : State :=
  let s := s.spadWrite c.team (c.addr + 0x30) (leBytes 4 c.progress)
  let s := s.spadWrite c.team (c.addr + 0x28) (leBytes 8 (c.start + c.progress))
  (s.spadWrite c.team (c.addr + 0x3C) (leBytes 4 status)).endCmd c

/-- PAIRS_COMPLETION (R265): the command has failed, has reached LIMIT, or finds no further pair. -/
def execPairsCompletion (id : Nat) (s : State) : Out :=
  whenOn (fun s => match pairsTurn s id with
    | none => s
    | some c =>
      match c.result with
      | some r => finishPairs s c (r.1 + 0x100 * r.2)
      | none =>
        if c.pairs.limit ≤ c.progress then finishPairs s c 1
        else
          match pairsWalk c (c.start + c.progress) s with
          | (t, .skip _) => finishPairs t c 0
          | (t, .fail d) => finishPairs t c (0x0F + 0x100 * d)
          | (t, .wait w) => t.modCmd id (fun x => { x with wait := w })
          | (_, .found _ _ _) => s) s

end Sys2Proof.Machine
end

