-- ==== Sys2Proof/Machine/Dispatch.lean ====
section
/-! DEFINITION. One arm per constructor of `Instr`: each is one direct call of its meaning. -/

namespace Sys2Proof.Machine

/-- What an instruction or event does (R392 and the rules named at the meanings). -/
def exec (i : Instr) (s : State) : Host.Outcome State Fault Refusal :=
  match i with
  | .nop g => Sys2Proof.Machine.execNop g s
  | .iadd o => Sys2Proof.Machine.execIadd o s
  | .isub o => Sys2Proof.Machine.execIsub o s
  | .iaddw o => Sys2Proof.Machine.execIaddw o s
  | .imul o => Sys2Proof.Machine.execImul o s
  | .imulhS32 o => Sys2Proof.Machine.execImulhS32 o s
  | .imulhN32 o => Sys2Proof.Machine.execImulhN32 o s
  | .imad o => Sys2Proof.Machine.execImad o s
  | .iminS o => Sys2Proof.Machine.execIminS o s
  | .imaxS o => Sys2Proof.Machine.execImaxS o s
  | .iminN o => Sys2Proof.Machine.execIminN o s
  | .imaxN o => Sys2Proof.Machine.execImaxN o s
  | .and o => Sys2Proof.Machine.execAnd o s
  | .or o => Sys2Proof.Machine.execOr o s
  | .xor o => Sys2Proof.Machine.execXor o s
  | .andn o => Sys2Proof.Machine.execAndn o s
  | .shl o => Sys2Proof.Machine.execShl o s
  | .shr o => Sys2Proof.Machine.execShr o s
  | .sra o => Sys2Proof.Machine.execSra o s
  | .clz o => Sys2Proof.Machine.execClz o s
  | .popc o => Sys2Proof.Machine.execPopc o s
  | .brev o => Sys2Proof.Machine.execBrev o s
  | .bfxN o => Sys2Proof.Machine.execBfxN o s
  | .bfxS o => Sys2Proof.Machine.execBfxS o s
  | .bfi o => Sys2Proof.Machine.execBfi o s
  | .icmp o => Sys2Proof.Machine.execIcmp o s
  | .sel o => Sys2Proof.Machine.execSel o s
  | .mov o => Sys2Proof.Machine.execMov o s
  | .mov64 o => Sys2Proof.Machine.execMov64 o s
  | .faddF32 o => Sys2Proof.Machine.execFaddF32 o s
  | .fsubF32 o => Sys2Proof.Machine.execFsubF32 o s
  | .fmulF32 o => Sys2Proof.Machine.execFmulF32 o s
  | .ffmaF32 o => Sys2Proof.Machine.execFfmaF32 o s
  | .faddF16x2 o => Sys2Proof.Machine.execFaddF16x2 o s
  | .fsubF16x2 o => Sys2Proof.Machine.execFsubF16x2 o s
  | .fmulF16x2 o => Sys2Proof.Machine.execFmulF16x2 o s
  | .ffmaF16x2 o => Sys2Proof.Machine.execFfmaF16x2 o s
  | .faddBf16x2 o => Sys2Proof.Machine.execFaddBf16x2 o s
  | .fsubBf16x2 o => Sys2Proof.Machine.execFsubBf16x2 o s
  | .fmulBf16x2 o => Sys2Proof.Machine.execFmulBf16x2 o s
  | .ffmaBf16x2 o => Sys2Proof.Machine.execFfmaBf16x2 o s
  | .fminF32 o => Sys2Proof.Machine.execFminF32 o s
  | .fmaxF32 o => Sys2Proof.Machine.execFmaxF32 o s
  | .fminF16x2 o => Sys2Proof.Machine.execFminF16x2 o s
  | .fmaxF16x2 o => Sys2Proof.Machine.execFmaxF16x2 o s
  | .fminBf16x2 o => Sys2Proof.Machine.execFminBf16x2 o s
  | .fmaxBf16x2 o => Sys2Proof.Machine.execFmaxBf16x2 o s
  | .fcmp o => Sys2Proof.Machine.execFcmp o s
  | .fsfn o => Sys2Proof.Machine.execFsfn o s
  | .cvt o => Sys2Proof.Machine.execCvt o s
  | .qscl o => Sys2Proof.Machine.execQscl o s
  | .lea o => Sys2Proof.Machine.execLea o s
  | .shfl o => Sys2Proof.Machine.execShfl o s
  | .vote o => Sys2Proof.Machine.execVote o s
  | .voteBallot o => Sys2Proof.Machine.execVoteBallot o s
  | .creduce o => Sys2Proof.Machine.execCreduce o s
  | .elect o => Sys2Proof.Machine.execElect o s
  | .srd o => Sys2Proof.Machine.execSrd o s
  | .ldt o => Sys2Proof.Machine.execLdt o s
  | .trav o => Sys2Proof.Machine.execTrav o s
  | .travCont o => Sys2Proof.Machine.execTravCont o s
  | .spawn o => Sys2Proof.Machine.execSpawn o s
  | .spawnNb o => Sys2Proof.Machine.execSpawnNb o s
  | .recld o => Sys2Proof.Machine.execRecld o s
  | .ld o => Sys2Proof.Machine.execLd o s
  | .st o => Sys2Proof.Machine.execSt o s
  | .lds o => Sys2Proof.Machine.execLds o s
  | .sts o => Sys2Proof.Machine.execSts o s
  | .pref o => Sys2Proof.Machine.execPref o s
  | .waitm o => Sys2Proof.Machine.execWaitm o s
  | .atom o => Sys2Proof.Machine.execAtom o s
  | .cas o => Sys2Proof.Machine.execCas o s
  | .red o => Sys2Proof.Machine.execRed o s
  | .cmt o => Sys2Proof.Machine.execCmt o s
  | .abt o => Sys2Proof.Machine.execAbt o s
  | .acq o => Sys2Proof.Machine.execAcq o s
  | .bar o => Sys2Proof.Machine.execBar o s
  | .bara o => Sys2Proof.Machine.execBara o s
  | .barw o => Sys2Proof.Machine.execBarw o s
  | .bra o => Sys2Proof.Machine.execBra o s
  | .call o => Sys2Proof.Machine.execCall o s
  | .brx o => Sys2Proof.Machine.execBrx o s
  | .ret o => Sys2Proof.Machine.execRet o s
  | .callx o => Sys2Proof.Machine.execCallx o s
  | .tret g => Sys2Proof.Machine.execTret g s
  | .tretNext g => Sys2Proof.Machine.execTretNext g s
  | .tretReg o => Sys2Proof.Machine.execTretReg o s
  | .exit g => Sys2Proof.Machine.execExit g s
  | .yield g => Sys2Proof.Machine.execYield g s
  | .trap o => Sys2Proof.Machine.execTrap o s
  | .trapExt o => Sys2Proof.Machine.execTrapExt o s
  | .iaddImm o => Sys2Proof.Machine.execIaddImm o s
  | .iaddImmExt o => Sys2Proof.Machine.execIaddImmExt o s
  | .imulImm o => Sys2Proof.Machine.execImulImm o s
  | .imulImmExt o => Sys2Proof.Machine.execImulImmExt o s
  | .andImm o => Sys2Proof.Machine.execAndImm o s
  | .andImmExt o => Sys2Proof.Machine.execAndImmExt o s
  | .orImm o => Sys2Proof.Machine.execOrImm o s
  | .orImmExt o => Sys2Proof.Machine.execOrImmExt o s
  | .xorImm o => Sys2Proof.Machine.execXorImm o s
  | .xorImmExt o => Sys2Proof.Machine.execXorImmExt o s
  | .shlImm o => Sys2Proof.Machine.execShlImm o s
  | .shrImm o => Sys2Proof.Machine.execShrImm o s
  | .sraImm o => Sys2Proof.Machine.execSraImm o s
  | .icmpImm o => Sys2Proof.Machine.execIcmpImm o s
  | .icmpImmExt o => Sys2Proof.Machine.execIcmpImmExt o s
  | .movi o => Sys2Proof.Machine.execMovi o s
  | .moviExt o => Sys2Proof.Machine.execMoviExt o s
  | .kadd o => Sys2Proof.Machine.execKadd o s
  | .ksub o => Sys2Proof.Machine.execKsub o s
  | .kmul o => Sys2Proof.Machine.execKmul o s
  | .kand o => Sys2Proof.Machine.execKand o s
  | .kor o => Sys2Proof.Machine.execKor o s
  | .kxor o => Sys2Proof.Machine.execKxor o s
  | .kshl o => Sys2Proof.Machine.execKshl o s
  | .kshr o => Sys2Proof.Machine.execKshr o s
  | .kcmp o => Sys2Proof.Machine.execKcmp o s
  | .ksel o => Sys2Proof.Machine.execKsel o s
  | .kmov o => Sys2Proof.Machine.execKmov o s
  | .kmovV o => Sys2Proof.Machine.execKmovV o s
  | .ksrd o => Sys2Proof.Machine.execKsrd o s
  | .kld o => Sys2Proof.Machine.execKld o s
  | .kst o => Sys2Proof.Machine.execKst o s
  | .kbra o => Sys2Proof.Machine.execKbra o s
  | .kaddImm o => Sys2Proof.Machine.execKaddImm o s
  | .kaddImmExt o => Sys2Proof.Machine.execKaddImmExt o s
  | .kmovImm o => Sys2Proof.Machine.execKmovImm o s
  | .kmovImmExt o => Sys2Proof.Machine.execKmovImmExt o s
  | .kshlImm o => Sys2Proof.Machine.execKshlImm o s
  | .kshrImm o => Sys2Proof.Machine.execKshrImm o s
  | .bstat o => Sys2Proof.Machine.execBstat o s
  | .cpy o => Sys2Proof.Machine.execCpy o s
  | .cpyq o => Sys2Proof.Machine.execCpyq o s
  | .cpyqW o => Sys2Proof.Machine.execCpyqW o s
  | .mma o => Sys2Proof.Machine.execMma o s
  | .mmast o => Sys2Proof.Machine.execMmast o s
  | .mmaz o => Sys2Proof.Machine.execMmaz o s
  | .mmazRel o => Sys2Proof.Machine.execMmazRel o s
  | .pairs o => Sys2Proof.Machine.execPairs o s
  | .launch o => Sys2Proof.Machine.execLaunch o s
  | .filldone o => Sys2Proof.Machine.execFilldone o s
  | .fillfail o => Sys2Proof.Machine.execFillfail o s
  | .gset o => Sys2Proof.Machine.execGset o s
  | .gsetNot o => Sys2Proof.Machine.execGsetNot o s
  | .gsetClr o => Sys2Proof.Machine.execGsetClr o s
  | .phase o => Sys2Proof.Machine.execPhase o s
  | .phaseOff g => Sys2Proof.Machine.execPhaseOff g s
  | .satarm o => Sys2Proof.Machine.execSatarm o s
  | .fenceLr g => Sys2Proof.Machine.execFenceLr g s
  | .fenceEng g => Sys2Proof.Machine.execFenceEng g s
  | .flightIssue core => Sys2Proof.Machine.execFlightIssue core s
  | .rendezvousCompletion c => Sys2Proof.Machine.execRendezvousCompletion c s
  | .threadAgeing t => Sys2Proof.Machine.execThreadAgeing t s
  | .demotionExpiry t => Sys2Proof.Machine.execDemotionExpiry t s
  | .phaseOverrun c => Sys2Proof.Machine.execPhaseOverrun c s
  | .waitmTimeout t => Sys2Proof.Machine.execWaitmTimeout t s
  | .spuriousWake t => Sys2Proof.Machine.execSpuriousWake t s
  | .loadReturn t slot => Sys2Proof.Machine.execLoadReturn t slot s
  | .pageWalk n => Sys2Proof.Machine.execPageWalk n s
  | .faultReply ctx value => Sys2Proof.Machine.execFaultReply ctx value s
  | .sectorLanding n => Sys2Proof.Machine.execSectorLanding n s
  | .acknowledgement n => Sys2Proof.Machine.execAcknowledgement n s
  | .redPerform n => Sys2Proof.Machine.execRedPerform n s
  | .clusterUnitEviction cluster word => Sys2Proof.Machine.execClusterUnitEviction cluster word s
  | .lineEviction target => Sys2Proof.Machine.execLineEviction target s
  | .envelopeMiss n => Sys2Proof.Machine.execEnvelopeMiss n s
  | .binTimer ctx node part => Sys2Proof.Machine.execBinTimer ctx node part s
  | .batchLaunch ctx n => Sys2Proof.Machine.execBatchLaunch ctx n s
  | .notifyProdWrite page reg value => Sys2Proof.Machine.execNotifyProdWrite page reg value s
  | .nstatRead page reg => Sys2Proof.Machine.execNstatRead page reg s
  | .launchRingEntry page reg => Sys2Proof.Machine.execLaunchRingEntry page reg s
  | .recordRingEntry page reg => Sys2Proof.Machine.execRecordRingEntry page reg s
  | .argumentImageRead n => Sys2Proof.Machine.execArgumentImageRead n s
  | .parkTimeout team => Sys2Proof.Machine.execParkTimeout team s
  | .swapOut team => Sys2Proof.Machine.execSwapOut team s
  | .swapIn team => Sys2Proof.Machine.execSwapIn team s
  | .teamRetire team => Sys2Proof.Machine.execTeamRetire team s
  | .barrierCompletion b => Sys2Proof.Machine.execBarrierCompletion b s
  | .engineDispatch team q => Sys2Proof.Machine.execEngineDispatch team q s
  | .discarded team q => Sys2Proof.Machine.execDiscarded team q s
  | .copyLineLanding cmd target line => Sys2Proof.Machine.execCopyLineLanding cmd target line s
  | .copyCompletion cmd => Sys2Proof.Machine.execCopyCompletion cmd s
  | .mmaCompletion cmd => Sys2Proof.Machine.execMmaCompletion cmd s
  | .mmastCompletion cmd => Sys2Proof.Machine.execMmastCompletion cmd s
  | .mmazCompletion cmd => Sys2Proof.Machine.execMmazCompletion cmd s
  | .traversalResult query => Sys2Proof.Machine.execTraversalResult query s
  | .pairsEmission cmd => Sys2Proof.Machine.execPairsEmission cmd s
  | .pairsCompletion cmd => Sys2Proof.Machine.execPairsCompletion cmd s
  | .softError team => Sys2Proof.Machine.execSoftError team s
  | .loadNodeTable ctx => Sys2Proof.Machine.execLoadNodeTable ctx s
  | .loadGeneratorTable ctx => Sys2Proof.Machine.execLoadGeneratorTable ctx s
  | .preEmpt ctx => Sys2Proof.Machine.execPreEmpt ctx s
  | .restore ctx => Sys2Proof.Machine.execRestore ctx s
  | .invalidateTranslations ctx => Sys2Proof.Machine.execInvalidateTranslations ctx s
  | .removeGrid ctx => Sys2Proof.Machine.execRemoveGrid ctx s
  | .commandCompletion ctx => Sys2Proof.Machine.execCommandCompletion ctx s
  | .cstatWrite ctx value => Sys2Proof.Machine.execCstatWrite ctx value s
  | .frconsWrite ctx value => Sys2Proof.Machine.execFrconsWrite ctx value s
  | .erconsWrite ctx value => Sys2Proof.Machine.execErconsWrite ctx value s
  | .registerWrite off value => Sys2Proof.Machine.execRegisterWrite off value s
  | .tetherRequest peer req => Sys2Proof.Machine.execTetherRequest peer req s
  | .linkOutOfService link => Sys2Proof.Machine.execLinkOutOfService link s
  | .powerArbiterInterval => Sys2Proof.Machine.execPowerArbiterInterval s
  | .clockFactorChange core => Sys2Proof.Machine.execClockFactorChange core s
  | .deepPowerOff => Sys2Proof.Machine.execDeepPowerOff s
  | .wakeRequest => Sys2Proof.Machine.execWakeRequest s
  | .reset img => Sys2Proof.Machine.execReset img s
  | .identityReport nonce => Sys2Proof.Machine.execIdentityReport nonce s
  | .fomorCoreAccess cls pa acc => Sys2Proof.Machine.execFomorCoreAccess cls pa acc s
  | .linkDown link => Sys2Proof.Machine.execLinkDown link s
  | .correctedSoftError => Sys2Proof.Machine.execCorrectedSoftError s

end Sys2Proof.Machine
end

