-- ==== Sys2Proof/Machine/Step.lean ====
section
/-!
DEFINITION. The step of the whole device. A focus runs its instruction; otherwise the agenda's next event happens; otherwise the first
of the device's own events that can happen; otherwise a cycle of the core that is furthest behind. The order is the model's: the
agenda, which is plain data of the state, stands for every other order.
-/

namespace Sys2Proof.Machine

/-! ### The focus -/

/-- Threads whose accesses replay next, together: one thread, or the atomics of one flight on one word (R331). -/
def replayGroup (s : State) (t : ThreadId) (rest : List Joined) : List ThreadId :=
  match (s.thread? t).bind Thread.run with
  | none => [t]
  | some r =>
    t :: rest.filterMap (fun j => match j.who with
      | .thread u => if (s.thread? u).bind Thread.run == some r && s.coreOf u.team == s.coreOf t.team then some u else none
      | _ => none)

/-- The thread of a waiter. -/
def waiterThread : Waiter → Option ThreadId
  | .thread t => some t
  | _ => none

/-- An access of a thread that waited for a fill replays (R196): with no other focus, the next of them is the focus, if its team is on a core and may
issue. The lines kept for it stay until it has performed (R198). -/
def replayFocus (s : State) : State :=
  match s.cur, s.replays with
  | .idle, j :: rest =>
    match waiterThread j.who with
    | none => s
    | some t =>
      let core := s.coreOf t.team
      let group := replayGroup s t rest
      let ids := group.filter (fun u => match s.thread? u with | some x => s.runnable core x && x.park == .none | none => false)
      { s with
        replays := rest.filter (fun k => !((waiterThread k.who).map group.contains).getD false)
        threads := updWhere (fun x => group.contains x.id) (fun x => { x with run := none }) s.threads
        flightNo := s.flightNo + 1
        cur := if ids.isEmpty then .idle else .flight core ids false }
  | _, _ => s

/-- With no focus, the access of another waiter at the head of the replays, a step of its own (R196). -/
def replayOther (s : State) : Option State :=
  match s.cur, s.replays with
  | .idle, j :: rest => if (waiterThread j.who).isSome then none else some (replayWaiter { s with replays := rest } j)
  | _, _ => none

/-- After an instruction: the threads that ran have replayed, where they had to (R198). -/
def afterRun (ids : List ThreadId) : Host.Outcome State Fault Refusal → Host.Outcome State Fault Refusal
  | .next s => .next (performedPins s ids)
  | o => o

/-- The instruction at the focus runs. -/
def runFocus (s : State) : Host.Outcome State Fault Refusal :=
  match prepare s with
  | none => .fault .lostFocus
  | some (t, none) => .next t
  | some (t, some i) => afterRun s.cur.ids (exec i t)

/-! ### The device's own events -/

/-- Teams that retire or are swapped out: a cycle's offers follow them (R65). -/
def leaveEvents (s : State) : List Instr :=
  s.teams.map (fun t => .teamRetire t.id) ++ s.teams.map (fun t => .parkTimeout t.id) ++ s.teams.map (fun t => .swapOut t.id)

/-- Events of threads and crews. -/
def threadEvents (s : State) : List Instr :=
  s.crews.map (fun c => .phaseOverrun c.id) ++ s.crews.map (fun c => .rendezvousCompletion c.id)
    ++ s.threads.map (fun t => .threadAgeing t.id) ++ s.threads.map (fun t => .demotionExpiry t.id)
    ++ s.threads.map (fun t => .waitmTimeout t.id)
    ++ s.threads.flatMap (fun t => t.loads.map (fun l => .loadReturn t.id l.slot))

/-- Events of the memory system, the oldest of each kind first. -/
def memoryEvents (s : State) : List Instr :=
  (List.range s.walks.length).map .pageWalk ++ (List.range s.misses.length).map .envelopeMiss
    ++ (List.range s.landings.length).map .sectorLanding ++ (List.range s.acks.length).map .acknowledgement
    ++ (List.range s.reds.length).map .redPerform

/-- Events of barriers. -/
def barrierEvents (s : State) : List Instr :=
  s.teams.flatMap (fun t => (List.range t.bars.length).map (fun i => .barrierCompletion (.team t.id i)))
    ++ s.units.flatMap (fun u => (List.range u.bars.length).map (fun i => .barrierCompletion (.cluster u.grid u.index i)))
    ++ s.grids.flatMap (fun g => (List.range g.bars.length).map (fun i => .barrierCompletion (.grid g.id i)))

/-- Events of the engines and of the traversal units. -/
def engineEvents (s : State) : List Instr :=
  s.teams.flatMap (fun t => [Queue.copy, Queue.matrix, Queue.pairs].flatMap (fun q =>
      [Instr.discarded t.id q, Instr.engineDispatch t.id q]))
    ++ s.cmds.flatMap (fun c => c.pending.map (fun p => Instr.copyLineLanding c.id p.1 p.2))
    ++ s.cmds.flatMap (fun c =>
      [Instr.copyCompletion c.id, .mmaCompletion c.id, .mmastCompletion c.id, .mmazCompletion c.id, .pairsEmission c.id,
       .pairsCompletion c.id])
    ++ s.queries.map (fun q => .traversalResult q.id)

/-- Events of the record scheduler, the rings and the work distributor. -/
def workEvents (s : State) : List Instr :=
  s.ctxs.flatMap (fun c => c.bins.map (fun e => .binTimer c.id e.node e.part))
    ++ s.ctxs.flatMap (fun c => (List.range c.batches.length).map (fun i => .batchLaunch c.id i))
    ++ s.notify.flatMap (fun r => [Instr.launchRingEntry r.page r.reg, .recordRingEntry r.page r.reg])
    ++ (List.range s.images.length).map (fun i => .argumentImageRead i)
    ++ s.teams.map (fun t => Instr.swapIn t.id)

/-- The host's commands, links and power. -/
def deviceEvents (s : State) : List Instr :=
  s.ctxs.flatMap (fun c =>
    match c.running with
    | some 1 => [Instr.loadNodeTable c.id]
    | some 2 => [.loadGeneratorTable c.id]
    | some 3 => [.preEmpt c.id]
    | some 4 => [.restore c.id]
    | some 5 => [.invalidateTranslations c.id]
    | some 6 => [.removeGrid c.id]
    | _ => if c.outcome.isSome then [.commandCompletion c.id] else [])
    ++ (if s.links.any (fun l => l.down.isSome && !l.outOfService) then
          [.linkOutOfService 0, .linkOutOfService 1, .linkOutOfService 2, .linkOutOfService 3] else [])
    ++ [.powerArbiterInterval]
    ++ ((List.range s.cores.length).filter (fun n => (s.cores[n]?).map Core.f != some s.factor)).map (fun n => .clockFactorChange n)

/-- The core whose next cycle comes first: the least time, and the lowest number on a tie. -/
def nextCore (s : State) : Nat :=
  (s.cores.zipIdx.foldl (fun (b : Option (Nat × Nat)) x =>
    match b with
    | none => some (x.1.time, x.2)
    | some (t, n) => if x.1.time < t then some (x.1.time, x.2) else some (t, n)) none).elim 0 Prod.snd

/-- The first event that changes the state, and what it makes of it. -/
def firstChange (s : State) : List Instr → Option (Host.Outcome State Fault Refusal)
  | [] => none
  | i :: is =>
    match exec i s with
    | .next t => if t = s then firstChange s is else some (.next t)
    | o => some o

/-- The device moves on by itself. -/
def ownEvent (s : State) : Host.Outcome State Fault Refusal :=
  (firstChange s (leaveEvents s ++ threadEvents s ++ memoryEvents s ++ barrierEvents s ++ engineEvents s ++ workEvents s ++ deviceEvents s)).getD
    (exec (.flightIssue (nextCore s)) s)

/-- What happens in a step. -/
def stepEvent (s : State) : Host.Outcome State Fault Refusal :=
  match s.cur, s.agenda with
  | .idle, [] => ownEvent s
  | .idle, i :: rest => exec i { s with agenda := rest }
  | _, _ => runFocus s

/-- Every thread belongs to its entry of the PC table after a step (R19). -/
def swept : Host.Outcome State Fault Refusal → Host.Outcome State Fault Refusal
  | .next s => .next s.sweepTable
  | o => o

/-- One step of the device. -/
def step (s : State) : Host.Outcome State Fault Refusal :=
  match replayOther s with
  | some t => swept (.next t)
  | none => swept (stepEvent (replayFocus s))

/-! ### Placing one instruction (the host's question) -/

/-- A thread at the start of a code window, with zeroed registers; it stands at a rendezvous where `rdv` says so. -/
def probeThread (id : ThreadId) (rdv : Bool) : Thread :=
  { id := id, pc := 0, v := List.replicate 64 0, p := List.replicate 7 false, live := true, park := .none, stall := .none,
    arrived := if rdv then some 0 else none, conv := none, inh := false, cause := 0, trapc := 0, trapv := 0, clockHi := none, wait := 0,
    aged := false, demoted := none, held := [], record := none, loads := [], committed := false, woken := false, late := none, run := none, cont
    := false }

/-- A crew with zeroed registers. -/
def probeCrew (id : CrewId) : Crew :=
  { id := id, k := List.replicate 63 0, q := List.replicate 7 false, sat := 0, satArm := false, cflict := 0, stragId := 0,
    stragWait := 0, phArm := false, phCount := 0, phLimit := 0, notice := false, unack := 0, slot := 0, clockHi := none,
    stalled := false, hold := false, absent := none, fence := none, issuing := none, complete := false, begun := false, rdvFrom := none, exitAt
    := none, retired := false,
    drops := [] }

/-- A barrier of `n` expected arrivals. -/
def probeBarrier (n : Nat) : Barrier :=
  { e := n, a := 0, p := 0, arr := [], exit := none }

/-- A role of one team of one thread with every register, eight scratchpad lines and sixteen barriers. -/
def probeRole : Role := { entry := 0, threads := 1, regs := 64, nbar := 16, ntx := 1, nty := 1, ntz := 1, spad := 8 }

/-- A resident team of one thread of core 0. -/
def probeTeam (id grid : Nat) : Team :=
  { id := id, grid := grid, ctx := 0, role := 0, index := 0, unit := 0, place := .resident 0, capacity := 0, threads := 1,
    regs := 64, nbar := 16, spadLines := 8, spad := [], absent := [], gslots := List.replicate 8 .unresolved,
    bars := List.replicate 16 (probeBarrier 1), fdepth := 0, node := none, parkedSince := none, parkExpired := false,
    wake := false, heldReport := none, blocked := 0 }

/-- A grid of that one team. -/
def probeGrid (id : Nat) : Grid :=
  { id := id, ctx := 0, prio := 0, prop := false, cgrp := false, group := 0, cbar := 0, elected := false, gang := false,
    clmask := 2 ^ 36 - 1, coremask := 0xFFFF, roles := [probeRole], done := 0, donev := 0, args := List.replicate 16 0, depth := 0,
    fdepth := 0, parent := none, node := none, records := [], bars := [], nextUnit := 1, counts := [], pointer := 0,
    stopped := false, retired := false }

/-- A team of one thread whose program counter is at the start of the code window of context 0. -/
def withProbe (s : State) (rdv : Bool) : State :=
  let team := s.lastId + 1
  let grid := s.lastId + 2
  { s with
    lastId := s.lastId + 2
    teams := s.teams ++ [probeTeam team grid]
    grids := s.grids ++ [probeGrid grid]
    crews := s.crews ++ [probeCrew ⟨team, 0⟩]
    threads := s.threads ++ [probeThread ⟨team, 0⟩ rdv] }

namespace State

/-- The machine with one instruction where the next step fetches: a team of one thread on core 0 is the focus, its code lies at physical
address 0, and the core's TLB maps the code there. A uniform instruction finds its rendezvous complete. -/
def withFetchWord (s : State) (nbits w : Nat) : State :=
  let i := decodeTableWord nbits w
  let rdv := (i.map Instr.isConvergent).getD false
  let uniform := w / 0x80000000 % 2 == 1
  let id : ThreadId := ⟨s.lastId + 1, 0⟩
  let va := ((s.ctx? 0).map (fun c => c.regs.codebase)).getD 0
  let code : Translation :=
    { base := va - va % 0x1000, size := 0x2000, frame := 0, w := true, x := true, c := false, e := false, d := true, gen := 0 }
  let t := withProbe s rdv
  { t with
    mem := t.mem.writeBytes (va % 0x1000) (tableBytes nbits w)
    tlb := ⟨.core 0, 0, code⟩ :: t.tlb
    replays := []
    cur := if uniform then .uniform ⟨s.lastId + 1, 0⟩ else .flight 0 [id] rdv }

end State

end Sys2Proof.Machine
end

