-- ==== Sys2Proof/Safety.lean ====
section
/-!
DEFINITION. What counts as a safe run: the canonical form of every memory in the state, which every step keeps, and a machine that
has not stopped.
-/

namespace Sys2Proof.Machine

/-- The canonical form: device memory and every team's scratchpad list rising addresses and no zero byte. -/
abbrev State.Inv (s : State) : Prop := s.mem.wf = true ∧ ∀ t ∈ s.teams, t.spad.wf = true

/-- A property that every step which answers a next state keeps. -/
abbrev KeptByStep (P : State → Prop) : Prop := ∀ s t, P s → step s = .next t → P t

/-- The machine has not stopped within `n` steps. -/
abbrev State.RunsFor (s : State) (n : Nat) : Prop := ∃ t, Host.Core.run Sys2Proof.core n s = .next t

end Sys2Proof.Machine
end

