-- ==== Sys2Proof/Certificates/Slice0/Obligations.lean ====
section
/-!
DEFINITION. The statements about this model, for the provers: `Obligations.<Name>` says what the spec's rules say of the machine.
The helpers of `Sys2Proof.Stmt` say what a statement's words mean.
-/

namespace Sys2Proof.Stmt
open Sys2Proof.Machine

/-! ### Encodings -/

/-- The code bytes of words, each little-endian, the first word first (R302). -/
def codeBytes (ws : List Word) : List Byte := ws.flatMap (fun w => leBytes 4 w.toNat)

/-- A code word that a fetch of a team of a grid can read at a program counter (R72, R102): the core's instruction cache holds it,
or it does not, a TLB entry with X = 1 covers the address, access to the place is allowed, and the four bytes at device reach are
the word's, the least significant first. -/
def CodeAt (s : State) (team grid : Nat) (pc w : Word) : Prop :=
  (∃ e, s.icache.find? (fun e => e.core == s.coreOf team && e.grid == grid && e.va == codeVa s team pc) = some e ∧ e.word = w) ∨
  (s.icache.find? (fun e => e.core == s.coreOf team && e.grid == grid && e.va == codeVa s team pc) = none ∧
    ∃ tr, s.tlbFind (s.coreOf team) (s.ctxId team) (codeVa s team pc) = some tr ∧ tr.x = true ∧
      s.reachable (tr.loc (s.ctxId team) (codeVa s team pc)) false = true ∧
      s.devBytes? (tr.loc (s.ctxId team) (codeVa s team pc)) 4 = some (leBytes 4 w.toNat))

/-! ### Lane instructions -/

/-- What an instruction of `n` bytes makes of a thread of its flight: where the guard is true, `f` and the next instruction;
where it is false, the next instruction only (R23, R303). -/
def laneStep (n : Nat) (g : Guard) (f : Thread → Thread) (t : Thread) : Thread :=
  { (if t.guard g then f t else t) with pc := t.pc + BitVec.ofNat 32 n }

/-- The state after a flight whose instruction changes only the threads of the flight. -/
def laneNext (s : State) (ids : List ThreadId) (h : Thread → Thread) : State :=
  { s with cur := .idle, threads := s.threads.map (fun t => if t.id ∈ ids then h t else t) }

/-- The instruction, of `n` bytes, completes for every flight; each thread of the flight whose guard is true has `v[d] = val`, and
nothing else changes but the program counters. -/
def WritesReg (i : Instr) (n : Nat) (g : Guard) (d : Fin 64) (val : State → Thread → Word) : Prop :=
  ∀ (s : State) (core : Nat) (ids : List ThreadId) (rdv : Bool), s.cur = .flight core ids rdv →
    exec i s = .next (laneNext s ids (laneStep n g (fun t => { t with v := t.v.set d.val (val s t) })))

/-- As `WritesReg`, for the register pair from `d`: bits 31:0, then bits 63:32 of a 64-bit value (R5). -/
def WritesPair (i : Instr) (n : Nat) (g : Guard) (d : Fin 64) (val : State → Thread → DWord) : Prop :=
  ∀ (s : State) (core : Nat) (ids : List ThreadId) (rdv : Bool), s.cur = .flight core ids rdv →
    exec i s = .next (laneNext s ids (laneStep n g (fun t =>
      { t with v := (t.v.set d.val ((val s t).extractLsb' 0 32)).set (d.val + 1) ((val s t).extractLsb' 32 32) })))

/-- As `WritesReg`, for a predicate; a write to p7 is discarded (R308). -/
def WritesPred (i : Instr) (n : Nat) (g : Guard) (pd : Fin 8) (val : State → Thread → Bool) : Prop :=
  ∀ (s : State) (core : Nat) (ids : List ThreadId) (rdv : Bool), s.cur = .flight core ids rdv →
    exec i s = .next (laneNext s ids (laneStep n g (fun t =>
      if pd = 7 then t else { t with p := t.p.set pd.val (val s t) })))

/-- The number in bits `pos + width − 1` to `pos` of a word. -/
def field (a : Word) (pos width : Nat) : Nat := a.toNat / 2 ^ pos % 2 ^ width

/-- `pos` and `width` of the bit-field instructions (R335). -/
def fieldPosOf (b : Word) : Nat := b.toNat % 32
def fieldWidthOf (b : Word) : Nat := min (min (b.toNat / 256 % 64) 32) (32 - fieldPosOf b)

/-- A 64-bit value of a register pair (R5). -/
def pair64 (t : Thread) (n : Nat) : DWord := (t.reg (n + 1)) ++ (t.reg n)

/-- An integer condition (R312), on two's complement and natural readings. -/
def condHolds (c : Cond) (a b : Word) : Bool :=
  match c with
  | .eq => a == b
  | .ne => !(a == b)
  | .ltS => decide (a.toInt < b.toInt)
  | .leS => decide (a.toInt ≤ b.toInt)
  | .gtS => decide (b.toInt < a.toInt)
  | .geS => decide (b.toInt ≤ a.toInt)
  | .ltN => decide (a.toNat < b.toNat)
  | .geN => decide (b.toNat ≤ a.toNat)

/-- What a compare writes to its predicate, from the old value and the result (R312). -/
def combine (c : Comb) (old r : Bool) : Bool :=
  match c with
  | .set => r
  | .and => old && r
  | .or => old || r

end Sys2Proof.Stmt

open Sys2Proof Sys2Proof.Machine Sys2Proof.Stmt

/-! ### Encoding and fetching -/

/-- R302 to R311: the decoder reads back every instruction from the bytes of its encoding, with every operand, and leaves the bytes
after it. -/
def Obligations.DecodeOfEncode : Prop :=
  ∀ (i : Instr) (rest : List Byte), i.wf = true → i.isEvent = false → decodeBytes (codeBytes (encode i) ++ rest) = .ok (i, rest)

/-- R310: a word that the decoder accepts is a legal word, and it is exactly the word of the instruction it stands for: no bit of it
is ignored. -/
def Obligations.DecodeIsExact : Prop :=
  ∀ (w x : Word) (i : Instr), decode w x = .ok i → i.wf = true ∧ w = BitVec.ofNat 32 i.word

/-- R302 to R309: the words that the specification works out from its encoding tables decode to the instructions they stand for. -/
def Obligations.DecodeWords : Prop :=
  decode 0x03C00000 0 = .ok (.nop ⟨7, false⟩) ∧
  decode 0x05C45084 0 = .ok (.iadd { g := ⟨7, false⟩, d := 5, a := 2, b := .k 4 }) ∧
  decode 0x6DC18700 0x1000 = .ok (.iaddImmExt { g := ⟨7, false⟩, d := 3, a := 3, imm := 4096 }) ∧
  decode 0x79C90A64 0 = .ok (.icmpImm { g := ⟨7, false⟩, cond := .ltS, pd := 2, a := 5, imm := 100 }) ∧
  decode 0x1BDC4081 0 = .ok (.ffmaF32 { g := ⟨7, false⟩, d := 4, a := 2, b := .k 1 }) ∧
  decode 0x31D06040 0 = .ok (.voteBallot { g := ⟨7, false⟩, d := 6, pa := 1 }) ∧
  decode 0x37C30010 0 = .ok (.srd { g := ⟨7, false⟩, d := 6, sr := .clockLo }) ∧
  decode 0x3DCC2204 0 = .ok (.spawnNb { g := ⟨7, false⟩, pd := 2, a := 8, b := .k 4 }) ∧
  decode 0x41C20543 0 = .ok (.ld { g := ⟨7, false⟩, d := 4, a := 2, sz := 5, off := 3 }) ∧
  decode 0x4FC30408 0 = .ok (.cas { g := ⟨7, false⟩, d := 6, a := 2, sc := .cluster, w := false }) ∧
  decode 0x53C89000 0 = .ok (.cmt { g := ⟨7, false⟩, level := .cluster, x := true, pd := 1 }) ∧
  decode 0x59C800C3 0 = .ok (.bar { g := ⟨7, false⟩, level := .team, id := 3, cmt := true, acq := true }) ∧
  decode 0x63D141C0 0 = .ok (.callx { g := ⟨7, false⟩, d := 20, a := 7 }) ∧
  decode 0x6BC04000 0x12345 = .ok (.trapExt { g := ⟨7, false⟩, n := 0x12345 }) ∧
  decode 0x8CA01083 0 = .ok (.ksel { g := ⟨2, true⟩, d := 1, a := 2, b := 3 }) ∧
  decode 0x93C2848F 0 = .ok (.kld { g := ⟨7, false⟩, d := 5, a := 2, wide := false, off := 15 }) ∧
  decode 0xA1C32800 0 = .ok (.cpy { g := ⟨7, false⟩, kp := 6, gs := 2, ge := true }) ∧
  decode 0xA9C01800 0 = .ok (.mmaz { g := ⟨7, false⟩, gs := 1, ge := true, bank := 0 })

/-- R21, R25, R26, R102, R266, R306, R310: with a flight or a uniform instruction in focus, whose word or two words the fetch reads and
which decode to an instruction that every thread may execute, a step is that instruction's meaning on the state after the fetch; after every
step the PC tables are brought up to date (`swept`, R19). A lane word that no instruction has raises ILLEGAL_INSTR in every thread that
fetched it. Threads that meet a convergent instruction outside a rendezvous, or a uniform word, legal or not, arrive there; an illegal word
of a complete rendezvous raises ILLEGAL_INSTR in the whole crew, with OWN in every thread. With no focus, the next event of the agenda
happens. -/
def Obligations.StepRunsDecoded : Prop :=
  (∀ (s s1 : State) (core : Nat) (ids : List ThreadId) (rdv : Bool) (lead : ThreadId) (t : Thread) (w x : Word) (i : Instr),
    s.cur = .flight core ids rdv → leadOf s ids = some lead → s.thread? lead = some t →
    fetchPair s ids lead t.pc = (s1, some (w, x)) → decode w x = .ok i →
    (∀ u ∈ ids, i.legalFor (regsOf s1 u) = true) → (i.isConvergent = true → i.isUniform = false ∧ rdv = true) →
    step s = swept (afterRun ids (exec i { s1 with cur := .flight core ids rdv }))) ∧
  (∀ (s s1 : State) (core : Nat) (ids : List ThreadId) (rdv : Bool) (lead : ThreadId) (t : Thread) (w x : Word),
    s.cur = .flight core ids rdv → leadOf s ids = some lead → s.thread? lead = some t →
    fetchPair s ids lead t.pc = (s1, some (w, x)) → w.toNat < 0x80000000 → (∀ i, decode w x ≠ .ok i) →
    step s = swept (.next { illegalEach s1 ids w with cur := .idle })) ∧
  (∀ (s s1 : State) (core : Nat) (ids : List ThreadId) (rdv : Bool) (lead : ThreadId) (t : Thread) (w x : Word),
    s.cur = .flight core ids rdv → leadOf s ids = some lead → s.thread? lead = some t →
    fetchPair s ids lead t.pc = (s1, some (w, x)) → 0x80000000 ≤ w.toNat →
    step s = swept (.next { arriveAll s1 ids w with cur := .idle })) ∧
  (∀ (s s1 : State) (core : Nat) (ids : List ThreadId) (lead : ThreadId) (t : Thread) (w x : Word) (i : Instr),
    s.cur = .flight core ids false → leadOf s ids = some lead → s.thread? lead = some t →
    fetchPair s ids lead t.pc = (s1, some (w, x)) → decode w x = .ok i → (∀ u ∈ ids, i.legalFor (regsOf s1 u) = true) → ids ≠ [] →
    i.isConvergent = true → step s = swept (.next { arriveAll s1 ids w with cur := .idle })) ∧
  (∀ (s s1 : State) (c : CrewId) (t : Thread) (ts : List Thread) (w x : Word) (i : Instr),
    s.cur = .uniform c → s.liveOf c = t :: ts →
    fetchPair s ((t :: ts).map Thread.id) t.id t.pc = (s1, some (w, x)) → decode w x = .ok i →
    i.legalFor (regsOf s1 t.id) = true → i.isUniform = true → step s = swept (afterRun [] (exec i s1))) ∧
  (∀ (s s1 : State) (c : CrewId) (t : Thread) (ts : List Thread) (w x : Word),
    s.cur = .uniform c → s.liveOf c = t :: ts →
    fetchPair s ((t :: ts).map Thread.id) t.id t.pc = (s1, some (w, x)) →
    (∀ i, decode w x = .ok i → i.legalFor (regsOf s1 t.id) = false) →
    step s = swept (.next { s1.crewTrap c .illegal (fun _ => true) (fun _ => w) 0 with cur := .idle })) ∧
  (∀ (s : State) (i : Instr) (rest : List Instr), s.cur = .idle → s.replays = [] → s.agenda = i :: rest →
    step s = swept (exec i { s with agenda := rest })) ∧
  (∀ s : State, ∃ pt, swept (.next s) = .next { s with pcTable := pt } ∧
    (∀ e ∈ pt, ∃ t ∈ s.threads, s.pcKey t = some (e.core, e.ctx, e.pc)) ∧
    (∀ t ∈ s.threads, ∀ k, s.pcKey t = some k → ∃ e ∈ pt, (e.core, e.ctx, e.pc) = k))

/-- R72, R102, R306, R310: the fetch reads the word whose bytes stand at the program counter in the code window, and a second word at the
next four bytes when the first holds an escape value; it changes nothing but the instruction cache. -/
def Obligations.FetchReadsCode : Prop :=
  (∀ (s : State) (ids : List ThreadId) (lead : ThreadId) (pc w : Word), CodeAt s lead.team (gridId s lead) pc w → needsExt w = false →
    ∃ ic, fetchPair s ids lead pc = ({ s with icache := ic }, some (w, 0))) ∧
  (∀ (s : State) (ids : List ThreadId) (lead : ThreadId) (pc w x : Word), CodeAt s lead.team (gridId s lead) pc w →
    needsExt w = true → CodeAt s lead.team (gridId s lead) (pc + 4) x →
    ∃ ic, fetchPair s ids lead pc = ({ s with icache := ic }, some (w, x)))

/-! ### Reset and the canonical form -/

/-- R292, R301: after reset the device is ACTIVE and PHMARGIN is 65,536, as the spec gives them. That no thread, grid or command exists, that 64 contexts
are listed, and that PTROOT is 0 in each of them are the model's choices (log entries 2 and 3): no rule gives PTROOT a value after reset. -/
def Obligations.AfterReset : Prop :=
  State.reset.power = .active ∧ State.reset.threads = [] ∧ State.reset.grids = [] ∧ State.reset.cmds = [] ∧
  State.reset.phmargin = 65536 ∧ State.reset.ctxs.length = 64 ∧ ∀ c ∈ State.reset.ctxs, c.regs.ptroot = 0

/-- The canonical form of the model's memories holds after reset (a property of the model's own list form, log entry 1). -/
def Obligations.CanonicalAtReset : Prop := State.reset.Inv

/-- Every step keeps the canonical form of device memory and of every scratchpad (a property of the model's own list form, log
entry 1). -/
def Obligations.CanonicalKept : Prop := KeptByStep State.Inv

/-! ### Integer instructions -/

/-- R361, R364, R366: sums, differences and products wrap modulo 2^32. -/
def Sys2Proof.Stmt.IntegerSums : Prop :=
  (∀ o, WritesReg (.iadd o) 4 o.g o.d (fun s t => t.reg o.a.val + opb s t o.b)) ∧
  (∀ o, WritesReg (.isub o) 4 o.g o.d (fun s t => t.reg o.a.val - opb s t o.b)) ∧
  (∀ o, WritesReg (.imul o) 4 o.g o.d (fun s t => t.reg o.a.val * opb s t o.b)) ∧
  (∀ o, WritesReg (.imad o) 4 o.g o.d (fun s t => t.reg o.a.val * opb s t o.b + t.reg o.d.val)) ∧
  (∀ o, WritesReg (.iaddImm o) 4 o.g o.d (fun _ t => t.reg o.a.val + o.imm.signExtend 32)) ∧
  (∀ o, WritesReg (.iaddImmExt o) 8 o.g o.d (fun _ t => t.reg o.a.val + o.imm)) ∧
  (∀ o, WritesReg (.imulImm o) 4 o.g o.d (fun _ t => t.reg o.a.val * o.imm.signExtend 32)) ∧
  (∀ o, WritesReg (.imulImmExt o) 8 o.g o.d (fun _ t => t.reg o.a.val * o.imm))

/-- R364, R365: the high word of the exact product, and the smaller and the larger value, in the signed and the natural family. -/
def Sys2Proof.Stmt.IntegerHighAndOrder : Prop :=
  (∀ o, WritesReg (.imulhS32 o) 4 o.g o.d (fun s t => BitVec.ofInt 32 ((t.reg o.a.val).toInt * (opb s t o.b).toInt / 2 ^ 32))) ∧
  (∀ o, WritesReg (.imulhN32 o) 4 o.g o.d (fun s t => BitVec.ofNat 32 ((t.reg o.a.val).toNat * (opb s t o.b).toNat / 2 ^ 32))) ∧
  (∀ o, WritesReg (.iminS o) 4 o.g o.d (fun s t =>
    if (t.reg o.a.val).toInt ≤ (opb s t o.b).toInt then t.reg o.a.val else opb s t o.b)) ∧
  (∀ o, WritesReg (.imaxS o) 4 o.g o.d (fun s t =>
    if (t.reg o.a.val).toInt ≤ (opb s t o.b).toInt then opb s t o.b else t.reg o.a.val)) ∧
  (∀ o, WritesReg (.iminN o) 4 o.g o.d (fun s t =>
    if (t.reg o.a.val).toNat ≤ (opb s t o.b).toNat then t.reg o.a.val else opb s t o.b)) ∧
  (∀ o, WritesReg (.imaxN o) 4 o.g o.d (fun s t =>
    if (t.reg o.a.val).toNat ≤ (opb s t o.b).toNat then opb s t o.b else t.reg o.a.val))

/-- R328: bitwise and, or, exclusive or, and and with the complement. -/
def Sys2Proof.Stmt.Bitwise : Prop :=
  (∀ o, WritesReg (.and o) 4 o.g o.d (fun s t => t.reg o.a.val &&& opb s t o.b)) ∧
  (∀ o, WritesReg (.or o) 4 o.g o.d (fun s t => t.reg o.a.val ||| opb s t o.b)) ∧
  (∀ o, WritesReg (.xor o) 4 o.g o.d (fun s t => t.reg o.a.val ^^^ opb s t o.b)) ∧
  (∀ o, WritesReg (.andn o) 4 o.g o.d (fun s t => t.reg o.a.val &&& ~~~(opb s t o.b))) ∧
  (∀ o, WritesReg (.andImm o) 4 o.g o.d (fun _ t => t.reg o.a.val &&& o.imm.signExtend 32)) ∧
  (∀ o, WritesReg (.andImmExt o) 8 o.g o.d (fun _ t => t.reg o.a.val &&& o.imm)) ∧
  (∀ o, WritesReg (.orImm o) 4 o.g o.d (fun _ t => t.reg o.a.val ||| o.imm.signExtend 32)) ∧
  (∀ o, WritesReg (.orImmExt o) 8 o.g o.d (fun _ t => t.reg o.a.val ||| o.imm)) ∧
  (∀ o, WritesReg (.xorImm o) 4 o.g o.d (fun _ t => t.reg o.a.val ^^^ o.imm.signExtend 32)) ∧
  (∀ o, WritesReg (.xorImmExt o) 8 o.g o.d (fun _ t => t.reg o.a.val ^^^ o.imm))

/-- R407: the amount of a register form is bits 4:0 of B; `SRA` fills with copies of bit 31. -/
def Sys2Proof.Stmt.Shifts : Prop :=
  (∀ o, WritesReg (.shl o) 4 o.g o.d (fun s t => t.reg o.a.val <<< ((opb s t o.b).toNat % 32))) ∧
  (∀ o, WritesReg (.shr o) 4 o.g o.d (fun s t => t.reg o.a.val >>> ((opb s t o.b).toNat % 32))) ∧
  (∀ o, WritesReg (.sra o) 4 o.g o.d (fun s t => (t.reg o.a.val).sshiftRight ((opb s t o.b).toNat % 32))) ∧
  (∀ o, WritesReg (.shlImm o) 4 o.g o.d (fun _ t => t.reg o.a.val <<< o.s.val)) ∧
  (∀ o, WritesReg (.shrImm o) 4 o.g o.d (fun _ t => t.reg o.a.val >>> o.s.val)) ∧
  (∀ o, WritesReg (.sraImm o) 4 o.g o.d (fun _ t => (t.reg o.a.val).sshiftRight o.s.val))

/-- R335, R337: leading zeros (32 for 0), the number of set bits, the bits reversed, and bit fields extracted and inserted, clipped at
bit 31. -/
def Obligations.BitCountsAndFields : Prop :=
  (∀ o, WritesReg (.clz o) 4 o.g o.d (fun _ t =>
    BitVec.ofNat 32 ((List.range 32).takeWhile (fun i => !(t.reg o.a.val).getLsbD (31 - i))).length)) ∧
  (∀ o, WritesReg (.popc o) 4 o.g o.d (fun _ t => BitVec.ofNat 32 ((List.range 32).countP (fun i => (t.reg o.a.val).getLsbD i)))) ∧
  (∀ o, WritesReg (.brev o) 4 o.g o.d (fun _ t => (t.reg o.a.val).reverse)) ∧
  (∀ o, WritesReg (.bfxN o) 4 o.g o.d (fun s t =>
    BitVec.ofNat 32 (field (t.reg o.a.val) (fieldPosOf (opb s t o.b)) (fieldWidthOf (opb s t o.b))))) ∧
  (∀ o, WritesReg (.bfxS o) 4 o.g o.d (fun s t =>
    let w := fieldWidthOf (opb s t o.b)
    (BitVec.ofNat w (field (t.reg o.a.val) (fieldPosOf (opb s t o.b)) w)).signExtend 32)) ∧
  (∀ o, WritesReg (.bfi o) 4 o.g o.d (fun s t =>
    let p := fieldPosOf (opb s t o.b)
    let w := fieldWidthOf (opb s t o.b)
    let mask : Word := BitVec.ofNat 32 ((2 ^ w - 1) * 2 ^ p)
    (t.reg o.d.val &&& ~~~mask) ||| ((t.reg o.a.val <<< p) &&& mask)))

/-- R361, R362, R383, R390, R391, R404: 64-bit sums of a pair, moves, immediates, and the select by guard, which writes in every
thread. -/
def Sys2Proof.Stmt.PairsAndMoves : Prop :=
  (∀ o, WritesPair (.iaddw o) 4 o.g o.d (fun s t => pair64 t o.a.val + (opb s t o.b).signExtend 64)) ∧
  (∀ o, WritesPair (.lea o) 4 o.g o.d (fun s t =>
    pair64 t o.a.val + (opb s t o.b).zeroExtend 64 <<< (if o.s = 0 then 0 else o.s.val + 1))) ∧
  (∀ o, WritesReg (.mov o) 4 o.g o.d (fun s t => opb s t o.b)) ∧
  (∀ o, WritesPair (.mov64 o) 4 o.g o.d (fun s t => opbHi s t o.b ++ opb s t o.b)) ∧
  (∀ o, WritesReg (.movi o) 4 o.g o.d (fun _ _ => o.imm.signExtend 32)) ∧
  (∀ o, WritesReg (.moviExt o) 8 o.g o.d (fun _ _ => o.imm)) ∧
  (∀ o, WritesReg (.sel o) 4 ⟨7, false⟩ o.d (fun s t => if t.guard o.g then t.reg o.a.val else opb s t o.b))

/-- R312, R363: integer compares, with the combination of the register form; p7 takes no write. `NOP` (R392) changes program counters
only. -/
def Sys2Proof.Stmt.IntegerCompares : Prop :=
  (∀ o, WritesPred (.icmp o) 4 o.g o.pd (fun s t =>
    combine o.comb (t.pred o.pd.val) (condHolds o.cond (t.reg o.a.val) (opb s t o.b)))) ∧
  (∀ o, WritesPred (.icmpImm o) 4 o.g o.pd (fun _ t => condHolds o.cond (t.reg o.a.val) (o.imm.signExtend 32))) ∧
  (∀ o, WritesPred (.icmpImmExt o) 8 o.g o.pd (fun _ t => condHolds o.cond (t.reg o.a.val) o.imm)) ∧
  (∀ g (s : State) core ids rdv, s.cur = .flight core ids rdv →
    exec (.nop g) s = .next (laneNext s ids (laneStep 4 g (fun t => t))))

/-! ### Floating point -/

namespace Sys2Proof.Stmt

/-- One element of each half of a packed register, bits 15:0 as element 0 (R212). -/
def halfwise (f : Nat → Nat → Nat → Nat) (a b c : Word) : Word :=
  BitVec.ofNat 16 (f (a.toNat / 2 ^ 16) (b.toNat / 2 ^ 16) (c.toNat / 2 ^ 16))
    ++ BitVec.ofNat 16 (f (a.toNat % 2 ^ 16) (b.toNat % 2 ^ 16) (c.toNat % 2 ^ 16))

/-- The exact results of `FADD`, `FSUB`, `FMUL` and `FFMA` (R352). -/
def exactSum (x y _z : Fp) : Fp := x.add y
def exactDiff (x y _z : Fp) : Fp := x.add y.neg
def exactProduct (x y _z : Fp) : Fp := x.mul y
def exactFma (x y z : Fp) : Fp := (x.mul y).add z

/-- One element: the exact result, rounded once to nearest even into the format (R212). -/
def rounded (f : Fmt) (op : Fp → Fp → Fp → Fp) (a b c : Nat) : Nat := f.round .rn (op (f.decode a) (f.decode b) (f.decode c))

/-- A lane floating-point instruction with sources A, B and D. -/
def FloatWrites (i : OpReg3 → Instr) (val : Word → Word → Word → Word) : Prop :=
  ∀ o, WritesReg (i o) 4 o.g o.d (fun s t => val (t.reg o.a.val) (opb s t o.b) (t.reg o.d.val))

/-- The 32-bit form of an element function. -/
def wordwise (f : Nat → Nat → Nat → Nat) (a b c : Word) : Word := BitVec.ofNat 32 (f a.toNat b.toNat c.toNat)

/-- Numbers between the least integer `lo` and the greatest `hi`: the nearest to `y`. -/
def clamp (lo hi y : Int) : Int := if y < lo then lo else if hi < y then hi else y

/-- The magnitude of a code in units of the format's least subnormal; an infinity is a power of two above every number (R206). -/
def magOf (f : Fmt) (x : Nat) : Nat :=
  let e := x / 2 ^ f.mb % 2 ^ f.eb
  if e = 0 then x % 2 ^ f.mb else (2 ^ f.mb + x % 2 ^ f.mb) * 2 ^ (e - 1)

/-- The sign bit of a code. -/
def negCode (f : Fmt) (x : Nat) : Bool := x / 2 ^ (f.eb + f.mb) % 2 == 1

/-- The number that a code stands for, in those units: −0 and +0 are both 0. -/
def numOf (f : Fmt) (x : Nat) : Int := if negCode f x then -(magOf f x : Int) else magOf f x

/-- The code is a NaN: the last exponent, and a mantissa that is not 0 (R206). -/
def nanOf (f : Fmt) (x : Nat) : Bool := x / 2 ^ f.mb % 2 ^ f.eb == 2 ^ f.eb - 1 && x % 2 ^ f.mb != 0

/-- The value m·2^e, and k least subnormals of a format, in a common unit. -/
def valueIn (f : Fmt) (m : Nat) (e : Int) : Nat := m * 2 ^ (e - min e f.qmin).toNat
def stepsIn (f : Fmt) (k : Nat) (e : Int) : Nat := k * 2 ^ (f.qmin - min e f.qmin).toNat

/-- `k` is the code that the rounding mode picks for m·2^e, of the neighbours `lo` and `lo + 1` of its magnitude (R211). -/
def Picks (f : Fmt) (mode : RMode) (neg : Bool) (m : Nat) (e : Int) (lo k : Nat) : Prop :=
  stepsIn f (magOf f lo) e ≤ valueIn f m e ∧ valueIn f m e < stepsIn f (magOf f (lo + 1)) e ∧
  k = match mode with
    | .rz => lo
    | .rm => if neg ∧ stepsIn f (magOf f lo) e ≠ valueIn f m e then lo + 1 else lo
    | .rp => if ¬ neg ∧ stepsIn f (magOf f lo) e ≠ valueIn f m e then lo + 1 else lo
    | .rn =>
      let mid := stepsIn f (magOf f lo + magOf f (lo + 1)) e
      if 2 * valueIn f m e < mid then lo else if mid < 2 * valueIn f m e then lo + 1 else if lo % 2 = 0 then lo else lo + 1

/-! ### A flight of one thread -/

/-- The focus is a flight of one live thread. -/
def OneThread (s : State) (core : Nat) (t : Thread) (rdv : Bool) : Prop :=
  s.cur = .flight core [t.id] rdv ∧ s.thread? t.id = some t ∧ t.live = true

/-- The thread becomes `f` of itself and continues `n` bytes on; the focus is done; nothing else changes. -/
def runsOn (s : State) (id : ThreadId) (n : Nat) (f : Thread → Thread) : State :=
  laneNext s [id] (fun u => { f u with pc := u.pc + BitVec.ofNat 32 n })

/-- Lane instructions whose threads act one after another, with the guard they carry. -/
def oneByOne : Instr → Option Guard
  | .cvt o => some o.g
  | .qscl o => some o.g
  | .srd o => some o.g
  | .ldt o => some o.g
  | .trav o => some o.g
  | .travCont o => some o.g
  | .spawn o => some o.g
  | .spawnNb o => some o.g
  | .recld o => some o.g
  | .ld o => some o.g
  | .lds o => some o.g
  | .sts o => some o.g
  | .pref o => some o.g
  | .waitm o => some o.g
  | .atom o => some o.g
  | .cas o => some o.g
  | .red o => some o.g
  | .acq o => some o.g
  | .barw o => some o.g
  | .bra o => some o.g
  | .call o => some o.g
  | .brx o => some o.g
  | .ret o => some o.g
  | .callx o => some o.g
  | .tret g => some g
  | .tretNext g => some g
  | .tretReg o => some o.g
  | .exit g => some g
  | .trap o => some o.g
  | .trapExt o => some o.g
  | _ => none

/-- Bytes of an instruction (R306). -/
def instrBytes (i : Instr) : Nat := if i.isExt then 8 else 4

/-- The guard-true threads of a flight, in lane order. -/
def guardSet (s : State) (ids : List ThreadId) (g : Guard) : List Thread := (ids.filterMap s.thread?).filter (fun t => t.guard g)

/-- The crew no longer stands at a rendezvous (R26). -/
def left (x : Crew) : Crew :=
  { x with stalled := false, complete := false, begun := false, rdvFrom := none, hold := false, absent := none, fence := none, issuing := none }

/-- The crews after a collective: the crew of its flight has left its rendezvous. -/
def leftCrews (s : State) (ids : List ThreadId) : List Crew :=
  s.crews.map (fun x => if (ids.filterMap s.thread?).head?.map (fun t => t.id.crewId) = some x.id then left x else x)

/-- A crew collective completes: each guard-true thread of the flight becomes `f`, every thread of the flight leaves the rendezvous
for the next instruction, and nothing else changes (R26, R27). -/
def Exchanges (i : Instr) (g : Guard) (f : State → List Thread → Thread → Thread) : Prop :=
  ∀ (s : State) (core : Nat) (ids : List ThreadId) (rdv : Bool), s.cur = .flight core ids rdv →
    ∃ s', exec i s = .next s' ∧ s' = { s with cur := .idle, threads := s'.threads, crews := leftCrews s ids } ∧
      ∀ u, s'.thread? u = (s.thread? u).map (fun t =>
        if u ∈ ids then
          { (if t.guard g then f s (guardSet s ids g) t else t) with
            pc := t.pc + 4, arrived := none, stall := .none, wait := 0 }
        else t)

/-- The source lane of `SHFL` (R405). -/
def sourceLane (m : ShflMode) (lane : Nat) (b : Word) : Int :=
  match m with
  | .idx => (b.toNat % 32 : Nat)
  | .up => (lane : Int) - b.toNat
  | .down => (lane : Int) + b.toNat
  | .xor => ((lane ^^^ (b.toNat % 32) : Nat) : Int)

end Sys2Proof.Stmt

/-- R212, R351, R352: additions, subtractions, products and fused products of FP32, FP16 pairs and BF16 pairs are exact and rounded once
to nearest even, each half on its own. -/
def Sys2Proof.Stmt.FloatSums : Prop :=
  FloatWrites .faddF32 (wordwise (rounded .f32 exactSum)) ∧ FloatWrites .fsubF32 (wordwise (rounded .f32 exactDiff)) ∧
  FloatWrites .fmulF32 (wordwise (rounded .f32 exactProduct)) ∧ FloatWrites .ffmaF32 (wordwise (rounded .f32 exactFma)) ∧
  FloatWrites .faddF16x2 (halfwise (rounded .f16 exactSum)) ∧ FloatWrites .fsubF16x2 (halfwise (rounded .f16 exactDiff)) ∧
  FloatWrites .fmulF16x2 (halfwise (rounded .f16 exactProduct)) ∧ FloatWrites .ffmaF16x2 (halfwise (rounded .f16 exactFma)) ∧
  FloatWrites .faddBf16x2 (halfwise (rounded .bf16 exactSum)) ∧ FloatWrites .fsubBf16x2 (halfwise (rounded .bf16 exactDiff)) ∧
  FloatWrites .fmulBf16x2 (halfwise (rounded .bf16 exactProduct)) ∧ FloatWrites .ffmaBf16x2 (halfwise (rounded .bf16 exactFma))

/-- R325, R358: minimum and maximum of FP32, FP16 pairs and BF16 pairs: a single NaN is passed over, two give the canonical NaN, the
smaller or the larger number wins, and −0 is below +0. -/
def Sys2Proof.Stmt.FloatMinMax : Prop :=
  FloatWrites .fminF32 (wordwise (fun a b _ => Fmt.f32.minNum a b)) ∧ FloatWrites .fmaxF32 (wordwise (fun a b _ => Fmt.f32.maxNum a b)) ∧
  FloatWrites .fminF16x2 (halfwise (fun a b _ => Fmt.f16.minNum a b)) ∧
  FloatWrites .fmaxF16x2 (halfwise (fun a b _ => Fmt.f16.maxNum a b)) ∧
  FloatWrites .fminBf16x2 (halfwise (fun a b _ => Fmt.bf16.minNum a b)) ∧
  FloatWrites .fmaxBf16x2 (halfwise (fun a b _ => Fmt.bf16.maxNum a b)) ∧
  (∀ (f : Fmt) (a b : Nat), f = .f32 ∨ f = .f16 ∨ f = .bf16 → a < 2 ^ (1 + f.eb + f.mb) → b < 2 ^ (1 + f.eb + f.mb) →
    (nanOf f a = true → nanOf f b = true → f.minNum a b = f.nanCode ∧ f.maxNum a b = f.nanCode) ∧
    (nanOf f a = true → nanOf f b = false → f.minNum a b = b ∧ f.maxNum a b = b) ∧
    (nanOf f a = false → nanOf f b = true → f.minNum a b = a ∧ f.maxNum a b = a) ∧
    (nanOf f a = false → nanOf f b = false →
      f.minNum a b = (if numOf f a < numOf f b then a else if numOf f b < numOf f a then b else if negCode f a then a else b) ∧
      f.maxNum a b = (if numOf f a < numOf f b then b else if numOf f b < numOf f a then a else if negCode f a then b else a))) ∧
  Fmt.f32.nanCode = 0x7FC00000 ∧ Fmt.f16.nanCode = 0x7E00 ∧ Fmt.bf16.nanCode = 0x7FC0

/-- R206, R207, R211: every NaN that a rounding gives is the canonical NaN of its format; rounding the value of a code that is not a NaN
gives the code back; and a finite value m·2^e goes to the one of its two neighbours that the mode picks, ties to the even code, or beyond
the greatest number to it or to infinity. In FP32, FP16 and BF16 and in every rounding mode. -/
def Obligations.RoundingOfCodes : Prop :=
  ∀ f : Fmt, f = .f32 ∨ f = .f16 ∨ f = .bf16 →
    (∀ m x, (f.decode (f.round m x)).isNan = true → f.round m x = f.nanCode) ∧
    (∀ m c, c < 2 ^ (1 + f.eb + f.mb) → (f.decode c).isNan = false → f.round m (f.decode c) = c) ∧
    (∀ c, c < 2 ^ (1 + f.eb + f.mb) → (f.decode c).isNan = nanOf f c) ∧
    (∀ mode neg m e lo k, 0 < m → lo + 1 ≤ (2 ^ f.eb - 1) * 2 ^ f.mb → Picks f mode neg m e lo k →
      f.round mode (.fin neg m e) = (if neg then 2 ^ (f.eb + f.mb) else 0) + k) ∧
    (∀ mode neg m e, let inf := (2 ^ f.eb - 1) * 2 ^ f.mb
      stepsIn f (magOf f inf) e ≤ valueIn f m e → 0 < m →
      f.round mode (.fin neg m e) = (if neg then 2 ^ (f.eb + f.mb) else 0) + (match mode with
        | .rn => inf
        | .rz => inf - 1
        | .rm => if neg then inf else inf - 1
        | .rp => if neg then inf - 1 else inf)) ∧
    (∀ mode neg e, f.round mode (.fin neg 0 e) = if neg then 2 ^ (f.eb + f.mb) else 0)

/-- R312, R353: `FCMP` combines its condition with the predicate: the order of the numbers, with −0 equal to +0, and what the table says of
NaN. -/
def Sys2Proof.Stmt.FloatCompare : Prop :=
  (∀ o, WritesPred (.fcmp o) 4 o.g o.pd (fun s t =>
    combine o.comb (t.pred o.pd.val) (o.cond.holds (t.reg o.a.val) (opb s t o.b)))) ∧
  (∀ a b : Word, nanOf .f32 a.toNat = true ∨ nanOf .f32 b.toNat = true →
    FCond.holds .eq a b = false ∧ FCond.holds .ne a b = true ∧ FCond.holds .lt a b = false ∧ FCond.holds .le a b = false ∧
    FCond.holds .gt a b = false ∧ FCond.holds .ge a b = false ∧ FCond.holds .num a b = false ∧ FCond.holds .nan a b = true) ∧
  (∀ a b : Word, nanOf .f32 a.toNat = false → nanOf .f32 b.toNat = false →
    let x := numOf .f32 a.toNat
    let y := numOf .f32 b.toNat
    FCond.holds .eq a b = decide (x = y) ∧ FCond.holds .ne a b = decide (x ≠ y) ∧ FCond.holds .lt a b = decide (x < y) ∧
    FCond.holds .le a b = decide (x ≤ y) ∧ FCond.holds .gt a b = decide (y < x) ∧ FCond.holds .ge a b = decide (y ≤ x) ∧
    FCond.holds .num a b = true ∧ FCond.holds .nan a b = false)

/-- R219, R359: `FSFN` writes its function's value, and every special operand of the table has the value that the table gives. -/
def Sys2Proof.Stmt.SpecialOperands : Prop :=
  (∀ o, WritesReg (.fsfn o) 4 o.g o.d (fun _ t => Sfn.value o.fn (t.reg o.a.val))) ∧
  (∀ fn (a : Word), nanOf .f32 a.toNat = true → Sfn.value fn a = 0x7FC00000) ∧
  Sfn.value .rcp 0x00000000 = 0x7F800000 ∧ Sfn.value .rcp 0x80000000 = 0xFF800000 ∧
  Sfn.value .rcp 0x7F800000 = 0x00000000 ∧ Sfn.value .rcp 0xFF800000 = 0x80000000 ∧
  Sfn.value .rsq 0x00000000 = 0x7F800000 ∧ Sfn.value .rsq 0x80000000 = 0xFF800000 ∧ Sfn.value .rsq 0x7F800000 = 0x00000000 ∧
  Sfn.value .sqrt 0x00000000 = 0x00000000 ∧ Sfn.value .sqrt 0x80000000 = 0x80000000 ∧ Sfn.value .sqrt 0x7F800000 = 0x7F800000 ∧
  Sfn.value .log2 0x00000000 = 0xFF800000 ∧ Sfn.value .log2 0x80000000 = 0xFF800000 ∧
  Sfn.value .log2 0x3F800000 = 0x00000000 ∧ Sfn.value .log2 0x7F800000 = 0x7F800000 ∧
  (∀ a : Word, numOf .f32 a.toNat < 0 →
    Sfn.value .rsq a = 0x7FC00000 ∧ Sfn.value .sqrt a = 0x7FC00000 ∧ Sfn.value .log2 a = 0x7FC00000) ∧
  Sfn.value .exp2 0x7F800000 = 0x7F800000 ∧ Sfn.value .exp2 0xFF800000 = 0x00000000 ∧
  (∀ (a : Word) (n : Int), nanOf .f32 a.toNat = false → numOf .f32 a.toNat = n * 2 ^ 149 →
    (-149 ≤ n → n < -126 → Sfn.value .exp2 a = BitVec.ofNat 32 (2 ^ (n + 149).toNat)) ∧
    (-126 ≤ n → n < 128 → Sfn.value .exp2 a = BitVec.ofNat 32 ((n + 127).toNat * 2 ^ 23)) ∧
    (128 ≤ n → Sfn.value .exp2 a = 0x7F800000)) ∧
  Sfn.value .sinpi 0x7F800000 = 0x7FC00000 ∧ Sfn.value .sinpi 0xFF800000 = 0x7FC00000 ∧
  Sfn.value .cospi 0x7F800000 = 0x7FC00000 ∧ Sfn.value .cospi 0xFF800000 = 0x7FC00000 ∧
  (∀ a : Word, magOf .f32 a.toNat < 2 ^ 277 → magOf .f32 a.toNat % 2 ^ 149 = 0 → Sfn.value .sinpi a = a &&& 0x80000000) ∧
  (∀ a : Word, magOf .f32 a.toNat < 2 ^ 277 → magOf .f32 a.toNat % 2 ^ 149 = 2 ^ 148 → Sfn.value .cospi a = 0x00000000) ∧
  Sfn.value .sinpi 0x3F000000 = 0x3F800000 ∧ Sfn.value .cospi 0x3F800000 = 0xBF800000 ∧
  Sfn.value .tanh 0x7F800000 = 0x3F800000 ∧ Sfn.value .tanh 0xFF800000 = 0xBF800000 ∧
  (∀ a : Word, magOf .f32 a.toNat < 2 ^ 137 → Sfn.value .tanh a = a)

/-- R219, R359: an operand that the table does not fix gives the FP32 value nearest to the result, or one within the function's bound of it:
1 ulp for `RCP`, 2 ulp for the others, 2^-22 for `LOG2` of 0.5 to 2; below 2^-149, ±0 or ±2^-149. The result is that of the model's
arithmetic, and which value within the bound is taken is free (log entry 13). For `RCP` and `RSQ` that arithmetic is pinned: the operand times the
result, or times its square, is at most 1, and above 1 for the next number of 120 bits or more. -/
def Sys2Proof.Stmt.SpecialBound : Prop :=
  (∀ (fn : SfnCode) (a : Word) (neg neg' : Bool) (m m' : Nat) (e e' : Int), f32 a = .fin neg m e → Sfn.special fn (f32 a) = none →
    Sfn.approx fn neg m e = .fin neg' m' e' →
    let y := Sfn.value fn a
    let top := (Nat.log2 m' : Int) + e'
    let ulp := max (top - 23) (-149)
    let far := Fp.add (f32 y) (.fin (!neg') m' e')
    y = rneF32 (.fin neg' m' e') ∨
    (top < -149 ∧ (y = (if neg' then 0x80000000 else 0x00000000) ∨ y = if neg' then 0x80000001 else 0x00000001)) ∨
    (∃ k g s, far = .fin s k g ∧
      (Fp.cmp (.fin false k g) (.fin false (if fn = .rcp then 1 else 2) ulp) ≠ .gt ∨
       (fn = .log2 ∧ Fp.cmp (f32 a) (.fin false 1 (-1)) ≠ .lt ∧ Fp.cmp (f32 a) (.fin false 2 0) ≠ .gt ∧
        Fp.cmp (.fin false k g) (.fin false 1 (-22)) ≠ .gt)))) ∧
  (∀ (s : Bool) (m : Nat) (e : Int), 0 < m → m < 2 ^ 24 → ∃ r k : Nat, 120 ≤ k ∧ Sfn.approx .rcp s m e = .fin s r (-(k : Int) - e) ∧
    m * r ≤ 2 ^ k ∧ 2 ^ k < m * (r + 1)) ∧
  (∀ (m : Nat) (e j : Int) (odd : Bool), 0 < m → m < 2 ^ 24 → e = 2 * j + odd.toNat → ∃ r k : Nat, 120 ≤ k ∧
    Sfn.approx .rsq false m e = .fin false r (-(k : Int) - j) ∧
    2 ^ odd.toNat * m * r ^ 2 ≤ 2 ^ (2 * k) ∧ 2 ^ (2 * k) < 2 ^ odd.toNat * m * (r + 1) ^ 2)

/-- R219: `SQRT` of a positive finite operand is the nearest FP32 value: in units of the least subnormal, the square of the half-way point below it is
less than the operand, and that of the half-way point above it greater. -/
def Sys2Proof.Stmt.SquareRoot : Prop :=
  (∀ a : Word, 0 < a.toNat → a.toNat < 0x7F800000 →
    let r := (Sfn.value .sqrt a).toNat
    let x := magOf .f32 a.toNat * 2 ^ 149
    0 < r ∧ r < 0x7F7FFFFF ∧ (magOf .f32 (r - 1) + magOf .f32 r) ^ 2 < 4 * x ∧ 4 * x < (magOf .f32 r + magOf .f32 (r + 1)) ^ 2) ∧
  Sfn.value .sqrt 0x40800000 = 0x40000000 ∧ Sfn.value .sqrt 0x40000000 = 0x3FB504F3 ∧ Sfn.value .sqrt 0x00000001 = 0x1A3504F3

/-- R219, R312, R353, R359: `FCMP` and its conditions; `FSFN`, its special operands, its bound, and the correctly rounded `SQRT`. -/
def Obligations.FloatCompareAndFunctions : Prop :=
  Sys2Proof.Stmt.FloatCompare ∧ Sys2Proof.Stmt.SpecialOperands ∧ Sys2Proof.Stmt.SpecialBound ∧ Sys2Proof.Stmt.SquareRoot

/-- R211, R216, R217: a conversion of FP32 to an integer gives 0 for a NaN and the nearer bound beyond the range, and marks both; inside the
range it gives the one of the two neighbouring integers `lo` and `lo + 1` that the mode picks, ties to even, and marks nothing. -/
def Sys2Proof.Stmt.ConvertToInteger : Prop :=
  ∀ (mode : RMode) (a b : Word),
    ((f32 a).isNan = true → cvtValue .s32F32 mode a b = ([0], true) ∧ cvtValue .n32F32 mode a b = ([0], true)) ∧
    (f32 a = .inf false → cvtValue .s32F32 mode a b = ([0x7FFFFFFF], true) ∧ cvtValue .n32F32 mode a b = ([0xFFFFFFFF], true)) ∧
    (f32 a = .inf true → cvtValue .s32F32 mode a b = ([0x80000000], true) ∧ cvtValue .n32F32 mode a b = ([0], true)) ∧
    (∀ (s : Bool) (m : Nat) (e lo : Int), f32 a = .fin s m e →
      let num : Int := (if s then -1 else 1) * (m * 2 ^ e.toNat : Nat)
      let den : Int := (2 ^ (-e).toNat : Nat)
      let frac := num - lo * den
      0 ≤ frac → frac < den →
      let y := match mode with
        | .rz => if s ∧ frac ≠ 0 then lo + 1 else lo
        | .rm => lo
        | .rp => if frac = 0 then lo else lo + 1
        | .rn => if 2 * frac < den then lo else if den < 2 * frac then lo + 1 else if lo % 2 = 0 then lo else lo + 1
      cvtValue .s32F32 mode a b = ([BitVec.ofInt 32 (clamp (-(2 ^ 31)) (2 ^ 31 - 1) y)], decide (y < -(2 ^ 31) ∨ 2 ^ 31 - 1 < y)) ∧
      cvtValue .n32F32 mode a b = ([BitVec.ofInt 32 (clamp 0 (2 ^ 32 - 1) y)], decide (y < 0 ∨ 2 ^ 32 - 1 < y)))

/-- R208, R216, R217: the other conversions: integers and FP32 to a narrower format are rounded by the mode, widening is exact, element i comes
from bits of rising place, and none of them marks anything. −0 stays −0, and an E4M3 NaN gives 0x7FC0. -/
def Sys2Proof.Stmt.ConvertFormats : Prop :=
  ∀ (mode : RMode) (a b : Word),
    let half := fun (lo hi : Nat) => BitVec.ofNat 16 hi ++ BitVec.ofNat 16 lo
    let bf := fun (i : Nat) => Fmt.bf16.round .rn (decodeE4m3 (field a (8 * i) 8))
    let hf := fun (i : Nat) => Fmt.f16.round .rn (Fmt.e5m2.decode (field a (8 * i) 8))
    let qf := fun (i : Nat) => Fmt.f16.round .rn (decodeE2m1 (field a (4 * i) 4))
    let sf := fun (i : Nat) =>
      let x := (BitVec.ofNat 8 (field a (8 * i) 8)).toInt
      Fmt.f16.round .rn (.fin (decide (x < 0)) x.natAbs 0)
    cvtValue .f32S32 mode a b = ([BitVec.ofNat 32 (Fmt.f32.round mode (.fin (decide (a.toInt < 0)) a.toInt.natAbs 0))], false) ∧
    cvtValue .f32N32 mode a b = ([BitVec.ofNat 32 (Fmt.f32.round mode (.fin false a.toNat 0))], false) ∧
    cvtValue .f16F32 mode a b = ([half (Fmt.f16.round mode (f32 a)) 0], false) ∧
    cvtValue .bf16F32 mode a b = ([half (Fmt.bf16.round mode (f32 a)) 0], false) ∧
    cvtValue .f32F16 mode a b = ([BitVec.ofNat 32 (Fmt.f32.round .rn (Fmt.f16.decode (field a 0 16)))], false) ∧
    cvtValue .f32Bf16 mode a b =
      ([if nanOf .bf16 (field a 0 16) then 0x7FC00000 else BitVec.ofNat 32 (field a 0 16 * 2 ^ 16)], false) ∧
    cvtValue .f16x2F32 mode a b = ([half (Fmt.f16.round mode (f32 a)) (Fmt.f16.round mode (f32 b))], false) ∧
    cvtValue .bf16x2F32 mode a b = ([half (Fmt.bf16.round mode (f32 a)) (Fmt.bf16.round mode (f32 b))], false) ∧
    cvtValue .bf16x4E4m3 mode a b = ([half (bf 0) (bf 1), half (bf 2) (bf 3)], false) ∧
    cvtValue .f16x4E5m2 mode a b = ([half (hf 0) (hf 1), half (hf 2) (hf 3)], false) ∧
    cvtValue .f16x8E2m1 mode a b = ([half (qf 0) (qf 1), half (qf 2) (qf 3), half (qf 4) (qf 5), half (qf 6) (qf 7)], false) ∧
    cvtValue .f16x4S8 mode a b = ([half (sf 0) (sf 1), half (sf 2) (sf 3)], false)

/-- R206, R208: the values of E4M3, E5M2 and E2M1 codes, by sign, exponent and mantissa: E4M3 has no infinity and one NaN magnitude, E2M1
neither. -/
def Sys2Proof.Stmt.NarrowCodes : Prop :=
  (∀ x, x < 256 → decodeE4m3 x = if x % 128 = 127 then .nan
    else if x % 128 < 8 then .fin (decide (128 ≤ x)) (x % 8) (-9) else .fin (decide (128 ≤ x)) (8 + x % 8) ((x % 128 / 8 : Nat) - 10)) ∧
  (∀ x, x < 256 → Fmt.e5m2.decode x = if 124 < x % 128 then .nan else if x % 128 = 124 then .inf (decide (128 ≤ x))
    else if x % 128 < 4 then .fin (decide (128 ≤ x)) (x % 4) (-16) else .fin (decide (128 ≤ x)) (4 + x % 4) ((x % 128 / 4 : Nat) - 17)) ∧
  (∀ x, x < 16 → decodeE2m1 x = if x % 8 < 2 then .fin (decide (8 ≤ x)) (x % 2) (-1)
    else .fin (decide (8 ≤ x)) (2 + x % 2) ((x % 8 / 2 : Nat) - 2))

/-- R213: sat_e4m3 and sat_e5m2: a NaN gives 0x7F or 0x7E and no mark; beyond 448 or 57,344 the value of that sign, with a mark; otherwise
the nearest code of the grid, ties to even, and no mark. -/
def Sys2Proof.Stmt.SaturateF8 : Prop :=
  satF8 false .nan = (0x7F, false) ∧ satF8 true .nan = (0x7E, false) ∧
  (∀ neg, satF8 false (.inf neg) = ((if neg then 0xFE else 0x7E), true) ∧ satF8 true (.inf neg) = ((if neg then 0xFB else 0x7B), true)) ∧
  (∀ (e5m2 neg : Bool) (m : Nat) (e : Int),
    let f := if e5m2 then Fmt.e5m2 else Fmt.e4m3
    let top := if e5m2 then 0x7B else 0x7E
    (stepsIn f (magOf f top) e < valueIn f m e → satF8 e5m2 (.fin neg m e) = ((if neg then 0x80 else 0) + top, true)) ∧
    (m = 0 → satF8 e5m2 (.fin neg m e) = ((if neg then 0x80 else 0), false)) ∧
    (∀ lo k, 0 < m → lo + 1 ≤ top → Picks f .rn neg m e lo k → satF8 e5m2 (.fin neg m e) = ((if neg then 0x80 else 0) + k, false)) ∧
    (stepsIn f (magOf f top) e = valueIn f m e → satF8 e5m2 (.fin neg m e) = ((if neg then 0x80 else 0) + top, false))) ∧
  magOf .e4m3 0x7E = 448 * 2 ^ 9 ∧ magOf .e5m2 0x7B = 57344 * 2 ^ 16

/-- R213, R214, R217, R218, R398: `CVT` and `QSCL` write their results; where a value saturates they set bit 1, or bit 0, of the crew's
`%sat`, which keeps its other bits. -/
def Sys2Proof.Stmt.ConvertAndQuantize : Prop :=
  (∀ (o : OpCvt) (s : State) (core : Nat) (t : Thread) (rdv : Bool), OneThread s core t rdv → t.guard o.g = true →
    let r := cvtValue o.code o.mode (t.reg o.a.val) (t.reg (o.a.val + 1))
    exec (.cvt o) s = .next { runsOn s t.id 4 (fun u => u.setRegs o.d.val r.1) with
      crews := if r.2 then s.crews.map (fun c => if c.id = t.id.crewId then { c with sat := c.sat ||| 2 } else c) else s.crews }) ∧
  (∀ (o : OpQscl) (s : State) (core : Nat) (t : Thread) (rdv : Bool), OneThread s core t rdv → t.guard o.g = true →
    let q := fun i => satF8 o.e5m2 ((f32 (t.reg (o.a.val + i))).mul (f32 (opb s t o.b)))
    exec (.qscl o) s = .next { runsOn s t.id 4 (fun u => { u with v := u.v.set o.d.val <|
        (BitVec.ofNat 32 ((q 0).1 % 256 + 256 * ((q 1).1 % 256) + 65536 * ((q 2).1 % 256) + 16777216 * ((q 3).1 % 256))) }) with
      crews := if (q 0).2 || (q 1).2 || (q 2).2 || (q 3).2 then
          s.crews.map (fun c => if c.id = t.id.crewId then { c with sat := c.sat ||| 1 } else c) else s.crews })

/-! ### Flights -/

/-- R23: the threads of a flight act one after another in ascending lane order: a flight of several threads is a flight of its first
thread, then a flight of the others, as long as the first thread's instruction sends none of the others to the handler or back. Of `ATOM` and `CAS`,
before which the loads of the whole flight perform (R331), this is said where the others have no load that has still to perform. -/
def Sys2Proof.Stmt.FlightIsSequential : Prop :=
  ∀ (i : Instr) (s s1 : State) (core : Nat) (a : ThreadId) (ids : List ThreadId) (rdv : Bool), (oneByOne i).isSome = true →
    exec i { s with cur := .flight core [a] rdv } = .next s1 → s1.cur = .idle →
    (∀ b ∈ ids, (s1.thread? b).map Thread.inh = (s.thread? b).map Thread.inh) →
    ((∃ o, i = .atom o) ∨ (∃ o, i = .cas o) → ∀ x, x = s ∨ x = s1 → ∀ b ∈ ids, ∀ u, x.thread? b = some u → ∀ l ∈ u.loads, l.done = true) →
    exec i { s with cur := .flight core (a :: ids) rdv } = exec i { s1 with cur := .flight core ids rdv }

/-- R23, R303: a thread whose guard is false continues at the next instruction, and nothing else changes. -/
def Sys2Proof.Stmt.GuardFalseContinues : Prop :=
  (∀ (i : Instr) (g : Guard) (s : State) (core : Nat) (t : Thread) (rdv : Bool), oneByOne i = some g → OneThread s core t rdv →
    t.guard g = false → exec i s = .next (runsOn s t.id (instrBytes i) id)) ∧
  (∀ (t : Thread) (neg : Bool), t.guard ⟨7, neg⟩ = !neg)

/-! ### Crew collectives -/

/-- R405, R406: `SHFL` takes `v[A]` of the guard-true thread on the source lane, and the thread's own `v[A]` where there is none. -/
def Sys2Proof.Stmt.Shuffle : Prop :=
  ∀ o, Exchanges (.shfl o) o.g (fun s set t => { t with v := t.v.set o.d.val <|
    (match set.find? (fun u => (u.id.lane : Int) == sourceLane o.mode t.id.lane (opb s t o.b)) with
     | some u => u.reg o.a.val
     | none => t.reg o.a.val) })

/-- R348, R418: votes over the guard-true threads, the ballot with bit l for the thread on lane l, and the election of the lowest
lane. -/
def Sys2Proof.Stmt.VotesAndElection : Prop :=
  (∀ o, Exchanges (.vote o) o.g (fun _ set t => if o.pd = 7 then t else { t with p := t.p.set o.pd.val <|
    (if o.any then set.any (fun u => u.pred o.pa.val) else set.all (fun u => u.pred o.pa.val)) })) ∧
  (∀ o, ∃ w : List Thread → Word,
    (∀ set l, l < 32 → (w set).getLsbD l = set.any (fun u => decide (u.id.lane = l) && u.pred o.pa.val)) ∧
    Exchanges (.voteBallot o) o.g (fun _ set t => { t with v := t.v.set o.d.val (w set) })) ∧
  (∀ o, Exchanges (.elect o) o.g (fun _ set t => if o.pd = 7 then t else { t with p := t.p.set o.pd.val <|
    (set.all (fun u => decide (t.id.lane ≤ u.id.lane))) }))

/-- R345, R346: `CREDUCE` folds `v[A]` of the guard-true threads in lane order: of all of them, of those up to the thread's lane, or of
those below it; over no thread it gives the operation's identity. -/
def Sys2Proof.Stmt.CrewReduction : Prop :=
  (∀ o, Exchanges (.creduce o) o.g (fun _ set t => { t with v := t.v.set o.d.val <|
    (o.op.fold ((set.filter (fun u => match o.form with
      | .reduce => true
      | .inc => decide (u.id.lane ≤ t.id.lane)
      | .exc => decide (u.id.lane < t.id.lane))).map (fun u => u.reg o.a.val))) })) ∧
  (∀ op : Sys2Proof.RedOp, op.fold [] = op.identity) ∧ (∀ (op : Sys2Proof.RedOp) x xs, op.fold (x :: xs) = xs.foldl op.combine x) ∧
  RedOp.identity .add = 0 ∧ RedOp.identity .minS = 0x7FFFFFFF ∧ RedOp.identity .maxS = 0x80000000 ∧
  RedOp.identity .minN = 0xFFFFFFFF ∧ RedOp.identity .maxN = 0 ∧ RedOp.identity .and = 0xFFFFFFFF ∧ RedOp.identity .or = 0 ∧
  RedOp.identity .xor = 0 ∧ RedOp.identity .addF32 = 0 ∧ RedOp.identity .maxF32 = 0xFF800000 ∧ RedOp.identity .minF32 = 0x7F800000 ∧
  (∀ r x : Word,
    RedOp.combine .add r x = r + x ∧ RedOp.combine .and r x = r &&& x ∧ RedOp.combine .or r x = r ||| x ∧
    RedOp.combine .xor r x = r ^^^ x ∧
    RedOp.combine .minS r x = (if r.toInt ≤ x.toInt then r else x) ∧ RedOp.combine .maxS r x = (if r.toInt ≤ x.toInt then x else r) ∧
    RedOp.combine .minN r x = (if r.toNat ≤ x.toNat then r else x) ∧ RedOp.combine .maxN r x = (if r.toNat ≤ x.toNat then x else r) ∧
    RedOp.combine .addF32 r x = BitVec.ofNat 32 (Fmt.f32.round .rn ((f32 r).add (f32 x))) ∧
    RedOp.combine .maxF32 r x = BitVec.ofNat 32 (Fmt.f32.maxNum r.toNat x.toNat) ∧
    RedOp.combine .minF32 r x = BitVec.ofNat 32 (Fmt.f32.minNum r.toNat x.toNat))

/-! ### Entries to the handler -/

namespace Sys2Proof.Stmt

/-- A thread of an enabled handler, on a core, outside the handler and in no wait. -/
def CanTrap (s : State) (t : Thread) : Prop :=
  t.inh = false ∧ s.traph t.id.team ≠ 0 ∧ s.outside t.id.team = false ∧ t.park = .none

/-- The thread as the handler's entry leaves it (R268): `%trapc`, `%cause` and `%trapv` written, the in-handler flag set, and the
program counter at TRAPH. An `.ACQ` whose barrier has let the thread go still waits for its loads (R151), and an `LD` of a peer's memory that has not
returned has had no effect (log entry 105). -/
def inHandler (s : State) (cause trapv resume : Word) (u : Thread) : Thread :=
  { u with pc := BitVec.ofNat 32 (s.traph u.id.team), inh := true, park := .none,
           stall := match u.stall with
             | .acq lvl => .acq lvl
             | _ => .none,
           arrived := none, loads := u.loads.filter (fun l => !l.remote), committed := false,
           late := none, run := none, cont := false, trapc := resume, cause := cause, trapv := trapv }

/-- The 32 bytes of an escalation record (R274). -/
def escBytes (cause trapv trapc : Word) (grid core tid reason first seq : Nat) : List Byte :=
  leBytes 4 cause.toNat ++ leBytes 4 trapv.toNat ++ leBytes 4 trapc.toNat ++ leBytes 4 grid ++ leBytes 2 core ++ leBytes 2 tid ++
    [BitVec.ofNat 8 reason, BitVec.ofNat 8 first, 0, 0] ++ leBytes 4 seq ++ [0, 0, 0, 0]

/-- Between the two states one thread has become `f` of itself; other threads, crews, teams, grids, memory, buffers, caches and envelope
lines are the same. -/
def OnlyThread (s s' : State) (t : Thread) (f : Thread → Thread) : Prop :=
  s'.thread? t.id = some (f t) ∧ (∀ u, u ≠ t.id → s'.thread? u = s.thread? u) ∧ s'.crews = s.crews ∧ s'.teams = s.teams ∧
    s'.grids = s.grids ∧ s'.mem = s.mem ∧ s'.buffers = s.buffers ∧ s'.l1 = s.l1 ∧ s'.envLines = s.envLines ∧ s'.irqs = s.irqs

end Sys2Proof.Stmt

/-! ### Memory -/

namespace Sys2Proof.Stmt

/-- A byte of a team's scratchpad; 0 for a team that does not exist. -/
def spadByte (s : State) (team off : Nat) : Byte := ((s.team? team).map (fun t => t.spad.read off)).getD 0

/-- A scratchpad access of `n` bytes that meets no trap and no absent line (R76 to R79, R96). -/
def SpadOk (s : State) (team off n : Nat) : Prop :=
  ∃ tm, s.team? team = some tm ∧ off % n = 0 ∧ off + n ≤ 128 * tm.spadLines ∧ off / 128 ∉ tm.absent

/-- The state in which a thread's loads from a sector have performed (R130). -/
def settled (s : State) (t : Thread) (loc : Loc) : State := State.settleLoads { s with cur := .idle } t.id loc.sector

/-- The state that a load finds: the thread's loads from the sector have performed, and, where the load performs at issue, those of its
flight (R23, R130, R131, log entry 16). -/
def settledFlight (s : State) (t : Thread) (loc : Loc) : State :=
  if (settled s t loc).choice = 0 then
    (settled s t loc).settleFlight (s.coreOf t.id.team) s.flightNo loc.sector
  else settled s t loc

/-- No bytes of a place's sector are on their way to device reach, and none of them wait there for a fill (R191). -/
def NoneLanding (s : State) (loc : Loc) : Prop := ∀ l ∈ s.landings ++ s.parkedLandings, l.loc ≠ loc.sector

/-- Nor does an `LD` wait for a peer to send bytes of the sector (R295, log entry 105). -/
def Quiet (s : State) (loc : Loc) : Prop :=
  NoneLanding s loc ∧ ∀ u ∈ s.threads, ∀ l ∈ u.loads, l.remote = true → l.loc.sector ≠ loc.sector

/-- The new value of an atomic's operand where it changes memory: `ATOM` always, `CAS` where the compare succeeds (R330, R341). -/
def atomNew (i : Instr) (t : Thread) (old : DWord) : Option DWord :=
  match i with
  | .atom o => some (atomApply o.op o.w old (atomOperand t o.d.val o.w))
  | .cas o => if old = atomOperand t o.d.val o.w then some (atomOperand t (o.d.val + (if o.w then 2 else 1)) o.w) else none
  | _ => none

/-- The operand fields of a returning atomic: guard, A, D, W and scope. -/
def atomFields : Instr → Option (Guard × Fin 64 × Fin 64 × Bool × Scope)
  | .atom o => some (o.g, o.a, o.d, o.w, o.sc)
  | .cas o => some (o.g, o.a, o.d, o.w, o.sc)
  | _ => none

end Sys2Proof.Stmt

/-- R4, R76: a run of bytes written to a memory reads back byte by byte, and every other byte reads as before. -/
def Obligations.MemoryReadAfterWrite : Prop :=
  ∀ (m : Memory) (a : Nat) (bs : List Byte) (x : Nat),
    (m.writeBytes a bs).read x = if a ≤ x ∧ x < a + bs.length then bs.getD (x - a) 0 else m.read x

/-- R305, R381: `LDS` at `v[A] + OFF6·size` fills its registers from the scratchpad, bytes and halfwords extended as SZ says, the registers
of a pair or quad in rising address order; no memory changes. -/
def Sys2Proof.Stmt.ScratchpadLoad : Prop :=
  (∀ (o : OpMem) (s : State) (core : Nat) (t : Thread) (rdv : Bool), OneThread s core t rdv → t.guard o.g = true →
    let ea := (t.reg o.a.val).toNat + o.off.val * szBytes o.sz.val
    SpadOk s t.id.team ea (szBytes o.sz.val) →
    exec (.lds o) s = .next (runsOn s t.id 4 (fun u =>
      u.setRegs o.d.val (loadedRegs o.sz.val (s.spadBytes t.id.team ea (szBytes o.sz.val)))))) ∧
  (∀ b : Byte, loadedRegs 0 [b] = [b.zeroExtend 32] ∧ loadedRegs 5 [b] = [b.signExtend 32]) ∧
  (∀ b c : Byte, loadedRegs 1 [b, c] = [(c ++ b).zeroExtend 32] ∧ loadedRegs 6 [b, c] = [(c ++ b).signExtend 32]) ∧
  (∀ b c d e : Byte, loadedRegs 2 [b, c, d, e] = [e ++ d ++ c ++ b]) ∧
  (∀ x y : List Byte, x.length = 4 → y.length = 4 → loadedRegs 3 (x ++ y) = loadedRegs 2 x ++ loadedRegs 2 y) ∧
  (∀ x y z w : List Byte, x.length = 4 → y.length = 4 → z.length = 4 → w.length = 4 →
    loadedRegs 4 (x ++ y ++ z ++ w) = loadedRegs 2 x ++ loadedRegs 2 y ++ loadedRegs 2 z ++ loadedRegs 2 w)

/-- R305, R410, R413: `STS` stores the low bytes of its data registers at `v[A] + OFF6·size`; every other byte of every scratchpad, and all
of device memory, reads as before, and no register changes. -/
def Sys2Proof.Stmt.ScratchpadStore : Prop :=
  ∀ (o : OpMem) (s : State) (core : Nat) (t : Thread) (rdv : Bool), OneThread s core t rdv → t.guard o.g = true →
    let n := szBytes o.sz.val
    let ea := (t.reg o.a.val).toNat + o.off.val * n
    SpadOk s t.id.team ea n → o.sz.val ≤ 4 →
    ∃ s', exec (.sts o) s = .next s' ∧ s' = { runsOn s t.id 4 id with teams := s'.teams } ∧
      (∀ team off, spadByte s' team off = if team = t.id.team ∧ ea ≤ off ∧ off < ea + n then
          BitVec.ofNat 8 ((t.reg (o.d.val + (off - ea) / 4)).toNat / 2 ^ (8 * ((off - ea) % 4)))
        else spadByte s team off) ∧
      (∀ tm, (s'.team? tm) = (s.team? tm).map (fun x => { x with spad := ((s'.team? tm).map Team.spad).getD [] }))

/-- R78, R79, R96, R266: a scratchpad load or store traps MISALIGNED, then ACCESS, with the offset in `%trapv`, and waits for an absent
line, without any other effect. -/
def Sys2Proof.Stmt.ScratchpadTraps : Prop :=
  ∀ (i : Instr) (o : OpMem) (s : State) (core : Nat) (t : Thread) (rdv : Bool) (tm : Team), i = .lds o ∨ i = .sts o →
    OneThread s core t rdv → t.guard o.g = true → s.team? t.id.team = some tm →
    let n := szBytes o.sz.val
    let ea := (t.reg o.a.val).toNat + o.off.val * n
    (ea % n ≠ 0 → exec i s = .next (State.threadTrap { s with cur := .idle } t .misaligned (BitVec.ofNat 32 ea) 0)) ∧
    (ea % n = 0 → 128 * tm.spadLines < ea + n →
      exec i s = .next (State.threadTrap { s with cur := .idle } t .access (BitVec.ofNat 32 ea) 0)) ∧
    (ea % n = 0 → ea + n ≤ 128 * tm.spadLines → ea / 128 ∈ tm.absent →
      exec i s = .next (laneNext s [t.id] (fun u => { u with park := .absent (ea / 128) })))

/-- R380: `LD` whose address check finds a place with every byte readable, and none of its sector on its way, fills its registers with the
bytes and continues; the load stays outstanding, from its first register on, until LOAD_RETURN. Memory, buffers and caches do not change.
The choice of when it performs (R131) is the state's next open choice (log entry 16), of which nothing is said. An `LD` that needs bytes of a peer's
memory has no effect before it returns: its thread stands at it, and LOAD_RETURN completes it (R267, R295, log entry 105). -/
def Sys2Proof.Stmt.GlobalLoad : Prop :=
  ∀ (o : OpMem) (s s1 : State) (core : Nat) (t : Thread) (rdv : Bool) (tr : Translation) (loc : Loc) (bs : List Byte),
    OneThread s core t rdv → t.guard o.g = true →
    let n := szBytes o.sz.val
    s.access t.id.team (t.pair o.a.val + o.off.val * n) n false = .ok tr loc →
    Quiet s loc → s.delayed loc = false → s1 = settledFlight s t loc →
    s1.loadBytes? t.id.crewId (s.coreOf t.id.team) loc n = some bs →
    let far := (match loc with | .pa a => (peerOf a).isSome | .env _ _ => false) && s1.needsFar t.id.crewId (s.coreOf t.id.team) loc n
    ∃ s' l, exec (.ld o) s = .next s' ∧ s' = { s with cur := .idle, threads := s'.threads, lastId := s.lastId + 1, oracle := s'.oracle } ∧
      l.slot = s.lastId + 1 ∧ l.dst = o.d.val ∧ l.loc = loc ∧ l.size = n ∧ l.remote = far ∧
      (∀ u, s'.thread? u = (s1.thread? u).map (fun x =>
        if u ≠ t.id then x
        else if far then { x with stall := .remote, loads := x.loads ++ [l] }
        else { x.setRegs o.d.val (loadedRegs o.sz.val bs) with pc := x.pc + 4, loads := x.loads ++ [l] }))

/-- R106, R411, R412: `ST` whose address check finds a place, none of whose sector is on its way, and whose crew has room puts the bytes
of its data registers into the crew's buffer, with the crew as author; every other buffered byte, and every byte at device reach, stays;
the crew's own next load of the place reads the bytes. -/
def Sys2Proof.Stmt.GlobalStore : Prop :=
  ∀ (o : OpMem) (s : State) (core : Nat) (t : Thread) (rdv : Bool) (tr : Translation) (loc : Loc),
    OneThread s core t rdv → t.guard o.g = true → o.sz.val ≤ 4 →
    let n := szBytes o.sz.val
    let va := t.pair o.a.val + o.off.val * n
    let bs := storedBytes t o.d.val o.sz.val
    s.access t.id.team va n true = .ok tr loc → Quiet s loc → storeLimit (settled s t loc) t.id.crewId loc.sector = none →
    ∃ s', exec (.st o) s = .next s' ∧ s' = { s with cur := .idle, threads := s'.threads, buffers := s'.buffers } ∧
      (∀ u, s'.thread? u = ((settled s t loc).thread? u).map (fun x => if u = t.id then { x with pc := x.pc + 4 } else x)) ∧
      (∀ i, i < n → s'.bufGet (.crew t.id.crewId) (loc.add i) = some
        { buf := .crew t.id.crewId, author := .crew t.id.crewId, ctx := s.ctxId t.id.team, va := va + i, loc := loc.add i,
          tr := tr, val := bs.getD i 0 }) ∧
      (∀ b l, (b = .crew t.id.crewId → ∀ i, i < n → l ≠ loc.add i) → s'.bufGet b l = s.bufGet b l) ∧
      (∀ i, i < n → s'.loadByte? t.id.crewId (s.coreOf t.id.team) (loc.add i) = some (bs.getD i 0))

/-- R92, R96, R98, R266: the address check of a thread's global access: MISALIGNED first, then ACCESS beyond 2^52, then RANGE_LOCK, then a
page walk when no TLB entry serves, or serves the write. An `LD` or `ST` that fails a check traps, with its address in `%trapv` and AUX, and has no
other effect: no register, buffer or memory changes; one that an access table denies is counted besides (R297). -/
def Obligations.AddressChecks : Prop :=
  (∀ (s : State) (team va n : Nat) (w : Bool),
    (va % n ≠ 0 → s.access team va n w = .trap .misaligned) ∧
    (va % n = 0 → 2 ^ 52 < va + n → s.access team va n w = .trap .access) ∧
    (va % n = 0 → va + n ≤ 2 ^ 52 → s.lockedBy (s.coreOf team) (s.ctxId team) va n w = true → s.access team va n w = .trap .rangeLock) ∧
    (va % n = 0 → va + n ≤ 2 ^ 52 → s.lockedBy (s.coreOf team) (s.ctxId team) va n w = false →
      s.tlbFind (s.coreOf team) (s.ctxId team) va = none → s.access team va n w = .walk) ∧
    (va % n = 0 → va + n ≤ 2 ^ 52 → s.lockedBy (s.coreOf team) (s.ctxId team) va n w = false →
      ∀ tr, s.tlbFind (s.coreOf team) (s.ctxId team) va = some tr → w = true → tr.w = false ∨ tr.d = false →
        s.access team va n w = .walk)) ∧
  (∀ (i : Instr) (w : Bool) (o : OpMem) (s : State) (core : Nat) (t : Thread) (rdv : Bool) (c : Cause),
    (i = .ld o ∧ w = false) ∨ (i = .st o ∧ w = true) → OneThread s core t rdv → t.guard o.g = true →
    let n := szBytes o.sz.val
    let va := t.pair o.a.val + o.off.val * n
    let trap := fun (x : State) => State.threadTrap x t c (BitVec.ofNat 32 va) (va / 2 ^ 32)
    s.access t.id.team va n w = .trap c →
    (c ≠ .access ∨ 2 ^ 52 < va + n → exec i s = .next (trap { s with cur := .idle }) ∧
      (CanTrap s t → OnlyThread s (trap { s with cur := .idle }) t
        (inHandler s (causeWord c false true (va / 2 ^ 32)) (BitVec.ofNat 32 va) t.pc))) ∧
    (∀ tr, c = .access → va + n ≤ 2 ^ 52 → s.tlbFind (s.coreOf t.id.team) (s.ctxId t.id.team) va = some tr →
      exec i s = .next (trap { s with
        cur := .idle, denials := s.denials ++ (s.deniedAt (tr.loc (s.ctxId t.id.team) va) .device w).toList })))

/-- R99, R100, R382: `LDT` of a handle below LRCOUNT reads its bytes of the layout record that the cluster caches, else of the record at
LRBASE + 64·h, which it puts in the cache; of 512 records of a cluster one gives way (log entries 12, 83); a handle at or beyond LRCOUNT
traps BAD_HANDLE. -/
def Obligations.LayoutLoad : Prop :=
  ∀ (o : OpMem) (s : State) (core : Nat) (t : Thread) (rdv : Bool) (c : Ctx), OneThread s core t rdv → t.guard o.g = true →
    s.ctxOf t.id.team = some c →
    let h := (t.reg o.a.val).toNat % 65536
    let n := szBytes o.sz.val
    let cl := clusterOf (s.coreOf t.id.team)
    let va := c.regs.lrbase + 64 * h
    let give := fun (bs : List Byte) (u : Thread) => u.setRegs o.d.val (loadedRegs o.sz.val ((bs.drop (o.off.val * n)).take n))
    (∀ bs, h < c.regs.lrcount → layoutCached s cl c.id h = some bs → exec (.ldt o) s = .next (runsOn s t.id 4 (give bs))) ∧
    (∀ bs tr, h < c.regs.lrcount → layoutCached s cl c.id h = none → s.tlbFind (s.coreOf t.id.team) c.id va = some tr →
      s.reachable (tr.loc c.id va) false = true → s.delayed (tr.loc c.id va) = false → s.devBytes? (tr.loc c.id va) 64 = some bs →
      ∃ (gone : LayoutEntry → Bool) (n : Nat), exec (.ldt o) s = .next { runsOn s t.id 4 (give bs) with
          freeCtr := n, layouts := s.layouts.filter (fun l => !gone l) ++ [⟨cl, c.id, h, bs⟩] } ∧
        ((s.layouts.filter (fun l => l.cluster == cl)).length < 512 → ∀ l, gone l = false) ∧
        (512 ≤ (s.layouts.filter (fun l => l.cluster == cl)).length → ∃ v ∈ s.layouts, v.cluster = cl ∧ ∀ l, gone l = (l == v))) ∧
    (c.regs.lrcount ≤ h → exec (.ldt o) s = .next (State.threadTrap { s with cur := .idle } t .badHandle (BitVec.ofNat 32 h) 0))

/-- R277, R396, R397, R419: `PREF` never traps: a check that fails drops it, with a denial that an access table counts, and otherwise a
sector that can be filled enters the core's L1. `WAITM` continues when the value differs from its data, and otherwise arms a monitor on
the sector and parks. -/
def Obligations.PrefetchAndMonitor : Prop :=
  (∀ (o : OpPref) (s : State) (core : Nat) (t : Thread) (rdv : Bool) (c : Cause), OneThread s core t rdv → t.guard o.g = true →
    let va := t.pair o.a.val + o.off.val * szBytes o.sz.val
    s.access t.id.team va (szBytes o.sz.val) false = .trap c → c ≠ .access ∨ 2 ^ 52 < va + szBytes o.sz.val →
    exec (.pref o) s = .next (runsOn s t.id 4 id)) ∧
  (∀ (o : OpPref) (s : State) (core : Nat) (t : Thread) (rdv : Bool) (tr : Translation), OneThread s core t rdv → t.guard o.g = true →
    let va := t.pair o.a.val + o.off.val * szBytes o.sz.val
    let loc := tr.loc (s.ctxId t.id.team) va
    s.access t.id.team va (szBytes o.sz.val) false = .trap .access → va + szBytes o.sz.val ≤ 2 ^ 52 →
    s.tlbFind (s.coreOf t.id.team) (s.ctxId t.id.team) va = some tr →
    exec (.pref o) s = .next { runsOn s t.id 4 id with
      denials := s.denials ++ (s.deniedAt loc .device false).toList }) ∧
  (∀ (o : OpPref) (s : State) (core : Nat) (t : Thread) (rdv : Bool), OneThread s core t rdv → t.guard o.g = true →
    let va := t.pair o.a.val + o.off.val * szBytes o.sz.val
    s.access t.id.team va (szBytes o.sz.val) false = .walk →
    s.walking (s.ctxId t.id.team) (s.coreOf t.id.team) va = true →
    ∃ ws, exec (.pref o) s = .next { runsOn s t.id 4 id with walks := ws }) ∧
  (∀ (o : OpPref) (s : State) (core : Nat) (t : Thread) (rdv : Bool) (tr : Translation) (loc : Loc) (bs : List Byte),
    OneThread s core t rdv → t.guard o.g = true →
    s.access t.id.team (t.pair o.a.val + o.off.val * szBytes o.sz.val) (szBytes o.sz.val) false = .ok tr loc →
    NoneLanding s loc → s.delayed loc = false → s.sectorFill? (s.coreOf t.id.team) loc.sector = some bs → bs.length = 32 →
    ∃ s', exec (.pref o) s = .next s' ∧ s' = { runsOn s t.id 4 id with l1 := s'.l1, freeCtr := s'.freeCtr } ∧
      (s'.l1Byte? (s.coreOf t.id.team) loc).isSome = true) ∧
  (∀ (o : OpMem) (s : State) (core : Nat) (t : Thread) (rdv : Bool) (tr : Translation) (loc : Loc) (bs : List Byte),
    OneThread s core t rdv → t.guard o.g = true →
    s.access t.id.team (t.pair o.a.val + o.off.val * szBytes o.sz.val) (szBytes o.sz.val) false = .ok tr loc →
    s.delayed loc = false → s.devBytes? loc (szBytes o.sz.val) = some bs →
    (leNat bs ≠ leNat (storedBytes t o.d.val o.sz.val) → exec (.waitm o) s = .next (runsOn s t.id 4 id)) ∧
    (leNat bs = leNat (storedBytes t o.d.val o.sz.val) →
      exec (.waitm o) s = .next { laneNext s [t.id] (fun u => { u with park := .monitor }) with
        monitors := s.monitors ++ [⟨t.id, loc.sector, s.cycleOf (s.coreOf t.id.team)⟩] }))

/-- R123, R132, R330, R341: `ATOM` and `CAS` of team scope read and write the scratchpad in one step, those of cluster scope the cluster
buffer, with the cluster unit as author, and those of device and system scope memory at device reach; the registers take the old value, and
every other byte reads as before. They perform at issue (log entry 84), after the loads of the thread's sector (R130, R331); the address register
waits for no load (R20). -/
def Sys2Proof.Stmt.Atomics : Prop :=
  (∀ (i : Instr) (g : Guard) (a d : Fin 64) (w : Bool) (s : State) (core : Nat) (t : Thread) (rdv : Bool),
    atomFields i = some (g, a, d, w, .team) → OneThread s core t rdv → t.guard g = true →
    let n := if w then 8 else 4
    let ea := (t.reg a.val).toNat
    let old : DWord := BitVec.ofNat 64 (s.spadNat t.id.team ea n)
    SpadOk s t.id.team ea n →
    exec i s = .next { runsOn s t.id 4 (fun u => u.setRegs d.val (wideRegs w old)) with
      teams := match atomNew i t old with
        | none => s.teams
        | some x => s.teams.map (fun tm => if tm.id = t.id.team then { tm with spad := tm.spad.writeBytes ea (leBytes n x.toNat) } else tm) }) ∧
  (∀ (i : Instr) (g : Guard) (a d : Fin 64) (w : Bool) (sc : Scope) (s : State) (core : Nat) (t u : Thread) (rdv : Bool) (tr : Translation)
      (pa : Nat),
    atomFields i = some (g, a, d, w, sc) → sc = .device ∨ sc = .system → OneThread s core t rdv → t.guard g = true →
    (∀ m ∈ s.monitors, m.thread ≠ t.id) →
    let n := if w then 8 else 4
    s.access t.id.team (t.pair a.val) n true = .ok tr (.pa pa) → Quiet s (.pa pa) → s.delayed (.pa pa) = false → tr.c = false → pa % n = 0 →
    (settled s t (.pa pa)).thread? t.id = some u → u.pair a.val = t.pair a.val →
    let old : DWord := BitVec.ofNat 64 (s.mem.readNat pa n)
    ∃ s', exec i s = .next s' ∧
      (∀ x, s'.mem.read x = match atomNew i u old with
        | none => s.mem.read x
        | some v => if pa ≤ x ∧ x < pa + n then BitVec.ofNat 8 (v.toNat / 2 ^ (8 * (x - pa))) else s.mem.read x) ∧
      s'.buffers = s.buffers ∧ s'.crews = s.crews ∧ s'.ctxs = s.ctxs ∧ s'.envLines = s.envLines ∧
      s'.thread? t.id = some { u.setRegs d.val (wideRegs w old) with pc := u.pc + 4 }) ∧
  (∀ (i : Instr) (g : Guard) (a d : Fin 64) (w : Bool) (s : State) (core : Nat) (t u : Thread) (rdv : Bool) (tr : Translation) (loc : Loc)
      (bs : List Byte),
    atomFields i = some (g, a, d, w, .cluster) → OneThread s core t rdv → t.guard g = true →
    (∀ m ∈ s.monitors, m.thread ≠ t.id) →
    let n := if w then 8 else 4
    let cl := clusterOf (s.coreOf t.id.team)
    let va := t.pair a.val
    s.access t.id.team va n true = .ok tr loc → Quiet s loc → s.delayed loc = false → bs.length = n →
    (settled s t loc).thread? t.id = some u → u.pair a.val = t.pair a.val →
    (∀ k, k < n → s.farByte? cl (loc.add k) = some (bs.getD k 0)) →
    State.sectorCount (s.buffers.filter (fun b => b.buf == .cluster cl)) < 8192 →
    let old : DWord := BitVec.ofNat 64 (leNat bs)
    ∃ s', exec i s = .next s' ∧ s'.mem = s.mem ∧ s'.envLines = s.envLines ∧ s'.crews = s.crews ∧ s'.landings = s.landings ∧
      (atomNew i u old = none → s'.buffers = s.buffers) ∧
      (∀ v, atomNew i u old = some v →
        (∀ k, k < n → s'.bufGet (.cluster cl) (loc.add k) = some
          { buf := .cluster cl, author := .unit, ctx := s.ctxId t.id.team, va := va + k, loc := loc.add k, tr := tr,
            val := BitVec.ofNat 8 (v.toNat / 2 ^ (8 * k)) }) ∧
        (∀ b l, (b = .cluster cl → ∀ k, k < n → l ≠ loc.add k) → s'.bufGet b l = s.bufGet b l)) ∧
      s'.thread? t.id = some { u.setRegs d.val (wideRegs w old) with pc := u.pc + 4 })

/-- R330: the eleven operations of `ATOM`, `RED` and their operands, on 32 bits. -/
def Sys2Proof.Stmt.AtomicOperations : Prop :=
  ∀ a b : Word,
    let f := fun op => (atomApply op false (a.zeroExtend 64) (b.zeroExtend 64)).truncate 32
    f .add = a + b ∧ f .minS = (if a.toInt ≤ b.toInt then a else b) ∧ f .maxS = (if a.toInt ≤ b.toInt then b else a) ∧
    f .minN = (if a.toNat ≤ b.toNat then a else b) ∧ f .maxN = (if a.toNat ≤ b.toNat then b else a) ∧
    f .and = a &&& b ∧ f .or = a ||| b ∧ f .xor = a ^^^ b ∧ f .exch = b ∧
    f .addF32 = rneF32 ((f32 a).add (f32 b)) ∧ f .maxF32 = BitVec.ofNat 32 (Fmt.f32.maxNum a.toNat b.toNat)

/-- R111, R134, R400, R401: a `RED` is sent towards its home with its operand, the crew counts one more unacknowledged operation, and the
thread continues; at 256 the thread waits. RED_PERFORM, with no choice to combine, performs it at a scratchpad and acknowledges its crews. -/
def Sys2Proof.Stmt.TeamReductions : Prop :=
  (∀ (o : OpAtom) (s : State) (core : Nat) (t : Thread) (rdv : Bool) (c : Crew), OneThread s core t rdv → t.guard o.g = true →
    o.sc = .team → s.crew? t.id.crewId = some c → SpadOk s t.id.team (t.reg o.a.val).toNat (if o.w then 8 else 4) →
    (c.unack < 256 → ∃ r : Sys2Proof.Machine.RedOp, r.crews = [t.id.crewId] ∧ r.op = o.op ∧ r.scope = .team ∧ r.wide = o.w ∧ r.team = t.id.team ∧
      r.off = (t.reg o.a.val).toNat ∧
      r.operand = (if o.w then BitVec.ofNat 64 (t.pair o.d.val) else (t.reg o.d.val).zeroExtend 64) ∧
      exec (.red o) s = .next { runsOn s t.id 4 id with
        reds := s.reds ++ [r], crews := s.crews.map (fun x => if x.id = t.id.crewId then { x with unack := x.unack + 1 } else x) }) ∧
    (256 ≤ c.unack → exec (.red o) s = .next (laneNext s [t.id] (fun u => { u with stall := .busy })))) ∧
  (∀ (s : State) (i : Nat) (r : Sys2Proof.Machine.RedOp) (tm : Team), s.reds[i]? = some r → r.scope = .team → s.choice = 0 →
    s.team? r.team = some tm →
    s.spadPresent r.team r.off (if r.wide then 8 else 4) = true →
    let n := if r.wide then 8 else 4
    let new := atomApply r.op r.wide (BitVec.ofNat 64 (tm.spad.readNat r.off n)) r.operand
    exec (.redPerform i) s = .next { s with
      oracle := s.oracle.tail, reds := s.reds.take i ++ s.reds.drop (i + 1),
      acks := s.acks ++ r.crews.map (fun c => ⟨.crew c, 0, r.core⟩), pins := s.pins.filter (fun p => p.who != .red r),
      teams := s.teams.map (fun x => if x.id = r.team then { x with spad := x.spad.writeBytes r.off (leBytes n new.toNat) } else x) })

/-- R123, R134, R401: a `RED` of cluster, device or system scope whose address check finds a place with every byte at its home is sent and
counted; RED_PERFORM, with no choice to combine, puts the new value at its home, in the cluster buffer with the unit as author or in memory
at device reach, and acknowledges its crews. -/
def Sys2Proof.Stmt.GlobalReductions : Prop :=
  (∀ (o : OpAtom) (s : State) (core : Nat) (t : Thread) (rdv : Bool) (c : Crew) (tr : Translation) (loc : Loc), OneThread s core t rdv →
    t.guard o.g = true → o.sc ≠ .team →
    let n := if o.w then 8 else 4
    let va := t.pair o.a.val
    s.access t.id.team va n true = .ok tr loc → Quiet s loc → s.crew? t.id.crewId = some c → c.unack < 256 →
    (∀ k, k < n → (if o.sc = .cluster then s.farByte? (clusterOf (s.coreOf t.id.team)) (loc.add k)
      else s.devByte? (loc.add k)).isSome = true) →
    ∃ (s' : State) (r : Sys2Proof.Machine.RedOp), exec (.red o) s = .next s' ∧ r.crews = [t.id.crewId] ∧ r.op = o.op ∧ r.scope = o.sc ∧
      r.wide = o.w ∧ r.loc = loc ∧ r.va = va ∧ r.core = s.coreOf t.id.team ∧
      r.operand = (if o.w then BitVec.ofNat 64 (t.pair o.d.val) else (t.reg o.d.val).zeroExtend 64) ∧
      s' = { s with cur := .idle, threads := s'.threads, reds := s.reds ++ [r],
                    crews := s.crews.map (fun x => if x.id = t.id.crewId then { x with unack := x.unack + 1 } else x) } ∧
      s'.thread? t.id = ((settled s t loc).thread? t.id).map (fun u => { u with pc := u.pc + 4 })) ∧
  (∀ (s : State) (i : Nat) (r : Sys2Proof.Machine.RedOp) (pa : Nat), s.reds[i]? = some r → r.scope = .device ∨ r.scope = .system →
    r.loc = .pa pa → r.tr.c = false → s.choice = 0 → s.reachable (.pa pa) true = true → s.delayed (.pa pa) = false →
    let n := if r.wide then 8 else 4
    pa % n = 0 →
    let new := atomApply r.op r.wide (BitVec.ofNat 64 (s.mem.readNat pa n)) r.operand
    ∃ s', exec (.redPerform i) s = .next s' ∧ s'.reds = s.reds.take i ++ s.reds.drop (i + 1) ∧
      s'.acks = s.acks ++ r.crews.map (fun c => ⟨.crew c, 0, r.core⟩) ∧ s'.buffers = s.buffers ∧ s'.envLines = s.envLines ∧
      ∀ x, s'.mem.read x = if pa ≤ x ∧ x < pa + n then BitVec.ofNat 8 (new.toNat / 2 ^ (8 * (x - pa))) else s.mem.read x) ∧
  (∀ (s : State) (i : Nat) (r : Sys2Proof.Machine.RedOp) (bs : List Byte), s.reds[i]? = some r → r.scope = .cluster → s.choice = 0 →
    s.reachable r.loc true = true → s.delayed r.loc = false → NoneLanding s r.loc →
    let n := if r.wide then 8 else 4
    let cl := clusterOf r.core
    bs.length = n → (∀ k, k < n → s.farByte? cl (r.loc.add k) = some (bs.getD k 0)) →
    State.sectorCount (s.buffers.filter (fun b => b.buf == .cluster cl)) < 8192 →
    let new := atomApply r.op r.wide (BitVec.ofNat 64 (leNat bs)) r.operand
    ∃ s', exec (.redPerform i) s = .next s' ∧ s'.reds = s.reds.take i ++ s.reds.drop (i + 1) ∧
      s'.acks = s.acks ++ r.crews.map (fun c => ⟨.crew c, 0, r.core⟩) ∧ s'.mem = s.mem ∧ s'.envLines = s.envLines ∧
      (∀ k, k < n → s'.bufGet (.cluster cl) (r.loc.add k) = some
        { buf := .cluster cl, author := .unit, ctx := r.ctx, va := r.va + k, loc := r.loc.add k, tr := r.tr,
          val := BitVec.ofNat 8 (new.toNat / 2 ^ (8 * k)) }) ∧
      (∀ b l, (b = .cluster cl → ∀ k, k < n → l ≠ r.loc.add k) → s'.bufGet b l = s.bufGet b l))

/-- R111, R123, R134, R400, R401: `RED` and RED_PERFORM, at every scope. -/
def Obligations.Reductions : Prop := Sys2Proof.Stmt.TeamReductions ∧ Sys2Proof.Stmt.GlobalReductions

/-! ### Control flow -/

/-- R304, R336, R340: `BRA` and `CALL` add four times their signed offset to the address of their own word; `CALL` links the next
instruction. -/
def Sys2Proof.Stmt.DirectBranches : Prop :=
  (∀ (o : OpBra) (s : State) (core : Nat) (t : Thread) (rdv : Bool), OneThread s core t rdv → t.guard o.g = true →
    exec (.bra o) s = .next (laneNext s [t.id] (fun u => { u with pc := t.pc + 4 * o.off.signExtend 32 }))) ∧
  (∀ (o : OpCall) (s : State) (core : Nat) (t : Thread) (rdv : Bool), OneThread s core t rdv → t.guard o.g = true →
    exec (.call o) s = .next (laneNext s [t.id] (fun u =>
      { u with v := u.v.set o.d.val (t.pc + 4), pc := t.pc + 4 * o.off.signExtend 32 })))

/-- R276, R338: `BRX`, `RET` and `CALLX` continue at `v[A]`, read before the link is written; a target that is not a multiple of 16 traps
BAD_TARGET with the target in `%trapv`, and no link is written. -/
def Sys2Proof.Stmt.IndirectBranches : Prop :=
  (∀ (o : OpReg1) (s : State) (core : Nat) (t : Thread) (rdv : Bool), OneThread s core t rdv → t.guard o.g = true →
    (t.reg o.a.val).toNat % 16 = 0 →
    exec (.brx o) s = .next (laneNext s [t.id] (fun u => { u with pc := t.reg o.a.val })) ∧
    exec (.ret o) s = .next (laneNext s [t.id] (fun u => { u with pc := t.reg o.a.val }))) ∧
  (∀ (o : OpReg2) (s : State) (core : Nat) (t : Thread) (rdv : Bool), OneThread s core t rdv → t.guard o.g = true →
    (t.reg o.a.val).toNat % 16 = 0 →
    exec (.callx o) s = .next (laneNext s [t.id] (fun u => { u with v := u.v.set o.d.val (t.pc + 4), pc := t.reg o.a.val }))) ∧
  (∀ (i : Instr) (a : Fin 64) (g : Guard) (s : State) (core : Nat) (t : Thread) (rdv : Bool),
    i = .brx ⟨g, a⟩ ∨ i = .ret ⟨g, a⟩ ∨ (∃ d, i = .callx ⟨g, d, a⟩) → OneThread s core t rdv → t.guard g = true →
    (t.reg a.val).toNat % 16 ≠ 0 →
    exec i s = .next (State.threadTrap { s with cur := .idle } t .badTarget (t.reg a.val) 0))

/-! ### Traps -/

/-- R266 to R269, R272, R414: `TRAP` enters the handler with SOFT: `%cause` 0x20D (code 0x0D, OWN), `%trapv` the number, `%trapc` the
`TRAP` itself; registers, predicates and memory stay. -/
def Obligations.SoftwareTrap : Prop :=
  (∀ (o : OpTrap) (s : State) (core : Nat) (t : Thread) (rdv : Bool), OneThread s core t rdv → t.guard o.g = true → CanTrap s t →
    ∃ s', exec (.trap o) s = .next s' ∧ OnlyThread s s' t (inHandler s 0x20D (BitVec.ofNat 32 o.n.toNat) t.pc)) ∧
  (∀ (o : OpTrapExt) (s : State) (core : Nat) (t : Thread) (rdv : Bool), OneThread s core t rdv → t.guard o.g = true → CanTrap s t →
    ∃ s', exec (.trapExt o) s = .next s' ∧ OnlyThread s s' t (inHandler s 0x20D o.n t.pc))

/-- R266 to R270, R274: what a trap of a thread's own does: outside the handler, with a handler set, it enters the handler at the
trapping instruction; inside the handler, or without a handler, it escalates and the grid stops, and the thread is not changed. -/
def Sys2Proof.Stmt.OwnTraps : Prop :=
  (∀ (s : State) (t : Thread) (c : Cause) (v : Word) (aux : Nat), s.thread? t.id = some t → CanTrap s t →
    OnlyThread s (s.threadTrap t c v aux) t (inHandler s (causeWord c false true aux) v t.pc)) ∧
  (∀ (s : State) (t : Thread) (c : Cause) (v : Word) (aux : Nat) (tm : Team) (g : Grid),
    s.thread? t.id = some t → (t.inh = true ∨ s.traph t.id.team = 0) → s.team? t.id.team = some tm → s.grid? tm.grid = some g →
    (s.threadTrap t c v aux).threads = s.threads ∧ ((s.threadTrap t c v aux).grid? g.id).map Grid.stopped = some true ∧
    (g.stopped = true → s.threadTrap t c v aux = s))

/-- R274, R291: the record of an escalation: with room in the ring, it stands at ERPROD's slot, ERPROD and the record's number go on, and the
host is interrupted. REASON is 0 without a handler; 1 for a trap in the handler, with FIRST the code of the first. -/
def Sys2Proof.Stmt.EscalationRecord : Prop :=
  ∀ (s : State) (t : Thread) (c : Cause) (v : Word) (aux : Nat) (tm : Team) (g : Grid) (x : Ctx),
    (t.inh = true ∨ s.traph t.id.team = 0) → s.team? t.id.team = some tm → s.grid? tm.grid = some g → g.stopped = false →
    s.ctx? tm.ctx = some x → x.erwait = [] → ringCount x.regs.erprod x.regs.ercons < 2 ^ x.regs.erlog2 →
    let at_ := x.regs.erbase + 32 * (x.regs.erprod % 2 ^ x.regs.erlog2)
    let s' := s.threadTrap t c v aux
    s.physBlocked at_ 32 true = [] →
    s'.mem = s.mem.writeBytes at_ (escBytes (causeWord c false true aux) v t.pc g.id tm.coreD t.id.tid (if t.inh then 1 else 0)
      (if t.inh then t.cause.toNat % 256 else 0) x.erseq) ∧
    s'.irqs = s.irqs ++ [.escalationRing tm.ctx] ∧
    (s'.ctx? tm.ctx).map (fun y => (y.regs.erprod, y.erseq, y.erwait)) =
      some ((x.regs.erprod + 1) % 2 ^ 32, (x.erseq + 1) % 2 ^ 31, [])

/-- R266, R270, R475: a crew trap reaches every live thread of the crew: one outside the handler enters it at its current instruction, and in
one inside the handler, whose own it is not, the trap is held behind those already held. Other threads do not change. -/
def Sys2Proof.Stmt.CrewTraps : Prop :=
  ∀ (s : State) (crew : CrewId) (c : Cause) (own : ThreadId → Bool) (v : ThreadId → Word) (aux : Nat),
    (s.threads.map Thread.id).Nodup →
    (∀ t ∈ s.liveOf crew, CanTrap s t ∨ (t.inh = true ∧ own t.id = false)) →
    let s' := s.crewTrap crew c own v aux
    let cause := fun (i : ThreadId) => causeWord c true (own i) aux
    (∀ t ∈ s.liveOf crew, s'.thread? t.id = some (if t.inh then { t with held := t.held ++ [⟨cause t.id, v t.id⟩] }
      else inHandler s (cause t.id) (v t.id) t.pc t)) ∧
    (∀ u, (∀ t ∈ s.liveOf crew, u ≠ t.id) → s'.thread? u = s.thread? u) ∧
    s'.mem = s.mem ∧ s'.buffers = s.buffers ∧ s'.teams = s.teams ∧ s'.grids = s.grids

/-- R266 to R270, R274, R475: traps of a thread's own, escalation records, and crew traps, delivered or held. The delivery of a held trap at
the return is part of `ReturnFromHandler`. -/
def Obligations.TrapEntry : Prop :=
  Sys2Proof.Stmt.OwnTraps ∧ Sys2Proof.Stmt.EscalationRecord ∧ Sys2Proof.Stmt.CrewTraps

/-- R270, R271, R417: `TRET` in the handler clears the in-handler flag and continues at `%trapc`, `TRET.NEXT` behind the instruction that
stands there, which it reads as a fetch would, `TRET va` at its register; a held crew trap is delivered first, with `%trapc` the target, and escalates
where no handler is set any more (R268, R274). -/
def Sys2Proof.Stmt.ReturnInside : Prop :=
  ∀ (i : Instr) (g : Guard) (s : State) (core : Nat) (t : Thread) (rdv : Bool) (target : Word),
    (i = .tret g ∧ target = t.trapc) ∨ (i = .tretNext g ∧ target = t.trapc + BitVec.ofNat 32 (lengthAt s t)) ∨
      (∃ a, i = .tretReg ⟨g, a⟩ ∧ target = t.reg a.val ∧ target.toNat % 16 = 0) →
    OneThread s core t rdv → t.guard g = true → t.inh = true →
    let s0 := match i with
      | .tretNext _ => (codeRead { s with cur := .idle } t.id.team t.trapc).1
      | _ => s
    (t.held = [] → exec i s = .next (laneNext s0 [t.id] (fun u => { u with inh := false, pc := target }))) ∧
    (∀ r rest, t.held = r :: rest → s.traph t.id.team ≠ 0 → exec i s = .next (laneNext s0 [t.id] (fun u =>
      { u with held := rest, trapc := target, cause := r.cause, trapv := r.trapv, pc := BitVec.ofNat 32 (s.traph t.id.team) }))) ∧
    (∀ r rest, t.held = r :: rest → s.traph t.id.team = 0 → exec i s = .next
      ((laneNext s0 [t.id] (fun u => { u with held := rest, inh := false, pc := target })).escalate t r.cause r.trapv target 0 0))

/-- R271, R274, R275: `TRET`, `TRET.NEXT` and `TRET va` outside the handler trap ILLEGAL_INSTR with their own word in `%trapv`; `TRET va`
to a target that is not a multiple of 16 escalates. -/
def Sys2Proof.Stmt.ReturnOutside : Prop :=
  (∀ (i : Instr) (g : Guard) (s : State) (core : Nat) (t : Thread) (rdv : Bool),
    i = .tret g ∨ i = .tretNext g ∨ (∃ a, i = .tretReg ⟨g, a⟩) → OneThread s core t rdv → t.guard g = true → t.inh = false →
    exec i s = .next (State.threadTrap { s with cur := .idle } t .illegal (BitVec.ofNat 32 i.word) 0)) ∧
  (∀ (o : OpReg1) (s : State) (core : Nat) (t : Thread) (rdv : Bool), OneThread s core t rdv → t.guard o.g = true → t.inh = true →
    (t.reg o.a.val).toNat % 16 ≠ 0 →
    exec (.tretReg o) s = .next (State.escalate { s with cur := .idle } t 0x202 (t.reg o.a.val) t.pc 2 0))

/-- R26, R44, R147, R350: `EXIT` of a thread that holds no record and is not its crew's last ends the thread: it is no longer live, waits
for nothing, and in a grid whose barriers count threads it lowers E of every team barrier; other threads and memory stay. -/
def Sys2Proof.Stmt.ThreadExit : Prop :=
  ∀ (g : Guard) (s : State) (core : Nat) (t u : Thread) (rdv : Bool) (tm : Team) (gr : Grid) (c : Ctx),
    OneThread s core t rdv → t.guard g = true → t.record = none → u ∈ s.threads → u.live = true → u.id ≠ t.id →
    u.id.crewId = t.id.crewId → s.team? t.id.team = some tm → s.grid? tm.grid = some gr → s.ctx? tm.ctx = some c → c.allocs = [] →
    ∃ s', exec (.exit g) s = .next s' ∧
      s'.thread? t.id = some { t with live := false, park := .none, stall := .none, arrived := none, loads := [] } ∧
      (∀ v, v ≠ t.id → s'.thread? v = s.thread? v) ∧ s'.mem = s.mem ∧ s'.buffers = s.buffers ∧
      (s'.team? tm.id).map Team.bars = some (if gr.elected then tm.bars else tm.bars.map (fun b => b.leave t.id.tid tm.coreD))

/-- R35: `YIELD` restarts the thread's wait and demotes it for 64 cycles of its core; THREAD_AGEING (R34) marks a thread that has been
ready for 2,048 cycles, and DEMOTION_EXPIRY ends a demotion whose cycles have passed. -/
def Sys2Proof.Stmt.YieldAndAge : Prop :=
  (∀ (g : Guard) (s : State) core ids rdv, s.cur = .flight core ids rdv →
    exec (.yield g) s = .next (laneNext s ids (laneStep 4 g (fun t =>
      { t with wait := 0, demoted := some (s.cycleOf (s.coreOf t.id.team) + 64) })))) ∧
  (∀ (s : State) (t : Thread), s.thread? t.id = some t → 2048 ≤ t.wait →
    ∃ s', exec (.threadAgeing t.id) s = .next s' ∧ s' = { s with threads := s'.threads } ∧
      s'.thread? t.id = some { t with aged := true } ∧ ∀ u, u ≠ t.id → s'.thread? u = s.thread? u) ∧
  (∀ (s : State) (t : Thread) (n : Nat), s.thread? t.id = some t → t.demoted = some n → n ≤ s.cycleOf (s.coreOf t.id.team) →
    ∃ s', exec (.demotionExpiry t.id) s = .next s' ∧ s' = { s with threads := s'.threads } ∧
      s'.thread? t.id = some { t with demoted := none } ∧ ∀ u, u ≠ t.id → s'.thread? u = s.thread? u)

/-! ### Special registers, records and queries -/

/-- R18, R39, R43, R61, R112, R154, R159, R199, R214, R245, R315, R316: what special registers read: lane, thread, crew and core numbers, the team's
position in the shape of its grid or role, the clock, speed and share of the core, the effective class, which takes the classes of the fills that the
team's threads hold, the crew's sticky, conflict and straggler registers, the trap registers, the copies under way, generator and node, or 0xFFFFFFFF
where there is none, and the phase token of a barrier that is claimed. -/
def Sys2Proof.Stmt.SpecialValues : Prop :=
  ∀ (s : State) (t : Thread) (tm : Team) (c : Crew) (g : Grid) (latch : Option Word),
    s.team? t.id.team = some tm → s.crew? t.id.crewId = some c → s.grid? tm.grid = some g →
    s.readSReg t latch .lane = some (BitVec.ofNat 32 (t.id.tid % 32)) ∧ s.readSReg t latch .tid = some (BitVec.ofNat 32 t.id.tid) ∧
    s.readSReg t latch .crew = some (BitVec.ofNat 32 (t.id.tid / 32)) ∧ s.readSReg t latch .core = some (BitVec.ofNat 32 tm.coreD) ∧
    s.readSReg t latch .cluster = some (BitVec.ofNat 32 (tm.coreD / 16)) ∧ s.readSReg t latch .depth = some (BitVec.ofNat 32 g.depth) ∧
    s.readSReg t latch .clockLo = some (BitVec.ofNat 32 (s.time / 1000000)) ∧
    (∀ w, latch = some w → s.readSReg t latch .clockHi = some w) ∧
    s.readSReg t latch .sat = some c.sat ∧ s.readSReg t latch .cflict = some c.cflict ∧
    s.readSReg t latch .cause = some t.cause ∧ s.readSReg t latch .trapc = some t.trapc ∧ s.readSReg t latch .trapv = some t.trapv ∧
    (tm.node = none → s.readSReg t latch .node = some 0xFFFFFFFF) ∧
    (let r := g.role tm.role
     s.readSReg t latch .ncrew = some (BitVec.ofNat 32 ((tm.threads + 31) / 32)) ∧
     (1 ≤ r.ntx → 1 ≤ r.nty →
       s.readSReg t latch .teamX = some (BitVec.ofNat 32 (tm.index % r.ntx)) ∧
       s.readSReg t latch .teamY = some (BitVec.ofNat 32 (tm.index / r.ntx % r.nty)) ∧
       s.readSReg t latch .teamZ = some (BitVec.ofNat 32 (tm.index / (r.ntx * r.nty)))) ∧
     s.readSReg t latch .nteamX = some (BitVec.ofNat 32 r.ntx) ∧ s.readSReg t latch .nteamY = some (BitVec.ofNat 32 r.nty) ∧
     s.readSReg t latch .nteamZ = some (BitVec.ofNat 32 r.ntz) ∧ s.readSReg t latch .role = some (BitVec.ofNat 32 tm.role)) ∧
    (let held := fun (f : Fill) => f.state = .running ∧ ∃ u ∈ s.threads, u.id.team = t.id.team ∧ u.live = true ∧ u.record.bind Record.pfid = some f.pfid
     ((∀ f ∈ s.fills, held f → f.cls ≤ g.prio) → s.readSReg t latch .prio = some (BitVec.ofNat 32 g.prio)) ∧
     (∀ n, (∃ f ∈ s.fills, held f ∧ f.cls = n) → g.prio ≤ n → (∀ f ∈ s.fills, held f → f.cls ≤ n) →
       s.readSReg t latch .prio = some (BitVec.ofNat 32 n))) ∧
    s.readSReg t latch .fdepth = some (BitVec.ofNat 32 tm.fdepth) ∧
    s.readSReg t latch .speed = some (BitVec.ofNat 32 (s.speeds.getD tm.coreD 0)) ∧
    s.readSReg t latch .share =
      some (BitVec.ofNat 32 (65536 * s.speeds.getD tm.coreD 0 / (g.cores.map (fun n => s.speeds.getD n 0)).sum)) ∧
    s.readSReg t latch .stragId = some c.stragId ∧ s.readSReg t latch .stragWait = some c.stragWait ∧
    s.readSReg t latch .copies = some (BitVec.ofNat 32 (s.cmds.filter (fun x => x.team == tm.id && x.kind == .cpy)).length) ∧
    (∀ r n, t.record = some r → r.gen = some n → s.readSReg t latch .gen = some (BitVec.ofNat 32 n)) ∧
    (t.record.bind Record.gen = none → s.readSReg t latch .gen = some 0xFFFFFFFF) ∧
    (∀ (n : Fin 16) (b : Barrier), tm.bars[n.val]? = some b →
      s.readSReg t latch (.bphaseT n) = some (BitVec.ofNat 32 (b.p % 2 ^ 24 * 0x100 + (0x20 + n.val)))) ∧
    (∀ (n : Fin 32) (b : Barrier) (u : Machine.PUnit), s.unit? tm.grid tm.unit = some u → u.bars[n.val]? = some b →
      s.readSReg t latch (.bphaseC n) = some (BitVec.ofNat 32 (b.p % 2 ^ 24 * 0x100 + (0x30 + n.val)))) ∧
    (∀ (n : Fin 4) (b : Barrier), g.bars[n.val]? = some b →
      s.readSReg t latch (.bphaseG n) = some (BitVec.ofNat 32 (b.p % 2 ^ 24 * 0x100 + (0x50 + n.val)))) ∧
    (∀ n : Fin 16, tm.bars.length ≤ n.val → s.readSReg t latch (.bphaseT n) = none) ∧
    (∀ n : Fin 32, (∀ u, s.unit? tm.grid tm.unit = some u → u.bars.length ≤ n.val) → s.readSReg t latch (.bphaseC n) = none) ∧
    (∀ n : Fin 4, g.bars.length ≤ n.val → s.readSReg t latch (.bphaseG n) = none)

/-- R316, R376, R409: `SRD` writes a readable special register to `v[D]` and `KSRD` writes it to `k[D]`, for the lowest-lane live thread of
the crew; a read of `%clock.lo` latches the high word. A barrier that is not claimed traps BAD_HANDLE. -/
def Sys2Proof.Stmt.ReadSpecial : Prop :=
  (∀ (o : OpSrd) (s : State) (core : Nat) (t : Thread) (rdv : Bool), OneThread s core t rdv → t.guard o.g = true →
    (∀ w, s.readSReg t t.clockHi o.sr = some w →
      exec (.srd o) s = .next (runsOn s t.id 4 (fun u =>
        { u with v := u.v.set o.d.val w,
                 clockHi := if o.sr = .clockLo then some (BitVec.ofNat 32 (s.time / 1000000 / 2 ^ 32)) else t.clockHi }))) ∧
    (s.readSReg t t.clockHi o.sr = none →
      exec (.srd o) s = .next (State.threadTrap { s with cur := .idle } t .badHandle (BitVec.ofNat 32 o.sr.code) 0))) ∧
  (∀ (o : OpSrd) (s : State) (c : Crew) (t : Thread) (ts : List Thread) (w : Word), s.cur = .uniform c.id → s.crew? c.id = some c →
    c.guard o.g = true → s.liveOf c.id = t :: ts → s.readSReg t c.clockHi o.sr = some w →
    ∃ s', exec (.ksrd o) s = .next s' ∧ s' = { s with cur := .idle, threads := s'.threads, crews := s'.crews } ∧
      (s'.crew? c.id).map (fun x => (x.k, x.clockHi)) = some (if o.d = 63 then c.k else c.k.set o.d.val w,
        if o.sr = .clockLo then some (BitVec.ofNat 32 (s.time / 1000000 / 2 ^ 32)) else c.clockHi) ∧
      (∀ u, s'.thread? u = (s.thread? u).map (fun x => if u.crewId = c.id ∧ x.live = true then
        { x with pc := x.pc + 4, arrived := none, stall := .none, wait := 0 } else x)))

namespace Sys2Proof.Stmt

/-- A `SPAWN` whose checks pass (R168, R188): the node exists, the record's registers lie in the team, and a fill node is not spawned
from fill depth 2. -/
def SpawnOk (s : State) (t : Thread) (a n : Nat) (tm : Team) (c : Ctx) (d : NodeDesc) : Prop :=
  s.team? t.id.team = some tm ∧ s.ctx? tm.ctx = some c ∧ c.nodes[n]? = some d ∧ a + d.rsize ≤ tm.regs ∧ ¬(d.fill = true ∧ tm.fdepth = 2)

/-- The record of a `SPAWN`: its words are the registers from `a` on, and its grid is the writer (R168, R170). -/
def spawned (t : Thread) (a : Nat) (tm : Team) (d : NodeDesc) : Record :=
  { words := (List.range d.rsize).map (fun j => t.reg (a + j)), pfid := none, gen := none, writer := some tm.grid }

/-- Context `k` has become `c`, and the other contexts are the same. -/
def NewCtx (s s' : State) (k : Nat) (c : Ctx) : Prop := s'.ctx? k = some c ∧ ∀ j, j ≠ k → s'.ctx? j = s.ctx? j

/-- The context with one more record in a bin part, and one more slot of the node in use (R165, R169). -/
def enters (c : Ctx) (n part : Nat) (r : Record) (now : Nat) : Ctx :=
  { c with used := assocSet c.used n (c.usedBy n + 1), bins := c.bins ++ [{ node := n, part := part, record := r, entered := now }] }

/-- No batch forms from one more record: no node waits for draining, and the part does not reach its count (R170). -/
def NoTrigger (c : Ctx) (n part : Nat) (d : NodeDesc) : Prop :=
  (∀ x ∈ c.nodes, x.t ≠ 0xFFFF) ∧ (c.binPart n part).length + 1 < d.c

/-- One more record makes the part reach its node's count (R170). -/
def Triggers (c : Ctx) (n part : Nat) (d : NodeDesc) : Prop :=
  (∀ x ∈ c.nodes, x.t ≠ 0xFFFF) ∧ (c.binPart n part).length + 1 = d.c

/-- The context in which one more record has made a bin part a batch, of all its records, oldest first: the part is empty (R169, R170). -/
def batched (c : Ctx) (n part : Nat) (r : Record) (stamp : Nat) : Ctx :=
  { c with
    used := assocSet c.used n (c.usedBy n + 1)
    bins := c.bins.filter (fun e => !(e.node == n && e.part == part))
    batches := c.batches ++ [⟨n, part, (c.binPart n part).map BinEntry.record ++ [r], stamp⟩] }

/-- Guard, A and B of the two forms of `SPAWN`. -/
def spawnFields : Instr → Option (Guard × Fin 64 × Src)
  | .spawn o => some (o.g, o.a, o.b)
  | .spawnNb o => some (o.g, o.a, o.b)
  | _ => none

end Sys2Proof.Stmt

/-- R164, R165, R168, R169, R170, R188, R408: `SPAWN` and `SPAWN.NB` put the record of their registers into the node's bin when the pool allows it,
and take one slot; the record that makes the part's count the node's C forms a batch of the part's records, oldest first, and empties the part; otherwise
`SPAWN` parks in the allocation queue and `SPAWN.NB` clears its predicate. A node index at or beyond the context's nodes, or a record that runs beyond
REGS, traps BAD_HANDLE, and a fill node at depth 2 traps GEN_NEST, each with the index in `%trapv` and no other effect; where both hold the model raises
BAD_HANDLE (log entry 135, DESIGN CHOICE). -/
def Obligations.SpawnRecord : Prop :=
  (∀ (o : OpSpawn) (s : State) (core : Nat) (t : Thread) (rdv : Bool) (tm : Team) (c : Ctx) (d : NodeDesc),
    OneThread s core t rdv → t.guard o.g = true →
    let n := (opb s t o.b).toNat
    let part := if d.fill then tm.fdepth + 1 else 0
    SpawnOk s t o.a.val n tm c d →
    (c.canAlloc n = true → NoTrigger c n part d → ∃ s', exec (.spawn o) s = .next s' ∧ s' = { runsOn s t.id 4 id with ctxs := s'.ctxs } ∧
      NewCtx s s' tm.ctx (enters c n part (spawned t o.a.val tm d) s.time)) ∧
    (c.canAlloc n = true → Triggers c n part d → ∃ s', exec (.spawn o) s = .next s' ∧
      s' = { runsOn s t.id 4 id with ctxs := s'.ctxs, lastId := s.lastId + 1 } ∧
      NewCtx s s' tm.ctx (batched c n part (spawned t o.a.val tm d) (s.lastId + 1))) ∧
    (c.canAlloc n = false → ∃ s', exec (.spawn o) s = .next s' ∧
      s' = { laneNext s [t.id] (fun u => { u with park := .dryPool }) with ctxs := s'.ctxs } ∧
      NewCtx s s' tm.ctx { c with allocs := c.allocs ++ [⟨n, part, spawned t o.a.val tm d, .spawn t.id⟩] })) ∧
  (∀ (o : OpSpawnNb) (s : State) (core : Nat) (t : Thread) (rdv : Bool) (tm : Team) (c : Ctx) (d : NodeDesc),
    OneThread s core t rdv → t.guard o.g = true →
    let n := (opb s t o.b).toNat
    let part := if d.fill then tm.fdepth + 1 else 0
    let pred := fun (b : Bool) (u : Thread) => if o.pd = 7 then u else { u with p := u.p.set o.pd.val b }
    SpawnOk s t o.a.val n tm c d →
    (c.canAlloc n = true → NoTrigger c n part d → ∃ s', exec (.spawnNb o) s = .next s' ∧
      s' = { runsOn s t.id 4 (pred true) with ctxs := s'.ctxs } ∧ NewCtx s s' tm.ctx (enters c n part (spawned t o.a.val tm d) s.time)) ∧
    (c.canAlloc n = true → Triggers c n part d → ∃ s', exec (.spawnNb o) s = .next s' ∧
      s' = { runsOn s t.id 4 (pred true) with ctxs := s'.ctxs, lastId := s.lastId + 1 } ∧
      NewCtx s s' tm.ctx (batched c n part (spawned t o.a.val tm d) (s.lastId + 1))) ∧
    (c.canAlloc n = false → exec (.spawnNb o) s = .next (runsOn s t.id 4 (pred false)))) ∧
  (∀ (i : Instr) (g : Guard) (a : Fin 64) (b : Src) (s : State) (core : Nat) (t : Thread) (rdv : Bool) (tm : Team) (c : Ctx),
    spawnFields i = some (g, a, b) → OneThread s core t rdv → t.guard g = true → s.team? t.id.team = some tm → s.ctx? tm.ctx = some c →
    let n := (opb s t b).toNat
    let traps := fun (k : Cause) =>
      exec i s = .next (State.threadTrap { s with cur := .idle } t k (BitVec.ofNat 32 n) 0) ∧
      (CanTrap s t → OnlyThread s (State.threadTrap { s with cur := .idle } t k (BitVec.ofNat 32 n) 0) t
        (inHandler s (causeWord k false true 0) (BitVec.ofNat 32 n) t.pc))
    (c.nodes.length ≤ n → traps .badHandle) ∧
    (∀ d, c.nodes[n]? = some d → tm.regs < a.val + d.rsize → traps .badHandle) ∧
    (∀ d, c.nodes[n]? = some d → a.val + d.rsize ≤ tm.regs → d.fill = true → tm.fdepth = 2 → traps .genNest))

/-- R174: `RECLD` reads words of the thread's record, zero at or beyond the node's RSIZE. R253, R259, R416: `TRAV` and `TRAV.CONT` with an
aligned base send a query to the cluster's traversal unit and park; a thread of a team without a node traps BAD_HANDLE on `RECLD`. -/
def Obligations.RecordsAndQueries : Prop :=
  (∀ (o : OpRecld) (s : State) (core : Nat) (t : Thread) (rdv : Bool) (tm : Team) (n : Nat) (d : NodeDesc) (r : Record),
    OneThread s core t rdv → t.guard o.g = true → s.team? t.id.team = some tm → tm.node = some n → s.node? tm.ctx n = some d →
    t.record = some r →
    exec (.recld o) s = .next (runsOn s t.id 4 (fun u => u.setRegs o.d.val ((List.range (o.n.val + 1)).map (fun j =>
      if o.w.val + j < d.rsize then r.words.getD (o.w.val + j) 0 else 0))))) ∧
  (∀ (o : OpRecld) (s : State) (core : Nat) (t : Thread) (rdv : Bool) (tm : Team), OneThread s core t rdv → t.guard o.g = true →
    s.team? t.id.team = some tm → tm.node = none →
    exec (.recld o) s = .next (State.threadTrap { s with cur := .idle } t .badHandle 0xFFFFFFFF 0)) ∧
  (∀ (i : Instr) (o : OpTrav) (s : State) (core : Nat) (t : Thread) (rdv : Bool) (c : Crew) (cont : Option Nat) (dst : Nat),
    (i = .trav o ∧ cont = none ∧ dst = o.d.val) ∨
      (i = .travCont o ∧ cont = some (t.reg o.d.val).toNat ∧ dst = 0 ∧
        ∃ d, s.node? (s.ctxId t.id.team) (t.reg o.d.val).toNat = some d ∧ 4 ≤ d.rsize ∧ ¬(d.fill = true ∧ s.fdepthOf t.id.team = 2)) →
    OneThread s core t rdv → t.guard o.g = true → s.crew? t.id.crewId = some c →
    c.pair o.b.val < 2 ^ 52 → c.pair o.b.val % 128 = 0 → s.queries.length < 4096 →
    exec i s = .next { laneNext s [t.id] (fun u => { u with park := .query, cont := cont.isSome }) with
      lastId := s.lastId + 1,
      queries := s.queries ++ [{ id := s.lastId + 1, thread := t.id, cont := cont, dst := dst, base := c.pair o.b.val,
                                 ray := (List.range 8).map (fun i => t.reg (o.a.val + i)), wait := .none }] })

/-! ### Commits -/

namespace Sys2Proof.Stmt

/-- The focus is a flight of a `CMT`, with a guard-true thread; `t` is its first thread and `x` its crew. -/
def AtCmt (o : OpCmt) (s : State) (t : Thread) (x : Crew) : Prop :=
  ∃ core ids rdv ts, s.cur = .flight core ids rdv ∧ ids.filterMap s.thread? = t :: ts ∧ s.crew? t.id.crewId = some x ∧
    ∃ u ∈ t :: ts, u.guard o.g = true

/-- The commit is over (R109): the threads of the flight continue, the guard-true ones have the result in their predicate, and
`%cflict` is written; the registers, threads and crews are all that changes besides what `s'` says. -/
def CommitOver (o : OpCmt) (s s' : State) (c : CrewId) (result : Bool) (cflict : Nat) : Prop :=
  (s'.crew? c).map Crew.cflict = some (BitVec.ofNat 32 cflict) ∧
  ∀ u, s'.thread? u = (s.thread? u).map (fun y => if u ∈ s.cur.ids then
    { (if u ∈ (guardSet s s.cur.ids o.g).map Thread.id then (if o.pd = 7 then y else { y with p := y.p.set o.pd.val result }) else y) with
      pc := y.pc + 4, arrived := none, stall := .none, wait := 0 } else y)

/-- The commit waits for its acknowledgements (R110, R111): the threads of the flight stand at it, and the crew's commits hold what completes it. -/
def CommitWaits (o : OpCmt) (s s' : State) (c : CrewId) (result : Bool) (cflict : Nat) : Prop :=
  (∃ w, s'.commits = s.commits ++ [w] ∧ w.crew = c ∧ w.members = (guardSet s s.cur.ids o.g).map Thread.id ∧
    w.waiters = (s.cur.ids.filterMap s.thread?).map Thread.id ∧ w.pd = o.pd.val ∧ w.result = result ∧ w.cflict = BitVec.ofNat 32 cflict ∧
    w.barrier = false ∧ w.trap = none) ∧
  ∀ u, s'.thread? u = (s.thread? u).map (fun y => if u ∈ s.cur.ids then { y with stall := .commit, arrived := none } else y)

/-- The crew has no commit and no operation under way. -/
def Unsent (s : State) (x : Crew) : Prop := x.unack = 0 ∧ ∀ w ∈ s.commits, w.crew ≠ x.id

/-- The crew has no notice, and the bytes that a `CMT` would move do not keep it from moving them: a `CMT.X` finds no conflict, and there is room
(R109, R120). -/
def MayMove (o : OpCmt) (s : State) (x : Crew) (moved : List Moved) : Prop :=
  x.notice = false ∧ (o.x = false ∨ s.conflictBits x.id moved o.level.num = 0) ∧ s.roomLimit x.id (s.movedBuffers x.id moved o.level.num) o.level.num = none

/-- The core's L1 has the moved bytes where it holds their sectors (R80, R109). -/
def L1Follows (s s' : State) (core : Nat) (moved : List Moved) : Prop :=
  ∀ m ∈ moved, (s.l1Byte? core m.byte.loc).isSome = true → (∀ m' ∈ moved, m'.byte.loc = m.byte.loc → m'.byte.val = m.byte.val) →
    s'.l1Byte? core m.byte.loc = some m.byte.val

end Sys2Proof.Stmt

/-- R105, R109, R110, R111, R124, R342: `CMT`, plain or `.X` without a conflict, of a crew without a notice, where there is room; with more than 256
operations outstanding it waits. `CMT.TEAM` moves the bytes that the crew authors to the team buffer at once; it is over at once where nothing is
outstanding, with true in the predicate of each guard-true thread, and waits otherwise. `CMT.CLUSTER` moves them to the cluster buffer, and with
`CMT.DEVICE` and `CMT.SYSTEM` they are sent on their way; the core's L1 follows, the commit counts their sectors, and waits. One that moves nothing
is over at once, or waits for the words of the cluster unit, which a commit to device reach sends as well. -/
def Sys2Proof.Stmt.CommitMoves : Prop :=
  (∀ (o : OpCmt) (s : State) (t : Thread) (x : Crew), AtCmt o s t x → o.level = .team →
    let c := t.id.crewId
    let moved := s.movedBytes c 1
    MayMove o s x moved → x.unack ≤ 256 →
    ∃ s', exec (.cmt o) s = .next s' ∧ s'.buffers = s.movedBuffers c moved 1 ∧
      s' = { s with cur := .idle, threads := s'.threads, crews := s'.crews, commits := s'.commits, buffers := s'.buffers } ∧
      (Unsent s x → s'.commits = s.commits ∧ CommitOver o s s' c true (s.conflictBits c moved 1)) ∧
      (x.unack ≠ 0 → CommitWaits o s s' c true (s.conflictBits c moved 1))) ∧
  (∀ (o : OpCmt) (s : State) (t : Thread) (x : Crew), AtCmt o s t x → o.level = .cluster →
    let c := t.id.crewId
    let moved := s.movedBytes c 2
    let lands := s.landingsOf c 0 (moved.map Moved.byte)
    MayMove o s x moved → x.unack ≤ 256 → lands ≠ [] → (∀ m ∈ s.monitors, ∀ l ∈ lands, m.sector ≠ l.loc) →
    ∃ s', exec (.cmt o) s = .next s' ∧ s'.buffers = s.movedBuffers c moved 2 ∧ s'.landings = s.landings ∧ s'.mem = s.mem ∧
      s'.acks = s.acks ++ lands.map (fun _ => { author := .crew c, id := 0, core := s.coreOf c.team }) ∧
      (s'.crew? c).map Crew.unack = some (x.unack + lands.length) ∧ L1Follows s s' (s.coreOf c.team) moved ∧
      CommitWaits o s s' c true (s.conflictBits c moved 2)) ∧
  (∀ (o : OpCmt) (s : State) (t : Thread) (x : Crew), AtCmt o s t x → o.level = .device ∨ o.level = .system →
    let c := t.id.crewId
    let moved := s.movedBytes c o.level.num
    let lands := s.landingsOf c 0 (moved.map Moved.byte)
    MayMove o s x moved → x.unack ≤ 256 → lands ≠ [] → (∀ b ∈ s.buffers, b.author ≠ .unit) →
    ∃ s', exec (.cmt o) s = .next s' ∧ s'.landings = s.landings ++ lands ∧ s'.mem = s.mem ∧
      (s'.crew? c).map Crew.unack = some (x.unack + lands.length) ∧ L1Follows s s' (s.coreOf c.team) moved ∧
      (∀ b ∈ s'.buffers, b.author = .crew c →
        b.buf ≠ .crew c ∧ b.buf ≠ .team c.team ∧ b.buf ≠ .cluster (clusterOf (s.coreOf c.team))) ∧
      CommitWaits o s s' c true (s.conflictBits c moved o.level.num)) ∧
  (∀ (o : OpCmt) (s : State) (t : Thread) (x : Crew), AtCmt o s t x → o.level ≠ .team →
    let c := t.id.crewId
    let cl := clusterOf (s.coreOf c.team)
    MayMove o s x [] → Unsent s x → s.movedBytes c o.level.num = [] →
    (o.level = .cluster ∨ ((∀ b ∈ s.buffers, b.author ≠ .unit) ∧ s.unitInFlight cl = []) → ∃ s', exec (.cmt o) s = .next s' ∧
      CommitOver o s s' c true 0 ∧ s' = { s with cur := .idle, threads := s'.threads, crews := s'.crews }) ∧
    (∀ b, o.level ≠ .cluster → b ∈ s.buffers → b.buf = .cluster cl → b.author = .unit → ∃ s', exec (.cmt o) s = .next s' ∧
      (∃ l ∈ s'.landings, l.author = .unit ∧ l.loc = b.loc.sector ∧ (b.loc.num % 32, b.val) ∈ l.bytes) ∧
      (∀ y ∈ s'.buffers, ¬(y.buf = .cluster cl ∧ y.author = .unit)) ∧ CommitWaits o s s' c true 0)) ∧
  (∀ (o : OpCmt) (s : State) (t : Thread) (x : Crew), AtCmt o s t x → 256 < x.unack →
    exec (.cmt o) s = .next { s with cur := .idle, crews := s.crews.map (fun y => if y.id = t.id.crewId then
      { left y with stalled := true, complete := true, begun := true } else y) })

/-- R109, R110, R112, R115, R120, R121: a commit that finds an abort notice takes it back, moves nothing, writes false, and `%cflict` reads 4; a `CMT.X`
that would conflict moves nothing, writes false and sets the bits of the levels; both wait for what the crew has outstanding. A commit to team or cluster
reach without room traps STORE_OVF in every thread of the crew, with the limit and OWN in `%trapv`, and moves nothing; with no true guard nothing
happens. -/
def Sys2Proof.Stmt.CommitMovesNothing : Prop :=
  (∀ (o : OpCmt) (s : State) (t : Thread) (x : Crew), AtCmt o s t x → x.notice = true → x.unack ≤ 256 →
    let c := t.id.crewId
    ∃ s', exec (.cmt o) s = .next s' ∧ (s'.crew? c).map Crew.notice = some false ∧
      s' = { s with cur := .idle, threads := s'.threads, crews := s'.crews, commits := s'.commits } ∧
      (Unsent s x → s'.commits = s.commits ∧ CommitOver o s s' c false 4) ∧ (x.unack ≠ 0 → CommitWaits o s s' c false 4)) ∧
  (∀ (o : OpCmt) (s : State) (t : Thread) (x : Crew), AtCmt o s t x → o.x = true → x.notice = false → x.unack ≤ 256 →
    let c := t.id.crewId
    let bits := s.conflictBits c (s.movedBytes c o.level.num) o.level.num
    bits ≠ 0 → ∃ s', exec (.cmt o) s = .next s' ∧
      s' = { s with cur := .idle, threads := s'.threads, crews := s'.crews, commits := s'.commits } ∧
      (Unsent s x → s'.commits = s.commits ∧ CommitOver o s s' c false bits) ∧ (x.unack ≠ 0 → CommitWaits o s s' c false bits)) ∧
  (∀ (o : OpCmt) (s : State) (t : Thread) (x : Crew) (limit : Nat), AtCmt o s t x → x.notice = false → x.unack ≤ 256 →
    let c := t.id.crewId
    let moved := s.movedBytes c o.level.num
    o.x = false ∨ s.conflictBits c moved o.level.num = 0 → s.roomLimit c (s.movedBuffers c moved o.level.num) o.level.num = some limit →
    exec (.cmt o) s = .next (State.crewTrap { s with cur := .idle, crews := s.crews.map (fun y => if y.id = c then left y else y) } c
      .storeOvf (fun _ => true) (fun _ => BitVec.ofNat 32 (limit + 8)) 0)) ∧
  (∀ (o : OpCmt) (s : State) (core : Nat) (ids : List ThreadId) (rdv : Bool), s.cur = .flight core ids rdv →
    (∀ u ∈ ids.filterMap s.thread?, u.guard o.g = false) → (∃ t ts, ids.filterMap s.thread? = t :: ts ∧ s.crew? t.id.crewId ≠ none) →
    exec (.cmt o) s = .next { s with
      cur := .idle, crews := leftCrews s ids,
      threads := s.threads.map (fun y => if y.id ∈ ids then { y with pc := y.pc + 4, arrived := none, stall := .none, wait := 0 } else y) })

/-- R113, R119: bit 0 of a commit's conflicts says that the team buffer holds, in the aligned word of a byte that moves to it or through it, a byte of
another crew; bit 1 says that of the cluster buffer and a byte of another team or of the cluster unit. Room runs out at team reach when the team's buffer
holds more than 256 sectors (code 1), else when the core's store collector holds more than 2,048 entries, one for each buffer of a crew or team and
sector (code 3); at cluster reach when the team has bytes in more than 512 sectors of the cluster buffer (code 2), else when that holds more than 8,192
sectors (code 4). -/
def Sys2Proof.Stmt.CommitConflicts : Prop :=
  (∀ (s : State) (c : CrewId) (moved : List Moved) (lvl : Nat), 1 ≤ lvl →
    let hit := fun (n : Nat) (buf : Buf) (other : BufByte → Prop) => ∃ m ∈ moved, m.level ≤ n ∧ ∃ b ∈ s.buffers,
      b.buf = buf ∧ b.loc.down 4 = m.byte.loc.down 4 ∧ other b
    (s.conflictBits c moved lvl % 2 = 1 ↔ hit 1 (.team c.team) (fun b => b.author ≠ .crew c)) ∧
    (s.conflictBits c moved lvl / 2 = 1 ↔ 2 ≤ lvl ∧ hit 2 (.cluster (clusterOf (s.coreOf c.team))) (fun b => ∀ d, b.author = .crew d → d.team ≠ c.team)) ∧
    s.conflictBits c moved lvl < 4) ∧
  (∀ (s : State) (c : CrewId) (bufs : List BufByte),
    let core := s.coreOf c.team
    let entries := fun (p : BufByte → Bool) => ((bufs.filter p).map (fun b => (b.buf, b.loc.sector))).eraseDups.length
    let collected := fun (b : BufByte) => match b.buf with
      | .crew d => s.coreOf d.team == core
      | .team n => s.coreOf n == core
      | .cluster _ => false
    let shared := fun (b : BufByte) => b.buf == .cluster (clusterOf core)
    let own := fun (b : BufByte) => match b.author with
      | .crew d => d.team == c.team
      | .unit => false
    s.roomLimit c bufs 1 =
      (if 256 < entries (fun b => b.buf == .team c.team) then some 1 else if 2048 < entries collected then some 3 else none) ∧
    s.roomLimit c bufs 2 =
      (if 512 < entries (fun b => shared b && own b) then some 2 else if 8192 < entries shared then some 4 else none) ∧
    s.roomLimit c bufs 3 = none ∧ s.roomLimit c bufs 4 = none)

/-- R105, R109 to R113, R115, R119 to R121, R342: what a commit moves, where it conflicts, when it moves nothing, and how it waits. -/
def Obligations.Commit : Prop := Sys2Proof.Stmt.CommitMoves ∧ Sys2Proof.Stmt.CommitMovesNothing ∧ Sys2Proof.Stmt.CommitConflicts

/-- R116, R122, R326, R327: `ABT.CREW` discards what the crew's own buffer holds; `ABT.TEAM` also what its team's crews and team buffer
hold, and leaves a notice to the team's other crews; `ABT.CLUSTER` also what they hold in the cluster buffer, and the core's L1 loses those
sectors. `ACQ` with no load outstanding acquires at once: at cluster scope and above the
core's L1 is emptied, at team scope it is not. -/
def Obligations.AbortAndAcquire : Prop :=
  (∀ (o : OpAbt) (s : State) (core : Nat) (ids : List ThreadId) (rdv : Bool) (t : Thread) (ts : List Thread),
    s.cur = .flight core ids rdv → ids.filterMap s.thread? = t :: ts → (∃ u ∈ t :: ts, u.guard o.g = true) →
    let c := t.id.crewId
    let leave := s.threads.map (fun x => if x.id ∈ (t :: ts).map Thread.id then
      { x with pc := x.pc + 4, arrived := none, stall := .none, wait := 0 } else x)
    let told := s.crews.map (fun d => if d.id = c then left d
      else if d.id.team = c.team ∧ d.retired = false then { d with notice := true } else d)
    let mine := fun (b : BufByte) => match b.buf with
      | .crew d => d.team == c.team
      | .team n => n == c.team
      | .cluster _ => false
    let shared := fun (b : BufByte) => match b.buf, b.author with
      | .cluster n, .crew d => n == clusterOf (s.coreOf c.team) && d.team == c.team
      | _, _ => false
    (o.level = .crew → exec (.abt o) s = .next { s with
      cur := .idle, threads := leave, buffers := s.buffers.filter (fun b => b.buf != .crew c),
      crews := s.crews.map (fun d => if d.id = c then left d else d) }) ∧
    (o.level = .team → exec (.abt o) s = .next { s with
      cur := .idle, threads := leave, buffers := s.buffers.filter (fun b => !mine b), crews := told }) ∧
    (o.level = .cluster → exec (.abt o) s = .next { s with
      cur := .idle, threads := leave, buffers := s.buffers.filter (fun b => !(mine b || shared b)), crews := told,
      l1 := s.l1.filter (fun x => !(x.core == s.coreOf c.team &&
        s.buffers.any (fun b => (mine b || shared b) && b.loc.sector == x.loc))) })) ∧
  (∀ (o : OpAcq) (s : State) (core : Nat) (t : Thread) (rdv : Bool), OneThread s core t rdv → t.guard o.g = true → t.loads = [] →
    ∃ s', exec (.acq o) s = .next s' ∧ s' = { s with cur := .idle, threads := s'.threads, l1 := s'.l1 } ∧
      s'.l1 = (if o.level = .team then s.l1 else s.l1.filter (fun x => x.core != s.coreOf t.id.team)) ∧
      s'.thread? t.id = some { t with pc := t.pc + 4 })

/-! ### Barriers -/

/-- R146, R148, R150, R151, R154, R155, R156: `BAR` at a claimed barrier adds one arrival and waits for the phase that it joins; `BARA`
adds its count and gives the token of the phase that its first unit joins, without waiting; `BARW` continues when its token's phase is
over, and waits otherwise. A barrier that is not claimed traps BAD_HANDLE. `BAR.CREW` is the rendezvous: its threads continue, whatever
their guards, and the crew has the report that its completion gave, or gets it now. -/
def Obligations.BarrierArrival : Prop :=
  (∀ (o : OpBar) (s : State) (core : Nat) (t : Thread) (rdv : Bool) (x : Barrier) (c : Crew), o.level ≠ .crew →
    OneThread s core t rdv → t.guard o.g = true → s.satDue t.id.crewId = false → (o.cmt = false ∨ t.committed = true) →
    s.barrier? t.id.team ⟨o.level, o.id.val⟩ = some x → s.crew? t.id.crewId = some c →
    ∃ s', exec (.bar o) s = .next s' ∧
      s' = { s with cur := .idle, threads := s'.threads, teams := s'.teams, units := s'.units, grids := s'.grids } ∧
      (s'.barrier? t.id.team ⟨o.level, o.id.val⟩).map (fun y => (y.e, y.a, y.p)) = some (x.e, x.a + 1, x.p) ∧
      s'.thread? t.id = some { t with park := .barrier ⟨o.level, o.id.val⟩ x.joins o.acq true } ∧
      ∀ u, u ≠ t.id → s'.thread? u = s.thread? u) ∧
  (∀ (o : OpBara) (s : State) (core : Nat) (t : Thread) (rdv : Bool) (x : Barrier), o.level ≠ .crew →
    OneThread s core t rdv → t.guard o.g = true → s.satDue t.id.crewId = false →
    s.barrier? t.id.team ⟨o.level, o.id.val⟩ = some x →
    ∃ s', exec (.bara o) s = .next s' ∧
      s' = { s with cur := .idle, threads := s'.threads, teams := s'.teams, units := s'.units, grids := s'.grids } ∧
      (s'.barrier? t.id.team ⟨o.level, o.id.val⟩).map (fun y => (y.e, y.a, y.p)) =
        some (x.e, x.a + (opb s t o.b).toNat % 65536, x.p) ∧
      s'.thread? t.id = some { t with v := t.v.set o.d.val (tokenOf ⟨o.level, o.id.val⟩ x.joins), pc := t.pc + 4 } ∧
      ∀ u, u ≠ t.id → s'.thread? u = s.thread? u) ∧
  (∀ (o : OpBarw) (s : State) (core : Nat) (t : Thread) (rdv : Bool) (b : BarRef) (x : Barrier), OneThread s core t rdv →
    t.guard o.g = true → o.acq = false → barrierOfNumber ((t.reg o.a.val).toNat % 256) = some b → s.barrier? t.id.team b = some x →
    let phase := (t.reg o.a.val).toNat / 256
    (tokenDone x.p phase = true → exec (.barw o) s = .next (laneNext s [t.id] (fun u =>
      { u with park := .none, committed := false, pc := u.pc + 4 }))) ∧
    (tokenDone x.p phase = false → exec (.barw o) s = .next (laneNext s [t.id] (fun u => { u with park := .barrier b phase false false })))) ∧
  (∀ (o : OpBar) (s : State) (core : Nat) (t : Thread) (rdv : Bool), OneThread s core t rdv → o.level ≠ .crew → t.guard o.g = true →
    s.barrier? t.id.team ⟨o.level, o.id.val⟩ = none →
    exec (.bar o) s = .next (State.threadTrap { s with cur := .idle } t .badHandle (BitVec.ofNat 32 o.id.val) 0)) ∧
  (∀ (o : OpBara) (s : State) (core : Nat) (t : Thread) (rdv : Bool), OneThread s core t rdv → t.guard o.g = true →
    s.barrier? t.id.team ⟨o.level, o.id.val⟩ = none →
    exec (.bara o) s = .next (State.threadTrap { s with cur := .idle } t .badHandle (BitVec.ofNat 32 o.id.val) 0)) ∧
  (∀ (o : OpBar) (s : State) (core : Nat) (ids : List ThreadId) (rdv : Bool) (t : Thread) (ts : List Thread) (x : Crew),
    o.level = .crew → s.cur = .flight core ids rdv → ids.head? = some t.id → ids.filterMap s.thread? = t :: ts →
    s.crew? t.id.crewId = some x → s.satDue t.id.crewId = false →
    let now := s.cycleOf (s.coreOf t.id.team)
    let first := (t :: ts).foldl (fun n u => min n (u.arrived.getD now)) now
    ∃ s', exec (.bar o) s = .next s' ∧
      s' = { s with cur := .idle, crews := s'.crews,
                    threads := s.threads.map (fun u => if u.id ∈ ids then u.leave 4 else u) } ∧
      (s'.crew? t.id.crewId).map Crew.stragWait =
        some (if x.complete then x.stragWait else BitVec.ofNat 32 (min (now - first) 0xFFFFFFFF)) ∧
      ∀ c, c ≠ t.id.crewId → s'.crew? c = s.crew? c)

/-- R148, R156, R157: a team barrier with at least one expected arrival and all of them made completes its phase: A loses E, the phase goes up
by one modulo 2^24, and each thread of the team that waits for the phase, on its core, is released: it continues at the next instruction, and
a released thread is not ready before a cycle of its core has passed. While arrivals are missing nothing happens. -/
def Obligations.BarrierPhase : Prop :=
  (∀ (s : State) (tm : Team) (n : Nat) (x : Barrier) (core : Nat), s.team? tm.id = some tm → tm.place = .resident core →
    tm.bars[n]? = some x → 1 ≤ x.e → x.e ≤ x.a →
    (∀ t ∈ s.threads, ∀ ph acq arr, t.park = .barrier ⟨.team, n⟩ ph acq arr → acq = false) →
    ∃ s', exec (.barrierCompletion (.team tm.id n)) s = .next s' ∧ s'.mem = s.mem ∧
      (s'.barrier? tm.id ⟨.team, n⟩).map (fun y => (y.e, y.a, y.p)) = some (x.e, x.a - x.e, (x.p + 1) % 2 ^ 24) ∧
      (∀ t arr, s.threads.filter (fun u => u.id == t.id) = [t] → t.id.team = tm.id → t.live = true →
        t.park = .barrier ⟨.team, n⟩ x.p false arr →
        (s'.thread? t.id).map (fun u => (u.pc, u.park, u.stall)) = some (t.pc + 4, .none, .released))) ∧
  (∀ (s : State) (core : Nat) (t : Thread), t.stall = .released → s.ready core t = false) ∧
  (∀ (s : State) (tm : Team) (n : Nat) (x : Barrier), s.team? tm.id = some tm → tm.bars[n]? = some x → x.a < x.e ∨ x.e = 0 →
    exec (.barrierCompletion (.team tm.id n)) s = .next s)

/-! ### Uniform instructions -/

namespace Sys2Proof.Stmt

/-- The state after a uniform instruction of `n` bytes of crew `c`: every live thread of the crew leaves the rendezvous and goes to `pc`
(of itself); the crew becomes `f` of itself and no longer stands at a rendezvous (R26). -/
def uniNext (s : State) (c : CrewId) (pc : Thread → Word) (f : Crew → Crew) : State :=
  { s with
    cur := .idle
    threads := s.threads.map (fun t => if t.id.crewId = c ∧ t.live = true then
      { t with pc := pc t, arrived := none, stall := .none, wait := 0 } else t)
    crews := s.crews.map (fun x => if x.id = c then left (f x) else x) }

/-- The next instruction, `n` bytes on. -/
def after (n : Nat) (t : Thread) : Word := t.pc + BitVec.ofNat 32 n

/-- No reduction of the crew to its team's scratchpad is outstanding (R132). -/
def NoSpadReds (s : State) (c : CrewId) : Prop := ∀ r ∈ s.reds, ¬(r.scope = .team ∧ c ∈ r.crews)

/-- The focus is a uniform instruction of the crew. -/
def OneCrew (s : State) (c : Crew) : Prop := s.cur = .uniform c.id ∧ s.crew? c.id = some c

/-- The instruction completes for every crew: with a true guard the crew becomes `f` of its old self, with a false guard it only
continues. -/
def ChangesCrew (i : Instr) (n : Nat) (g : Guard) (f : State → Crew → Crew) : Prop :=
  ∀ (s : State) (c : Crew), OneCrew s c →
    exec i s = .next (uniNext s c.id (after n) (fun x => if c.guard g then f s c else x))

/-- As `ChangesCrew`, for `k[d] = val`; a write to k63 is discarded (R308). -/
def WritesK (i : Instr) (n : Nat) (g : Guard) (d : Fin 64) (val : State → Crew → Word) : Prop :=
  ChangesCrew i n g (fun s c => if d = 63 then c else { c with k := c.k.set d.val (val s c) })

end Sys2Proof.Stmt

/-- R366 to R368, R373, R375: arithmetic, logic, shifts and moves on k registers, once for the crew. -/
def Sys2Proof.Stmt.UniformRegisters : Prop :=
  (∀ o, WritesK (.kadd o) 4 o.g o.d (fun _ c => c.reg o.a.val + c.reg o.b.val)) ∧
  (∀ o, WritesK (.ksub o) 4 o.g o.d (fun _ c => c.reg o.a.val - c.reg o.b.val)) ∧
  (∀ o, WritesK (.kmul o) 4 o.g o.d (fun _ c => c.reg o.a.val * c.reg o.b.val)) ∧
  (∀ o, WritesK (.kand o) 4 o.g o.d (fun _ c => c.reg o.a.val &&& c.reg o.b.val)) ∧
  (∀ o, WritesK (.kor o) 4 o.g o.d (fun _ c => c.reg o.a.val ||| c.reg o.b.val)) ∧
  (∀ o, WritesK (.kxor o) 4 o.g o.d (fun _ c => c.reg o.a.val ^^^ c.reg o.b.val)) ∧
  (∀ o, WritesK (.kshl o) 4 o.g o.d (fun _ c => c.reg o.a.val <<< ((c.reg o.b.val).toNat % 32))) ∧
  (∀ o, WritesK (.kshr o) 4 o.g o.d (fun _ c => c.reg o.a.val >>> ((c.reg o.b.val).toNat % 32))) ∧
  (∀ o, WritesK (.kaddImm o) 4 o.g o.d (fun _ c => c.reg o.a.val + o.imm.signExtend 32)) ∧
  (∀ o, WritesK (.kaddImmExt o) 8 o.g o.d (fun _ c => c.reg o.a.val + o.imm)) ∧
  (∀ o, WritesK (.kshlImm o) 4 o.g o.d (fun _ c => c.reg o.a.val <<< o.s.val)) ∧
  (∀ o, WritesK (.kshrImm o) 4 o.g o.d (fun _ c => c.reg o.a.val >>> o.s.val)) ∧
  (∀ o, WritesK (.kmov o) 4 o.g o.d (fun _ c => c.reg o.b.val)) ∧
  (∀ o, WritesK (.kmovImm o) 4 o.g o.d (fun _ _ => o.imm.signExtend 32)) ∧
  (∀ o, WritesK (.kmovImmExt o) 8 o.g o.d (fun _ _ => o.imm))

/-- R312, R370, R373, R374: `KCMP` combines its condition with a q predicate, `KSEL` selects by its guard and writes always, and `KMOV.V`
takes the v register of the crew's lowest-lane live thread; k63 reads as zero (R308). -/
def Sys2Proof.Stmt.UniformSelects : Prop :=
  (∀ o, ChangesCrew (.kcmp o) 4 o.g (fun _ c => if o.qd = 7 then c else { c with q := c.q.set o.qd.val <|
    (combine o.comb (c.pred o.qd.val) (condHolds o.cond (c.reg o.a.val) (c.reg o.b.val))) })) ∧
  (∀ o, WritesK (.ksel o) 4 ⟨7, false⟩ o.d (fun _ c => if c.guard o.g then c.reg o.a.val else c.reg o.b.val)) ∧
  (∀ (o : OpKmov) (s : State) (c : Crew) (t : Thread) (ts : List Thread), OneCrew s c → c.guard o.g = true → s.liveOf c.id = t :: ts →
    exec (.kmovV o) s = .next (uniNext s c.id (after 4) (fun _ =>
      if o.d = 63 then c else { c with k := c.k.set o.d.val (t.reg o.b.val) }))) ∧
  (∀ c : Crew, c.reg 63 = 0 ∧ c.pred 7 = true)

/-- R314, R339, R369: `KBRA` takes the whole crew to its target, and `BSTAT` does so when the tile status word passes its test; with a false
guard or test the crew continues. -/
def Sys2Proof.Stmt.UniformBranches : Prop :=
  (∀ (o : OpBra) (s : State) (c : Crew), OneCrew s c →
    exec (.kbra o) s = .next (uniNext s c.id (fun t => if c.guard o.g then t.pc + 4 * o.off.signExtend 32 else t.pc + 4) id)) ∧
  (∀ (o : OpBstat) (s : State) (c : Crew), OneCrew s c →
    exec (.bstat o) s = .next (uniNext s c.id (fun t =>
      if c.guard o.g && o.t.holds (c.reg o.a.val) then t.pc + 4 * o.off.signExtend 32 else t.pc + 4) id)) ∧
  (∀ w : Word, BTest.holds .nan w = w.getLsbD 0 ∧ BTest.holds .inf w = w.getLsbD 1 ∧ BTest.holds .sat w = w.getLsbD 2 ∧
    BTest.holds .snan w = w.getLsbD 3 ∧ BTest.holds .any w = !((w &&& 15) == 0) ∧
    BTest.holds .clean w = (w.getLsbD 31 && (w &&& 15) == 0))

/-- R371, R372: `KLD` reads one or two words of scratchpad into k registers, and `KST` stores them, once for the crew; every other byte of
every scratchpad and all of device memory reads as before. No reduction of the crew to its scratchpad is outstanding: one that is performs
first. -/
def Obligations.UniformScratchpad : Prop :=
  (∀ (o : OpKmem) (s : State) (c : Crew), OneCrew s c → c.guard o.g = true →
    let n := if o.wide then 8 else 4
    let ea := (c.reg o.a.val).toNat + o.off.val * n
    SpadOk s c.id.team ea n → NoSpadReds s c.id →
    let k1 := fun (k : List Word) => if o.d = 63 then k else k.set o.d.val (BitVec.ofNat 32 (s.spadNat c.id.team ea 4))
    let k2 := fun (k : List Word) => if o.wide && o.d != 62 then k.set (o.d.val + 1) (BitVec.ofNat 32 (s.spadNat c.id.team (ea + 4) 4)) else k
    exec (.kld o) s = .next (uniNext s c.id (after 4) (fun _ => { c with k := k2 (k1 c.k) }))) ∧
  (∀ (o : OpKmem) (s : State) (c : Crew), OneCrew s c → c.guard o.g = true →
    let n := if o.wide then 8 else 4
    let ea := (c.reg o.a.val).toNat + o.off.val * n
    SpadOk s c.id.team ea n → NoSpadReds s c.id →
    ∃ s', exec (.kst o) s = .next s' ∧ s' = { uniNext s c.id (after 4) id with teams := s'.teams } ∧
      (∀ team off, spadByte s' team off = if team = c.id.team ∧ ea ≤ off ∧ off < ea + n then
          BitVec.ofNat 8 ((c.reg (o.d.val + (off - ea) / 4)).toNat / 2 ^ (8 * ((off - ea) % 4)))
        else spadByte s team off))

/-- R101, R215, R228, R246, R278, R355, R360, R395, R403: guard slots are set TRUE, FALSE or UNRESOLVED; `PHASE` arms the crew's timer with its
count plus PHMARGIN, saturating, and 0 disarms it; `SATARM` arms, disarms, or clears `%sat` and arms; `FENCE.LR` of a crew with nothing
outstanding empties its cluster's record cache, and a copy of the cluster that waits for room reads its record again (log entry 123); `FENCE.ENG` completes when the team has no copy or matrix command that issued before its
rendezvous completed. -/
def Sys2Proof.Stmt.UniformSettings : Prop :=
  (∀ (o : OpGset) (s : State) (c : Crew), OneCrew s c → c.guard o.g = true →
    exec (.gset o) s = .next { uniNext s c.id (after 4) id with teams := s.teams.map (fun t =>
      if t.id = c.id.team then { t with gslots := t.gslots.set o.gs.val (if c.pred o.qa.val then .true else .false) } else t) } ∧
    exec (.gsetNot o) s = .next { uniNext s c.id (after 4) id with teams := s.teams.map (fun t =>
      if t.id = c.id.team then { t with gslots := t.gslots.set o.gs.val (if c.pred o.qa.val then .false else .true) } else t) }) ∧
  (∀ (o : OpGsetClr) (s : State) (c : Crew), OneCrew s c → c.guard o.g = true →
    exec (.gsetClr o) s = .next { uniNext s c.id (after 4) id with teams := s.teams.map (fun t =>
      if t.id = c.id.team then { t with gslots := t.gslots.set o.gs.val .unresolved } else t) }) ∧
  (∀ o, ChangesCrew (.phase o) 4 o.g (fun s c =>
    { c with phArm := decide ((c.reg o.kb.val).toNat ≠ 0), phCount := 0, phLimit := min ((c.reg o.kb.val).toNat + s.phmargin) 0xFFFFFFFF })) ∧
  (∀ g, ChangesCrew (.phaseOff g) 4 g (fun _ c => { c with phArm := false })) ∧
  (∀ o, ChangesCrew (.satarm o) 4 o.g (fun _ c => { c with sat := if o.clr then 0 else c.sat, satArm := !o.off })) ∧
  (∀ (g : Guard) (s : State) (c : Crew), OneCrew s c → c.guard g = true → c.unack = 0 →
    let cl := clusterOf (s.coreOf c.id.team)
    exec (.fenceLr g) s = .next { uniNext s c.id (after 4) id with
      layouts := s.layouts.filter (fun l => l.cluster != cl),
      crews := s.crews.map (fun x => if x.id = c.id then left x else if clusterOf (s.coreOf x.id.team) = cl then x.reread else x) }) ∧
  (∀ (g : Guard) (s : State) (c : Crew), OneCrew s c → c.guard g = true →
    (∀ x ∈ s.cmds, x.team = c.id.team → x.kind = .pairs ∨ ∃ n, c.fence = some n ∧ n < x.id) →
    exec (.fenceEng g) s = .next (uniNext s c.id (after 4) id))

/-! ### Engine commands -/

namespace Sys2Proof.Stmt

/-- What every block-carrying command asks for first (R140, R226 steps 1 and 2): the crew's loads have returned, and the block of `n` bytes
is aligned, inside the team's scratchpad and present, and no reduction of the crew to it is outstanding. The crew is not half-way through the checks of
an earlier try. -/
def BlockReady (s : State) (c : Crew) (tm : Team) (addr n : Nat) : Prop :=
  s.team? c.id.team = some tm ∧ c.issuing = none ∧ (∀ t ∈ s.liveOf c.id, t.loads = []) ∧ addr % n = 0 ∧ addr + n ≤ 128 * tm.spadLines ∧
    NoSpadReds s c.id ∧ ∀ i, i * 128 < n → addr / 128 + i ∉ tm.absent

/-- The words of the block. -/
def blockAt (s : State) (tm : Team) (addr n : Nat) : List Word := State.wordsOf (s.spadBytes tm.id addr n) (n / 4)

/-- A scratchpad line whose presence bit is clear (R78). -/
def lineAbsent (s : State) (team line : Nat) : Bool := ((s.team? team).map (fun t => t.absent.contains line)).getD false

/-- The command has entered its team's queue (R78, R97, R226, R227): it is the last of the commands, its locks are taken, exactly the lines
it will write have become absent, no scratchpad byte has changed, and the crew has continued. -/
def Issues (s s' : State) (c : CrewId) (cmd : EngCmd) (locks : List RangeLock) : Prop :=
  s' = { uniNext s c (after 4) id with
    lastId := s.lastId + 1, cmds := s.cmds ++ [cmd], locks := s.locks ++ locks.map (fun l => { l with cmd := cmd.id }),
    teams := s'.teams } ∧
  (∀ team off, spadByte s' team off = spadByte s team off) ∧
  (∀ team line, team ≠ 0 → (s.team? team).isSome → lineAbsent s' team line = (lineAbsent s team line || cmd.pending.contains (team, line)))

/-- A new command, with the guard slot that its instruction names (R225). -/
def command (s : State) (c : Crew) (k : CmdKind) (gs : Fin 8) (ge : Bool) (addr : Nat) (block : List Word) : EngCmd :=
  s.newCmd c k (if ge then some gs.val else none) addr block

/-- Every operand byte of a copy lies inside its space: the scratchpad of the issuing team or of each target, or 52 bits; and its elements
are aligned (R226 steps 4 and 5). -/
def OperandsOk (tm : Team) (ts : List Team) (rs : List OpRange) : Prop :=
  ∀ r ∈ rs, 0 ≤ r.a ∧ r.a % (r.align : Int) = 0 ∧
    (if r.kind = 1 then (if r.write then ∀ t ∈ ts, r.a + r.n ≤ (t.spadSize : Int) else r.a + r.n ≤ (tm.spadSize : Int)) else r.a + r.n ≤ 2 ^ 52)

end Sys2Proof.Stmt

/-- R78, R97, R226, R227, R239 to R241, R245, R343, R344: a `CPY` whose checks pass, with room in the engine and the lock table, enters
its team's queue with its operands, of which a scratchpad side takes the low 32 bits of its address (log entry 21), and a lock for each global
operand: the source, the argument or table operand and the destination. Of the transform 6 the checked range of a table follows the model's own
reading of its count at issue: 512 entries where a global count cannot be read at once (log entry 92, DESIGN CHOICE), 0 where an access table denies
it, which is logged; and the crew has waited for a count that an earlier copy has still to land (log entry 122, DEDUCED). `CPYQ` writes the
number of the team's copies to its k register, and `CPYQ.W` does so once that number is at most n, and waits until then. -/
def Obligations.CopyIssue : Prop :=
  (∀ (o : OpBlock) (s s1 s2 : State) (c : Crew) (tm : Team) (ts : List Team) (x : Ctx) (src dst : State.Side),
    OneCrew s c → c.guard o.g = true →
    let addr := (c.reg o.kp.val).toNat
    BlockReady s c tm addr 128 → s.ctx? tm.ctx = some x →
    let ws := blockAt s tm addr 128
    let b := CopyBlock.of ws
    let s0 := { s with cur := .idle }
    b.badField x.regs.lrcount = none → b.rulesOk = true → s0.targets tm b = some ts →
    s0.sideOf c.id b.srck b.src b.sstr = (s1, .ok src) → s1.sideOf c.id b.dstk b.dst b.dstr = (s2, .ok dst) →
    let b' := if b.srck = 1 ∧ b.xop ≠ 8 then { b with xarg := b.xarg % 2 ^ 32 } else b
    let ops : Operands := ⟨src.base, dst.base, src.str, dst.str⟩
    let rs := b'.ranges ops (s2.tableCodes tm b')
    OperandsOk tm ts rs → s2.tableWaits tm b = none →
    let s3 := s2.logTable tm b'
    let cmd := command s3 c .cpy o.gs o.ge addr ws
    let locks := State.copyLocks tm rs
    s3.cur = .idle → s3.copyLoad (s3.coreOf c.id.team) < 160 → s3.lockRoom (s3.coreOf c.id.team) locks.length = true →
    ∃ s', exec (.cpy o) s = .next s' ∧ Issues s3 s' c.id { cmd with
      src := src.base, dst := dst.base, sstr := src.str, dstr := dst.str, slimit := src.limit, dlimit := dst.limit,
      pending := (if b.dstk = 1 then ts.map Team.id else [0]).flatMap (fun t => (destLines (b'.elems ops)).map (fun l => (t, l))) } locks) ∧
  (∀ o, WritesK (.cpyq o) 4 o.g o.kp (fun s c =>
    BitVec.ofNat 32 (s.cmds.countP (fun x => x.team == c.id.team && x.kind == .cpy)))) ∧
  (∀ (o : OpCpyqW) (s : State) (c : Crew), OneCrew s c → c.guard o.g = true →
    let k := s.cmds.countP (fun x => x.team == c.id.team && x.kind == .cpy)
    (k ≤ o.n.val → exec (.cpyqW o) s = .next (uniNext s c.id (after 4) (fun x =>
      if o.kp = 63 then x else { x with k := x.k.set o.kp.val (BitVec.ofNat 32 k) }))) ∧
    (o.n.val < k → exec (.cpyqW o) s = .next { s with
      cur := .idle
      crews := s.crews.map (fun x => if x.id = c.id then
        { x with stalled := true, complete := true, begun := true, rdvFrom := none, absent := none } else x)
      cores := match s.cores[s.coreOf c.id.team]? with
        | none => s.cores
        | some q => s.cores.set (s.coreOf c.id.team) { q with pipe := none } }))

/-- R226, R227, R231 to R237, R384 to R389: `MMA`, `MMAST`, `MMAZ` and `MMAZ.REL` whose checks pass, with room in every matrix engine they
take, enter their team's queue; `MMAZ` of a free bank, or of the team's own, leaves the team holding it, and of another team's bank traps
BAD_HANDLE with the bank's number; after `MMAZ.REL` the team's issue checks call the bank no longer held, also after a later `MMAZ` until the
release has taken effect (log entry 47), and it traps on a bank not held. -/
def Sys2Proof.Stmt.MatrixCommandsIssue : Prop :=
  (∀ (o : OpBlock) (s : State) (c : Crew) (tm : Team) (ts : List Team), OneCrew s c → c.guard o.g = true →
    let addr := (c.reg o.kp.val).toNat
    BlockReady s c tm addr 64 →
    let ws := blockAt s tm addr 64
    let b := MmaBlock.of ws
    b.badField ws true true = none → s.participants tm b = some ts → s.holdsBank tm b.bank = true →
    (∀ t ∈ tm :: ts, ∀ r ∈ b.operands, r.1 + r.2 ≤ t.spadSize) → (∀ t ∈ ts, s.matrixLoad (s.coreOf t.id) < 8) →
    ∃ s', exec (.mma o) s = .next s' ∧
      Issues s s' c.id { command s c .mma o.gs o.ge addr ws with bank := b.bank, parts := ts.map Team.id } []) ∧
  (∀ (o : OpBlock) (s : State) (c : Crew) (tm : Team), OneCrew s c → c.guard o.g = true →
    let addr := (c.reg o.kp.val).toNat
    BlockReady s c tm addr 64 →
    let ws := blockAt s tm addr 64
    let b := MmastBlock.of ws
    b.badField ws true = none → s.holdsBank tm b.bank = true → (∀ r ∈ b.rows ++ [(b.soff, 4)], r.1 + r.2 ≤ tm.spadSize) →
    s.matrixLoad tm.coreD < 8 →
    ∃ s', exec (.mmast o) s = .next s' ∧ Issues s s' c.id { command s c .mmast o.gs o.ge addr ws with
      bank := b.bank, pending := b.lines.map (fun l => (tm.id, l)) } []) ∧
  (∀ (o : OpMmaz) (s : State) (c : Crew) (tm : Team), OneCrew s c → c.guard o.g = true → s.team? c.id.team = some tm →
    (∀ t ∈ s.liveOf c.id, t.loads = []) → s.matrixLoad tm.coreD < 8 →
    let cmd := fun (k : CmdKind) => { command s c k o.gs o.ge 0 [] with bank := o.bank.val }
    let bank := fun (s : State) => s.banks.find? (fun x => x.core == tm.coreD && x.bank == o.bank.val)
    let holder := (bank s).bind Bank.team
    (holder = none ∨ holder = some tm.id → ∃ s', exec (.mmaz o) s = .next s' ∧
      Issues (s.claimBank tm.coreD o.bank.val tm.id) s' c.id (cmd .mmaz) [] ∧
      (s'.holdsBank tm o.bank.val = true ↔ ∀ x ∈ s.cmds, ¬(x.team = tm.id ∧ x.kind = .mmazRel ∧ x.bank = o.bank.val)) ∧
      (∀ x, bank s = some x → bank s' = some { x with team := some tm.id })) ∧
    (∀ n, holder = some n → n ≠ tm.id →
      exec (.mmaz o) s = .next (State.uniformTrap { s with cur := .idle } c.id .badHandle (BitVec.ofNat 32 o.bank.val) 0)) ∧
    (holder = some tm.id →
      ∃ s', exec (.mmazRel o) s = .next s' ∧ Issues s s' c.id (cmd .mmazRel) [] ∧ s'.holdsBank tm o.bank.val = false) ∧
    ((∀ x ∈ s.banks, x.core = tm.coreD → x.bank = o.bank.val → x.team ≠ some tm.id) →
      exec (.mmazRel o) s = .next (State.uniformTrap { s with cur := .idle } c.id .badHandle (BitVec.ofNat 32 o.bank.val) 0)))

/-- R261, R262, R393: a `PAIRS` whose block keeps its limits, with room in the cluster's traversal unit and the lock table, enters the queue
with read locks on its hierarchies, and the line of its block becomes absent. -/
def Sys2Proof.Stmt.PairsIssue : Prop :=
  ∀ (o : OpBlock) (s : State) (c : Crew) (tm : Team), OneCrew s c → c.guard o.g = true →
    let addr := (c.reg o.kp.val).toNat
    BlockReady s c tm addr 64 →
    let ws := blockAt s tm addr 64
    let b := PairsBlock.of ws
    let cmd := command s c .pairs o.gs o.ge addr ws
    let lock := fun (base bytes : Nat) => RangeLock.mk tm.coreD tm.ctx (base / 128) ((base + bytes - 1) / 128) false 0 false
    let locks := lock b.abase b.abytes :: (if b.self then [] else [lock b.bbase b.bbytes])
    b.badField ws (s.node? tm.ctx b.node) = none → s.pairsLoad (clusterOf tm.coreD) < 16 → s.lockRoom tm.coreD locks.length = true →
    ∃ s', exec (.pairs o) s = .next s' ∧ Issues s s' c.id { cmd with pending := [(tm.id, addr / 128)] } locks

/-! ### Launches and fills -/

/-- R49 to R54, R378: a `LAUNCH` of crew 0 below depth 10, whose block keeps its limits and names no argument image, takes the decision and
writes its code at STATUS. The decision is 2 for a grid that fits on no empty device, 3 for one that would need more swap slots than there
are, 1 where its first unit has no room, with nothing done, and otherwise 0: the grid is admitted. -/
def Obligations.Launch : Prop :=
  (∀ (o : OpKp) (s s1 : State) (c : Crew) (tm : Team) (g : Grid) (code : Nat), OneCrew s c → c.guard o.g = true → c.id.crew = 0 →
    s.team? c.id.team = some tm → s.grid? tm.grid = some g → g.depth < 10 →
    let addr := (c.reg o.kp.val).toNat
    addr % 64 = 0 → addr + 128 ≤ tm.spadSize → s.spadPresent tm.id addr 128 = true → NoSpadReds s c.id →
    (∀ m ∈ s.images, m.crew ≠ some c.id) →
    let ws := blockAt s tm addr 128
    let b := LaunchBlock.of ws
    b.badField ws = none → b.args = 0 →
    State.decideLaunch { s with cur := .idle } b tm.ctx (g.depth + 1) (some tm.id) (List.replicate 16 0) = (s1, code) → s1.cur = .idle →
    ∃ s', exec (.launch o) s = .next s' ∧ s' = { uniNext s1 c.id (after 4) id with teams := s'.teams } ∧
      (∀ team off, spadByte s' team off = if team = tm.id ∧ addr + 0x3C ≤ off ∧ off < addr + 0x40 then
        (if (s1.team? team).isSome then BitVec.ofNat 8 (code / 2 ^ (8 * (off - (addr + 0x3C)))) else 0) else spadByte s1 team off)) ∧
  (∀ (s : State) (b : LaunchBlock) (ctx depth : Nat) (parent : Option Nat) (args : List Word),
    let g := s.gridOfBlock b ctx depth parent args
    let r := s.decideLaunch b ctx depth parent args
    (s.fitsEmpty g = false → r = (s, 2)) ∧
    (s.fitsEmpty g = true → s.noSwap g = true → r = (s, 3)) ∧
    (s.fitsEmpty g = true → s.noSwap g = false →
      State.placeNext { s with lastId := s.lastId + 1, grids := s.grids ++ [g] } g.id = none → r = (s, 1)) ∧
    (s.fitsEmpty g = true → s.noSwap g = false →
      (State.placeNext { s with lastId := s.lastId + 1, grids := s.grids ++ [g] } g.id).isSome = true →
      r.2 = 0 ∧ r.1.grids.map Grid.id = s.grids.map Grid.id ++ [s.lastId + 1]))

namespace Sys2Proof.Stmt

/-- A pending fill is over: its number is free, and the record that carried it names no fill (R186). -/
def filled (s : State) (pfid : Nat) : State :=
  { s with
    fills := s.fills.filter (fun x => x.pfid != pfid)
    threads := s.threads.map (fun t => if t.record.bind Record.pfid = some pfid then
      { t with record := t.record.map (fun r => { r with pfid := none }) } else t) }

end Sys2Proof.Stmt

namespace Sys2Proof.Stmt

/-- The lines of some fills: context and name (R196). -/
def fillLines (fs : List Fill) : List (Nat × Nat) := fs.flatMap (fun f => (List.range (2 ^ f.log2span)).map (fun i => (f.ctx, f.name + 128 * i)))

/-- Each new line among some lines finds a way in its set of the cache, whatever of the others go there too (R83, R203). -/
def WaysFree (s : State) (lines : List (Nat × Nat)) : Prop :=
  ∀ x ∈ lines, s.envLine? x.1 x.2 = none →
    (s.setOf x.1 x.2).length + lines.countP (fun y => homeSlice y.2 == homeSlice x.2 &&
      Config.llcSet y.1 (y.2 / 128) % Config.llcSets == Config.llcSet x.1 (x.2 / 128) % Config.llcSets) ≤ 16

/-- Only threads wait for some fills, each once and for nothing else, no run of atomics among them, with their teams on a core. -/
def ThreadsWait (s : State) (fs : List Fill) : Prop :=
  let ws := fs.flatMap Fill.waiters
  (ws.map Joined.who).Nodup ∧ (∀ j ∈ ws, ∃ t, j.who = .thread t.id ∧ s.thread? t.id = some t ∧ t.run = none ∧ s.outside t.id.team = false) ∧
    ∀ j ∈ ws, (∀ r ∈ s.replays, r.who ≠ j.who) ∧ (∀ m ∈ s.misses, m.waiter ≠ j.who) ∧ ∀ f ∈ s.fills, f ∈ fs ∨ ∀ k ∈ f.waiters, k.who ≠ j.who

/-- An envelope line whose invalid words have taken data; valid ones, written or not, stay (R191, R196). -/
def fillWords (l : EnvLine) (data : List Word) : EnvLine :=
  { l with
    valid := List.replicate 32 true
    words := (List.range 32).map (fun k => if l.valid.getD k false then l.words.getD k 0 else data.getD k 0) }

end Sys2Proof.Stmt

/-- R185, R191, R195 to R198, R356, R357: a `FILLDONE` installs the spans of its entries from the scratchpad: a line that the cache does not list, and
that has a way, with all words valid; of a PRESENT line the invalid words only; nothing of a HELD line. The fills are over, and the threads that wait for
them replay next, in the order of the entries and of their waiting, with the lines pinned for them. A `FILLFAIL` installs nothing; a thread that
waits takes GEN_FAIL with its address and the code. -/
def Obligations.FillEnds : Prop :=
  ∀ (o : OpFill) (s : State) (c : Crew) (tm : Team) (es : List FillEntry), OneCrew s c → c.guard o.g = true → s.team? c.id.team = some tm →
    let addr := (c.reg o.kp.val).toNat
    addr % 64 = 0 → addr + 64 ≤ tm.spadSize → s.spadPresent tm.id addr (8 * (o.n.val + 1)) = true → NoSpadReds s c.id → s.monitors = [] →
    s.overflow = [] → fillEntries (blockAt s tm addr 64) (o.n.val + 1) = es → (es.map FillEntry.pfid).Nodup →
    (∀ e ∈ es, s.holdsFill c.id e.pfid = true ∧ e.rsvd = 0) →
    let fs := es.filterMap (fun e => s.fill? e.pfid)
    let done := es.foldl (fun x e => filled x e.pfid) s
    ((∀ e ∈ es, e.code = 0 ∧ e.soff % 128 = 0 ∧ ∀ f, s.fill? e.pfid = some f → f.name % 128 = 0 ∧
        e.soff + 128 * 2 ^ f.log2span ≤ tm.spadSize ∧ s.spadPresent tm.id e.soff (128 * 2 ^ f.log2span) = true) →
      (fillLines fs).Nodup → WaysFree s (fillLines fs) → ThreadsWait s fs →
      ∃ s', exec (.filldone o) s = .next s' ∧
        s' = { uniNext { done with threads := done.threads.map (fun t => if (fs.flatMap Fill.waiters).any (fun j => j.who == .thread t.id) then
              { t with park := .none, stall := .none } else t) } c.id (after 4) id with
          envLines := s'.envLines
          replays := s.replays ++ fs.flatMap Fill.waiters
          pins := s.pins ++ fs.flatMap (fun f => f.waiters.map (fun j => ⟨f.ctx, f.name, 2 ^ f.log2span, j.who⟩)) } ∧
        ∀ e ∈ es, ∀ f, s.fill? e.pfid = some f → ∀ i, i < 2 ^ f.log2span →
          let data := State.wordsOf (s.spadBytes tm.id (e.soff + 128 * i) 128) 32
          s'.envLine? f.ctx (f.name + 128 * i) = some (match s.envLine? f.ctx (f.name + 128 * i) with
            | none => ⟨f.ctx, f.name + 128 * i, false, f.gen, false, List.replicate 32 true, data⟩
            | some l => if l.held then l else fillWords l data)) ∧
    ((∀ e ∈ es, e.code ≤ 0xEF ∧ e.soff = 0) → (∀ f ∈ fs, f.waiters = []) →
      exec (.fillfail o) s = .next (uniNext done c.id (after 4) id)) ∧
    (∀ e f t va, es = [e] → e.code ≤ 0xEF → e.soff = 0 → s.fill? e.pfid = some f → f.waiters = [⟨.thread t.id, va, .read⟩] →
      done.thread? t.id = some t → s.outside t.id.team = false →
      exec (.fillfail o) s = .next (State.finishUniform
        (State.threadTrap { done with cur := .idle } t .genFail
          (BitVec.ofNat 32 (va % 2 ^ 32 / 0x100 * 0x100 + e.code)) (va / 2 ^ 32)) c.id 4))

/-! ### Events of the scheduler -/

namespace Sys2Proof.Stmt

/-- The device runs: it is active, out of recovery, between instructions, and no round of placement offers stands open (R65, R298, R301). -/
def Runs (s : State) : Prop := s.power = .active ∧ s.recovery = false ∧ s.cur = .idle ∧ s.offering = false

/-- No armed crew has a saturation mark, whose trap `BAR.CREW` would raise (R160), and no thread ends because its continuation was granted while its
team was out (R68, R175). -/
def Calm (s : State) : Prop := (∀ c ∈ s.crews, c.satArm = false ∨ c.sat = 0) ∧ ∀ t ∈ s.threads, t.park ≠ .ending

/-- The thread may issue on core `n` (R20, R25, R31): it is live, on the core with its team, in a scheduled context and a grid that runs, in no wait, and
its next word is at hand and no crew-convergent one. -/
def Issuable (s : State) (n : Nat) (t : Thread) : Prop :=
  ∃ tm g x w, t.live = true ∧ s.team? t.id.team = some tm ∧ tm.place = .resident n ∧ tm.blocked = 0 ∧ s.grid? tm.grid = some g ∧
    g.stopped = false ∧ s.ctx? tm.ctx = some x ∧ x.regs.ptroot ≠ 0 ∧ x.preempted = false ∧ x.lost = false ∧ x.stopping = false ∧
    t.park = .none ∧ t.stall = .none ∧ t.arrived = none ∧ t.loads = [] ∧ peekWord? s t.id t.pc = some w ∧
    (needsExt w = true → (peekWord? s t.id (t.pc + 4)).isSome = true) ∧ atConvergent s t = false

/-- The threads in the PC-table entry of a thread, where all threads stand on one core (R19). -/
def entryOf (s : State) (t : Thread) : List Thread := s.threads.filter (fun u => s.ctxId u.id.team == s.ctxId t.id.team && u.pc == t.pc)

/-- The entry of `t` ranks before the entry of `u` on core `n` in a cycle that every ready thread waits for as well (R33 to R35). -/
def RanksBefore (s : State) (n cycle : Nat) (t u : Thread) : Prop :=
  let old := fun (x : Thread) => (entryOf s x).any (fun y => y.aged || decide (2048 ≤ y.wait + 1))
  let longest := fun (x : Thread) => ((entryOf s x).map Thread.wait).foldl max 0
  let demoted := fun (y : Thread) => (y.demoted.map (fun m => decide (cycle < m))).getD false
  let low := fun (x : Thread) => (entryOf s x).all demoted
  let cls := fun (x : Thread) => (((entryOf s x).filter (fun y => !demoted y)).map (fun y => s.effClass y.id.team)).foldl max 0
  let made := fun (x : Thread) =>
    ((s.pcTable.find? (fun e => e.core == n && e.ctx == s.ctxId x.id.team && e.pc == x.pc)).map PcEntry.created).getD cycle
  if old t ≠ old u then old t = true
  else if old t = true ∧ longest t ≠ longest u then longest u < longest t
  else if low t ≠ low u then low u = true
  else if cls t ≠ cls u then cls u < cls t
  else if made t ≠ made u then made t < made u
  else if t.pc ≠ u.pc then t.pc.toNat < u.pc.toNat
  else s.ctxId t.id.team < s.ctxId u.id.team

/-- A flight of an entry (R21): on each lane on which the entry has threads, the one that has waited longest, of several such the one in the lowest crew
slot. -/
def FlightOf (s : State) (e : List Thread) (ids : List ThreadId) : Prop :=
  (ids.map ThreadId.lane).Nodup ∧ (∀ i ∈ ids, ∃ t ∈ e, t.id = i) ∧ (∀ t ∈ e, ∃ i ∈ ids, i.lane = t.id.lane) ∧
    ∀ t ∈ e, t.id ∈ ids → ∀ u ∈ e, u.id.lane = t.id.lane → u.wait < t.wait ∨ (u.wait = t.wait ∧ s.slotOf t.id ≤ s.slotOf u.id)

end Sys2Proof.Stmt

/-- R9, R19 to R21, R33 to R35, R60: FLIGHT_ISSUE on an idle core of a running device advances its core by one cycle of `10^9·4096 / (entry·F·G)` fs,
with the remainder kept, and chooses a flight or none. A ready thread that is alone on its core is the flight that issues; of several entries with ready
threads the one that ranks first issues: an aged one, the longest wait among these; then the highest class among threads that are not demoted, those all
demoted last; then the oldest entry, the lowest program counter, the lowest context. Its flight takes on each lane the thread that has waited longest,
which then waits from zero. -/
def Sys2Proof.Stmt.FlightIssue : Prop :=
  (∀ (s : State) (n : Nat) (k : Core), Runs s → s.cores[n]? = some k →
    let den := s.speedOf n * k.f * s.gate
    ∃ s', exec (.flightIssue n) s = .next s' ∧ (Calm s → s'.mem = s.mem ∧ s'.buffers = s.buffers) ∧
      (s'.cores[n]?).map (fun x => (x.cycle, x.time, x.rem)) =
        some (k.cycle + 1, k.time + (10 ^ 9 * 4096 + k.rem) / den, (10 ^ 9 * 4096 + k.rem) % den) ∧
      (∀ m, m ≠ n → s'.cores[m]? = s.cores[m]?) ∧ s.time ≤ s'.time ∧
      (s'.cur = .idle ∨ ∃ ids rdv, s'.cur = .flight n ids rdv)) ∧
  (∀ (s : State) (n : Nat) (k : Core) (t : Thread), Runs s → s.cores[n]? = some k → s.threads = [t] → Issuable s n t →
    (∀ c ∈ s.crews, c.rdvFrom = none) → ∃ s', exec (.flightIssue n) s = .next s' ∧ s'.cur = .flight n [t.id] false) ∧
  (∀ (s : State) (n : Nat) (k : Core) (t : Thread), Runs s → s.cores[n]? = some k → (s.threads.map Thread.id).Nodup →
    (∀ u ∈ s.threads, Issuable s n u) → (∀ c ∈ s.crews, c.rdvFrom = none) → t ∈ s.threads →
    (∀ u ∈ s.threads, u ∈ entryOf s t ∨ RanksBefore s n (k.cycle + 1) t u) →
    ∃ s' ids, exec (.flightIssue n) s = .next s' ∧ s'.cur = .flight n ids false ∧ FlightOf s (entryOf s t) ids ∧
      ∀ i ∈ ids, (s'.thread? i).map (fun x => (x.wait, x.aged)) = some (0, false))

/-- R22, R26: RENDEZVOUS_COMPLETION notes the cycle in which a crew stands complete at a rendezvous; with a uniform word there, the uniform
pipe free in this cycle and no other crew, the crew's uniform instruction is next. A phase timer that is due comes first (R395). -/
def Sys2Proof.Stmt.RendezvousCompletion : Prop :=
  (∀ (s : State) (c : Crew) (core : Nat) (pc : Word), Runs s → Calm s → (∀ x ∈ s.ctxs, x.stopping = false) →
    s.crew? c.id = some c → c.retired = false → c.stalled = false →
    ¬(c.phArm = true ∧ c.phLimit < c.phCount) → c.rdvFrom = none → s.rendezvousAt c.id = some (core, pc) →
    ∃ s', exec (.rendezvousCompletion c.id) s = .next s' ∧ s'.mem = s.mem ∧ s'.teams = s.teams ∧
      (s'.crew? c.id).map Crew.rdvFrom = some (some (s.cycleOf core))) ∧
  (∀ (s : State) (c : Crew) (core : Nat) (pc w : Word) (k : Core) (t : Thread) (ts : List Thread), Runs s → Calm s → s.crews = [c] →
    c.retired = false → c.stalled = false → ¬(c.phArm = true ∧ c.phLimit < c.phCount) → s.liveOf c.id = t :: ts →
    s.rendezvousAt c.id = some (core, pc) → s.cores[core]? = some k →
    k.pipe ≠ some k.cycle → t.conv = some w → 0x80000000 ≤ w.toNat → (∀ u ∈ t :: ts, u.loads = []) →
    ∃ s', exec (.rendezvousCompletion c.id) s = .next s' ∧ s'.cur = .uniform c.id ∧
      (s'.cores[core]?).map Core.pipe = some (some k.cycle))

/-- R67, R122, R151, R267, R269, R277, R278, R295, R475: an armed phase timer beyond its limit disarms and traps PHASE_OVERRUN (code 0x0C, CREW) with
its count in `%trapv`; a thread parked in `WAITM` continues after 65,536 cycles, or by a spurious wake. A load's return frees its registers; where it
has not performed it does so now, together with the loads of its flight from the sector (log entry 16, the model's reading of R131); the last one lets
an `.ACQ` that waits for it act and its thread continue. An `LD` of a peer's memory has no effect before its return, which completes it: with the bytes,
or, once its place cannot be reached, with ACCESS at the `LD` (log entry 105: the model's way to keep the trap precise), counted where an access table
denies it. 100 µs of parking make a team a swap candidate. -/
def Sys2Proof.Stmt.TimersAndWakes : Prop :=
  (∀ (s : State) (c : Crew) (t : Thread), s.crew? c.id = some c → c.phArm = true → c.phLimit < c.phCount →
    ((s.team? c.id.team).bind Team.core?).isSome = true → s.threads.filter (fun u => u.id == t.id) = [t] → t.live = true →
    t.id.crewId = c.id → CanTrap s t →
    ∃ s', exec (.phaseOverrun c.id) s = .next s' ∧ (s'.crew? c.id).map Crew.phArm = some false ∧
      s'.thread? t.id = some (inHandler s 0x10C (BitVec.ofNat 32 c.phCount) t.pc t)) ∧
  (∀ (s : State) (t : Thread) (m : Monitor), s.thread? t.id = some t → t.park = .monitor →
    s.monitors.find? (fun x => x.thread == t.id) = some m → s.outside t.id.team = false →
    let woken := { s with
      monitors := s.monitors.filter (fun x => x.thread != t.id),
      threads := s.threads.map (fun u => if u.id = t.id then { u with park := .none, pc := u.pc + 4 } else u) }
    exec (.spuriousWake t.id) s = .next woken ∧
    (m.since + 65536 ≤ s.cycleOf (s.coreOf t.id.team) → exec (.waitmTimeout t.id) s = .next woken)) ∧
  (∀ (s : State) (t : Thread) (l : Load), s.thread? t.id = some t → t.loads.find? (fun x => x.slot == l.slot) = some l →
    l.install = none → NoneLanding s l.loc → s.delayed l.loc = false → l.remote = false →
    let core := s.coreOf t.id.team
    let back := fun (u : Thread) => { u with loads := u.loads.filter (fun x => x.slot != l.slot) }
    ((∀ lvl, t.stall ≠ .acq lvl) → exec (.loadReturn t.id l.slot) s = .next (State.modThread
      (if l.done then s else s.settleFlight core l.at_ l.loc.sector) t.id back)) ∧
    (∀ lvl, t.stall = .acq lvl → l.done = true →
      let last := (back t).loads.isEmpty = true
      exec (.loadReturn t.id l.slot) s = .next { s with
        l1 := if last ∧ 2 ≤ lvl then s.l1.filter (fun x => x.core != core) else s.l1
        threads := s.threads.map (fun u =>
          let v := if u.id = t.id then back u else u
          let v := if last ∧ 2 ≤ lvl ∧ (s.team? u.id.team).bind Team.core? = some core then
            { v with loads := v.loads.map (fun y => { y with install := none }) } else v
          if u.id = t.id ∧ last then { v with stall := if lvl = 1 then .released else .none } else v) })) ∧
  (∀ (s : State) (t : Thread) (l : Load) (bs : List Byte), s.thread? t.id = some t → t.loads = [l] → l.remote = true → l.done = false →
    t.stall = .remote → l.install = none → NoneLanding s l.loc → s.delayed l.loc = false →
    (∀ u ∈ s.threads, ∀ y ∈ u.loads, u.id = t.id ∨ y.at_ ≠ l.at_) →
    let core := s.coreOf t.id.team
    s.loadBytes? t.id.crewId core l.loc l.size = some bs →
    (s.reachable l.loc false = true → ∃ s', exec (.loadReturn t.id l.slot) s = .next s' ∧
      OnlyThread s s' t (fun u => { u.setRegs l.dst (l.words bs) with pc := u.pc + 4, stall := .none, loads := [] }) ∧
      s'.denials = s.denials) ∧
    (s.reachable l.loc false = false → s.needsFar t.id.crewId core l.loc l.size = true → CanTrap s t →
      ∃ s', exec (.loadReturn t.id l.slot) s = .next s' ∧
        OnlyThread s s' t (inHandler s (causeWord .access false true (l.va / 2 ^ 32)) (BitVec.ofNat 32 l.va) t.pc) ∧
        s'.denials = s.denials ++ (s.deniedAt l.loc .device false).toList)) ∧
  (∀ (s : State) (tm : Team) (core n : Nat), s.team? tm.id = some tm → tm.place = .resident core → tm.parkedSince = some n →
    s.power = .active → n + 100 * 10 ^ 9 ≤ s.time → (∃ t ∈ s.threads, t.id.team = tm.id ∧ t.live = true) →
    (∀ t ∈ s.threads, t.id.team = tm.id → t.live = true → t.park ≠ .none) →
    ∃ s', exec (.parkTimeout tm.id) s = .next s' ∧ s' = { s with teams := s'.teams } ∧
      s'.team? tm.id = some { tm with parkExpired := true })

/-- R274, R291: an uncorrectable soft error stops the team's grid and writes one escalation record, MACHINE (code 0x11) with REASON 3, to a
ring with room; a corrected one is counted, and changes nothing else. -/
def Sys2Proof.Stmt.SoftErrors : Prop :=
  (∀ (s : State) (tm : Team) (g : Grid) (c : Ctx), s.team? tm.id = some tm → s.grid? tm.grid = some g → g.stopped = false →
    s.ctx? tm.ctx = some c → c.erwait = [] → (c.regs.erprod + 2 ^ 32 - c.regs.ercons) % 2 ^ 32 < 2 ^ c.regs.erlog2 →
    let slot := c.regs.erbase + 32 * (c.regs.erprod % 2 ^ c.regs.erlog2)
    s.physBlocked slot 32 true = [] →
    ∃ s', exec (.softError tm.id) s = .next s' ∧ (s'.grid? g.id).map Grid.stopped = some true ∧ s'.threads = s.threads ∧
      s'.mem.readNat slot 4 = 0x11 ∧ s'.mem.readNat (slot + 0x0C) 4 = g.id % 2 ^ 32 ∧ s'.mem.readNat (slot + 0x14) 1 = 3 ∧
      (s'.ctx? tm.ctx).map (fun x => x.regs.erprod) = some ((c.regs.erprod + 1) % 2 ^ 32) ∧
      s'.irqs = s.irqs ++ [.escalationRing tm.ctx] ∧
      (∀ a, a < slot ∨ slot + 32 ≤ a → s'.mem.read a = s.mem.read a)) ∧
  (∀ s, exec .correctedSoftError s = .next { s with softErrors := s.softErrors + 1 })

/-! ### Events of the memory system -/

namespace Sys2Proof.Stmt

/-- The list without its element `n`. -/
def without {α : Type} (l : List α) (n : Nat) : List α := l.take n ++ l.drop (n + 1)

/-- The entry of a translation table for a virtual address (R89), zero where an access table forbids the read (R297). -/
def tableEntry (s : State) (table level va : Nat) : Nat := s.readPhysNat (table + 8 * levelIndex level va) 8

/-- A Fomor core may read or write a register: the registers answer (R298, R301), and no access table forbids it (R297). -/
def HostMay (s : State) (off : Nat) (write : Bool) : Prop :=
  s.power = .active ∧ s.recovery = false ∧ s.deniedAt (.pa (0x70000000000 + off)) .fomor write = none

/-- The bits of an entry that points to the next table and has been read before (R90): V, NXT and A set, reserved bits clear. -/
def PointsOn (e : Nat) : Prop := bitAt e 0 = true ∧ bitAt e 1 = true ∧ bitAt e 8 = true ∧ pteReserved e = false

/-- The tables above a level lead to its entry `e` (R89): the leaf of a 4 KiB page at level 0, of 2 MiB at level 1, of 1 GiB at level 2. -/
def LeadsTo (s : State) (root va level e : Nat) : Prop :=
  ∃ e4 e3, e4 = tableEntry s root 4 va ∧ e3 = tableEntry s (pteFrame e4) 3 va ∧ PointsOn e4 ∧ PointsOn e3 ∧
    ((level = 2 ∧ e = tableEntry s (pteFrame e3) 2 va) ∨
      ∃ e2, e2 = tableEntry s (pteFrame e3) 2 va ∧ PointsOn e2 ∧
        ((level = 1 ∧ e = tableEntry s (pteFrame e2) 1 va) ∨
          ∃ e1, e1 = tableEntry s (pteFrame e2) 1 va ∧ PointsOn e1 ∧ level = 0 ∧ e = tableEntry s (pteFrame e1) 0 va))

/-- Bytes of a leaf (R89). -/
def pageBytes (level : Nat) : Nat := 4096 * 512 ^ level

/-- A leaf of plain local memory that has been read before, of a level (R90): V and A set, no next table, and all other fields within their limits. -/
def PlainLeaf (level e : Nat) : Prop :=
  bitAt e 0 = true ∧ bitAt e 1 = false ∧ bitAt e 8 = true ∧ pteReserved e = false ∧ bitAt e 4 = false ∧ bitAt e 5 = false ∧ bitAt e 6 = false ∧
    bits e 51 44 = 0 ∧ pteFrame e % pageBytes level = 0 ∧ isLocal (pteFrame e) = true

/-- The accesses that wait for a walk: those that joined it, and those of the other walks that the leaf takes along (R92, log entry 32). -/
def together (w : Walk) (others : List Walk) (inside : Walk → Bool) : List Joined := w.joined ++ (others.filter inside).flatMap Walk.joined

/-- Another walk of the context on the cluster is for a frame inside the page of a level around the walk's address (R92). -/
def insidePage (w : Walk) (level : Nat) (o : Walk) : Bool :=
  o.ctx == w.ctx && clusterOf o.core == clusterOf w.core && o.frame * 4096 / pageBytes level == w.va / pageBytes level

/-- An access that writes (R92). -/
def writes : Kind → Bool
  | .write | .atomic | .engWrite | .devWrite => true
  | .read | .fetch | .engRead | .devRead => false

/-- The threads among some waiting accesses. -/
def threadsIn (l : List Joined) : List ThreadId := l.filterMap (fun j => match j.who with | .thread u => some u | _ => none)

end Sys2Proof.Stmt

/-- R89, R90, R92, R93, R94: a walk that the tables lead to a leaf of 4 KiB, 2 MiB or 1 GiB, which allows the access, puts its translation in the
TLB, and the threads that joined it, or walks inside the leaf, go on. One whose leaf lacks W for a write or X for a fetch parks the accesses of its own
sort with a fault record, and those of another sort try again (log entry 32, the model's reading of R92 and R93). A walk that meets an entry with V = 0
in the L4 table parks its threads and records the fault. A fault reply with bit 31 clear lets the accesses of its
record replay, one with bit 31 set denies them, and one that matches no record changes its register only. -/
def Obligations.WalksAndFaults : Prop :=
  (∀ (s : State) (i level e : Nat) (w : Walk) (c : Ctx), s.walks[i]? = some w → s.ctx? w.ctx = some c →
    c.regs.ptroot % 4096 = 0 → c.regs.ptroot ≠ 0 → LeadsTo s c.regs.ptroot w.va level e → PlainLeaf level e →
    let others := without s.walks i
    let all := together w others (insidePage w level)
    (∀ j ∈ all, ∃ u, j.who = .thread u) →
    ((w.write = true → bitAt e 2 = true ∧ bitAt e 9 = true) → (w.kind = .fetch → bitAt e 3 = true) →
      ∃ s', exec (.pageWalk i) s = .next s' ∧
        s' = { s with
          walks := others.filter (fun o => !insidePage w level o), tlb := s'.tlb, freeCtr := s'.freeCtr
          threads := s.threads.map (fun t => if t.id ∈ threadsIn all then { t with stall := .none } else t) } ∧
        s'.tlbFind w.core w.ctx w.va = some ⟨w.va - w.va % pageBytes level, pageBytes level, pteFrame e, bitAt e 2, bitAt e 3, false, false,
          bitAt e 9, 0⟩) ∧
    ((w.write = true ∧ bitAt e 2 = false) ∨ (w.kind = .fetch ∧ bitAt e 3 = false) →
      let same := fun (j : Joined) => (j.kind == .fetch) == (w.kind == .fetch) && writes j.kind == w.write
      ∃ s', exec (.pageWalk i) s = .next s' ∧ s'.walks = others.filter (fun o => !insidePage w level o) ∧ s'.tlb = s.tlb ∧
        s'.threads = s.threads.map (fun t =>
          if t.id ∈ threadsIn (all.filter same) then { t with park := .fault, stall := .none }
          else if t.id ∈ threadsIn all then { t with stall := .none } else t) ∧
        (s'.ctx? w.ctx).map (fun x => x.faults.map Fault94.joined) = some (c.faults.map Fault94.joined ++ [all.filter same]))) ∧
  (∀ (s : State) (i : Nat) (w : Walk) (c : Ctx) (t : Thread), s.walks[i]? = some w → s.ctx? w.ctx = some c →
    c.regs.ptroot ≠ 0 → bitAt (tableEntry s c.regs.ptroot 4 w.va) 0 = false → s.thread? t.id = some t → (∃ va k, w.joined = [⟨.thread t.id, va, k⟩]) →
    ∃ s', exec (.pageWalk i) s = .next s' ∧ s'.walks = without s.walks i ∧ s'.thread? t.id = some { t with park := .fault, stall := .none } ∧
      (s'.ctx? w.ctx).map (fun x => x.faults.map Fault94.joined) = some (c.faults.map Fault94.joined ++ [w.joined])) ∧
  (∀ (s : State) (c : Ctx) (value : Word) (f : Fault94) (t : Thread) (va : Nat) (k : Kind), s.ctx? c.id = some c →
    c.faults.find? (fun x => x.seq == some (value.toNat % 2 ^ 31)) = some f → f.joined = [⟨.thread t.id, va, k⟩] →
    s.thread? t.id = some t → s.outside t.id.team = false → HostMay s (0x1008C + 256 * c.id) true →
    let s1 := { s with ctxs := s.ctxs.map (fun x => if x.id = c.id then
      { x with faults := x.faults.filter (fun y => y != f), regs := { x.regs with freply := value.toNat } } else x) }
    (value.getLsbD 31 = false → exec (.faultReply c.id value) s = .next { s1 with
      threads := s.threads.map (fun u => if u.id = t.id then { u with park := .none, stall := .none } else u) }) ∧
    (value.getLsbD 31 = true → k ≠ .fetch →
      exec (.faultReply c.id value) s = .next (State.threadTrap s1 t .access (BitVec.ofNat 32 va) (va / 2 ^ 32)))) ∧
  (∀ (s : State) (c : Ctx) (value : Word), s.ctx? c.id = some c → (∀ f ∈ c.faults, f.seq ≠ some (value.toNat % 2 ^ 31)) →
    HostMay s (0x1008C + 256 * c.id) true → exec (.faultReply c.id value) s = .next { s with
      ctxs := s.ctxs.map (fun x => if x.id = c.id then { x with regs := { x.regs with freply := value.toNat } } else x) })

/-- R110, R111, R124, R135, R136: a sector that lands in memory writes its bytes there and sends its acknowledgement; an acknowledgement lowers
its crew's count, and the crew's commit completes when the count is zero and no word of the cluster unit is on its way: the threads that it holds
continue. The cluster unit's words that the crew's reductions still leave go with its commits once its count is zero (log entry 125, DESIGN CHOICE).
The cluster unit's bytes of a word go to device reach as one numbered landing; an eviction's landing belongs to no crew, with crew (0, 0) and fdepth 0
(log entry 114, DESIGN CHOICE). -/
def Sys2Proof.Stmt.LandingsAndAcknowledgements : Prop :=
  (∀ (s : State) (i a : Nat) (l : Landing), s.landings[i]? = some l → l.loc = .pa a → l.tr.c = false → s.reachable (.pa a) true = true →
    s.delayed (.pa a) = false → ∃ s', exec (.sectorLanding i) s = .next s' ∧ s'.landings = without s.landings i ∧
      s'.acks = (if l.cmd ≠ 0 ∨ (l.author = .unit ∧ l.id = 0) then s.acks else s.acks ++ [⟨l.author, l.id, l.core⟩]) ∧
      s'.crews = s.crews ∧ s'.buffers = s.buffers ∧ s'.envLines = s.envLines ∧
      (∀ x, (∀ b ∈ l.bytes, x ≠ a + b.1) → s'.mem.read x = s.mem.read x) ∧
      (∀ b ∈ l.bytes, (∀ b' ∈ l.bytes, b'.1 = b.1 → b' = b) → s'.mem.read (a + b.1) = b.2)) ∧
  (∀ (s : State) (i : Nat) (d : CrewId) (a : Ack), s.acks[i]? = some a → a.author = .crew d → (∀ w ∈ s.commits, w.crew ≠ d) →
    exec (.acknowledgement i) s = .next { s with
      acks := without s.acks i, crews := s.crews.map (fun x => if x.id = d then { x with unack := x.unack - 1 } else x) }) ∧
  (∀ (s : State) (i : Nat) (a : Ack) (x : Crew) (w : CommitWait), s.acks[i]? = some a → a.author = .crew w.crew → s.crew? w.crew = some x →
    x.unack = 1 → s.commits = [w] → w.unitWait = [] → w.units = false → w.barrier = false → w.waiters ≠ [] → w.trap = none →
    exec (.acknowledgement i) s = .next { s with
      acks := without s.acks i, commits := [],
      crews := s.crews.map (fun y => if y.id = w.crew then { y with unack := y.unack - 1, cflict := w.cflict } else y),
      threads := s.threads.map (fun t => if t.id ∈ w.waiters then
        { (if t.id ∈ w.members ∧ w.pd ≠ 7 then { t with p := t.p.set w.pd w.result } else t) with
          pc := t.pc + 4, arrived := none, stall := .none, wait := 0 } else t) }) ∧
  (∀ (s : State) (i n : Nat) (a : Ack) (w : CommitWait), s.acks[i]? = some a → a.author = .unit → s.commits = [w] → n ∈ w.unitWait → n ≠ a.id →
    w.units = false → exec (.acknowledgement i) s = .next { s with
      acks := without s.acks i, commits := [{ w with unitWait := w.unitWait.filter (fun m => m != a.id) }] }) ∧
  (∀ (s : State) (i : Nat) (a : Ack) (x : Crew) (w : CommitWait) (b : BufByte), s.acks[i]? = some a → a.author = .crew w.crew →
    s.crew? w.crew = some x → x.unack = 1 → s.commits = [w] → w.units = true →
    let cl := clusterOf (s.coreOf w.crew.team)
    b ∈ s.buffers → b.buf = .cluster cl → b.author = .unit →
    ∃ s', exec (.acknowledgement i) s = .next s' ∧ (∀ y ∈ s'.buffers, ¬(y.buf = .cluster cl ∧ y.author = .unit)) ∧
      (∃ l ∈ s'.landings, l.author = .unit ∧ l.crew = w.crew ∧ l.loc = b.loc.sector ∧ (b.loc.num % 32, b.val) ∈ l.bytes) ∧
      s'.commits = [{ w with units := false, unitWait := s'.unitInFlight cl }] ∧ s'.threads = s.threads) ∧
  (∀ (s : State) (cluster : Nat) (word : Loc) (b : BufByte) (bs : List BufByte),
    let mine := fun (b : BufByte) => b.buf == .cluster cluster && b.author == .unit && b.loc.down 4 == word.down 4
    s.buffers.filter mine = b :: bs →
    exec (.clusterUnitEviction cluster word) s = .next { s with
      lastId := s.lastId + 1, buffers := s.buffers.filter (fun b => !mine b), landings := s.landings ++ [{
        author := .unit, crew := ⟨0, 0⟩, fdepth := 0, ctx := b.ctx, va := b.va - b.va % 32, loc := b.loc.sector, tr := b.tr,
        bytes := (b :: bs).map (fun x => (x.loc.num % 32, x.val)), implied := 0, core := 16 * cluster, seen := 2, id := s.lastId + 1, cmd := 0 }] })

/-- R100, R102, R108, R185, R187, R198: evictions from an L1, a layout-record cache and an instruction cache drop the line; an envelope
line that can be computed again is dropped, and a written one becomes HELD while the ballast store has room; no waiter has still to replay
on it. A miss whose word has become valid replays; one for a span that a fill already makes joins it; another gets a fill of its own, with
its record in the bin of the generator's node. -/
def Sys2Proof.Stmt.EvictionsAndMisses : Prop :=
  (∀ (s : State) (core grid line cluster ctx h : Nat) (loc : Loc),
    exec (.lineEviction (.l1 core loc)) s = .next { s with l1 := s.l1.filter (fun x => !(x.core == core && x.loc.line == loc.line)) } ∧
    exec (.lineEviction (.lrec cluster ctx h)) s = .next { s with
      layouts := s.layouts.filter (fun l => !(l.cluster == cluster && l.ctx == ctx && l.handle == h)) } ∧
    exec (.lineEviction (.icache core grid line)) s = .next { s with
      icache := s.icache.filter (fun w => !(w.core == core && w.grid == grid && w.va / 128 == line / 128)) }) ∧
  (∀ (s : State) (n : Nat) (l : EnvLine) (c : Ctx) (g : GenDesc), s.pins = [] → s.monitors = [] → s.envLine? l.ctx n = some l →
    l.held = false → s.ctx? l.ctx = some c → c.gens[l.gen]? = some g →
    (l.written = false → g.ballast = false →
      exec (.lineEviction (.llc (.env l.ctx n))) s = .next { s with
        envLines := s.envLines.filter (fun x => !(x.ctx == l.ctx && x.name == n - n % 128)) }) ∧
    (l.written = true → s.envLines.countP (fun x => x.ctx == l.ctx && x.held) < c.regs.ballast * 0x4000000 / 128 →
      exec (.lineEviction (.llc (.env l.ctx n))) s = .next { s with
        envLines := s.envLines.map (fun x => if x.ctx = l.ctx ∧ x.name = n - n % 128 then { x with held := true } else x) })) ∧
  (∀ (s : State) (i n : Nat) (m : Miss) (t : ThreadId) (v : Byte), s.misses[i]? = some m → m.loc = .env m.ctx n → m.waiter = .thread t →
    s.devByte? m.loc = some v → (∀ l, s.envLine? m.ctx n = some l → l.held = false) → s.outside t.team = false →
    (∀ u, s.thread? t = some u → u.run = none) → (∀ j ∈ s.replays, j.who ≠ .thread t) → (∀ x ∈ without s.misses i ++ s.overflow, x.waiter ≠ .thread t) →
    (∀ f ∈ s.fills, ∀ j ∈ f.waiters, j.who ≠ .thread t) →
    exec (.envelopeMiss i) s = .next { s with
      misses := without s.misses i, replays := s.replays ++ [⟨.thread t, m.va, m.kind⟩],
      threads := s.threads.map (fun u => if u.id = t then { u with park := .none, stall := .none } else u) }) ∧
  (∀ (s : State) (i n : Nat) (m : Miss) (c : Ctx) (g : GenDesc), s.misses[i]? = some m → m.loc = .env m.ctx n →
    s.envLine? m.ctx n = none → m.depth < 2 → s.ctx? m.ctx = some c → c.gens[m.gen]? = some g →
    let size := 128 * 2 ^ g.log2span
    let span := m.word - m.word % size
    let same := fun (f : Fill) => f.ctx == m.ctx && f.span == span && f.depth == m.depth + 1
    m.pageBase ≤ span → span + size ≤ m.pageBase + m.pageSize → g.vbase ≤ span →
    (s.fills.any same = true → ∃ s', exec (.envelopeMiss i) s = .next s' ∧ s'.misses = without s.misses i ∧
      s'.fills.map (fun f => (f.pfid, f.waiters)) =
        s.fills.map (fun f => (f.pfid, if same f then f.waiters ++ [⟨m.waiter, m.va, m.kind⟩] else f.waiters))) ∧
    (∀ p d, s.fills.any same = false → s.fills.length < 65536 → s.freePfid = some p → c.nodes[g.node]? = some d → c.canAlloc g.node = true →
      NoTrigger c g.node (m.depth + 1) d →
      ∃ s', exec (.envelopeMiss i) s = .next s' ∧ s'.misses = without s.misses i ∧
        s'.fills.map (fun f => (f.pfid, f.span, f.waiters)) =
          s.fills.map (fun f => (f.pfid, f.span, f.waiters)) ++ [(p, span, [⟨m.waiter, m.va, m.kind⟩])] ∧
        (s'.ctx? m.ctx).map (fun x => (x.bins.length, (x.binPart g.node (m.depth + 1)).length)) =
          some (c.bins.length + 1, (c.binPart g.node (m.depth + 1)).length + 1)))

/-! ### Events of the work distributor and of the record scheduler -/

/-- R70: a write to PROD that leaves at most 2^LOG2N entries is taken, a larger one is refused with NSTAT 1, and one to a disabled ring with
NSTAT 2. R69: a read of NSTAT answers it and clears it. Other notify registers stay. R170: nothing else changes, but that bins of nodes without
a timer may drain. -/
def Sys2Proof.Stmt.NotifyRegisters : Prop :=
  ∀ (s : State) (page reg : Nat) (value : Word), page < 4096 → reg < 64 →
    let r := s.notifyReg page reg
    let off := 0x1000000 + 4096 * page + 64 * reg
    let becomes := fun (s' : State) (r' : NotifyReg) =>
      s' = { s with notify := s'.notify, replies := s'.replies, ctxs := s'.ctxs, lastId := s'.lastId } ∧
      s'.notifyReg page reg = r' ∧ (∀ p q, (p, q) ≠ (page, reg) → s'.notifyReg p q = s.notifyReg p q) ∧
      ((∀ c ∈ s.ctxs, ∀ d ∈ c.nodes, d.t ≠ 0xFFFF) → s'.ctxs = s.ctxs ∧ s'.lastId = s.lastId)
    (HostMay s (off + 0x10) true → ∃ s', exec (.notifyProdWrite page reg value) s = .next s' ∧ s'.replies = s.replies ∧ becomes s' (
      if r.base = 0 then { r with nstat := 2 }
      else if (value.toNat + 2 ^ 32 - r.cons) % 2 ^ 32 ≤ 2 ^ r.log2n then { r with prod := value.toNat } else { r with nstat := 1 })) ∧
    (HostMay s (off + 0x18) false → ∃ s', exec (.nstatRead page reg) s = .next s' ∧ s'.replies = s.replies ++ [.nstat r.nstat] ∧
      becomes s' { r with nstat := 0 })

/-- R71: the head entry of a launch ring, readable, well-formed and without an argument image, whose launch finds room or is refused for
good, has its code written at its STATUS in memory, and CONS passes it; without room it stays. The head entry of a record ring, while the
pool allows, becomes a record of its node's bin, and CONS passes it. -/
def Sys2Proof.Stmt.RingEntries : Prop :=
  (∀ (s s1 s2 s3 : State) (page reg a code : Nat) (bs : List Byte) (tr : Translation),
    let r := s.notifyReg page reg
    let ctx := s.pageContext page
    let id := s.lastId + 1
    let b := LaunchBlock.of (State.wordsOf bs 32)
    s.offering = false → r.record = false → r.base ≠ 0 → r.prod ≠ r.cons → s.scheduled ctx = true → (∀ m ∈ s.images, m.crew.isSome) →
    State.reachRead { s with lastId := id, images := s.images ++ [⟨id, ctx, none, page, reg, [], .none, false, false⟩] }
      Config.noCore ctx r.entryVa 128 0 0 .devRead (.image id) = (s1, .ok bs) →
    b.badField (State.wordsOf bs 32) = none → b.args = 0 →
    let free := s1.unpin (.image id)
    free.reach Config.noCore ctx (r.entryVa + 0x3C) true .devWrite (.image id) = (s2, .ok tr (.pa a)) → tr.c = false →
    (s2.dropImage id).decideLaunch b ctx 0 none (List.replicate 16 0) = (s3, code) → s3.delayed (.pa a) = false →
    (code ≠ 1 → ∃ s', exec (.launchRingEntry page reg) s = .next s' ∧ (s'.notifyReg page reg).cons = (r.cons + 1) % 2 ^ 32 ∧
      s'.mem.readNat a 4 = code % 2 ^ 32 ∧ (∀ x, x < a ∨ a + 4 ≤ x → s'.mem.read x = s3.mem.read x) ∧
      s'.grids.map Grid.id = s3.grids.map Grid.id) ∧
    (code = 1 → exec (.launchRingEntry page reg) s = .next { s with pins := free.pins })) ∧
  (∀ (s s1 : State) (page reg : Nat) (d : NodeDesc) (bs : List Byte) (c : Ctx),
    let r := s.notifyReg page reg
    let ctx := s.pageContext page
    let id := s.lastId + 1
    r.record = true → r.base ≠ 0 → r.prod ≠ r.cons → s.scheduled ctx = true → s.node? ctx r.node = some d → s.canAlloc ctx r.node = true →
    (∀ m ∈ s.images, m.crew.isSome) →
    State.reachRead { s with lastId := id, images := s.images ++ [⟨id, ctx, none, page, reg, [], .none, false, false⟩] } Config.noCore ctx r.entryVa
      (4 * d.rsize) 0 0 .devRead (.image id) = (s1, .ok bs) →
    s1.ctx? ctx = some c → c.nodes[r.node]? = some d → NoTrigger c r.node (d.partOf 0) d →
    ∃ s', exec (.recordRingEntry page reg) s = .next s' ∧ (s'.notifyReg page reg).cons = (r.cons + 1) % 2 ^ 32 ∧
      s'.ctx? ctx = some (enters c r.node (d.partOf 0) ⟨State.wordsOf bs d.rsize, none, none, none⟩ s1.time))

/-- R467, R378: a launch whose argument image is read takes its decision with the image's sixteen words; one whose image cannot be read
raises BAD_LAUNCH with `%trapv` 0x18. -/
def Sys2Proof.Stmt.ArgumentImages : Prop :=
  ∀ (s s1 : State) (i : Nat) (m : ImageRead) (cr : CrewId) (bs : List Byte), s.images[i]? = some m → m.crew = some cr → m.wait = .none →
    s.offering = false → m.block ≠ [] → s.scheduled m.ctx = true →
    let b := LaunchBlock.of (State.wordsOf m.block 32)
    (m.bad = true → exec (.argumentImageRead i) s = .next
      (State.uniformTrap { s with images := s.images.filter (fun x => x.id != m.id) } cr .badLaunch 0x18 0)) ∧
    (m.bad = false → s.reachRead (s.coreOf cr.team) m.ctx b.args 64 (s.fdepthOf cr.team) (s.effClass cr.team) .devRead (.image m.id) = (s1, .ok bs) →
      s1.images = s.images →
      exec (.argumentImageRead i) s = .next
        (State.finishLaunch { s1.unpin (.image m.id) with images := s1.images.filter (fun x => x.id != m.id) } cr m.reg b (State.wordsOf bs 16)))

/-- R170: a bin part whose oldest record has waited 100·T ns forms a batch of its oldest records, at most C of them. R171, R173: a formed
batch that has its turn and finds room becomes a grid of one team on that core, one thread for each record, in order, starting at the
node's ENTRY. -/
def Sys2Proof.Stmt.Batches : Prop :=
  (∀ (s : State) (c : Ctx) (n part : Nat) (d : NodeDesc) (e : BinEntry) (es : List BinEntry), s.ctx? c.id = some c → c.nodes[n]? = some d →
    c.binPart n part = e :: es → s.power = .active → d.t ≠ 0xFFFF → e.entered + d.t * 100 * 10 ^ 6 ≤ s.time → 1 ≤ d.c →
    ∃ s' c', exec (.binTimer c.id n part) s = .next s' ∧ s' = { s with ctxs := s'.ctxs, lastId := s.lastId + 1 } ∧
      NewCtx s s' c.id c' ∧
      c'.batches = c.batches ++ [⟨n, part, ((e :: es).take d.c).map BinEntry.record, s.lastId + 1⟩] ∧ c'.binPart n part = (e :: es).drop d.c ∧
      ∀ k p, (k, p) ≠ (n, part) → c'.binPart k p = c.binPart k p) ∧
  (∀ (s : State) (c : Ctx) (i core k : Nat) (b : Batch) (d : NodeDesc), s.ctx? c.id = some c → c.batches[i]? = some b →
    c.nodes[b.node]? = some d → batchPlace s c.id b = some (core, k) → batchTurn s c.id i = true → d.args = 0 → s.offering = false →
    (∀ t ∈ s.teams, t.grid ≤ s.lastId ∧ t.id ≤ s.lastId) → (∀ g ∈ s.grids, g.id ≤ s.lastId) →
    ∃ s' tm, exec (.batchLaunch c.id i) s = .next s' ∧ s'.team? (s.lastId + 2) = some tm ∧ tm.grid = s.lastId + 1 ∧ tm.ctx = c.id ∧
      tm.place = .resident core ∧ tm.capacity = k ∧ tm.threads = b.records.length ∧ tm.node = some b.node ∧ tm.fdepth = b.part ∧
      tm.blocked = 0 ∧ (s'.grid? (s.lastId + 1)).map Grid.prio = some d.prio ∧
      (s'.ctx? c.id).map Ctx.batches = some (without c.batches i) ∧
      (∀ j r, b.records[j]? = some r → ∃ t ∈ s'.threads, t.id = ⟨s.lastId + 2, j⟩ ∧ t.live = true ∧ t.record = some r ∧
        t.pc = BitVec.ofNat 32 d.entry))

/-- R41: a team without live threads, engine commands, unacknowledged operations, live child grids and buffered bytes retires: its threads,
crews and its hold of banks are gone; and when it was the last of its grid, all of whose units have been placed, the grid has retired. -/
def Sys2Proof.Stmt.Retirement : Prop :=
  ∀ (s : State) (tm : Team) (core : Nat), s.team? tm.id = some tm → tm.place = .draining core → tm.blocked = 0 → s.power = .active →
    (∀ c ∈ s.cmds, c.team ≠ tm.id) →
    (∀ c ∈ s.crews, c.id.team = tm.id → c.unack = 0) → (∀ g ∈ s.grids, g.parent = some tm.id → g.retired = true) →
    (∀ b ∈ s.buffers, ∀ c, b.author = .crew c → c.team ≠ tm.id) → tm.id ≤ s.lastId →
    ∃ s', exec (.teamRetire tm.id) s = .next s' ∧ (∀ x ∈ s'.teams, x.id ≠ tm.id) ∧ (∀ t ∈ s'.threads, t.id.team ≠ tm.id) ∧
      (∀ c ∈ s'.crews, c.id.team ≠ tm.id) ∧ (∀ b ∈ s'.banks, b.team ≠ some tm.id) ∧
      (∀ g, s.grid? tm.grid = some g → g.unitCount ≤ g.nextUnit → (∀ x ∈ s.teams, x.grid = tm.grid → x.id = tm.id) →
        (s'.grid? g.id).map Grid.retired = some true)

/-! ### Events of the engines -/

namespace Sys2Proof.Stmt

/-- The command is over (R78, R97, R244): it is no longer in a queue, its locks are free, the lines it had still to write are present. -/
def CmdOver (s s' : State) (c : EngCmd) : Prop :=
  s'.cmds = s.cmds.filter (fun x => x.id != c.id) ∧ s'.locks = s.locks.filter (fun l => l.cmd != c.id) ∧
  (∀ p ∈ c.pending, p.1 ≠ 0 → lineAbsent s' p.1 p.2 = false) ∧ s'.mem = s.mem

/-- Of the locks of a command those of operands that it may still access are left (R97): that of its destination until every line and all that it has
sent have landed, or the copy has failed and what it has sent has landed, and that of an operand that it reads until it has read all of it. -/
def LocksLeft (s s' : State) (id : Nat) : Prop :=
  ∀ x, s'.cmd? id = some x → ∀ l, l ∈ s'.locks ↔ l ∈ s.locks ∧ (l.cmd = id →
    if l.write = true then ¬((x.pending = [] ∨ failed x = true) ∧ s'.landingLeft id = false)
    else ¬(x.pending = [] ∨ failed x = true ∨ x.readAll l.arg = true))

/-- A little-endian number in a team's scratchpad. -/
def spadWord (s : State) (team off n : Nat) : Nat := s.spadNat team off n

end Sys2Proof.Stmt

/-- R225, R228, R229, R350: the head of a queue whose guard slot is TRUE, or that has none, goes to its engine; one whose slot is FALSE, or
UNRESOLVED in a team without live threads, is discarded: a copy and a `PAIRS` write DISCARDED (0xFE) to STATUS, an `MMAST` writes 0 to its
status word, and the command is over. -/
def Sys2Proof.Stmt.QueueHeads : Prop :=
  ∀ (s : State) (tm : Team) (q : Queue) (c : EngCmd), s.power = .active → s.team? tm.id = some tm → tm.out = false →
    s.cmds.find? (fun x => x.team == tm.id && x.kind.queue == q && x.started.isNone) = some c →
    let slot := (c.guard.map (fun n => tm.gslots.getD n .unresolved)).getD .true
    (slot = .true → exec (.engineDispatch tm.id q) s = .next { s with
      lastId := s.lastId + 1, cmds := s.cmds.map (fun x => if x.id = c.id then { x with started := some (s.lastId + 1) } else x) }) ∧
    (slot = .false ∨ (slot = .unresolved ∧ s.liveTeam tm.id = []) → ∃ s', exec (.discarded tm.id q) s = .next s' ∧ CmdOver s s' c ∧
      (c.kind = .cpy → spadWord s' tm.id (c.addr + 0x7C) 4 = 0xFE) ∧ (c.kind = .pairs → spadWord s' tm.id (c.addr + 0x3C) 4 = 0xFE) ∧
      (c.kind = .mmast → spadWord s' tm.id (MmastBlock.of c.block).soff 4 = 0))

/-- R78, R97, R141, R243, R244: a scratchpad line of a running copy that is not its last lands and becomes present, and what the copy writes in a
line of global memory (target 0) is sent, to land by SECTOR_LANDING (log entry 98); a copy that must wait for an access keeps its lines. Of the
command's locks those fall free whose operand it accesses no more: of a source, and of an argument or table operand, that it has read whole, and of its
destination once no line is left and nothing is on its way. A copy with no line left, and nothing on its way, ends with STATUS 0 or its result; its last scratchpad line lands in the same event; and one that fails
ends with ENG_FAULT (0x0F) and its detail. -/
def Sys2Proof.Stmt.Copies : Prop :=
  (∀ (s s1 : State) (id target line : Nat) (c : EngCmd), s.power = .active → copyRuns s id = some c → failed c = false →
    (target, line) ∈ c.pending → (target ≠ 0 → 2 ≤ c.pending.length) → copyLine c target line s = (s1, .done) →
    ∃ s', exec (.copyLineLanding id target line) s = .next s' ∧ s'.mem = s1.mem ∧ s'.landings = s1.landings ∧
      (∀ tm, target ≠ 0 → s1.team? target = some tm → lineAbsent s' target line = false) ∧
      s'.cmds = s1.cmds.map (fun x => if x.id = id then { x with pending := x.pending.filter (fun p => p != (target, line)) } else x) ∧
      (∀ team off, spadByte s' team off = spadByte s1 team off) ∧
      LocksLeft s1 s' id) ∧
  (∀ (s s1 : State) (id target line : Nat) (c : EngCmd) (w : CmdWait), s.power = .active → copyRuns s id = some c → failed c = false →
    (target, line) ∈ c.pending → (target ≠ 0 → 2 ≤ c.pending.length) → copyLine c target line s = (s1, .wait w) →
    ∃ s', exec (.copyLineLanding id target line) s = .next s' ∧ LocksLeft s1 s' id ∧
      s' = { s1 with cmds := s1.cmds.map (fun x => if x.id = id then { x with wait := w } else x), locks := s'.locks }) ∧
  (∀ c : EngCmd, c.kind = .cpy → c.copy.xop = 0 → c.out = none → (c.readAll false = true ↔
    ∀ i ∈ indices c.copy.dims, ∀ k, k < c.copy.size → (c.byte? (((c.src : Int) + dotStride i c.sstr).toNat + k)).isSome = true)) ∧
  (∀ (s : State) (id : Nat) (c : EngCmd) (tm : Team), s.power = .active → copyRuns s id = some c → s.landingLeft id = false →
    s.team? c.team = some tm → c.pending = [] ∨ failed c = true →
    ∃ s', exec (.copyCompletion id) s = .next s' ∧ CmdOver s s' c ∧ spadWord s' c.team (c.addr + 0x7C) 4 =
      (match c.result with
       | none => 0
       | some r => (r.1 + 0x100 * r.2) % 2 ^ 32)) ∧
  (∀ (s s1 : State) (id : Nat) (c c1 : EngCmd) (p : Nat × Nat) (tm : Team), s.power = .active → copyRuns s id = some c →
    s.landingLeft id = false → c.pending = [p] → p.1 ≠ 0 → failed c = false → s1.cmd? id = some c1 → c1.team = c.team → s1.team? c.team = some tm →
    (copyLine c p.1 p.2 s = (s1, .done) → c1.result = none →
      ∃ s', exec (.copyCompletion id) s = .next s' ∧ CmdOver s1 s' c1 ∧ spadWord s' c.team (c1.addr + 0x7C) 4 = 0) ∧
    (∀ d, copyLine c p.1 p.2 s = (s1, .fail d) →
      ∃ s', exec (.copyCompletion id) s = .next s' ∧ s'.cmds = s1.cmds.filter (fun x => x.id != id) ∧
        spadWord s' c.team (c1.addr + 0x7C) 4 = (0x0F + 0x100 * d) % 2 ^ 32))

/-- R231 to R238, R389: an `MMA` whose turn it is, with its operands present at its completion (log entry 46), adds its products to the bank of the
core of each of its teams, whose NANIN and SCALENAN follow that team's own operands (log entry 116, DESIGN CHOICE); an `MMAST` writes the narrowed elements of its core's bank and then the tile's status word, in which INF marks an
infinite accumulator that is not stored as an integer and SAT a saturated element, which `%sat`[2] of the crew marks as well; `MMAZ` zeroes the
bank, and `MMAZ.REL` frees it when it executes (log entry 47). -/
def Sys2Proof.Stmt.MatrixCommands : Prop :=
  (∀ (s : State) (id : Nat) (c : EngCmd) (ts : List Team), s.power = .active → matrixTurn s id = some c → c.kind = .mma →
    c.parts = ts.map Team.id →
    (∀ t ∈ ts, s.team? t.id = some t ∧ t.out = false) → (ts.map Team.coreD).Nodup →
    let b := MmaBlock.of c.block
    (∀ t ∈ ts, operandsPresent s id c.team t.id b.operands = true) →
    ∃ s', exec (.mmaCompletion id) s = .next s' ∧ CmdOver s s' c ∧
      s'.banks = s.banks.map (fun x => match ts.find? (fun t => x.core == t.coreD && x.bank == b.bank) with
        | some t => x.mma b (mmaOperands b t.spad)
        | none => x)) ∧
  (∀ (s : State) (id : Nat) (c : EngCmd) (tm : Team) (x : Bank), s.power = .active → matrixTurn s id = some c → c.kind = .mmast →
    s.team? c.team = some tm →
    let b := MmastBlock.of c.block
    b.badField c.block true = none → s.banks.find? (fun x => x.core == tm.coreD && x.bank == b.bank) = some x →
    let acc := fun (i j : Nat) => assocD x.words (128 * i + j) 0
    let elem := fun (i j : Nat) => storeElem b.ofmt b.oscale (acc i j)
    ∃ s' inf sat, exec (.mmastCompletion id) s = .next s' ∧ CmdOver s s' c ∧ s'.banks = s.banks ∧
      (∀ i j, i < b.m → j < b.n → spadWord s' c.team (b.doff + i * b.dstride + j * b.size) b.size = (elem i j).1 % 2 ^ (8 * b.size)) ∧
      (inf = true ↔ b.ofmt ≠ 5 ∧ ∃ i j, i < b.m ∧ j < b.n ∧ (f32 (acc i j)).isInf = true) ∧
      (sat = true ↔ ∃ i j, i < b.m ∧ j < b.n ∧ (elem i j).2 = true) ∧
      s'.crews = (if sat then s.crews.map (fun y => if y.id = ⟨c.team, c.crew⟩ then { y with sat := y.sat ||| 4 } else y) else s.crews) ∧
      spadWord s' c.team b.soff 4 =
        (x.nanIn.toNat + 2 * inf.toNat + 4 * sat.toNat + 8 * x.scaleNan.toNat + 16 * x.bank + 2 ^ 31) % 2 ^ 32) ∧
  (∀ (s : State) (id : Nat) (c : EngCmd), s.power = .active → matrixTurn s id = some c →
    let mine := fun (x : Bank) => x.core == s.coreOf c.team && x.bank == c.bank
    (c.kind = .mmaz → ∃ s', exec (.mmazCompletion id) s = .next s' ∧ CmdOver s s' c ∧
      s'.banks = s.banks.map (fun x => if mine x then { x with words := [], nanIn := false, scaleNan := false } else x)) ∧
    (c.kind = .mmazRel → ∃ s', exec (.mmazCompletion id) s = .next s' ∧ CmdOver s s' c ∧
      s'.banks = s.banks.map (fun x => if mine x && x.team == some c.team then { x with team := none } else x)))

/-- R239, R241, R243: where a plain copy (`XOP` 0) reads its team's scratchpad, a destination byte in the line that lands holds the source byte of an
element that writes it, as it stood before, and every byte that no element writes stays; where it reads global memory and has read the elements' bytes,
the destination bytes hold those; and a sector of global memory that it has not read yet is read at device reach, whole, with all its bytes at one time
(R126, R135, R142). -/
def Sys2Proof.Stmt.PlainCopies : Prop :=
  let put := fun (c : EngCmd) (i : List Nat) => ((c.dst : Int) + dotStride i c.dstr).toNat
  let got := fun (c : EngCmd) (i : List Nat) => ((c.src : Int) + dotStride i c.sstr).toNat
  let had := fun (s : State) (id a : Nat) => (assocD (((s.cmd? id).map EngCmd.sectors).getD []) (a / 32) []).getD (a % 32) none
  (∀ (s s1 : State) (c : EngCmd) (target line : Nat) (tm src : Team), c.copy.xop = 0 → c.copy.srck = 1 → target ≠ 0 →
    s.team? target = some tm → s.team? c.team = some src → copyLine c target line s = (s1, .done) →
    (∀ i ∈ indices c.copy.dims, ∀ k, k < c.copy.size → put c i / 128 = line → put c i % 128 + k < 128 →
      ∃ j ∈ indices c.copy.dims, ∃ m, m < c.copy.size ∧ put c j + m = put c i + k ∧
        spadByte s1 target (put c i + k) = spadByte s c.team (got c j + m)) ∧
    (∀ off, (∀ i ∈ indices c.copy.dims, ∀ k, k < c.copy.size → put c i + k ≠ off) → spadByte s1 target off = spadByte s target off) ∧
    (∀ t off, t ≠ target → spadByte s1 t off = spadByte s t off)) ∧
  (∀ (s s1 : State) (c : EngCmd) (target line : Nat) (tm : Team), c.copy.xop = 0 → c.copy.srck = 0 → target ≠ 0 →
    s.team? target = some tm → copyLine c target line s = (s1, .done) →
    (∀ i ∈ indices c.copy.dims, ∀ k, k < c.copy.size → (had s c.id (got c i + k)).isSome = true) →
    ∀ i ∈ indices c.copy.dims, ∀ k, k < c.copy.size → put c i / 128 = line → put c i % 128 + k < 128 →
      ∃ j ∈ indices c.copy.dims, ∃ m, m < c.copy.size ∧ put c j + m = put c i + k ∧
        some (spadByte s1 target (put c i + k)) = had s c.id (got c j + m)) ∧
  (∀ (s s1 : State) (c c1 : EngCmd) (va n : Nat) (tr : Translation) (loc : Loc) (also : Nat → Bool),
    s.reach (s.coreOf c.team) (s.ctxId c.team) va false .engRead (.cmd c.id) = (s1, .ok tr loc) → s1.cmd? c.id = some c1 →
    s1.delayed loc = false → va % 32 + n ≤ 32 → (∃ i, i < n ∧ had s c.id (va + i) = none) →
    (∀ i, i < 32 → (s1.devByte? (loc.sector.add i)).isSome = true) →
    ∃ s2, s.engSector c va n (fun _ => true) also =
        (s2, .ok ((List.range n).map (fun i => (s1.devByte? (loc.sector.add (va % 32 + i))).getD 0))) ∧
      (∀ i, i < 32 → had s2 c.id (va / 32 * 32 + i) = s1.devByte? (loc.sector.add i)) ∧ s2.mem = s1.mem)

/-- R223, R241: transform 4 of a copy makes each element the saturated E4M3 code of its E2M1 value scaled by its block's scale over the tile's, which
never saturates, and 0x7F in a block whose scale is 255; the tile scale is 2^(Xmax − 133), or 1.0 when every scale is 255; and each column goes to its
128 bytes of the destination. -/
def Sys2Proof.Stmt.MxfpCopies : Prop :=
  (∀ n, n < 8 → ∃ m e, decodeE2m1 n = .fin false m e ∧ decodeE2m1 (n + 8) = .fin true m e ∧ -4 ≤ e ∧
    m * 2 ^ (e + 4).toNat = [0, 1, 2, 3, 4, 6, 8, 12].getD n 0 * 2 ^ 3) ∧
  (∀ (packed scales : List Byte) (cols top : Nat), 4 * cols ≤ scales.length →
    let x := fun (n : Nat) => (scales.getD n 0).toNat
    let out := expandMx packed scales cols
    let scale := leNat ((out.drop (128 * cols)).take 4)
    out.length = 128 * cols + 4 ∧ ((∀ n, n < 4 * cols → x n = 255) → scale = 0x3F800000) ∧
    (top < 255 → (∃ n, n < 4 * cols ∧ x n = top) → (∀ n, n < 4 * cols → x n < 255 → x n ≤ top) →
      scale = (if 7 ≤ top then (top - 6) * 2 ^ 23 else 2 ^ (16 + top)) ∧
      ∀ j k, j < cols → k < 128 →
        let b := (packed.getD (64 * j + k / 2) 0).toNat
        let scaleOf := x (4 * j + k / 32)
        (scaleOf = 255 → (out.getD (128 * j + k) 0).toNat = 0x7F) ∧
        (scaleOf < 255 → ∀ sgn m e, decodeE2m1 (if k % 2 = 0 then b % 16 else b / 16) = .fin sgn m e →
          satF8 false (.fin sgn m (e + scaleOf - top + 6)) = ((out.getD (128 * j + k) 0).toNat, false)))) ∧
  (∀ (s s1 : State) (c : EngCmd) (target j : Nat) (tm src : Team), c.copy.xop = 4 → c.copy.srck = 1 → c.out = none → s.cmd? c.id = some c →
    target ≠ 0 → s.team? target = some tm → s.team? c.team = some src → c.dst % 128 = 0 → j < c.copy.extAt 1 →
    copyLine c target (c.dst / 128 + j) s = (s1, .done) → ∀ k, k < 128 →
    spadByte s1 target (c.dst + 128 * j + k) =
      (expandMx ((List.range (64 * c.copy.extAt 1)).map (fun i => spadByte s c.team (c.src + i)))
        ((List.range (4 * c.copy.extAt 1)).map (fun i => spadByte s c.team (c.copy.xarg + i))) (c.copy.extAt 1)).getD (128 * j + k) 0)

/-- R220, R221, R222, R232, R234: what an `MMA` reads and what it makes of a bank. Operands lie in canonical order, by blocks of the depth. An
accumulator of a scaled FP8 sum takes, for each 128 of depth, four group sums of 32 exact products, each rounded once, added in order, times the product
of the two scales; of bf16 and f16 each group sum in turn; of s8 the exact sum modulo 2^32; and in LUT mode the entries of the tables of four
activations that the weight bits choose, modulo 2^32. Rows from M and columns from N on keep their words; a NaN operand sets NANIN, a NaN scale
SCALENAN, and both are sticky. -/
def Sys2Proof.Stmt.MatrixSums : Prop :=
  (∀ (b : MmaBlock) (m : Memory) (x j k : Nat),
    let o := mmaOperands b m
    let z := if b.type = 4 ∨ b.type = 5 then 2 else 1
    let d := if b.type = 4 ∨ b.type = 5 then 64 else 128
    o.a x k = m.readNat (b.aoff + z * (k / d * d * b.m + d * x + k % d)) z ∧
    o.b j k = m.readNat (b.boff + z * (k / d * d * b.n + d * j + k % d)) z ∧
    (o.hi j k = (m.read (b.boff + k / 128 * 16 * b.n + 16 * j + k % 128 / 8)).getLsbD (k % 8)) ∧
    (o.lo j k = (m.read (b.boff + b.plane + k / 128 * 16 * b.n + 16 * j + k % 128 / 8)).getLsbD (k % 8)) ∧
    (o.sa x k).toNat = m.readNat (b.saoff + 4 * (k / 128 * b.m + x)) 4 ∧ (o.sb k).toNat = m.readNat (b.sboff + 4 * (k / 128)) 4) ∧
  (∀ (b : MmaBlock) (mem : Memory) (i j : Nat) (acc : Word),
    let o := mmaOperands b mem
    let ea := fun (x : Nat) => if b.type = 5 then Fmt.f16.decode x else if b.type = 4 then Fmt.bf16.decode x
      else if b.type = 2 ∨ b.type = 3 then Fmt.e5m2.decode x else decodeE4m3 x
    let eb := fun (x : Nat) => if b.type = 5 then Fmt.f16.decode x else if b.type = 4 then Fmt.bf16.decode x
      else if b.type = 1 ∨ b.type = 3 then Fmt.e5m2.decode x else decodeE4m3 x
    let group := fun (k : Nat) => rneF32 (Fp.sum ((List.range 32).map (fun u => Fp.mul (ea (o.a i (k + u))) (eb (o.b j (k + u))))))
    let upTo := fun (k : Nat) => mmaAcc { b with k := k } o i j acc
    let s8 := fun (n : Nat) => (BitVec.ofNat 8 n).toInt
    (b.type ≤ 5 → upTo 0 = acc) ∧
    (b.type ≤ 3 → ∀ n, upTo (128 * (n + 1)) =
      addF32 (upTo (128 * n)) (rneF32 (Fp.mul
        (f32 (addF32 (addF32 (addF32 (group (128 * n)) (group (128 * n + 32))) (group (128 * n + 64))) (group (128 * n + 96))))
        (f32 (rneF32 (Fp.mul (f32 (o.sa i (128 * n))) (f32 (o.sb (128 * n))))))))) ∧
    (b.type = 4 ∨ b.type = 5 → ∀ n, upTo (32 * (n + 1)) = addF32 (upTo (32 * n)) (group (32 * n))) ∧
    (b.type = 6 → mmaAcc b o i j acc = acc + BitVec.ofInt 32 (((List.range b.k).map (fun k => s8 (o.a i k) * s8 (o.b j k))).sum)) ∧
    (let tab := fun (m idx : Nat) => ((List.range 4).map (fun u => if idx.testBit u then s8 (o.a i (4 * m + u)) else -s8 (o.a i (4 * m + u)))).sum
     let index := fun (plane : Nat → Nat → Bool) (m : Nat) => ((List.range 4).map (fun u => if plane j (4 * m + u) then 2 ^ u else 0)).sum
     b.k % 4 = 0 →
     (b.type = 7 → mmaAcc b o i j acc = acc + BitVec.ofInt 32 (((List.range (b.k / 4)).map (fun m => tab m (index o.hi m))).sum)) ∧
     (b.type = 8 → mmaAcc b o i j acc = acc + BitVec.ofInt 32 (((List.range (b.k / 4)).map (fun m =>
       2 * tab m (index o.hi m) + tab m (index o.lo m))).sum)))) ∧
  (∀ (x : Bank) (b : MmaBlock) (o : MmaOperands), b.n ≤ 128 →
    (∀ i j, i < b.m → j < b.n → assocD (x.mma b o).words (128 * i + j) 0 = mmaAcc b o i j (assocD x.words (128 * i + j) 0)) ∧
    (∀ i j, j < 128 → b.m ≤ i ∨ b.n ≤ j → assocD (x.mma b o).words (128 * i + j) 0 = assocD x.words (128 * i + j) 0) ∧
    (x.mma b o).core = x.core ∧ (x.mma b o).bank = x.bank ∧ (x.mma b o).team = x.team ∧
    ((x.mma b o).nanIn = true ↔ x.nanIn = true ∨ (b.type ≤ 5 ∧ ∃ k, k < b.k ∧
      ((∃ i, i < b.m ∧ (mmaElem b.type true (o.a i k)).isNan = true) ∨ ∃ j, j < b.n ∧ (mmaElem b.type false (o.b j k)).isNan = true))) ∧
    ((x.mma b o).scaleNan = true ↔ x.scaleNan = true ∨ (b.type ≤ 3 ∧ ∃ n, n < b.k / 128 ∧
      ((f32 (o.sb (128 * n))).isNan = true ∨ ∃ i, i < b.m ∧ (f32 (o.sa i (128 * n))).isNan = true))))

/-- R253, R257, R258: a query with an empty ray, and one whose walk finds a nearest hit or none, writes its hit record to four registers, and
its thread goes on; a malformed block traps BAD_HANDLE with its offset, and the registers stay. -/
def Sys2Proof.Stmt.Queries : Prop :=
  (∀ (s s1 : State) (q : Query) (h : Option Hit), s.power = .active → s.query? q.id = some q → q.wait = .none → q.cont = none →
    queryWalk q s = (s1, .best h) → s1.outside q.thread.team = false →
    exec (.traversalResult q.id) s = .next { s1 with
      queries := s1.queries.filter (fun x => x.id != q.id),
      threads := s1.threads.map (fun t => if t.id = q.thread then
        { t.setRegs q.dst (hitRecord h) with pc := t.pc + 4, park := .none } else t) }) ∧
  (∀ (s s1 : State) (q : Query) (off : Nat) (t : Thread), s.power = .active → s.query? q.id = some q → q.wait = .none →
    queryWalk q s = (s1, .malformed off) → s1.thread? q.thread = some t →
    exec (.traversalResult q.id) s = .next
      (State.threadTrap { s1 with queries := s1.queries.filter (fun x => x.id != q.id) } t .badHandle (BitVec.ofNat 32 off) 0)) ∧
  (∀ (s : State) (q : Query), ray? q.ray = none → queryWalk q s = (s, .best none)) ∧
  hitRecord none = [0x7F800000, 0xFFFFFFFF, 0, 0]

namespace Sys2Proof.Stmt

/-- The value of a fraction. -/
def ratio (f : Frac) : ℚ := (f.num : ℚ) / (f.den : ℚ)

/-- The finite bounds of a ray's interval have positive denominators, as those of `ray?` have. -/
def RayOk (r : Ray) : Prop := (∀ m, r.tmin = some m → 0 < m.den) ∧ ∀ m, r.tmax = some m → 0 < m.den

/-- `t` lies in the ray's interval. -/
def InRange (r : Ray) (t : ℚ) : Prop := (∀ m, r.tmin = some m → ratio m ≤ t) ∧ ∀ m, r.tmax = some m → t ≤ ratio m

/-- A component of a vector. -/
def comp (l : List Int) (a : Nat) : ℚ := ((l.getD a 0 : Int) : ℚ)

/-- The ray passes, at `t`, through the point of the triangle whose weights for its second and third vertices are `u` and `v` (R255). -/
def Through (r : Ray) (x : Tri) (t u v : ℚ) : Prop :=
  0 ≤ u ∧ 0 ≤ v ∧ u + v ≤ 1 ∧ ∀ a, a < 3 → comp r.o a + t * comp r.d a =
    (1 - u - v) * comp (x.v0.map fixed) a + u * comp (x.v1.map fixed) a + v * comp (x.v2.map fixed) a

/-- d · ((v1 − v0) × (v2 − v0)) (R257): 0 when the triangle has no area or the ray is parallel to its plane. -/
def facing (r : Ray) (x : Tri) : ℚ :=
  let e := fun (l : List Word) (a : Nat) => comp (l.map fixed) a - comp (x.v0.map fixed) a
  comp r.d 0 * (e x.v1 1 * e x.v2 2 - e x.v1 2 * e x.v2 1) + comp r.d 1 * (e x.v1 2 * e x.v2 0 - e x.v1 0 * e x.v2 2)
    + comp r.d 2 * (e x.v1 0 * e x.v2 1 - e x.v1 1 * e x.v2 0)

/-- The key of R256 of one hit is less than another's. -/
def KeyLess (a b : Hit) : Prop :=
  ratio a.t < ratio b.t ∨ (ratio a.t = ratio b.t ∧ (a.prim < b.prim ∨ (a.prim = b.prim ∧ (a.leaf < b.leaf ∨ (a.leaf = b.leaf ∧ a.index < b.index)))))

/-- `n` is `x` times 65,535 for x = w/den, rounded to the nearest integer, ties to even (R257). -/
def Unit16 (n w den : Int) : Prop := |2 * (n * den - 65535 * w)| ≤ den ∧ (|2 * (n * den - 65535 * w)| = den → n % 2 = 0)

end Sys2Proof.Stmt

/-- R254, R255: a box meets a ray exactly when some t of its interval places the point in the closed box; and a triangle with finite vertices that the
ray does not run parallel to is hit exactly when the ray passes through a point of the closed triangle at a t of its interval; the hit has that t, u, v
and facing. -/
def Sys2Proof.Stmt.RayTests : Prop :=
  (∀ (b : Box) (r : Ray), RayOk r → (b.meets r = true ↔ ∃ t : ℚ, InRange r t ∧ ∀ a, a < 3 →
    (∀ x, b.lo.getD a none = some x → (x : ℚ) ≤ comp r.o a + t * comp r.d a) ∧
    (∀ x, b.hi.getD a none = some x → comp r.o a + t * comp r.d a ≤ (x : ℚ)))) ∧
  (∀ (r : Ray) (prim leaf index : Nat) (x : Tri), RayOk r → r.o.length = 3 → r.d.length = 3 →
    x.v0.length = 3 → x.v1.length = 3 → x.v2.length = 3 →
    (∀ h, hitTri r prim leaf index x = some h → (∀ w ∈ x.v0 ++ x.v1 ++ x.v2, isFinite w = true) ∧ facing r x ≠ 0 ∧ 0 < h.t.den ∧ 0 < h.den ∧
      Through r x (ratio h.t) (h.u / h.den) (h.v / h.den) ∧ InRange r (ratio h.t) ∧ (h.back = true ↔ 0 < facing r x) ∧
      h.prim = prim ∧ h.leaf = leaf ∧ h.index = index) ∧
    ((∀ w ∈ x.v0 ++ x.v1 ++ x.v2, isFinite w = true) → facing r x ≠ 0 → (∃ t u v, Through r x t u v ∧ InRange r t) →
      hitTri r prim leaf index x ≠ none))

/-- R256, R257: of two hits the one with the lesser key is the nearer, and a leaf's result is the hit with the least key among those of its triangles; the
record of a hit holds its primitive number, its weights in 1/65,535, HIT, BACK and the triangle's index, and its t exactly where an FP32 value is t. -/
def Sys2Proof.Stmt.HitOrder : Prop :=
  (∀ a b : Hit, 0 < a.t.den → 0 < b.t.den → (a.before b = true ↔ KeyLess a b) ∧
    nearer (some a) (some b) = some (if b.before a then b else a) ∧ nearer none (some b) = some b ∧ nearer (some a) none = some a) ∧
  (∀ (r : Ray) (leaf base : Nat) (l : List Tri),
    (leafHit r leaf base l = none ↔ ∀ n x, l[n]? = some x → hitTri r (base + n) leaf n x = none) ∧
    (∀ h, leafHit r leaf base l = some h → (∃ n x, l[n]? = some x ∧ hitTri r (base + n) leaf n x = some h) ∧
      ∀ n x h', l[n]? = some x → hitTri r (base + n) leaf n x = some h' → ¬KeyLess h' h)) ∧
  (∀ h : Hit, 0 < h.den → 0 ≤ h.u → 0 ≤ h.v → h.u + h.v ≤ h.den → h.index < 8 → h.prim < 2 ^ 32 →
    ∃ w0 w1 w2 w3, hitRecord (some h) = [w0, w1, w2, w3] ∧ w1.toNat = h.prim ∧
      Unit16 ((w2.toNat % 0x10000 : Nat) : Int) h.u h.den ∧ Unit16 ((w2.toNat / 0x10000 : Nat) : Int) h.v h.den ∧
      w3.toNat = 1 + 2 * h.back.toNat + 4 * h.index ∧
      (∀ (w : Word) (k : Nat), isFinite w = true → w ≠ 0x80000000 → 0 < k → h.t = ⟨fixed w * k, fixedOne * k⟩ → w0 = w))

namespace Sys2Proof.Stmt

/-- The pairs that cross(a, b) emits (R263), for the children `kids` of a block; a walk takes at most `n` steps down. -/
def crossPairs (kids : HNode → List HNode) : Nat → HNode → HNode → List (Nat × Nat × Bool)
  | 0, _, _ => []
  | n + 1, a, b =>
    if a.leaf = false then (kids a).flatMap (fun x => if x.box.overlaps b.box then crossPairs kids n x b else [])
    else if b.leaf = false then (kids b).flatMap (fun x => if a.box.overlaps x.box then crossPairs kids n a x else [])
    else [(a.ref, b.ref, false)]

/-- The pairs that self(a) emits (R263). -/
def selfPairs (kids : HNode → List HNode) : Nat → HNode → List (Nat × Nat × Bool)
  | 0, _ => []
  | n + 1, a => (kids a).zipIdx.flatMap (fun i =>
      (if i.1.leaf then [(i.1.ref, i.1.ref, true)] else selfPairs kids n i.1) ++
        ((kids a).drop (i.2 + 1)).flatMap (fun j => if i.1.box.overlaps j.box then crossPairs kids 130 i.1 j else []))

/-- What a walk finds of a sequence of pairs, from an ordinal: the pair, or how many of the ordinals before it are left. -/
def emitted (l : List (Nat × Nat × Bool)) (n : Nat) : PairsWalk :=
  match l[n]? with
  | some p => .found p.1 p.2.1 p.2.2
  | none => .skip (n - l.length)

/-- Following a reference finds the block, in whichever of the states `S` the walk stands, and leads to one of them. -/
def Finds (c : EngCmd) (S : State → Prop) (side : Side) (ref : Nat) (leaf : Bool) (box : List Kid → Box) (depth : Nat) (x : HNode) : Prop :=
  ∀ s, S s → ∃ s', S s' ∧ ∀ f, follow c side ref leaf box depth s f = f s' x

/-- The blocks of `P` are a hierarchy of the command whose blocks can be read in the states `S` of its walk, and `kids` says the children of each;
`height` falls from a block to its children. -/
def Readable (c : EngCmd) (S : State → Prop) (P : HNode → Prop) (kids : HNode → List HNode) (height : HNode → Nat) : Prop :=
  ∀ a, P a → height a ≤ 64 ∧ (a.leaf = false → a.kids = (kids a).map (fun x => { ref := x.ref, leaf := x.leaf, box := x.box }) ∧
    ∀ x ∈ kids a, P x ∧ height x < height a ∧ Finds c S a.side x.ref x.leaf (fun _ => x.box) (a.depth + 1) x)

end Sys2Proof.Stmt

/-- R263, R264: in a hierarchy that can be read, the pair of an ordinal is that of the sequence of R263: cross walks the first hierarchy's children in
index order before the second's, self emits a leaf with itself, or walks a child, before it crosses the child with its later siblings; in self mode the
lower offset comes first. -/
def Sys2Proof.Stmt.PairOrder : Prop :=
  ∀ (c : EngCmd) (S : State → Prop) (P : HNode → Prop) (kids : HNode → List HNode) (height : HNode → Nat), Readable c S P kids height →
    (∀ (s : State) (n : Nat) (a b : HNode) (k : Nat), S s → P a → P b → height a + height b < n →
      ∃ s', S s' ∧ crossWalk c n a b k s = (s', emitted (crossPairs kids n a b) k)) ∧
    (∀ (s : State) (n : Nat) (a : HNode) (k : Nat), S s → P a → a.leaf = false → height a < n →
      ∃ s', S s' ∧ selfWalk c n a k s = (s', emitted (selfPairs kids n a) k)) ∧
    (∀ (s : State) (ra rb : HNode) (k : Nat), S s → P ra → P rb → ra.leaf = false → rb.leaf = false →
      Finds c S .a 0 false rootBox 1 ra → (c.pairs.self = false → Finds c S .b 0 false rootBox 1 rb) →
      ∃ s', S s' ∧ pairsWalk c k s = (s', if c.pairs.self then
          emitted ((selfPairs kids 65 ra).map (fun p => (min p.1 p.2.1, max p.1 p.2.1, p.2.2))) k
        else emitted (crossPairs kids 130 ra rb) k))

/-- R175, R257: a query with a continuation whose walk ends makes its thread end and its record enter the node's bin, when the pool allows it: first the
registers that the node carries, then the four words of the hit record; otherwise the thread waits in the allocation queue with that record. -/
def Sys2Proof.Stmt.QueryContinuations : Prop :=
  ∀ (s s1 : State) (q : Query) (h : Option Hit) (t : Thread) (tm : Team) (n : Nat) (d : NodeDesc), s.power = .active → s.query? q.id = some q →
    q.wait = .none → q.cont = some n → queryWalk q s = (s1, .best h) → s1.thread? q.thread = some t → s1.team? q.thread.team = some tm →
    s1.node? tm.ctx n = some d → 4 ≤ d.rsize →
    let part := if d.fill then tm.fdepth + 1 else 0
    let r : Record := { words := (List.range (d.rsize - 4)).map (fun j => t.reg (d.creg + j)) ++ hitRecord h, pfid := none, gen := none, writer := some tm.grid }
    let s2 := { s1 with queries := s1.queries.filter (fun x => x.id != q.id) }
    (s1.canAlloc tm.ctx n = true → s1.outside t.id.team = false →
      exec (.traversalResult q.id) s = .next ((s2.enterBin tm.ctx n part r).exitThread t.id)) ∧
    (s1.canAlloc tm.ctx n = false → ∃ s', exec (.traversalResult q.id) s = .next s' ∧ s'.queries = s2.queries ∧
      (s'.thread? t.id).map Thread.park = some .dryPool ∧
      (s'.ctx? tm.ctx).map (fun c => c.allocs.map (fun a => (a.who, a.node, a.part, a.record))) =
        (s1.ctx? tm.ctx).map (fun c => c.allocs.map (fun a => (a.who, a.node, a.part, a.record)) ++ [(.cont t.id, n, part, r)]))

/-- R264, R265: a `PAIRS` command whose turn it is emits the pair of its next ordinal as a record of its node and counts it; at its limit it
ends with STATUS 1, when no pair is left with STATUS 0, and when its walk fails with ENG_FAULT (0x0F): COUNT and TOKEN say how far it came. -/
def Sys2Proof.Stmt.PairsCommands : Prop :=
  (∀ (s s1 : State) (id a b : Nat) (same : Bool) (c : EngCmd) (x : Ctx) (d : NodeDesc), s.power = .active → pairsTurn s id = some c →
    c.result = none → c.progress < c.pairs.limit → pairsWalk c (c.start + c.progress) s = (s1, .found a b same) →
    let ctx := s.ctxId c.team
    s1.ctx? ctx = some x → x.nodes[c.pairs.node]? = some d → x.canAlloc c.pairs.node = true → NoTrigger x c.pairs.node 0 d →
    let n := c.start + c.progress
    let r : Record := { words := [BitVec.ofNat 32 a, BitVec.ofNat 32 b, c.pairs.user, BitVec.ofNat 32 same.toNat, BitVec.ofNat 32 n,
      BitVec.ofNat 32 (n / 2 ^ 32)] ++ List.replicate (d.rsize - 6) 0, pfid := none, gen := none, writer := none }
    ∃ s', exec (.pairsEmission id) s = .next s' ∧ s'.ctx? ctx = some (enters x c.pairs.node 0 r s1.time) ∧
      s'.cmds = s1.cmds.map (fun y => if y.id = id then { y with progress := y.progress + 1 } else y)) ∧
  (∀ (s s1 : State) (id k : Nat) (c : EngCmd) (tm : Team), s.power = .active → pairsTurn s id = some c → c.result = none → c.addr % 64 = 0 →
    let done := fun (s0 s' : State) (status : Nat) => CmdOver s0 s' c ∧ spadWord s' c.team (c.addr + 0x30) 4 = c.progress % 2 ^ 32 ∧
      spadWord s' c.team (c.addr + 0x28) 8 = (c.start + c.progress) % 2 ^ 64 ∧ spadWord s' c.team (c.addr + 0x3C) 4 = status
    (c.pairs.limit ≤ c.progress → s.team? c.team = some tm → ∃ s', exec (.pairsCompletion id) s = .next s' ∧ done s s' 1) ∧
    (c.progress < c.pairs.limit → pairsWalk c (c.start + c.progress) s = (s1, .skip k) → s1.team? c.team = some tm →
      ∃ s', exec (.pairsCompletion id) s = .next s' ∧ done s1 s' 0) ∧
    (∀ d, c.progress < c.pairs.limit → pairsWalk c (c.start + c.progress) s = (s1, .fail d) → s1.team? c.team = some tm →
      ∃ s', exec (.pairsCompletion id) s = .next s' ∧ done s1 s' ((0x0F + 0x100 * d) % 2 ^ 32)))

/-! ### What the host and the peers do -/

namespace Sys2Proof.Stmt

/-- The context carries out a command, between instructions of an active device (R290, R301). -/
def Carries (s : State) (c : Ctx) (n : Nat) : Prop := s.ctx? c.id = some c ∧ c.running = some n ∧ s.cur = .idle ∧ s.power = .active

/-- The command's work is done with a result: `f` is what became of the context besides (R290). -/
def doneWith (s : State) (ctx result : Nat) (f : Ctx → Ctx) : State :=
  { s with ctxs := s.ctxs.map (fun c => if c.id = ctx then { f c with running := none, outcome := some result } else c) }

end Sys2Proof.Stmt

/-- R95, R102, R162, R182, R290: the table commands load every descriptor or are refused with result 1 and load nothing; what counts as
use of the node table in force is the model's reading (log entry 52), and here no table is in force. INVALIDATE_TRANSLATIONS drops the
context's TLB entries of the range once no walk for it is in progress, and the instruction words that were fetched from it;
COMMAND_COMPLETION clears BUSY, writes the result and interrupts the host. -/
def Sys2Proof.Stmt.TableCommands : Prop :=
  (∀ (s : State) (c : Ctx), Carries s c 1 → c.regs.nodecount = 0 ∨ 4096 < c.regs.nodecount ∨ c.regs.nodebase % 32 ≠ 0 →
    exec (.loadNodeTable c.id) s = .next (doneWith s c.id 1 id)) ∧
  (∀ (s s1 : State) (c : Ctx) (ds : List NodeDesc), Carries s c 1 → 1 ≤ c.regs.nodecount → c.regs.nodecount ≤ 4096 →
    c.regs.nodebase % 32 = 0 → c.nodes = [] → tableLoad c.id 32 nodeDesc? c.regs.nodecount c.regs.nodebase s = (s1, .ok ds) →
    (ds.map NodeDesc.floor).sum ≤ c.regs.poolsize * 1024 →
    exec (.loadNodeTable c.id) s = .next (doneWith s1 c.id 0 (fun x => { x with nodes := ds, counts := [], used := [] }))) ∧
  (∀ (s s1 : State) (c : Ctx) (ds : List GenDesc), Carries s c 2 → 1 ≤ c.regs.gencount → c.regs.gencount ≤ 256 → c.regs.genbase % 64 = 0 →
    (∀ f ∈ s.fills, f.ctx ≠ c.id) → tableLoad c.id 64 (genDesc? c.nodes) c.regs.gencount c.regs.genbase s = (s1, .ok ds) →
    exec (.loadGeneratorTable c.id) s = .next (doneWith s1 c.id 0 (fun x => { x with gens := ds }))) ∧
  (∀ (s s1 : State) (c : Ctx), Carries s c 2 → 1 ≤ c.regs.gencount → c.regs.gencount ≤ 256 → c.regs.genbase % 64 = 0 →
    tableLoad c.id 64 (genDesc? c.nodes) c.regs.gencount c.regs.genbase s = (s1, .bad) →
    (∀ f ∈ s.fills, f.ctx ≠ c.id) → exec (.loadGeneratorTable c.id) s = .next (doneWith s1 c.id 1 id)) ∧
  (∀ (s : State) (c : Ctx), Carries s c 5 → (∀ w ∈ s.walks, w.ctx ≠ c.id) →
    let lo := c.cmdArgs.1
    let hi := c.cmdArgs.1 + c.cmdArgs.2
    exec (.invalidateTranslations c.id) s = .next { doneWith s c.id 0 id with
      tlb := s.tlb.filter (fun e => !(e.ctx == c.id && decide (lo < e.tr.base + e.tr.size) && decide (e.tr.base < hi)))
      icache := s.icache.filter (fun w => !((s.grid? w.grid).map Grid.ctx == some c.id && decide (lo ≤ w.va) && decide (w.va < hi))) }) ∧
  (∀ (s : State) (c : Ctx) (r : Nat), s.power = .active → s.ctx? c.id = some c → c.outcome = some r → c.regs.cmd ≠ 6 →
    exec (.commandCompletion c.id) s = .next { s with
      irqs := s.irqs ++ [.command c.id],
      ctxs := s.ctxs.map (fun x => if x.id = c.id then { x with outcome := none, regs := { x.regs with cmdstat := 0x100 * r } } else x) })

/-- R279, R280, R282, R286, R468: PRE_EMPT of a context whose team is at rest saves it into a slot of the save area, whose STATE then reads 1,
and RESTORE lets the context run again, with teams that are saved if every image is good, and a round of offers falls due; an image that fails its
checks loses the context instead; every slot's STATE is read, and a read that an access table denies is counted (R297). REMOVE_GRID ends with the grids retired, their threads ended without their records, their bytes and the locks of
their commands gone. What an image must show to pass and when a removal's parts happen are the model's choices (log entries 41, 43, 44, 63, 94,
124). -/
def Sys2Proof.Stmt.SaveAndRemove : Prop :=
  (∀ (s : State) (c : Ctx), Carries s c 3 → (∀ t ∈ s.teams, t.ctx = c.id → t.out = true) → (∀ b ∈ s.buffers, b.author ≠ .unit) →
    s.landings = [] → s.acks = [] → s.reds = [] →
    ∃ s', exec (.preEmpt c.id) s = .next s' ∧ s'.ctxs = (doneWith s c.id 0 (fun x => { x with preempted := true, stopping := false })).ctxs ∧
      s'.teams = s.teams ∧ s'.threads = s.threads ∧ s'.mem = s.mem) ∧
  (∀ (s s1 : State) (c : Ctx) (tm : Team) (core slot : Nat) (slots : List Nat), Carries s c 3 →
    s1 = (flushUnits s c.id).quiesce ((s.teams.filter (fun t => t.ctx == c.id && !t.out)).map Team.id) →
    s1.teams.filter (fun t => t.ctx == c.id && !t.out) = [tm] → s1.team? tm.id = some tm → tm.place = .resident core →
    s1.atRest [tm.id] = true → (∀ l ∈ s1.landings, ¬(l.author = .unit ∧ l.ctx = c.id)) →
    s1.freeSlotsOf c.id c.regs.saveslots State.saveSlot = slot :: slots →
    let base := c.regs.savebase + 0x100000 * slot
    Sys2Proof.Machine.slotOk s1 base true = true →
    ∃ s', exec (.preEmpt c.id) s = .next s' ∧ (s'.team? tm.id).map Team.place = some (.saved slot) ∧ s'.mem.readNat base 4 = 1 ∧
      (s'.ctx? c.id).map (fun x => (x.preempted, x.outcome)) = some (true, some 0)) ∧
  (∀ (s : State) (c : Ctx), Carries s c 4 → c.lost = false →
    (∀ t ∈ s.teams, t.ctx = c.id → State.saveSlot t.place = none) → savedSlots s c = [] →
    ∃ s', exec (.restore c.id) s = .next s' ∧ (s'.ctx? c.id).map (fun x => (x.preempted, x.outcome, x.running)) = some (false, some 0, none)) ∧
  (∀ (s : State) (c : Ctx) (tm : Team) (slot : Nat), Carries s c 4 → c.lost = false → s.teams = [tm] → tm.ctx = c.id → tm.place = .saved slot →
    let base := c.regs.savebase + 0x100000 * slot
    let s0 := Sys2Proof.Machine.logStates s c
    savedSlots s0 c = [slot] → s0.hasImage tm base = true → s0.imageOk tm base = true →
    exec (.restore c.id) s = .next (State.resumeOffers { doneWith s0 c.id 0 (fun x => { x with preempted := false }) with
      offering := true, grids := s.grids.map (fun g => if g.ctx = c.id then { g with stopped := false } else g) })) ∧
  (∀ (s : State) (c : Ctx) (tm : Team) (slot : Nat), Carries s c 4 → s.teams = [tm] → tm.ctx = c.id → tm.place = .saved slot →
    let base := c.regs.savebase + 0x100000 * slot
    slot < c.regs.saveslots → s.readPhysNat base 4 = 1 → s.imageOk tm base = false → bitAt c.regs.cstat 0 = false → c.lost = false →
    ∃ s', exec (.restore c.id) s = .next s' ∧ s'.teams = s.teams ∧ s'.irqs = s.irqs ++ [.cstat c.id] ∧
      (s'.ctx? c.id).map (fun x => (x.regs.cstat, x.preempted, x.outcome, x.lost)) = some (c.regs.cstat + 1, c.preempted, some 0, true)) ∧
  (∀ (s : State) (c : Ctx) (g : Grid), Carries s c 6 → s.grid? g.id = some g → c.cmdArgs.1 = g.id →
    ∃ s', exec (.removeGrid c.id) s = .next s' ∧ (s'.grid? g.id).map (fun x => (x.retired, x.stopped)) = some (true, true) ∧
      (s'.ctx? c.id).map Ctx.outcome = some (some 0) ∧
      ((s.threads.map Thread.id).Nodup → (∀ x ∈ s.teams, x.id ≤ s.lastId) → ∀ tm, s.team? tm.id = some tm → tm.grid ∈ s.removalSet g.id →
        (∀ t ∈ s.threads, t.id.team = tm.id → t.live = true → ∀ u ∈ s'.threads, u.id = t.id → u.live = false ∧ (tm.node ≠ none → u.record = none)) ∧
        (∀ b ∈ s'.buffers, ∀ x, b.author = .crew x → x.team ≠ tm.id) ∧
        (∀ x ∈ s'.cmds, x.team = tm.id → x.started ≠ none) ∧ (∀ l ∈ s'.locks, ∃ x ∈ s'.cmds, x.id = l.cmd)))

/-- R282 to R286: the image of a team gives back what it was written from. Within the limits of the formats, an image says that it was saved and is that
of its team, and memory outside its slot stays; a thread read back from it has its program counter, registers, predicates, flags and trap registers, and
waits at its barrier if it did; a crew has its k registers, predicates, flags and the registers that say why; barriers, scratchpad bytes and presence bits
stand in it as they were. A thread that waits for something else makes its access again (R280), and its park is not kept. -/
def Sys2Proof.Stmt.ImageRoundTrip : Prop :=
  ∀ (s s1 : State) (t : Team) (base : Nat) (lead : Bool), Sys2Proof.Machine.slotOk s base true = true →
    Sys2Proof.Machine.slotOk s base false = true → base % 0x100000 = 0 →
    (sectorKeys s t.id).length ≤ 1792 → (teamCmds s t.id).length ≤ 320 → t.regs ≤ 64 → t.spadLines ≤ 1536 → t.bars.length ≤ 16 →
    t.grid < 2 ^ 32 → t.index < 2 ^ 32 → t.role < 4 → (∀ b ∈ s.banks, b.team = some t.id → b.bank < 2) →
    (s.threads.map Thread.id).Nodup → (s.crews.map Crew.id).Nodup →
    (∀ x ∈ s.threads, x.id.team = t.id → x.id.tid < 1024 ∧ x.v.length = 64 ∧ x.p.length = 7) →
    (∀ c ∈ s.crews, c.id.team = t.id → c.id.crew < 32 ∧ c.k.length = 63 ∧ c.q.length = 7 ∧ c.phCount < 2 ^ 32 ∧ c.phLimit < 2 ^ 32) →
    s1 = s.writeImage t base lead →
    s1.hasImage t base = true ∧ (∀ a, a < base ∨ base + 0x100000 ≤ a → s1.mem.read a = s.mem.read a) ∧
    (∀ x ∈ s.threads, x.id.team = t.id → ∀ cycle, x.park = .none ∨ (∃ b ph acq arr, x.park = .barrier b ph acq arr ∧ barrierOfNumber b.number = some b) →
      ∃ y, (s1.readThread x t.regs base cycle false).thread? x.id = some y ∧ y.pc = x.pc ∧ y.v = x.v ∧ y.p = x.p ∧ y.live = x.live ∧ y.inh = x.inh ∧
        y.cause = x.cause ∧ y.trapc = x.trapc ∧ y.trapv = x.trapv ∧ y.arrived.isSome = x.arrived.isSome ∧ (x.park = .none → y.park = .none) ∧
        ∀ b ph acq arr, x.park = .barrier b ph acq arr → y.park = .barrier b (ph % 2 ^ 24) acq arr) ∧
    (∀ c ∈ s.crews, c.id.team = t.id →
      let d := s1.readCrew c base
      d.k = c.k ∧ d.q = c.q ∧ d.satArm = c.satArm ∧ d.notice = c.notice ∧ d.phArm = c.phArm ∧ d.sat = c.sat ∧ d.cflict = c.cflict ∧
        d.stragId = c.stragId ∧ d.stragWait = c.stragWait ∧ d.phCount = c.phCount ∧ d.phLimit = c.phLimit) ∧
    (∀ n b, t.bars[n]? = some b → b.e < 2 ^ 32 → b.a < 2 ^ 32 → b.p < 2 ^ 24 →
      s1.readBarrier false (base + 0x40 + 16 * n) b = { e := b.e, a := b.a, p := b.p, arr := [], exit := none }) ∧
    (∀ i, i < t.spadSize → s1.mem.read (base + 0x50000 + i) = t.spad.read i) ∧
    (∀ l, l < t.spadLines → bitAt (s1.readPhysNat (base + 0x340 + l / 8) 1) (l % 8) = !t.absent.contains l)

/-- R280, R284, R286: a saved team that comes back alone has, from its image, every thread's program counter, registers, predicates, flags and trap
registers and its scratchpad; here the image holds no sector and no thread waits at a barrier or for the pool. -/
def Sys2Proof.Stmt.SavedTeamReturns : Prop :=
  ∀ (s s1 : State) (tm : Team) (base slot : Nat), s.team? tm.id = some tm → tm.place = .saved slot → s.outOf tm = [(tm, base)] →
    (s.threads.map Thread.id).Nodup → (∀ x ∈ s.threads, x.park ≠ .ending) → (∀ b ∈ s.buffers, ∀ d, b.author = .crew d → d.team ≠ tm.id) →
    (∀ x ∈ s.threads, x.id.team = tm.id → x.late = none ∧ bits (s.readPhysNat (base + 0x400 + 32 * x.id.tid + 4) 1) 4 2 = 0) →
    s.readPhysNat (base + 0x20) 4 = 0 → s.bringBack tm = some s1 →
    (s1.team? tm.id).map Team.out = some false ∧
    (∀ x ∈ s.threads, x.id.team = tm.id →
      let rd := fun (off n : Nat) => s.readPhysNat (base + 0x400 + 32 * x.id.tid + off) n
      ∃ y, s1.thread? x.id = some y ∧ y.pc.toNat = rd 0 4 ∧ y.live = bitAt (rd 4 1) 0 ∧ y.inh = bitAt (rd 4 1) 1 ∧ y.cause.toNat = rd 8 4 ∧
        y.trapc.toNat = rd 0xC 4 ∧ y.trapv.toNat = rd 0x10 4 ∧ (∀ n, n < 7 → y.p[n]? = some (bitAt (rd 5 1) n)) ∧
        ∀ n, n < tm.regs → (y.v[n]?).map BitVec.toNat = some (s.readPhysNat (base + 0x10000 + 256 * x.id.tid + 4 * n) 4)) ∧
    (∀ i, i < tm.spadSize → spadByte s1 tm.id i = s.mem.read (base + 0x50000 + i))

/-- R62, R65, R67, R68: SWAP_OUT of a single team that the device has picked takes it into a slot of the swap area, whose image then says that it
was saved, and SWAP_IN of the team that comes back first, at its turn, with images that pass, gives it a core. -/
def Sys2Proof.Stmt.Swapping : Prop :=
  (∀ (s s1 : State) (tm : Team) (g : Grid) (c : Ctx) (slot : Nat) (slots : List Nat), s.power = .active → s.team? tm.id = some tm →
    s.grid? tm.grid = some g → s.ctx? tm.ctx = some c → tm.core? ≠ none → unitResident s tm = [tm] → s.scheduled tm.ctx = true → needsRoom s g = true → pickedForSwap s tm = true →
    c.regs.swapbase ≠ 0 → s.freeSlotsOf tm.ctx c.regs.swapslots State.swapSlot = slot :: slots → s1 = s.quiesce [tm.id] →
    s1.atRest [tm.id] = true → Sys2Proof.Machine.slotOk s1 (c.regs.swapbase + 0x100000 * slot) true = true →
    ∃ s', exec (.swapOut tm.id) s = .next s' ∧ (s'.team? tm.id).map Team.place = some (.swapped s1.time slot) ∧
      s'.mem.readNat (c.regs.swapbase + 0x100000 * slot) 4 = 1) ∧
  (∀ (s s1 : State) (tm : Team) (g : Grid), s.power = .active → s.team? tm.id = some tm → s.grid? tm.grid = some g → s.firstBack g = some tm →
    s.offering = false → s1.offering = false → s.offerTurn (.back tm.grid tm.id) = true →
    (∀ x ∈ s.outOf tm, s.imageOk x.1 x.2 = true) → s.bringBack tm = some s1 → exec (.swapIn tm.id) s = .next s1 ∧ s1.outside tm.id = false)

/-- R69, R288, R289, R291, R292: a write to CSTAT clears the bits written as 1; writes to FRCONS and ERCONS take the value; PHMARGIN and a
descriptor's PTROOT take their writes. The registers answer, and no access table forbids the write (R297). What a write of part of a field, or of a
value beyond its limits, does is the model's choice (log entry 54); these are writes of whole fields. -/
def Sys2Proof.Stmt.RegisterWrites : Prop :=
  (∀ (s : State) (c : Ctx) (v : Word), s.ctx? c.id = some c →
    let regs := fun (f : CtxRegs → CtxRegs) => { s with ctxs := s.ctxs.map (fun x => if x.id = c.id then { x with regs := f x.regs } else x) }
    (HostMay s (0x10014 + 256 * c.id) true → (c.regs.frprod + 2 ^ 32 - c.regs.frcons) % 2 ^ 32 < 2 ^ c.regs.frlog2 →
      exec (.cstatWrite c.id v) s = .next (regs (fun r => { r with cstat := (BitVec.ofNat 32 r.cstat &&& ~~~v).toNat }))) ∧
    (HostMay s (0x10088 + 256 * c.id) true → (∀ f ∈ c.faults, f.seq ≠ none) →
      exec (.frconsWrite c.id v) s = .next (regs (fun r => { r with frcons := v.toNat }))) ∧
    (HostMay s (0x100A0 + 256 * c.id) true → c.erwait = [] → exec (.erconsWrite c.id v) s = .next (regs (fun r => { r with ercons := v.toNat }))) ∧
    (∀ value : DWord, HostMay s (0x10000 + 256 * c.id) true → c.id < 64 →
      exec (.registerWrite (0x10000 + 256 * c.id) value) s = .next (regs (fun r => { r with ptroot := value.toNat })))) ∧
  (∀ (s : State) (value : DWord), HostMay s 0x1010 true →
    exec (.registerWrite 0x1010 value) s = .next { s with phmargin := value.toNat % 2 ^ 32 })

namespace Sys2Proof.Stmt

/-- The targets that deny some byte of an access from outside, each once (R297). -/
def deniers (s : State) (cls : ReqClass) (pa n : Nat) (write : Bool) : List Target :=
  ((List.range n).filterMap (fun i => s.deniedAt (.pa (pa + i)) cls write)).eraseDups

end Sys2Proof.Stmt

/-- R288, R295, R297, R298: a requester outside the cores reads and writes memory that its class may reach; a denied read answers zeros, a denied
write changes no memory, and every target that denies a byte counts it; the device registers answer a Fomor core, and in recovery none but the
mailbox does. A peer reaches local memory only, over a link in service, and writes notify registers as NOTIFY_PROD_WRITE does. A link that has
been down for 1 ms is out of service. Which registers answer when, and what an access to a reserved address does, are the model's choices (log
entries 58 and 59). -/
def Sys2Proof.Stmt.OutsideAccess : Prop :=
  (∀ (s : State) (cls : ReqClass) (pa n : Nat) (bs : List Byte), s.power = .active → s.recovery = false → isRegister pa = false →
    s.delayed (.pa pa) = false →
    (classReaches s cls pa n false = true → exec (.fomorCoreAccess cls pa (.read n)) s = .next { s with
      replies := s.replies ++ [.data ((List.range n).map (fun i => s.mem.read (pa + i)))] }) ∧
    (classReaches s cls pa n false = false → exec (.fomorCoreAccess cls pa (.read n)) s = .next { s with
      replies := s.replies ++ [.data (List.replicate n 0)], denials := s.denials ++ deniers s cls pa n false }) ∧
    (classReaches s cls pa bs.length true = true → (∀ i, i < bs.length → s.delayed (.pa (pa + i)) = false) →
      ∃ s', exec (.fomorCoreAccess cls pa (.write bs)) s = .next s' ∧
      ∀ x, s'.mem.read x = if pa ≤ x ∧ x < pa + bs.length then bs.getD (x - pa) 0 else s.mem.read x) ∧
    (classReaches s cls pa bs.length true = false → exec (.fomorCoreAccess cls pa (.write bs)) s = .next { s with
      denials := s.denials ++ deniers s cls pa bs.length true })) ∧
  (∀ (s : State) (off n : Nat), off < 2 ^ 40 → HostMay s off false →
    ∃ s', exec (.fomorCoreAccess .fomor (0x70000000000 + off) (.read n)) s = .next s' ∧
      s'.replies = s.replies ++ [.data ((List.range n).map (fun i => s.registerByte (off + i)))] ∧ s'.mem = s.mem) ∧
  (∀ (s : State) (cls : ReqClass) (pa : Nat) (acc : OutAccess), s.power = .active → s.recovery = true →
    pa < 0x70000000200 ∨ 0x70000000210 ≤ pa → exec (.fomorCoreAccess cls pa acc) s = .next s) ∧
  (∀ (s : State) (p : Fin 4) (pa n page reg : Nat) (v : Word), s.power = .active → s.recovery = false → s.linkTo p.val = true →
    (isLocal pa = true → s.linkWaits p.val pa = false → classReaches s (.peer p) pa n false = true → exec (.tetherRequest p (.mem pa (.read n))) s = .next { s with
      replies := s.replies ++ [.data ((List.range n).map (fun i => s.mem.read (pa + i)))] }) ∧
    (isLocal pa = false → exec (.tetherRequest p (.mem pa (.read n))) s = .next s) ∧
    (HostMay s (0x1000000 + 4096 * page + 64 * reg + 0x10) true →
      s.linkWaits p.val (0x70000000000 + (0x1000000 + 4096 * page + 64 * reg)) = false →
      exec (.tetherRequest p (.notify page reg v)) s = exec (.notifyProdWrite page reg v) s)) ∧
  (∀ (s : State) (k : Fin 4) (l : Link), s.links[k.val]? = some l →
    (l.down = none → exec (.linkDown k) s = .next { s with links := s.links.set k.val { l with down := some s.time } }) ∧
    (∀ t, l.down = some t → t + 10 ^ 12 ≤ s.time →
      exec (.linkOutOfService k) s = .next { s with links := s.links.set k.val { l with outOfService := true } }))

/-- Every context's ballast store has room for the PRESENT lines that must be kept (R185, R202, R301). -/
def Sys2Proof.Stmt.BallastRoom (s : State) : Prop :=
  ∀ c ∈ s.ctxs, (s.envLines.filter (fun l => l.ctx == c.id && (l.held || s.mustKeep l))).length ≤ s.ballastEntries c.id

/-- Nothing is on its way (R301, log entry 137): no sector, no reduction, no miss, no replay, and no walk of a context with page tables. -/
def Sys2Proof.Stmt.Still (s : State) : Prop :=
  s.landings = [] ∧ s.reds = [] ∧ s.misses = [] ∧ s.overflow = [] ∧ s.replays = [] ∧ ∀ w ∈ s.walks, s.enabled w.ctx = false

/-- R298 to R301: the arbiter picks the largest F from 32 to 64 whose prediction fits, without gating, or else F = 32 and the largest G from 1
that fits; cores take F between instructions; DEEP_OFF is refused while a context runs, a fill is pending or a ballast store has no room for the
PRESENT lines it must take, in which case CSTAT bit 1 is set, and waits while an access is on its way that may still wait for a fill (log entry 137,
DESIGN CHOICE); otherwise it drops the caches, holds the lines that must stay and drops the others, and
with every context pre-empted and nothing on its way keeps everything else; a wake verifies firmware again; a reset keeps memory and starts without work, in recovery if the image is
refused; an identity report answers a nonce of 32 bytes. Which images verify and what is signed are free values. What a reset and DEEP_OFF keep
besides, and the phase of a cycle after a change of clock, are the model's choices (log entries 48, 60, 62). -/
def Sys2Proof.Stmt.PowerEvents : Prop :=
  (∀ (s : State), (s.interval + 1) * 10 ^ 12 ≤ s.time → ∃ s', exec .powerArbiterInterval s = .next s' ∧ s'.interval = s.interval + 1 ∧
    s'.mem = s.mem ∧ s'.threads = s.threads ∧
    (∀ f, 32 ≤ f → f ≤ 64 → Config.powerFits s.interval f 64 = true → (∀ k, f < k → k ≤ 64 → Config.powerFits s.interval k 64 = false) →
      s'.factor = f ∧ s'.gate = 64) ∧
    ((∀ f, 32 ≤ f → f ≤ 64 → Config.powerFits s.interval f 64 = false) → s'.factor = 32 ∧
      (∀ g, 1 ≤ g → g ≤ 64 → Config.powerFits s.interval 32 g = true → (∀ k, g < k → k ≤ 64 → Config.powerFits s.interval 32 k = false) →
        s'.gate = g))) ∧
  (∀ (s : State) (n : Nat) (k : Core), s.cur = .idle → s.cores[n]? = some k → k.f ≠ s.factor →
    exec (.clockFactorChange n) s = .next { s with cores := s.cores.set n { k with f := s.factor, rem := 0 } }) ∧
  (∀ (s : State), s.power = .active → s.cur = .idle → (∀ c ∈ s.ctxs, c.regs.ptroot = 0 ∨ c.preempted = true) → s.fills = [] →
    Still s → s.acks = [] → (∀ t ∈ s.teams, ∀ n, t.place ≠ .retained n) → BallastRoom s →
    ∃ s', exec .deepPowerOff s = .next s' ∧ s'.power = .deepOff ∧ s'.l1 = [] ∧ s'.icache = [] ∧ s'.layouts = [] ∧ s'.tlb = [] ∧
      s'.pcTable = [] ∧ s'.buffers = [] ∧ s'.monitors = [] ∧ s'.landings = [] ∧ s'.acks = [] ∧ s'.reds = [] ∧ s'.walks = [] ∧
      s'.misses = [] ∧ s'.replays = [] ∧ s'.queries = [] ∧ s'.images = [] ∧
      ((∀ c ∈ s.ctxs, c.preempted = true) → s.monitors = [] → s' = { s with
        power := .deepOff, l1 := [], icache := [], layouts := [], tlb := [], pcTable := [], buffers := [], walks := [], pins := [], queries := []
        images := []
        envLines := (s.envLines.filter (fun l => l.held || s.mustKeep l)).map (fun l => { l with held := true }),
        locks := s'.locks, banks := s'.banks })) ∧
  (∀ (s : State), s.power = .active → s.cur = .idle → (∃ c ∈ s.ctxs, c.regs.ptroot ≠ 0 ∧ c.preempted = false) ∨ s.fills ≠ [] →
    exec .deepPowerOff s = .next s) ∧
  (∀ (s : State), s.landings = [] → s.reds = [] → s.acks = [] → (∀ t ∈ s.teams, ∀ n, t.place ≠ .retained n) → ¬Still s →
    exec .deepPowerOff s = .next s) ∧
  (∀ (s : State) (c : Ctx), s.power = .active → s.cur = .idle → s.ctxs = [c] → c.preempted = true → s.fills = [] →
    Still s → s.acks = [] → (∀ t ∈ s.teams, ∀ n, t.place ≠ .retained n) → ¬BallastRoom s →
    bitAt c.regs.cstat 1 = false →
    exec .deepPowerOff s = .next { s with
      ctxs := [{ c with regs := { c.regs with cstat := c.regs.cstat + 2 } }], irqs := s.irqs ++ [.cstat c.id] }) ∧
  (∀ (s : State), s.power = .deepOff → exec .wakeRequest s = .next { s with
    power := .active, recovery := s.recovery || (match s.firmware with
      | none => false
      | some f => !(Config.signatureOk f.body f.signature && decide (s.rollback ≤ f.version))) }) ∧
  (∀ (s : State) (img : FwImage), ∃ s', exec (.reset img) s = .next s' ∧ s'.mem = s.mem ∧ s'.threads = [] ∧ s'.grids = [] ∧ s'.cmds = [] ∧
    s'.power = .active ∧ s'.rollback = s.rollback ∧ s'.ctxs = State.reset.ctxs ∧
    (Config.signatureOk img.body img.signature = true → s.rollback ≤ img.version → s'.firmware = some img ∧ s'.recovery = false) ∧
    (Config.signatureOk img.body img.signature = false ∨ img.version < s.rollback → s'.firmware = none ∧ s'.recovery = true)) ∧
  (∀ (s : State) (nonce : List Byte) (f : FwImage), nonce.length = 32 → s.power = .active → s.recovery = false → s.firmware = some f →
    let d := Config.digest f.body
    exec (.identityReport nonce) s = .next { s with
      replies := s.replies ++ [.report nonce d s.rollback s.speeds (Config.identitySign nonce d s.rollback s.speeds)] })

/-! ### Rules stated whole, and the statements that group the parts above -/

namespace Sys2Proof.Stmt

/-- An FP32 word is a NaN. -/
def nan32 (w : Word) : Prop := 0x7F800000 < w.toNat % 2 ^ 31

/-- The order of FP32 words that are not NaN, with −0 below +0. -/
def order32 (w : Word) : Int := if w.getLsbD 31 then -((w.toNat % 2 ^ 31 : Nat) : Int) - 1 else (w.toNat : Int)

/-- The larger and the smaller of two FP32 words as R325 says, NaNs passed over. -/
def NumPick (f : Word → Word → Word) (larger : Bool) : Prop :=
  ∀ a b : Word,
    (nan32 a → nan32 b → f a b = 0x7FC00000) ∧ (nan32 a → ¬nan32 b → f a b = b) ∧ (¬nan32 a → nan32 b → f a b = a) ∧
    (¬nan32 a → ¬nan32 b → order32 a ≤ order32 b → f a b = if larger then b else a) ∧
    (¬nan32 a → ¬nan32 b → order32 b ≤ order32 a → f a b = if larger then a else b)

/-- The resident teams of a context (R281). -/
def residents (s : State) (ctx : Nat) : Nat := (s.teams.filter (fun t => t.ctx == ctx && t.core?.isSome)).length

/-- A context holds no more resident teams than before, or no more than its save area has slots (R281). -/
def Bounded (s s' : State) : Prop :=
  ∀ k c, s.ctx? k = some c → residents s' k ≤ max (residents s k) c.regs.saveslots

end Sys2Proof.Stmt

/-- R392: `NOP` does nothing: its word with the always-true guard is 0x03C00000, any non-zero bit among bits 20:0 makes the word illegal, any
guard is accepted, every thread of its flight continues at the next instruction, nothing else changes, and it never rendezvous. -/
def Obligations.NopDoesNothing : Prop :=
  decode 0x03C00000 0 = .ok (.nop ⟨7, false⟩) ∧
  (∀ w x : Word, w.toNat / 2 ^ 25 = 1 → w.toNat % 2 ^ 21 ≠ 0 → ∀ i, decode w x ≠ .ok i) ∧
  (∀ w x : Word, w.toNat / 2 ^ 25 = 1 → w.toNat % 2 ^ 21 = 0 → ∃ g, decode w x = .ok (.nop g)) ∧
  (∀ g (s : State) core ids rdv, s.cur = .flight core ids rdv → exec (.nop g) s = .next (laneNext s ids (fun t => { t with pc := t.pc + 4 }))) ∧
  (∀ g, (Instr.nop g).isConvergent = false) ∧
  (∀ (s s1 : State) (core : Nat) (ids : List ThreadId) (rdv : Bool) (lead : ThreadId) (t : Thread) (w x : Word),
    s.cur = .flight core ids rdv → leadOf s ids = some lead → s.thread? lead = some t → fetchPair s ids lead t.pc = (s1, some (w, x)) →
    w.toNat / 2 ^ 25 = 1 → w.toNat % 2 ^ 21 ≠ 0 →
    step s = .next (State.sweepTable { illegalEach s1 ids w with cur := .idle }))

/-- R325: the maximum and the minimum that atomics, reductions and crew reductions use on FP32 words: two NaNs give 0x7FC00000, one NaN
gives the other operand, and otherwise the larger, or the smaller, with −0 below +0. -/
def Obligations.NumberMaxMin : Prop :=
  NumPick (Sys2Proof.RedOp.combine .maxF32) true ∧ NumPick (Sys2Proof.RedOp.combine .minF32) false ∧
  NumPick (fun a b => (atomApply .maxF32 false (a.zeroExtend 64) (b.zeroExtend 64)).truncate 32) true

/-- R163: `%node` is special register 0x1D and reads the index of the node that launched the thread's team, and 0xFFFFFFFF in a team that
was not launched from a bin. -/
def Obligations.NodeRegister : Prop :=
  SReg.code .node = 0x1D ∧
  ∀ (s : State) (t : Thread) (tm : Team) (c : Crew) (g : Grid) (latch : Option Word),
    s.team? t.id.team = some tm → s.crew? t.id.crewId = some c → s.grid? tm.grid = some g →
    (∀ n, tm.node = some n → s.readSReg t latch .node = some (BitVec.ofNat 32 n)) ∧
    (tm.node = none → s.readSReg t latch .node = some 0xFFFFFFFF)

/-- R281: no placement makes a context hold more resident teams than its context-save area has slots: not the placement of a grid's units
and its offers, not BATCH_LAUNCH, and not the return of teams that are out. -/
def Obligations.ResidentBound : Prop :=
  (∀ (s s' : State) (gid : Nat), s.placeNext gid = some s' → Bounded s s') ∧
  (∀ (s : State) (gid n : Nat), Bounded s (State.placeGrid gid n s)) ∧ (∀ s : State, Bounded s s.offers) ∧
  (∀ (s s' : State) (ctx i : Nat), exec (.batchLaunch ctx i) s = .next s' → Bounded s s') ∧
  (∀ (s s' : State) (tm : Team) (g : Grid), (s.teams.map Team.id).Nodup → s.grid? tm.grid = some g →
    (∀ x ∈ s.teams, x.grid = tm.grid → x.ctx = g.ctx) → s.bringBack tm = some s' → Bounded s s')

/-- R292: PHMARGIN lies at offset 0x1010, reads 65,536 after reset, and holds what is written to it, from 0 to 2^32 − 1; the one register
applies to every context: an armed phase timer's limit is its count plus PHMARGIN, saturating. -/
def Obligations.PhaseMargin : Prop :=
  (List.range 4).map (fun i => State.registerByte .reset (0x1010 + i)) = [0, 0, 1, 0] ∧
  (∀ (s : State) (value : DWord), HostMay s 0x1010 true →
    ∃ s', exec (.registerWrite 0x1010 value) s = .next s' ∧ s' = { s with phmargin := value.toNat % 2 ^ 32 } ∧
      ∀ i, i < 4 → s'.registerByte (0x1010 + i) = BitVec.ofNat 8 (value.toNat % 2 ^ 32 / 2 ^ (8 * i))) ∧
  (∀ (o : OpPhase) (s : State) (c : Crew), OneCrew s c → c.guard o.g = true →
    ∃ s', exec (.phase o) s = .next s' ∧
      (s'.crew? c.id).map Crew.phLimit = some (min ((c.reg o.kb.val).toNat + s.phmargin) 0xFFFFFFFF))

/-- R328, R361, R364, R365, R407: integer sums, products, high words, smaller and larger values, bitwise operations and shifts. -/
def Obligations.IntegerArithmetic : Prop :=
  Sys2Proof.Stmt.IntegerSums ∧ Sys2Proof.Stmt.IntegerHighAndOrder ∧ Sys2Proof.Stmt.Bitwise ∧ Sys2Proof.Stmt.Shifts

/-- R312, R361 to R363, R383, R390, R391, R404: 64-bit sums and addresses, moves, constants, selects and integer compares. -/
def Obligations.MovesAndCompares : Prop :=
  Sys2Proof.Stmt.PairsAndMoves ∧ Sys2Proof.Stmt.IntegerCompares

/-- R212, R352, R358: exact results rounded once, and the larger and the smaller number. -/
def Obligations.FloatArithmetic : Prop :=
  Sys2Proof.Stmt.FloatSums ∧ Sys2Proof.Stmt.FloatMinMax

/-- R213, R214, R216 to R218, R347, R398: conversions and quantization. -/
def Obligations.Conversions : Prop :=
  Sys2Proof.Stmt.ConvertToInteger ∧ Sys2Proof.Stmt.ConvertFormats ∧ Sys2Proof.Stmt.NarrowCodes ∧ Sys2Proof.Stmt.SaturateF8 ∧
  Sys2Proof.Stmt.ConvertAndQuantize

/-- R23: the threads of a flight act as though each had issued alone, and a thread whose guard is false continues. -/
def Obligations.FlightOrder : Prop :=
  Sys2Proof.Stmt.FlightIsSequential ∧ Sys2Proof.Stmt.GuardFalseContinues

/-- R27, R345, R346, R348, R405, R406, R418: what the crew collectives give their threads. -/
def Obligations.CrewCollectives : Prop :=
  Sys2Proof.Stmt.Shuffle ∧ Sys2Proof.Stmt.VotesAndElection ∧ Sys2Proof.Stmt.CrewReduction

/-- R76 to R79, R96, R305, R381, R413: scratchpad loads and stores, their traps and their wait. -/
def Obligations.ScratchpadAccess : Prop :=
  Sys2Proof.Stmt.ScratchpadLoad ∧ Sys2Proof.Stmt.ScratchpadStore ∧ Sys2Proof.Stmt.ScratchpadTraps

/-- R106, R107, R379, R380, R410: global loads and stores. -/
def Obligations.GlobalAccess : Prop :=
  Sys2Proof.Stmt.GlobalLoad ∧ Sys2Proof.Stmt.GlobalStore

/-- R123, R330, R341: returning atomics and their operations. -/
def Obligations.AtomicAccess : Prop :=
  Sys2Proof.Stmt.Atomics ∧ Sys2Proof.Stmt.AtomicOperations

/-- R276, R304, R336, R338, R340: branches, calls and indirect transfers. -/
def Obligations.Branches : Prop :=
  Sys2Proof.Stmt.DirectBranches ∧ Sys2Proof.Stmt.IndirectBranches

/-- R270, R271, R274, R275, R417: `TRET` in its three forms. -/
def Obligations.ReturnFromHandler : Prop :=
  Sys2Proof.Stmt.ReturnInside ∧ Sys2Proof.Stmt.ReturnOutside

/-- R26, R34, R35, R44, R147, R350: `EXIT`, `YIELD`, THREAD_AGEING and DEMOTION_EXPIRY. -/
def Obligations.ThreadExitAndYield : Prop :=
  Sys2Proof.Stmt.ThreadExit ∧ Sys2Proof.Stmt.YieldAndAge

/-- R315, R316, R376, R409: special registers and their reads. -/
def Obligations.SpecialRegisters : Prop :=
  Sys2Proof.Stmt.SpecialValues ∧ Sys2Proof.Stmt.ReadSpecial

/-- R312, R366 to R368, R370, R373 to R375: uniform arithmetic, compares, selects and moves. -/
def Obligations.UniformArithmetic : Prop :=
  Sys2Proof.Stmt.UniformRegisters ∧ Sys2Proof.Stmt.UniformSelects

/-- R228, R278, R314, R339, R355, R360, R369, R395, R403: uniform branches, guard slots, timers, arms and fences. -/
def Obligations.UniformControl : Prop :=
  Sys2Proof.Stmt.UniformBranches ∧ Sys2Proof.Stmt.UniformSettings

/-- R226, R227, R231 to R237, R261, R262, R384 to R389, R393: matrix commands and `PAIRS` enter their queues. That a bank is no longer held for
issue once its release has issued is the model's reading (log entry 47). -/
def Obligations.MatrixIssue : Prop :=
  Sys2Proof.Stmt.MatrixCommandsIssue ∧ Sys2Proof.Stmt.PairsIssue

/-- R9, R19 to R22, R26, R33 to R35, R60: FLIGHT_ISSUE and RENDEZVOUS_COMPLETION. -/
def Obligations.Scheduling : Prop :=
  Sys2Proof.Stmt.FlightIssue ∧ Sys2Proof.Stmt.RendezvousCompletion

/-- R67, R274, R277, R278, R380: timers, wakes, load returns and soft errors (log entries 16 and 105, the model's choices). -/
def Obligations.TimersAndErrors : Prop :=
  Sys2Proof.Stmt.TimersAndWakes ∧ Sys2Proof.Stmt.SoftErrors

/-- R108, R110, R111, R124, R135, R136, R185, R187: landings, acknowledgements, evictions and misses (log entries 114 and 125, the model's
choices). -/
def Obligations.MemoryEvents : Prop :=
  Sys2Proof.Stmt.LandingsAndAcknowledgements ∧ Sys2Proof.Stmt.EvictionsAndMisses

/-- R41, R69 to R71, R170, R171, R467: notify registers and rings, argument images, batches and retirement. -/
def Obligations.WorkDistribution : Prop :=
  Sys2Proof.Stmt.NotifyRegisters ∧ Sys2Proof.Stmt.RingEntries ∧ Sys2Proof.Stmt.ArgumentImages ∧ Sys2Proof.Stmt.Batches ∧ Sys2Proof.Stmt.Retirement

/-- R220 to R223, R229 to R239, R241, R243, R244, R389: the events of the copy and matrix engines, what they move and what they compute (log entries
46, 47, 98 and 116). -/
def Obligations.EngineCommands : Prop :=
  Sys2Proof.Stmt.QueueHeads ∧ Sys2Proof.Stmt.Copies ∧ Sys2Proof.Stmt.PlainCopies ∧ Sys2Proof.Stmt.MxfpCopies ∧
    Sys2Proof.Stmt.MatrixCommands ∧ Sys2Proof.Stmt.MatrixSums

/-- R175, R253 to R258, R263 to R265: the events of the traversal units, what a ray hits, which hit wins, and the order of pairs. -/
def Obligations.TraversalCommands : Prop :=
  Sys2Proof.Stmt.Queries ∧ Sys2Proof.Stmt.QueryContinuations ∧ Sys2Proof.Stmt.RayTests ∧ Sys2Proof.Stmt.HitOrder ∧
    Sys2Proof.Stmt.PairsCommands ∧ Sys2Proof.Stmt.PairOrder

/-- R62, R67, R68, R279, R280, R282 to R286, R468: pre-emption, restore, what an image gives back, removal and swapping (log entries 41, 43, 44,
63). -/
def Obligations.SavingAndSwapping : Prop :=
  Sys2Proof.Stmt.SaveAndRemove ∧ Sys2Proof.Stmt.ImageRoundTrip ∧ Sys2Proof.Stmt.SavedTeamReturns ∧ Sys2Proof.Stmt.Swapping

/-- R288, R289, R291, R292, R295, R297, R298: register writes, accesses from outside and links (log entries 54, 58 and 59). -/
def Obligations.RegistersAndAccess : Prop :=
  Sys2Proof.Stmt.RegisterWrites ∧ Sys2Proof.Stmt.OutsideAccess

/-- R95, R162, R182, R290: the context commands on tables and translations, and their completion (log entry 52). -/
def Obligations.ContextCommands : Prop :=
  Sys2Proof.Stmt.TableCommands

/-- R298 to R301: power, firmware and identity (log entries 48, 60 and 62). -/
def Obligations.PowerAndIdentity : Prop :=
  Sys2Proof.Stmt.PowerEvents
end

