-- ==== Sys2Proof/Laws/Lists.lean ====
section
/-!
SUPPORT. What the list helpers of the machine do: replacing an element, changing the elements that a test picks, looking one up
after such a change, association lists.
-/

namespace Sys2Proof.Laws
open Sys2Proof Sys2Proof.Machine

@[simp] theorem setAt_eq_set {α : Type} (l : List α) (n : Nat) (y : α) : setAt l n y = l.set n y := by
  induction l generalizing n with
  | nil => rfl
  | cons x xs ih => cases n <;> simp [setAt, ih]

theorem updWhere_eq_map {α : Type} (p : α → Bool) (f : α → α) (l : List α) :
    updWhere p f l = l.map (fun x => if p x then f x else x) := rfl

@[simp] theorem length_updWhere {α : Type} (p : α → Bool) (f : α → α) (l : List α) : (updWhere p f l).length = l.length := by
  simp [updWhere]

@[simp] theorem updWhere_id {α : Type} (p : α → Bool) (l : List α) : updWhere p id l = l := by
  simp [updWhere]

theorem mem_updWhere {α : Type} (p : α → Bool) (f : α → α) (l : List α) (y : α) :
    y ∈ updWhere p f l ↔ ∃ x ∈ l, (if p x then f x else x) = y := by
  simp [updWhere]

/-- Nothing changes where the test picks nothing. -/
theorem updWhere_eq_self {α : Type} (p : α → Bool) (f : α → α) (l : List α) (h : ∀ x ∈ l, p x = true → f x = x) :
    updWhere p f l = l := by
  induction l with
  | nil => rfl
  | cons x xs ih =>
    have hx := h x (by simp)
    have := ih (fun y hy => h y (by simp [hy]))
    simp only [updWhere, List.map_cons] at this ⊢
    rw [this]
    by_cases hp : p x = true <;> simp [hp, hx]

/-- The element with a key, after the elements with that key were changed by a function that keeps keys. -/
theorem find?_updWhere_self {α κ : Type} [BEq κ] [LawfulBEq κ] (key : α → κ) (k : κ) (f : α → α) (l : List α)
    (hf : ∀ x, key x = k → key (f x) = k) :
    (updWhere (fun x => key x == k) f l).find? (fun x => key x == k) = (l.find? (fun x => key x == k)).map f := by
  induction l with
  | nil => rfl
  | cons x xs ih =>
    have ih' : List.find? (fun x => key x == k) (List.map (fun x => if (key x == k) = true then f x else x) xs) =
      Option.map f (List.find? (fun x => key x == k) xs) := ih
    by_cases hx : key x = k
    · simp [updWhere, hx, hf x hx]
    · simp [updWhere, hx, ih']

/-- The element with another key is untouched. -/
theorem find?_updWhere_of_ne {α κ : Type} [BEq κ] [LawfulBEq κ] (key : α → κ) (k j : κ) (f : α → α) (l : List α)
    (hf : ∀ x, key x = k → key (f x) = k) (h : j ≠ k) :
    (updWhere (fun x => key x == k) f l).find? (fun x => key x == j) = l.find? (fun x => key x == j) := by
  induction l with
  | nil => rfl
  | cons x xs ih =>
    have ih' : List.find? (fun x => key x == j) (List.map (fun x => if (key x == k) = true then f x else x) xs) =
      List.find? (fun x => key x == j) xs := ih
    by_cases hx : key x = k
    · have hj : ¬ k = j := fun e => h e.symm
      simp [updWhere, hx, hf x hx, hj, ih']
    · by_cases hj : key x = j <;> simp [updWhere, hx, hj, ih', h]

/-- A key that is set reads as the value. -/
theorem assocD_assocSet_self {α : Type} (l : List (Nat × α)) (k : Nat) (v d : α) : assocD (assocSet l k v) k d = v := by
  induction l with
  | nil => simp [assocSet, assocD]
  | cons x xs ih =>
    obtain ⟨j, w⟩ := x
    by_cases h : j = k
    · simp [assocSet, assocD, h]
    · simpa [assocSet, assocD, h] using ih

/-- Another key reads as before. -/
theorem assocD_assocSet_of_ne {α : Type} (l : List (Nat × α)) (k j : Nat) (v d : α) (h : j ≠ k) :
    assocD (assocSet l k v) j d = assocD l j d := by
  have hk : ¬ k = j := fun e => h e.symm
  induction l with
  | nil => simp [assocSet, assocD, hk]
  | cons x xs ih =>
    obtain ⟨i, w⟩ := x
    by_cases hi : i = k
    · subst hi; simp [assocSet, assocD, hk]
    · by_cases hj : i = j
      · subst hj; simp [assocSet, assocD, hi]
      · simpa [assocSet, assocD, hi, hj] using ih

end Sys2Proof.Laws
end

