-- ==== Sys2Proof/Laws/Lookup.lean ====
section
/-!
SUPPORT. What a unit is after a unit of its kind was changed: the changed one is the function's result, the others are as before. Each
change must keep the unit's own name.
-/

namespace Sys2Proof.Laws
open Sys2Proof Sys2Proof.Machine

theorem thread_modThread_self (s : State) (i : ThreadId) (f : Thread → Thread) (hf : ∀ x, x.id = i → (f x).id = i) :
    (s.modThread i f).thread? i = (s.thread? i).map f := find?_updWhere_self Thread.id i f _ hf

theorem thread_modThread_of_ne (s : State) (i j : ThreadId) (f : Thread → Thread) (hf : ∀ x, x.id = i → (f x).id = i) (h : j ≠ i) :
    (s.modThread i f).thread? j = s.thread? j := find?_updWhere_of_ne Thread.id i j f _ hf h

/-- A lookup answers a unit of the name. -/
theorem thread_name {s : State} {i : ThreadId} {x : Thread} (h : s.thread? i = some x) : x.id = i := by
  simpa using List.find?_some h

/-- A lookup answers a unit of the list. -/
theorem thread_mem {s : State} {i : ThreadId} {x : Thread} (h : s.thread? i = some x) :
    x ∈ s.threads := List.mem_of_find?_eq_some h

theorem crew_modCrew_self (s : State) (i : CrewId) (f : Crew → Crew) (hf : ∀ x, x.id = i → (f x).id = i) :
    (s.modCrew i f).crew? i = (s.crew? i).map f := find?_updWhere_self Crew.id i f _ hf

theorem crew_modCrew_of_ne (s : State) (i j : CrewId) (f : Crew → Crew) (hf : ∀ x, x.id = i → (f x).id = i) (h : j ≠ i) :
    (s.modCrew i f).crew? j = s.crew? j := find?_updWhere_of_ne Crew.id i j f _ hf h

/-- A lookup answers a unit of the name. -/
theorem crew_name {s : State} {i : CrewId} {x : Crew} (h : s.crew? i = some x) : x.id = i := by
  simpa using List.find?_some h

/-- A lookup answers a unit of the list. -/
theorem crew_mem {s : State} {i : CrewId} {x : Crew} (h : s.crew? i = some x) :
    x ∈ s.crews := List.mem_of_find?_eq_some h

theorem team_modTeam_self (s : State) (i : Nat) (f : Team → Team) (hf : ∀ x, x.id = i → (f x).id = i) :
    (s.modTeam i f).team? i = (s.team? i).map f := find?_updWhere_self Team.id i f _ hf

theorem team_modTeam_of_ne (s : State) (i j : Nat) (f : Team → Team) (hf : ∀ x, x.id = i → (f x).id = i) (h : j ≠ i) :
    (s.modTeam i f).team? j = s.team? j := find?_updWhere_of_ne Team.id i j f _ hf h

/-- A lookup answers a unit of the name. -/
theorem team_name {s : State} {i : Nat} {x : Team} (h : s.team? i = some x) : x.id = i := by
  simpa using List.find?_some h

/-- A lookup answers a unit of the list. -/
theorem team_mem {s : State} {i : Nat} {x : Team} (h : s.team? i = some x) :
    x ∈ s.teams := List.mem_of_find?_eq_some h

theorem grid_modGrid_self (s : State) (i : Nat) (f : Grid → Grid) (hf : ∀ x, x.id = i → (f x).id = i) :
    (s.modGrid i f).grid? i = (s.grid? i).map f := find?_updWhere_self Grid.id i f _ hf

theorem grid_modGrid_of_ne (s : State) (i j : Nat) (f : Grid → Grid) (hf : ∀ x, x.id = i → (f x).id = i) (h : j ≠ i) :
    (s.modGrid i f).grid? j = s.grid? j := find?_updWhere_of_ne Grid.id i j f _ hf h

/-- A lookup answers a unit of the name. -/
theorem grid_name {s : State} {i : Nat} {x : Grid} (h : s.grid? i = some x) : x.id = i := by
  simpa using List.find?_some h

/-- A lookup answers a unit of the list. -/
theorem grid_mem {s : State} {i : Nat} {x : Grid} (h : s.grid? i = some x) :
    x ∈ s.grids := List.mem_of_find?_eq_some h

theorem ctx_modCtx_self (s : State) (i : Nat) (f : Ctx → Ctx) (hf : ∀ x, x.id = i → (f x).id = i) :
    (s.modCtx i f).ctx? i = (s.ctx? i).map f := find?_updWhere_self Ctx.id i f _ hf

theorem ctx_modCtx_of_ne (s : State) (i j : Nat) (f : Ctx → Ctx) (hf : ∀ x, x.id = i → (f x).id = i) (h : j ≠ i) :
    (s.modCtx i f).ctx? j = s.ctx? j := find?_updWhere_of_ne Ctx.id i j f _ hf h

/-- A lookup answers a unit of the name. -/
theorem ctx_name {s : State} {i : Nat} {x : Ctx} (h : s.ctx? i = some x) : x.id = i := by
  simpa using List.find?_some h

/-- A lookup answers a unit of the list. -/
theorem ctx_mem {s : State} {i : Nat} {x : Ctx} (h : s.ctx? i = some x) :
    x ∈ s.ctxs := List.mem_of_find?_eq_some h

theorem cmd_modCmd_self (s : State) (i : Nat) (f : EngCmd → EngCmd) (hf : ∀ x, x.id = i → (f x).id = i) :
    (s.modCmd i f).cmd? i = (s.cmd? i).map f := find?_updWhere_self EngCmd.id i f _ hf

theorem cmd_modCmd_of_ne (s : State) (i j : Nat) (f : EngCmd → EngCmd) (hf : ∀ x, x.id = i → (f x).id = i) (h : j ≠ i) :
    (s.modCmd i f).cmd? j = s.cmd? j := find?_updWhere_of_ne EngCmd.id i j f _ hf h

/-- A lookup answers a unit of the name. -/
theorem cmd_name {s : State} {i : Nat} {x : EngCmd} (h : s.cmd? i = some x) : x.id = i := by
  simpa using List.find?_some h

/-- A lookup answers a unit of the list. -/
theorem cmd_mem {s : State} {i : Nat} {x : EngCmd} (h : s.cmd? i = some x) :
    x ∈ s.cmds := List.mem_of_find?_eq_some h

theorem query_modQuery_self (s : State) (i : Nat) (f : Query → Query) (hf : ∀ x, x.id = i → (f x).id = i) :
    (s.modQuery i f).query? i = (s.query? i).map f := find?_updWhere_self Query.id i f _ hf

theorem query_modQuery_of_ne (s : State) (i j : Nat) (f : Query → Query) (hf : ∀ x, x.id = i → (f x).id = i) (h : j ≠ i) :
    (s.modQuery i f).query? j = s.query? j := find?_updWhere_of_ne Query.id i j f _ hf h

/-- A lookup answers a unit of the name. -/
theorem query_name {s : State} {i : Nat} {x : Query} (h : s.query? i = some x) : x.id = i := by
  simpa using List.find?_some h

/-- A lookup answers a unit of the list. -/
theorem query_mem {s : State} {i : Nat} {x : Query} (h : s.query? i = some x) :
    x ∈ s.queries := List.mem_of_find?_eq_some h

theorem fill_modFill_self (s : State) (i : Nat) (f : Fill → Fill) (hf : ∀ x, x.pfid = i → (f x).pfid = i) :
    (s.modFill i f).fill? i = (s.fill? i).map f := find?_updWhere_self Fill.pfid i f _ hf

theorem fill_modFill_of_ne (s : State) (i j : Nat) (f : Fill → Fill) (hf : ∀ x, x.pfid = i → (f x).pfid = i) (h : j ≠ i) :
    (s.modFill i f).fill? j = s.fill? j := find?_updWhere_of_ne Fill.pfid i j f _ hf h

/-- A lookup answers a unit of the name. -/
theorem fill_name {s : State} {i : Nat} {x : Fill} (h : s.fill? i = some x) : x.pfid = i := by
  simpa using List.find?_some h

/-- A lookup answers a unit of the list. -/
theorem fill_mem {s : State} {i : Nat} {x : Fill} (h : s.fill? i = some x) :
    x ∈ s.fills := List.mem_of_find?_eq_some h

end Sys2Proof.Laws
end

