-- ==== Sys2Proof/Laws/Memory.lean ====
section
/-!
SUPPORT. The laws of memory: every operation keeps the canonical form, a byte reads as what was last written to it, and a write leaves
every other byte alone. The statement that reads and writes agree over the forms the instructions use is an obligation.
-/

namespace Sys2Proof.Laws
open Sys2Proof Sys2Proof.Machine

/-! ### The canonical form -/

/-- A canonical list above `n` is canonical above every smaller bound. -/
theorem wfFrom_mono {m : Memory} {lo hi : Nat} (h : lo ≤ hi) (w : Memory.wfFrom (some hi) m = true) :
    Memory.wfFrom (some lo) m = true := by
  cases m with
  | nil => rfl
  | cons x xs =>
    obtain ⟨k, b⟩ := x
    simp only [Memory.wfFrom, Bool.and_eq_true, decide_eq_true_eq] at w ⊢
    exact ⟨⟨by omega, w.1.2⟩, w.2⟩

/-- Removing an address keeps the form. -/
theorem wfFrom_erase {m : Memory} {lo : Option Nat} (a : Nat) (w : Memory.wfFrom lo m = true) :
    Memory.wfFrom lo (m.erase a) = true := by
  induction m generalizing lo with
  | nil => exact w
  | cons x xs ih =>
    obtain ⟨k, b⟩ := x
    simp only [Memory.wfFrom, Bool.and_eq_true] at w
    have t := ih w.2
    by_cases hk : k = a
    · simp only [Memory.erase, hk, if_true]
      cases lo with
      | none =>
        cases e : Memory.erase xs a with
        | nil => rfl
        | cons y ys =>
          rw [hk, e] at t
          simp only [Memory.wfFrom, Bool.and_eq_true] at t ⊢
          exact ⟨⟨trivial, t.1.2⟩, t.2⟩
      | some n =>
        have hn : n < k := by simpa using w.1.1
        exact wfFrom_mono (Nat.le_of_lt (hk ▸ hn)) (hk ▸ t)
    · simp only [Memory.erase, hk, if_false, Memory.wfFrom, Bool.and_eq_true]
      exact ⟨w.1, t⟩

/-- Putting a byte that is not 0x00 above the bound keeps the form. -/
theorem wfFrom_insert {m : Memory} {lo : Option Nat} (a : Nat) {b : Byte} (hb : b ≠ 0#8) (hlo : ∀ n, lo = some n → n < a)
    (w : Memory.wfFrom lo m = true) : Memory.wfFrom lo (m.insert a b) = true := by
  have hb' : (b != 0#8) = true := by simpa using hb
  induction m generalizing lo with
  | nil => cases lo with
    | none => simp [Memory.insert, Memory.wfFrom, hb']
    | some n => simpa [Memory.insert, Memory.wfFrom, hb'] using hlo n rfl
  | cons x xs ih =>
    obtain ⟨k, c⟩ := x
    simp only [Memory.wfFrom, Bool.and_eq_true] at w
    by_cases h1 : a < k
    · simp only [Memory.insert, h1, if_true, Memory.wfFrom, Bool.and_eq_true]
      refine ⟨⟨?_, hb'⟩, ⟨by simp, w.1.2⟩, w.2⟩
      cases lo with
      | none => rfl
      | some n => simpa using hlo n rfl
    · by_cases h2 : a = k
      · simp only [Memory.insert, h2, Nat.lt_irrefl, if_false, if_true, Memory.wfFrom, Bool.and_eq_true]
        exact ⟨⟨w.1.1, hb'⟩, w.2⟩
      · simp only [Memory.insert, h1, h2, if_false, Memory.wfFrom, Bool.and_eq_true]
        exact ⟨w.1, ih (fun n hn => by cases hn; omega) w.2⟩

/-- Writing a byte keeps the form. -/
theorem wf_write {m : Memory} (a : Nat) (b : Byte) (w : m.wf = true) : (m.write a b).wf = true := by
  unfold Memory.write Memory.wf
  by_cases hb : b = 0#8
  · simp only [hb, if_true]; exact wfFrom_erase a w
  · simp only [hb, if_false]; exact wfFrom_insert a hb (by simp) w

/-- Writing bytes upwards keeps the form. -/
theorem wf_writeBytes {m : Memory} (a : Nat) (bs : List Byte) (w : m.wf = true) : (m.writeBytes a bs).wf = true := by
  induction bs generalizing m a with
  | nil => exact w
  | cons b bs ih => exact ih (a + 1) (wf_write a b w)

/-- Writing a number keeps the form. -/
theorem wf_writeNat {m : Memory} (a n x : Nat) (w : m.wf = true) : (m.writeNat a n x).wf = true := wf_writeBytes a _ w

/-- Writing separate bytes keeps the form. -/
theorem wf_writeAll {m : Memory} (bs : List (Nat × Byte)) (w : m.wf = true) : (m.writeAll bs).wf = true := by
  induction bs generalizing m with
  | nil => exact w
  | cons x xs ih => exact ih (wf_write x.1 x.2 w)

/-- The empty memory has the form. -/
theorem wf_nil : Memory.wf [] = true := rfl

/-- Memory after reset has the form. -/
theorem wf_reset : State.reset.mem.wf = true := rfl

/-! ### Reading after writing -/

theorem read_erase_self (m : Memory) (a : Nat) : (m.erase a).read a = 0#8 := by
  induction m with
  | nil => rfl
  | cons x xs ih =>
    obtain ⟨k, b⟩ := x
    by_cases h : k = a <;> simp [Memory.erase, Memory.read, h, ih]

theorem read_erase_of_ne (m : Memory) {a c : Nat} (h : c ≠ a) : (m.erase a).read c = m.read c := by
  induction m with
  | nil => rfl
  | cons x xs ih =>
    obtain ⟨k, b⟩ := x
    by_cases hk : k = a
    · have : ¬ a = c := fun e => h e.symm
      subst hk; simp [Memory.erase, Memory.read, ih, this]
    · simp [Memory.erase, Memory.read, hk, ih]

theorem read_insert_self (m : Memory) (a : Nat) (b : Byte) : (m.insert a b).read a = b := by
  induction m with
  | nil => simp [Memory.insert, Memory.read]
  | cons x xs ih =>
    obtain ⟨k, c⟩ := x
    by_cases h1 : a < k
    · simp [Memory.insert, Memory.read, h1]
    · by_cases h2 : a = k
      · simp [Memory.insert, Memory.read, h2]
      · have : ¬ k = a := fun e => h2 e.symm
        simp [Memory.insert, Memory.read, h1, h2, this, ih]

theorem read_insert_of_ne (m : Memory) {a c : Nat} (b : Byte) (h : c ≠ a) : (m.insert a b).read c = m.read c := by
  have h' : ¬ a = c := fun e => h e.symm
  induction m with
  | nil => simp [Memory.insert, Memory.read, h']
  | cons x xs ih =>
    obtain ⟨k, d⟩ := x
    by_cases h1 : a < k
    · simp [Memory.insert, Memory.read, h1, h']
    · by_cases h2 : a = k
      · subst h2; simp [Memory.insert, Memory.read, h']
      · simp [Memory.insert, Memory.read, h1, h2, ih]

/-- A byte reads as what was written to it. -/
@[simp] theorem read_write_self (m : Memory) (a : Nat) (b : Byte) : (m.write a b).read a = b := by
  unfold Memory.write
  by_cases hb : b = 0#8
  · simp [hb, read_erase_self]
  · simp [hb, read_insert_self]

/-- A write leaves every other byte alone. -/
theorem read_write_of_ne (m : Memory) {a c : Nat} (b : Byte) (h : c ≠ a) : (m.write a b).read c = m.read c := by
  unfold Memory.write
  by_cases hb : b = 0#8
  · simp [hb, read_erase_of_ne m h]
  · simp [hb, read_insert_of_ne m b h]

end Sys2Proof.Laws
end

