-- ==== Sys2Proof/Laws/State.lean ====
section
/-!
SUPPORT. One lemma for each field and each named change of the state, of a thread and of a crew: which field changes to what, and that
the others stay. All are simp lemmas, so that no proof unfolds a record update.
-/

namespace Sys2Proof.Laws
open Sys2Proof Sys2Proof.Machine

/-! ### Changes of one unit of the state -/

@[simp] theorem modThread_cur (s : State) (i : ThreadId) (f : Thread → Thread) : (s.modThread i f).cur = s.cur := rfl
@[simp] theorem modThread_agenda (s : State) (i : ThreadId) (f : Thread → Thread) : (s.modThread i f).agenda = s.agenda := rfl
@[simp] theorem modThread_oracle (s : State) (i : ThreadId) (f : Thread → Thread) : (s.modThread i f).oracle = s.oracle := rfl
@[simp] theorem modThread_freeCtr (s : State) (i : ThreadId) (f : Thread → Thread) : (s.modThread i f).freeCtr = s.freeCtr := rfl
@[simp] theorem modThread_replays (s : State) (i : ThreadId) (f : Thread → Thread) : (s.modThread i f).replays = s.replays := rfl
@[simp] theorem modThread_lastId (s : State) (i : ThreadId) (f : Thread → Thread) : (s.modThread i f).lastId = s.lastId := rfl
@[simp] theorem modThread_time (s : State) (i : ThreadId) (f : Thread → Thread) : (s.modThread i f).time = s.time := rfl
@[simp] theorem modThread_cores (s : State) (i : ThreadId) (f : Thread → Thread) : (s.modThread i f).cores = s.cores := rfl
@[simp] theorem modThread_speeds (s : State) (i : ThreadId) (f : Thread → Thread) : (s.modThread i f).speeds = s.speeds := rfl
@[simp] theorem modThread_threads (s : State) (i : ThreadId) (f : Thread → Thread) :
    (s.modThread i f).threads = updWhere (fun t => t.id == i) f s.threads := rfl
@[simp] theorem modThread_crews (s : State) (i : ThreadId) (f : Thread → Thread) : (s.modThread i f).crews = s.crews := rfl
@[simp] theorem modThread_commits (s : State) (i : ThreadId) (f : Thread → Thread) : (s.modThread i f).commits = s.commits := rfl
@[simp] theorem modThread_teams (s : State) (i : ThreadId) (f : Thread → Thread) : (s.modThread i f).teams = s.teams := rfl
@[simp] theorem modThread_units (s : State) (i : ThreadId) (f : Thread → Thread) : (s.modThread i f).units = s.units := rfl
@[simp] theorem modThread_grids (s : State) (i : ThreadId) (f : Thread → Thread) : (s.modThread i f).grids = s.grids := rfl
@[simp] theorem modThread_pcTable (s : State) (i : ThreadId) (f : Thread → Thread) : (s.modThread i f).pcTable = s.pcTable := rfl
@[simp] theorem modThread_l1 (s : State) (i : ThreadId) (f : Thread → Thread) : (s.modThread i f).l1 = s.l1 := rfl
@[simp] theorem modThread_icache (s : State) (i : ThreadId) (f : Thread → Thread) : (s.modThread i f).icache = s.icache := rfl
@[simp] theorem modThread_layouts (s : State) (i : ThreadId) (f : Thread → Thread) : (s.modThread i f).layouts = s.layouts := rfl
@[simp] theorem modThread_tlb (s : State) (i : ThreadId) (f : Thread → Thread) : (s.modThread i f).tlb = s.tlb := rfl
@[simp] theorem modThread_buffers (s : State) (i : ThreadId) (f : Thread → Thread) : (s.modThread i f).buffers = s.buffers := rfl
@[simp] theorem modThread_mem (s : State) (i : ThreadId) (f : Thread → Thread) : (s.modThread i f).mem = s.mem := rfl
@[simp] theorem modThread_envLines (s : State) (i : ThreadId) (f : Thread → Thread) : (s.modThread i f).envLines = s.envLines := rfl
@[simp] theorem modThread_locks (s : State) (i : ThreadId) (f : Thread → Thread) : (s.modThread i f).locks = s.locks := rfl
@[simp] theorem modThread_monitors (s : State) (i : ThreadId) (f : Thread → Thread) : (s.modThread i f).monitors = s.monitors := rfl
@[simp] theorem modThread_landings (s : State) (i : ThreadId) (f : Thread → Thread) : (s.modThread i f).landings = s.landings := rfl
@[simp] theorem modThread_acks (s : State) (i : ThreadId) (f : Thread → Thread) : (s.modThread i f).acks = s.acks := rfl
@[simp] theorem modThread_reds (s : State) (i : ThreadId) (f : Thread → Thread) : (s.modThread i f).reds = s.reds := rfl
@[simp] theorem modThread_walks (s : State) (i : ThreadId) (f : Thread → Thread) : (s.modThread i f).walks = s.walks := rfl
@[simp] theorem modThread_misses (s : State) (i : ThreadId) (f : Thread → Thread) : (s.modThread i f).misses = s.misses := rfl
@[simp] theorem modThread_fills (s : State) (i : ThreadId) (f : Thread → Thread) : (s.modThread i f).fills = s.fills := rfl
@[simp] theorem modThread_cmds (s : State) (i : ThreadId) (f : Thread → Thread) : (s.modThread i f).cmds = s.cmds := rfl
@[simp] theorem modThread_banks (s : State) (i : ThreadId) (f : Thread → Thread) : (s.modThread i f).banks = s.banks := rfl
@[simp] theorem modThread_queries (s : State) (i : ThreadId) (f : Thread → Thread) : (s.modThread i f).queries = s.queries := rfl
@[simp] theorem modThread_images (s : State) (i : ThreadId) (f : Thread → Thread) : (s.modThread i f).images = s.images := rfl
@[simp] theorem modThread_ctxs (s : State) (i : ThreadId) (f : Thread → Thread) : (s.modThread i f).ctxs = s.ctxs := rfl
@[simp] theorem modThread_notify (s : State) (i : ThreadId) (f : Thread → Thread) : (s.modThread i f).notify = s.notify := rfl
@[simp] theorem modThread_pageCtx (s : State) (i : ThreadId) (f : Thread → Thread) : (s.modThread i f).pageCtx = s.pageCtx := rfl
@[simp] theorem modThread_phmargin (s : State) (i : ThreadId) (f : Thread → Thread) : (s.modThread i f).phmargin = s.phmargin := rfl
@[simp] theorem modThread_irqs (s : State) (i : ThreadId) (f : Thread → Thread) : (s.modThread i f).irqs = s.irqs := rfl
@[simp] theorem modThread_rights (s : State) (i : ThreadId) (f : Thread → Thread) : (s.modThread i f).rights = s.rights := rfl
@[simp] theorem modThread_denials (s : State) (i : ThreadId) (f : Thread → Thread) : (s.modThread i f).denials = s.denials := rfl
@[simp] theorem modThread_links (s : State) (i : ThreadId) (f : Thread → Thread) : (s.modThread i f).links = s.links := rfl
@[simp] theorem modThread_peer (s : State) (i : ThreadId) (f : Thread → Thread) : (s.modThread i f).peer = s.peer := rfl
@[simp] theorem modThread_replies (s : State) (i : ThreadId) (f : Thread → Thread) : (s.modThread i f).replies = s.replies := rfl
@[simp] theorem modThread_interval (s : State) (i : ThreadId) (f : Thread → Thread) : (s.modThread i f).interval = s.interval := rfl
@[simp] theorem modThread_factor (s : State) (i : ThreadId) (f : Thread → Thread) : (s.modThread i f).factor = s.factor := rfl
@[simp] theorem modThread_gate (s : State) (i : ThreadId) (f : Thread → Thread) : (s.modThread i f).gate = s.gate := rfl
@[simp] theorem modThread_power (s : State) (i : ThreadId) (f : Thread → Thread) : (s.modThread i f).power = s.power := rfl
@[simp] theorem modThread_firmware (s : State) (i : ThreadId) (f : Thread → Thread) : (s.modThread i f).firmware = s.firmware := rfl
@[simp] theorem modThread_rollback (s : State) (i : ThreadId) (f : Thread → Thread) : (s.modThread i f).rollback = s.rollback := rfl
@[simp] theorem modThread_recovery (s : State) (i : ThreadId) (f : Thread → Thread) : (s.modThread i f).recovery = s.recovery := rfl
@[simp] theorem modThread_softErrors (s : State) (i : ThreadId) (f : Thread → Thread) : (s.modThread i f).softErrors = s.softErrors := rfl
@[simp] theorem modThread_overflow (s : State) (i : ThreadId) (f : Thread → Thread) : (s.modThread i f).overflow = s.overflow := rfl
@[simp] theorem modThread_pins (s : State) (i : ThreadId) (f : Thread → Thread) : (s.modThread i f).pins = s.pins := rfl
@[simp] theorem modThread_offering (s : State) (i : ThreadId) (f : Thread → Thread) : (s.modThread i f).offering = s.offering := rfl
@[simp] theorem modThread_flightNo (s : State) (i : ThreadId) (f : Thread → Thread) : (s.modThread i f).flightNo = s.flightNo := rfl

@[simp] theorem modCrew_cur (s : State) (i : CrewId) (f : Crew → Crew) : (s.modCrew i f).cur = s.cur := rfl
@[simp] theorem modCrew_agenda (s : State) (i : CrewId) (f : Crew → Crew) : (s.modCrew i f).agenda = s.agenda := rfl
@[simp] theorem modCrew_oracle (s : State) (i : CrewId) (f : Crew → Crew) : (s.modCrew i f).oracle = s.oracle := rfl
@[simp] theorem modCrew_freeCtr (s : State) (i : CrewId) (f : Crew → Crew) : (s.modCrew i f).freeCtr = s.freeCtr := rfl
@[simp] theorem modCrew_replays (s : State) (i : CrewId) (f : Crew → Crew) : (s.modCrew i f).replays = s.replays := rfl
@[simp] theorem modCrew_lastId (s : State) (i : CrewId) (f : Crew → Crew) : (s.modCrew i f).lastId = s.lastId := rfl
@[simp] theorem modCrew_time (s : State) (i : CrewId) (f : Crew → Crew) : (s.modCrew i f).time = s.time := rfl
@[simp] theorem modCrew_cores (s : State) (i : CrewId) (f : Crew → Crew) : (s.modCrew i f).cores = s.cores := rfl
@[simp] theorem modCrew_speeds (s : State) (i : CrewId) (f : Crew → Crew) : (s.modCrew i f).speeds = s.speeds := rfl
@[simp] theorem modCrew_threads (s : State) (i : CrewId) (f : Crew → Crew) : (s.modCrew i f).threads = s.threads := rfl
@[simp] theorem modCrew_crews (s : State) (i : CrewId) (f : Crew → Crew) : (s.modCrew i f).crews = updWhere (fun c => c.id == i) f s.crews := rfl
@[simp] theorem modCrew_commits (s : State) (i : CrewId) (f : Crew → Crew) : (s.modCrew i f).commits = s.commits := rfl
@[simp] theorem modCrew_teams (s : State) (i : CrewId) (f : Crew → Crew) : (s.modCrew i f).teams = s.teams := rfl
@[simp] theorem modCrew_units (s : State) (i : CrewId) (f : Crew → Crew) : (s.modCrew i f).units = s.units := rfl
@[simp] theorem modCrew_grids (s : State) (i : CrewId) (f : Crew → Crew) : (s.modCrew i f).grids = s.grids := rfl
@[simp] theorem modCrew_pcTable (s : State) (i : CrewId) (f : Crew → Crew) : (s.modCrew i f).pcTable = s.pcTable := rfl
@[simp] theorem modCrew_l1 (s : State) (i : CrewId) (f : Crew → Crew) : (s.modCrew i f).l1 = s.l1 := rfl
@[simp] theorem modCrew_icache (s : State) (i : CrewId) (f : Crew → Crew) : (s.modCrew i f).icache = s.icache := rfl
@[simp] theorem modCrew_layouts (s : State) (i : CrewId) (f : Crew → Crew) : (s.modCrew i f).layouts = s.layouts := rfl
@[simp] theorem modCrew_tlb (s : State) (i : CrewId) (f : Crew → Crew) : (s.modCrew i f).tlb = s.tlb := rfl
@[simp] theorem modCrew_buffers (s : State) (i : CrewId) (f : Crew → Crew) : (s.modCrew i f).buffers = s.buffers := rfl
@[simp] theorem modCrew_mem (s : State) (i : CrewId) (f : Crew → Crew) : (s.modCrew i f).mem = s.mem := rfl
@[simp] theorem modCrew_envLines (s : State) (i : CrewId) (f : Crew → Crew) : (s.modCrew i f).envLines = s.envLines := rfl
@[simp] theorem modCrew_locks (s : State) (i : CrewId) (f : Crew → Crew) : (s.modCrew i f).locks = s.locks := rfl
@[simp] theorem modCrew_monitors (s : State) (i : CrewId) (f : Crew → Crew) : (s.modCrew i f).monitors = s.monitors := rfl
@[simp] theorem modCrew_landings (s : State) (i : CrewId) (f : Crew → Crew) : (s.modCrew i f).landings = s.landings := rfl
@[simp] theorem modCrew_acks (s : State) (i : CrewId) (f : Crew → Crew) : (s.modCrew i f).acks = s.acks := rfl
@[simp] theorem modCrew_reds (s : State) (i : CrewId) (f : Crew → Crew) : (s.modCrew i f).reds = s.reds := rfl
@[simp] theorem modCrew_walks (s : State) (i : CrewId) (f : Crew → Crew) : (s.modCrew i f).walks = s.walks := rfl
@[simp] theorem modCrew_misses (s : State) (i : CrewId) (f : Crew → Crew) : (s.modCrew i f).misses = s.misses := rfl
@[simp] theorem modCrew_fills (s : State) (i : CrewId) (f : Crew → Crew) : (s.modCrew i f).fills = s.fills := rfl
@[simp] theorem modCrew_cmds (s : State) (i : CrewId) (f : Crew → Crew) : (s.modCrew i f).cmds = s.cmds := rfl
@[simp] theorem modCrew_banks (s : State) (i : CrewId) (f : Crew → Crew) : (s.modCrew i f).banks = s.banks := rfl
@[simp] theorem modCrew_queries (s : State) (i : CrewId) (f : Crew → Crew) : (s.modCrew i f).queries = s.queries := rfl
@[simp] theorem modCrew_images (s : State) (i : CrewId) (f : Crew → Crew) : (s.modCrew i f).images = s.images := rfl
@[simp] theorem modCrew_ctxs (s : State) (i : CrewId) (f : Crew → Crew) : (s.modCrew i f).ctxs = s.ctxs := rfl
@[simp] theorem modCrew_notify (s : State) (i : CrewId) (f : Crew → Crew) : (s.modCrew i f).notify = s.notify := rfl
@[simp] theorem modCrew_pageCtx (s : State) (i : CrewId) (f : Crew → Crew) : (s.modCrew i f).pageCtx = s.pageCtx := rfl
@[simp] theorem modCrew_phmargin (s : State) (i : CrewId) (f : Crew → Crew) : (s.modCrew i f).phmargin = s.phmargin := rfl
@[simp] theorem modCrew_irqs (s : State) (i : CrewId) (f : Crew → Crew) : (s.modCrew i f).irqs = s.irqs := rfl
@[simp] theorem modCrew_rights (s : State) (i : CrewId) (f : Crew → Crew) : (s.modCrew i f).rights = s.rights := rfl
@[simp] theorem modCrew_denials (s : State) (i : CrewId) (f : Crew → Crew) : (s.modCrew i f).denials = s.denials := rfl
@[simp] theorem modCrew_links (s : State) (i : CrewId) (f : Crew → Crew) : (s.modCrew i f).links = s.links := rfl
@[simp] theorem modCrew_peer (s : State) (i : CrewId) (f : Crew → Crew) : (s.modCrew i f).peer = s.peer := rfl
@[simp] theorem modCrew_replies (s : State) (i : CrewId) (f : Crew → Crew) : (s.modCrew i f).replies = s.replies := rfl
@[simp] theorem modCrew_interval (s : State) (i : CrewId) (f : Crew → Crew) : (s.modCrew i f).interval = s.interval := rfl
@[simp] theorem modCrew_factor (s : State) (i : CrewId) (f : Crew → Crew) : (s.modCrew i f).factor = s.factor := rfl
@[simp] theorem modCrew_gate (s : State) (i : CrewId) (f : Crew → Crew) : (s.modCrew i f).gate = s.gate := rfl
@[simp] theorem modCrew_power (s : State) (i : CrewId) (f : Crew → Crew) : (s.modCrew i f).power = s.power := rfl
@[simp] theorem modCrew_firmware (s : State) (i : CrewId) (f : Crew → Crew) : (s.modCrew i f).firmware = s.firmware := rfl
@[simp] theorem modCrew_rollback (s : State) (i : CrewId) (f : Crew → Crew) : (s.modCrew i f).rollback = s.rollback := rfl
@[simp] theorem modCrew_recovery (s : State) (i : CrewId) (f : Crew → Crew) : (s.modCrew i f).recovery = s.recovery := rfl
@[simp] theorem modCrew_softErrors (s : State) (i : CrewId) (f : Crew → Crew) : (s.modCrew i f).softErrors = s.softErrors := rfl
@[simp] theorem modCrew_overflow (s : State) (i : CrewId) (f : Crew → Crew) : (s.modCrew i f).overflow = s.overflow := rfl
@[simp] theorem modCrew_pins (s : State) (i : CrewId) (f : Crew → Crew) : (s.modCrew i f).pins = s.pins := rfl
@[simp] theorem modCrew_offering (s : State) (i : CrewId) (f : Crew → Crew) : (s.modCrew i f).offering = s.offering := rfl
@[simp] theorem modCrew_flightNo (s : State) (i : CrewId) (f : Crew → Crew) : (s.modCrew i f).flightNo = s.flightNo := rfl

@[simp] theorem modTeam_cur (s : State) (n : Nat) (f : Team → Team) : (s.modTeam n f).cur = s.cur := rfl
@[simp] theorem modTeam_agenda (s : State) (n : Nat) (f : Team → Team) : (s.modTeam n f).agenda = s.agenda := rfl
@[simp] theorem modTeam_oracle (s : State) (n : Nat) (f : Team → Team) : (s.modTeam n f).oracle = s.oracle := rfl
@[simp] theorem modTeam_freeCtr (s : State) (n : Nat) (f : Team → Team) : (s.modTeam n f).freeCtr = s.freeCtr := rfl
@[simp] theorem modTeam_replays (s : State) (n : Nat) (f : Team → Team) : (s.modTeam n f).replays = s.replays := rfl
@[simp] theorem modTeam_lastId (s : State) (n : Nat) (f : Team → Team) : (s.modTeam n f).lastId = s.lastId := rfl
@[simp] theorem modTeam_time (s : State) (n : Nat) (f : Team → Team) : (s.modTeam n f).time = s.time := rfl
@[simp] theorem modTeam_cores (s : State) (n : Nat) (f : Team → Team) : (s.modTeam n f).cores = s.cores := rfl
@[simp] theorem modTeam_speeds (s : State) (n : Nat) (f : Team → Team) : (s.modTeam n f).speeds = s.speeds := rfl
@[simp] theorem modTeam_threads (s : State) (n : Nat) (f : Team → Team) : (s.modTeam n f).threads = s.threads := rfl
@[simp] theorem modTeam_crews (s : State) (n : Nat) (f : Team → Team) : (s.modTeam n f).crews = s.crews := rfl
@[simp] theorem modTeam_commits (s : State) (n : Nat) (f : Team → Team) : (s.modTeam n f).commits = s.commits := rfl
@[simp] theorem modTeam_teams (s : State) (n : Nat) (f : Team → Team) : (s.modTeam n f).teams = updWhere (fun t => t.id == n) f s.teams := rfl
@[simp] theorem modTeam_units (s : State) (n : Nat) (f : Team → Team) : (s.modTeam n f).units = s.units := rfl
@[simp] theorem modTeam_grids (s : State) (n : Nat) (f : Team → Team) : (s.modTeam n f).grids = s.grids := rfl
@[simp] theorem modTeam_pcTable (s : State) (n : Nat) (f : Team → Team) : (s.modTeam n f).pcTable = s.pcTable := rfl
@[simp] theorem modTeam_l1 (s : State) (n : Nat) (f : Team → Team) : (s.modTeam n f).l1 = s.l1 := rfl
@[simp] theorem modTeam_icache (s : State) (n : Nat) (f : Team → Team) : (s.modTeam n f).icache = s.icache := rfl
@[simp] theorem modTeam_layouts (s : State) (n : Nat) (f : Team → Team) : (s.modTeam n f).layouts = s.layouts := rfl
@[simp] theorem modTeam_tlb (s : State) (n : Nat) (f : Team → Team) : (s.modTeam n f).tlb = s.tlb := rfl
@[simp] theorem modTeam_buffers (s : State) (n : Nat) (f : Team → Team) : (s.modTeam n f).buffers = s.buffers := rfl
@[simp] theorem modTeam_mem (s : State) (n : Nat) (f : Team → Team) : (s.modTeam n f).mem = s.mem := rfl
@[simp] theorem modTeam_envLines (s : State) (n : Nat) (f : Team → Team) : (s.modTeam n f).envLines = s.envLines := rfl
@[simp] theorem modTeam_locks (s : State) (n : Nat) (f : Team → Team) : (s.modTeam n f).locks = s.locks := rfl
@[simp] theorem modTeam_monitors (s : State) (n : Nat) (f : Team → Team) : (s.modTeam n f).monitors = s.monitors := rfl
@[simp] theorem modTeam_landings (s : State) (n : Nat) (f : Team → Team) : (s.modTeam n f).landings = s.landings := rfl
@[simp] theorem modTeam_acks (s : State) (n : Nat) (f : Team → Team) : (s.modTeam n f).acks = s.acks := rfl
@[simp] theorem modTeam_reds (s : State) (n : Nat) (f : Team → Team) : (s.modTeam n f).reds = s.reds := rfl
@[simp] theorem modTeam_walks (s : State) (n : Nat) (f : Team → Team) : (s.modTeam n f).walks = s.walks := rfl
@[simp] theorem modTeam_misses (s : State) (n : Nat) (f : Team → Team) : (s.modTeam n f).misses = s.misses := rfl
@[simp] theorem modTeam_fills (s : State) (n : Nat) (f : Team → Team) : (s.modTeam n f).fills = s.fills := rfl
@[simp] theorem modTeam_cmds (s : State) (n : Nat) (f : Team → Team) : (s.modTeam n f).cmds = s.cmds := rfl
@[simp] theorem modTeam_banks (s : State) (n : Nat) (f : Team → Team) : (s.modTeam n f).banks = s.banks := rfl
@[simp] theorem modTeam_queries (s : State) (n : Nat) (f : Team → Team) : (s.modTeam n f).queries = s.queries := rfl
@[simp] theorem modTeam_images (s : State) (n : Nat) (f : Team → Team) : (s.modTeam n f).images = s.images := rfl
@[simp] theorem modTeam_ctxs (s : State) (n : Nat) (f : Team → Team) : (s.modTeam n f).ctxs = s.ctxs := rfl
@[simp] theorem modTeam_notify (s : State) (n : Nat) (f : Team → Team) : (s.modTeam n f).notify = s.notify := rfl
@[simp] theorem modTeam_pageCtx (s : State) (n : Nat) (f : Team → Team) : (s.modTeam n f).pageCtx = s.pageCtx := rfl
@[simp] theorem modTeam_phmargin (s : State) (n : Nat) (f : Team → Team) : (s.modTeam n f).phmargin = s.phmargin := rfl
@[simp] theorem modTeam_irqs (s : State) (n : Nat) (f : Team → Team) : (s.modTeam n f).irqs = s.irqs := rfl
@[simp] theorem modTeam_rights (s : State) (n : Nat) (f : Team → Team) : (s.modTeam n f).rights = s.rights := rfl
@[simp] theorem modTeam_denials (s : State) (n : Nat) (f : Team → Team) : (s.modTeam n f).denials = s.denials := rfl
@[simp] theorem modTeam_links (s : State) (n : Nat) (f : Team → Team) : (s.modTeam n f).links = s.links := rfl
@[simp] theorem modTeam_peer (s : State) (n : Nat) (f : Team → Team) : (s.modTeam n f).peer = s.peer := rfl
@[simp] theorem modTeam_replies (s : State) (n : Nat) (f : Team → Team) : (s.modTeam n f).replies = s.replies := rfl
@[simp] theorem modTeam_interval (s : State) (n : Nat) (f : Team → Team) : (s.modTeam n f).interval = s.interval := rfl
@[simp] theorem modTeam_factor (s : State) (n : Nat) (f : Team → Team) : (s.modTeam n f).factor = s.factor := rfl
@[simp] theorem modTeam_gate (s : State) (n : Nat) (f : Team → Team) : (s.modTeam n f).gate = s.gate := rfl
@[simp] theorem modTeam_power (s : State) (n : Nat) (f : Team → Team) : (s.modTeam n f).power = s.power := rfl
@[simp] theorem modTeam_firmware (s : State) (n : Nat) (f : Team → Team) : (s.modTeam n f).firmware = s.firmware := rfl
@[simp] theorem modTeam_rollback (s : State) (n : Nat) (f : Team → Team) : (s.modTeam n f).rollback = s.rollback := rfl
@[simp] theorem modTeam_recovery (s : State) (n : Nat) (f : Team → Team) : (s.modTeam n f).recovery = s.recovery := rfl
@[simp] theorem modTeam_softErrors (s : State) (n : Nat) (f : Team → Team) : (s.modTeam n f).softErrors = s.softErrors := rfl
@[simp] theorem modTeam_overflow (s : State) (n : Nat) (f : Team → Team) : (s.modTeam n f).overflow = s.overflow := rfl
@[simp] theorem modTeam_pins (s : State) (n : Nat) (f : Team → Team) : (s.modTeam n f).pins = s.pins := rfl
@[simp] theorem modTeam_offering (s : State) (n : Nat) (f : Team → Team) : (s.modTeam n f).offering = s.offering := rfl
@[simp] theorem modTeam_flightNo (s : State) (n : Nat) (f : Team → Team) : (s.modTeam n f).flightNo = s.flightNo := rfl

@[simp] theorem modGrid_cur (s : State) (n : Nat) (f : Grid → Grid) : (s.modGrid n f).cur = s.cur := rfl
@[simp] theorem modGrid_agenda (s : State) (n : Nat) (f : Grid → Grid) : (s.modGrid n f).agenda = s.agenda := rfl
@[simp] theorem modGrid_oracle (s : State) (n : Nat) (f : Grid → Grid) : (s.modGrid n f).oracle = s.oracle := rfl
@[simp] theorem modGrid_freeCtr (s : State) (n : Nat) (f : Grid → Grid) : (s.modGrid n f).freeCtr = s.freeCtr := rfl
@[simp] theorem modGrid_replays (s : State) (n : Nat) (f : Grid → Grid) : (s.modGrid n f).replays = s.replays := rfl
@[simp] theorem modGrid_lastId (s : State) (n : Nat) (f : Grid → Grid) : (s.modGrid n f).lastId = s.lastId := rfl
@[simp] theorem modGrid_time (s : State) (n : Nat) (f : Grid → Grid) : (s.modGrid n f).time = s.time := rfl
@[simp] theorem modGrid_cores (s : State) (n : Nat) (f : Grid → Grid) : (s.modGrid n f).cores = s.cores := rfl
@[simp] theorem modGrid_speeds (s : State) (n : Nat) (f : Grid → Grid) : (s.modGrid n f).speeds = s.speeds := rfl
@[simp] theorem modGrid_threads (s : State) (n : Nat) (f : Grid → Grid) : (s.modGrid n f).threads = s.threads := rfl
@[simp] theorem modGrid_crews (s : State) (n : Nat) (f : Grid → Grid) : (s.modGrid n f).crews = s.crews := rfl
@[simp] theorem modGrid_commits (s : State) (n : Nat) (f : Grid → Grid) : (s.modGrid n f).commits = s.commits := rfl
@[simp] theorem modGrid_teams (s : State) (n : Nat) (f : Grid → Grid) : (s.modGrid n f).teams = s.teams := rfl
@[simp] theorem modGrid_units (s : State) (n : Nat) (f : Grid → Grid) : (s.modGrid n f).units = s.units := rfl
@[simp] theorem modGrid_grids (s : State) (n : Nat) (f : Grid → Grid) : (s.modGrid n f).grids = updWhere (fun g => g.id == n) f s.grids := rfl
@[simp] theorem modGrid_pcTable (s : State) (n : Nat) (f : Grid → Grid) : (s.modGrid n f).pcTable = s.pcTable := rfl
@[simp] theorem modGrid_l1 (s : State) (n : Nat) (f : Grid → Grid) : (s.modGrid n f).l1 = s.l1 := rfl
@[simp] theorem modGrid_icache (s : State) (n : Nat) (f : Grid → Grid) : (s.modGrid n f).icache = s.icache := rfl
@[simp] theorem modGrid_layouts (s : State) (n : Nat) (f : Grid → Grid) : (s.modGrid n f).layouts = s.layouts := rfl
@[simp] theorem modGrid_tlb (s : State) (n : Nat) (f : Grid → Grid) : (s.modGrid n f).tlb = s.tlb := rfl
@[simp] theorem modGrid_buffers (s : State) (n : Nat) (f : Grid → Grid) : (s.modGrid n f).buffers = s.buffers := rfl
@[simp] theorem modGrid_mem (s : State) (n : Nat) (f : Grid → Grid) : (s.modGrid n f).mem = s.mem := rfl
@[simp] theorem modGrid_envLines (s : State) (n : Nat) (f : Grid → Grid) : (s.modGrid n f).envLines = s.envLines := rfl
@[simp] theorem modGrid_locks (s : State) (n : Nat) (f : Grid → Grid) : (s.modGrid n f).locks = s.locks := rfl
@[simp] theorem modGrid_monitors (s : State) (n : Nat) (f : Grid → Grid) : (s.modGrid n f).monitors = s.monitors := rfl
@[simp] theorem modGrid_landings (s : State) (n : Nat) (f : Grid → Grid) : (s.modGrid n f).landings = s.landings := rfl
@[simp] theorem modGrid_acks (s : State) (n : Nat) (f : Grid → Grid) : (s.modGrid n f).acks = s.acks := rfl
@[simp] theorem modGrid_reds (s : State) (n : Nat) (f : Grid → Grid) : (s.modGrid n f).reds = s.reds := rfl
@[simp] theorem modGrid_walks (s : State) (n : Nat) (f : Grid → Grid) : (s.modGrid n f).walks = s.walks := rfl
@[simp] theorem modGrid_misses (s : State) (n : Nat) (f : Grid → Grid) : (s.modGrid n f).misses = s.misses := rfl
@[simp] theorem modGrid_fills (s : State) (n : Nat) (f : Grid → Grid) : (s.modGrid n f).fills = s.fills := rfl
@[simp] theorem modGrid_cmds (s : State) (n : Nat) (f : Grid → Grid) : (s.modGrid n f).cmds = s.cmds := rfl
@[simp] theorem modGrid_banks (s : State) (n : Nat) (f : Grid → Grid) : (s.modGrid n f).banks = s.banks := rfl
@[simp] theorem modGrid_queries (s : State) (n : Nat) (f : Grid → Grid) : (s.modGrid n f).queries = s.queries := rfl
@[simp] theorem modGrid_images (s : State) (n : Nat) (f : Grid → Grid) : (s.modGrid n f).images = s.images := rfl
@[simp] theorem modGrid_ctxs (s : State) (n : Nat) (f : Grid → Grid) : (s.modGrid n f).ctxs = s.ctxs := rfl
@[simp] theorem modGrid_notify (s : State) (n : Nat) (f : Grid → Grid) : (s.modGrid n f).notify = s.notify := rfl
@[simp] theorem modGrid_pageCtx (s : State) (n : Nat) (f : Grid → Grid) : (s.modGrid n f).pageCtx = s.pageCtx := rfl
@[simp] theorem modGrid_phmargin (s : State) (n : Nat) (f : Grid → Grid) : (s.modGrid n f).phmargin = s.phmargin := rfl
@[simp] theorem modGrid_irqs (s : State) (n : Nat) (f : Grid → Grid) : (s.modGrid n f).irqs = s.irqs := rfl
@[simp] theorem modGrid_rights (s : State) (n : Nat) (f : Grid → Grid) : (s.modGrid n f).rights = s.rights := rfl
@[simp] theorem modGrid_denials (s : State) (n : Nat) (f : Grid → Grid) : (s.modGrid n f).denials = s.denials := rfl
@[simp] theorem modGrid_links (s : State) (n : Nat) (f : Grid → Grid) : (s.modGrid n f).links = s.links := rfl
@[simp] theorem modGrid_peer (s : State) (n : Nat) (f : Grid → Grid) : (s.modGrid n f).peer = s.peer := rfl
@[simp] theorem modGrid_replies (s : State) (n : Nat) (f : Grid → Grid) : (s.modGrid n f).replies = s.replies := rfl
@[simp] theorem modGrid_interval (s : State) (n : Nat) (f : Grid → Grid) : (s.modGrid n f).interval = s.interval := rfl
@[simp] theorem modGrid_factor (s : State) (n : Nat) (f : Grid → Grid) : (s.modGrid n f).factor = s.factor := rfl
@[simp] theorem modGrid_gate (s : State) (n : Nat) (f : Grid → Grid) : (s.modGrid n f).gate = s.gate := rfl
@[simp] theorem modGrid_power (s : State) (n : Nat) (f : Grid → Grid) : (s.modGrid n f).power = s.power := rfl
@[simp] theorem modGrid_firmware (s : State) (n : Nat) (f : Grid → Grid) : (s.modGrid n f).firmware = s.firmware := rfl
@[simp] theorem modGrid_rollback (s : State) (n : Nat) (f : Grid → Grid) : (s.modGrid n f).rollback = s.rollback := rfl
@[simp] theorem modGrid_recovery (s : State) (n : Nat) (f : Grid → Grid) : (s.modGrid n f).recovery = s.recovery := rfl
@[simp] theorem modGrid_softErrors (s : State) (n : Nat) (f : Grid → Grid) : (s.modGrid n f).softErrors = s.softErrors := rfl
@[simp] theorem modGrid_overflow (s : State) (n : Nat) (f : Grid → Grid) : (s.modGrid n f).overflow = s.overflow := rfl
@[simp] theorem modGrid_pins (s : State) (n : Nat) (f : Grid → Grid) : (s.modGrid n f).pins = s.pins := rfl
@[simp] theorem modGrid_offering (s : State) (n : Nat) (f : Grid → Grid) : (s.modGrid n f).offering = s.offering := rfl
@[simp] theorem modGrid_flightNo (s : State) (n : Nat) (f : Grid → Grid) : (s.modGrid n f).flightNo = s.flightNo := rfl

@[simp] theorem modCtx_cur (s : State) (n : Nat) (f : Ctx → Ctx) : (s.modCtx n f).cur = s.cur := rfl
@[simp] theorem modCtx_agenda (s : State) (n : Nat) (f : Ctx → Ctx) : (s.modCtx n f).agenda = s.agenda := rfl
@[simp] theorem modCtx_oracle (s : State) (n : Nat) (f : Ctx → Ctx) : (s.modCtx n f).oracle = s.oracle := rfl
@[simp] theorem modCtx_freeCtr (s : State) (n : Nat) (f : Ctx → Ctx) : (s.modCtx n f).freeCtr = s.freeCtr := rfl
@[simp] theorem modCtx_replays (s : State) (n : Nat) (f : Ctx → Ctx) : (s.modCtx n f).replays = s.replays := rfl
@[simp] theorem modCtx_lastId (s : State) (n : Nat) (f : Ctx → Ctx) : (s.modCtx n f).lastId = s.lastId := rfl
@[simp] theorem modCtx_time (s : State) (n : Nat) (f : Ctx → Ctx) : (s.modCtx n f).time = s.time := rfl
@[simp] theorem modCtx_cores (s : State) (n : Nat) (f : Ctx → Ctx) : (s.modCtx n f).cores = s.cores := rfl
@[simp] theorem modCtx_speeds (s : State) (n : Nat) (f : Ctx → Ctx) : (s.modCtx n f).speeds = s.speeds := rfl
@[simp] theorem modCtx_threads (s : State) (n : Nat) (f : Ctx → Ctx) : (s.modCtx n f).threads = s.threads := rfl
@[simp] theorem modCtx_crews (s : State) (n : Nat) (f : Ctx → Ctx) : (s.modCtx n f).crews = s.crews := rfl
@[simp] theorem modCtx_commits (s : State) (n : Nat) (f : Ctx → Ctx) : (s.modCtx n f).commits = s.commits := rfl
@[simp] theorem modCtx_teams (s : State) (n : Nat) (f : Ctx → Ctx) : (s.modCtx n f).teams = s.teams := rfl
@[simp] theorem modCtx_units (s : State) (n : Nat) (f : Ctx → Ctx) : (s.modCtx n f).units = s.units := rfl
@[simp] theorem modCtx_grids (s : State) (n : Nat) (f : Ctx → Ctx) : (s.modCtx n f).grids = s.grids := rfl
@[simp] theorem modCtx_pcTable (s : State) (n : Nat) (f : Ctx → Ctx) : (s.modCtx n f).pcTable = s.pcTable := rfl
@[simp] theorem modCtx_l1 (s : State) (n : Nat) (f : Ctx → Ctx) : (s.modCtx n f).l1 = s.l1 := rfl
@[simp] theorem modCtx_icache (s : State) (n : Nat) (f : Ctx → Ctx) : (s.modCtx n f).icache = s.icache := rfl
@[simp] theorem modCtx_layouts (s : State) (n : Nat) (f : Ctx → Ctx) : (s.modCtx n f).layouts = s.layouts := rfl
@[simp] theorem modCtx_tlb (s : State) (n : Nat) (f : Ctx → Ctx) : (s.modCtx n f).tlb = s.tlb := rfl
@[simp] theorem modCtx_buffers (s : State) (n : Nat) (f : Ctx → Ctx) : (s.modCtx n f).buffers = s.buffers := rfl
@[simp] theorem modCtx_mem (s : State) (n : Nat) (f : Ctx → Ctx) : (s.modCtx n f).mem = s.mem := rfl
@[simp] theorem modCtx_envLines (s : State) (n : Nat) (f : Ctx → Ctx) : (s.modCtx n f).envLines = s.envLines := rfl
@[simp] theorem modCtx_locks (s : State) (n : Nat) (f : Ctx → Ctx) : (s.modCtx n f).locks = s.locks := rfl
@[simp] theorem modCtx_monitors (s : State) (n : Nat) (f : Ctx → Ctx) : (s.modCtx n f).monitors = s.monitors := rfl
@[simp] theorem modCtx_landings (s : State) (n : Nat) (f : Ctx → Ctx) : (s.modCtx n f).landings = s.landings := rfl
@[simp] theorem modCtx_acks (s : State) (n : Nat) (f : Ctx → Ctx) : (s.modCtx n f).acks = s.acks := rfl
@[simp] theorem modCtx_reds (s : State) (n : Nat) (f : Ctx → Ctx) : (s.modCtx n f).reds = s.reds := rfl
@[simp] theorem modCtx_walks (s : State) (n : Nat) (f : Ctx → Ctx) : (s.modCtx n f).walks = s.walks := rfl
@[simp] theorem modCtx_misses (s : State) (n : Nat) (f : Ctx → Ctx) : (s.modCtx n f).misses = s.misses := rfl
@[simp] theorem modCtx_fills (s : State) (n : Nat) (f : Ctx → Ctx) : (s.modCtx n f).fills = s.fills := rfl
@[simp] theorem modCtx_cmds (s : State) (n : Nat) (f : Ctx → Ctx) : (s.modCtx n f).cmds = s.cmds := rfl
@[simp] theorem modCtx_banks (s : State) (n : Nat) (f : Ctx → Ctx) : (s.modCtx n f).banks = s.banks := rfl
@[simp] theorem modCtx_queries (s : State) (n : Nat) (f : Ctx → Ctx) : (s.modCtx n f).queries = s.queries := rfl
@[simp] theorem modCtx_images (s : State) (n : Nat) (f : Ctx → Ctx) : (s.modCtx n f).images = s.images := rfl
@[simp] theorem modCtx_ctxs (s : State) (n : Nat) (f : Ctx → Ctx) : (s.modCtx n f).ctxs = updWhere (fun c => c.id == n) f s.ctxs := rfl
@[simp] theorem modCtx_notify (s : State) (n : Nat) (f : Ctx → Ctx) : (s.modCtx n f).notify = s.notify := rfl
@[simp] theorem modCtx_pageCtx (s : State) (n : Nat) (f : Ctx → Ctx) : (s.modCtx n f).pageCtx = s.pageCtx := rfl
@[simp] theorem modCtx_phmargin (s : State) (n : Nat) (f : Ctx → Ctx) : (s.modCtx n f).phmargin = s.phmargin := rfl
@[simp] theorem modCtx_irqs (s : State) (n : Nat) (f : Ctx → Ctx) : (s.modCtx n f).irqs = s.irqs := rfl
@[simp] theorem modCtx_rights (s : State) (n : Nat) (f : Ctx → Ctx) : (s.modCtx n f).rights = s.rights := rfl
@[simp] theorem modCtx_denials (s : State) (n : Nat) (f : Ctx → Ctx) : (s.modCtx n f).denials = s.denials := rfl
@[simp] theorem modCtx_links (s : State) (n : Nat) (f : Ctx → Ctx) : (s.modCtx n f).links = s.links := rfl
@[simp] theorem modCtx_peer (s : State) (n : Nat) (f : Ctx → Ctx) : (s.modCtx n f).peer = s.peer := rfl
@[simp] theorem modCtx_replies (s : State) (n : Nat) (f : Ctx → Ctx) : (s.modCtx n f).replies = s.replies := rfl
@[simp] theorem modCtx_interval (s : State) (n : Nat) (f : Ctx → Ctx) : (s.modCtx n f).interval = s.interval := rfl
@[simp] theorem modCtx_factor (s : State) (n : Nat) (f : Ctx → Ctx) : (s.modCtx n f).factor = s.factor := rfl
@[simp] theorem modCtx_gate (s : State) (n : Nat) (f : Ctx → Ctx) : (s.modCtx n f).gate = s.gate := rfl
@[simp] theorem modCtx_power (s : State) (n : Nat) (f : Ctx → Ctx) : (s.modCtx n f).power = s.power := rfl
@[simp] theorem modCtx_firmware (s : State) (n : Nat) (f : Ctx → Ctx) : (s.modCtx n f).firmware = s.firmware := rfl
@[simp] theorem modCtx_rollback (s : State) (n : Nat) (f : Ctx → Ctx) : (s.modCtx n f).rollback = s.rollback := rfl
@[simp] theorem modCtx_recovery (s : State) (n : Nat) (f : Ctx → Ctx) : (s.modCtx n f).recovery = s.recovery := rfl
@[simp] theorem modCtx_softErrors (s : State) (n : Nat) (f : Ctx → Ctx) : (s.modCtx n f).softErrors = s.softErrors := rfl
@[simp] theorem modCtx_overflow (s : State) (n : Nat) (f : Ctx → Ctx) : (s.modCtx n f).overflow = s.overflow := rfl
@[simp] theorem modCtx_pins (s : State) (n : Nat) (f : Ctx → Ctx) : (s.modCtx n f).pins = s.pins := rfl
@[simp] theorem modCtx_offering (s : State) (n : Nat) (f : Ctx → Ctx) : (s.modCtx n f).offering = s.offering := rfl
@[simp] theorem modCtx_flightNo (s : State) (n : Nat) (f : Ctx → Ctx) : (s.modCtx n f).flightNo = s.flightNo := rfl

@[simp] theorem modCmd_cur (s : State) (n : Nat) (f : EngCmd → EngCmd) : (s.modCmd n f).cur = s.cur := rfl
@[simp] theorem modCmd_agenda (s : State) (n : Nat) (f : EngCmd → EngCmd) : (s.modCmd n f).agenda = s.agenda := rfl
@[simp] theorem modCmd_oracle (s : State) (n : Nat) (f : EngCmd → EngCmd) : (s.modCmd n f).oracle = s.oracle := rfl
@[simp] theorem modCmd_freeCtr (s : State) (n : Nat) (f : EngCmd → EngCmd) : (s.modCmd n f).freeCtr = s.freeCtr := rfl
@[simp] theorem modCmd_replays (s : State) (n : Nat) (f : EngCmd → EngCmd) : (s.modCmd n f).replays = s.replays := rfl
@[simp] theorem modCmd_lastId (s : State) (n : Nat) (f : EngCmd → EngCmd) : (s.modCmd n f).lastId = s.lastId := rfl
@[simp] theorem modCmd_time (s : State) (n : Nat) (f : EngCmd → EngCmd) : (s.modCmd n f).time = s.time := rfl
@[simp] theorem modCmd_cores (s : State) (n : Nat) (f : EngCmd → EngCmd) : (s.modCmd n f).cores = s.cores := rfl
@[simp] theorem modCmd_speeds (s : State) (n : Nat) (f : EngCmd → EngCmd) : (s.modCmd n f).speeds = s.speeds := rfl
@[simp] theorem modCmd_threads (s : State) (n : Nat) (f : EngCmd → EngCmd) : (s.modCmd n f).threads = s.threads := rfl
@[simp] theorem modCmd_crews (s : State) (n : Nat) (f : EngCmd → EngCmd) : (s.modCmd n f).crews = s.crews := rfl
@[simp] theorem modCmd_commits (s : State) (n : Nat) (f : EngCmd → EngCmd) : (s.modCmd n f).commits = s.commits := rfl
@[simp] theorem modCmd_teams (s : State) (n : Nat) (f : EngCmd → EngCmd) : (s.modCmd n f).teams = s.teams := rfl
@[simp] theorem modCmd_units (s : State) (n : Nat) (f : EngCmd → EngCmd) : (s.modCmd n f).units = s.units := rfl
@[simp] theorem modCmd_grids (s : State) (n : Nat) (f : EngCmd → EngCmd) : (s.modCmd n f).grids = s.grids := rfl
@[simp] theorem modCmd_pcTable (s : State) (n : Nat) (f : EngCmd → EngCmd) : (s.modCmd n f).pcTable = s.pcTable := rfl
@[simp] theorem modCmd_l1 (s : State) (n : Nat) (f : EngCmd → EngCmd) : (s.modCmd n f).l1 = s.l1 := rfl
@[simp] theorem modCmd_icache (s : State) (n : Nat) (f : EngCmd → EngCmd) : (s.modCmd n f).icache = s.icache := rfl
@[simp] theorem modCmd_layouts (s : State) (n : Nat) (f : EngCmd → EngCmd) : (s.modCmd n f).layouts = s.layouts := rfl
@[simp] theorem modCmd_tlb (s : State) (n : Nat) (f : EngCmd → EngCmd) : (s.modCmd n f).tlb = s.tlb := rfl
@[simp] theorem modCmd_buffers (s : State) (n : Nat) (f : EngCmd → EngCmd) : (s.modCmd n f).buffers = s.buffers := rfl
@[simp] theorem modCmd_mem (s : State) (n : Nat) (f : EngCmd → EngCmd) : (s.modCmd n f).mem = s.mem := rfl
@[simp] theorem modCmd_envLines (s : State) (n : Nat) (f : EngCmd → EngCmd) : (s.modCmd n f).envLines = s.envLines := rfl
@[simp] theorem modCmd_locks (s : State) (n : Nat) (f : EngCmd → EngCmd) : (s.modCmd n f).locks = s.locks := rfl
@[simp] theorem modCmd_monitors (s : State) (n : Nat) (f : EngCmd → EngCmd) : (s.modCmd n f).monitors = s.monitors := rfl
@[simp] theorem modCmd_landings (s : State) (n : Nat) (f : EngCmd → EngCmd) : (s.modCmd n f).landings = s.landings := rfl
@[simp] theorem modCmd_acks (s : State) (n : Nat) (f : EngCmd → EngCmd) : (s.modCmd n f).acks = s.acks := rfl
@[simp] theorem modCmd_reds (s : State) (n : Nat) (f : EngCmd → EngCmd) : (s.modCmd n f).reds = s.reds := rfl
@[simp] theorem modCmd_walks (s : State) (n : Nat) (f : EngCmd → EngCmd) : (s.modCmd n f).walks = s.walks := rfl
@[simp] theorem modCmd_misses (s : State) (n : Nat) (f : EngCmd → EngCmd) : (s.modCmd n f).misses = s.misses := rfl
@[simp] theorem modCmd_fills (s : State) (n : Nat) (f : EngCmd → EngCmd) : (s.modCmd n f).fills = s.fills := rfl
@[simp] theorem modCmd_cmds (s : State) (n : Nat) (f : EngCmd → EngCmd) : (s.modCmd n f).cmds = updWhere (fun c => c.id == n) f s.cmds := rfl
@[simp] theorem modCmd_banks (s : State) (n : Nat) (f : EngCmd → EngCmd) : (s.modCmd n f).banks = s.banks := rfl
@[simp] theorem modCmd_queries (s : State) (n : Nat) (f : EngCmd → EngCmd) : (s.modCmd n f).queries = s.queries := rfl
@[simp] theorem modCmd_images (s : State) (n : Nat) (f : EngCmd → EngCmd) : (s.modCmd n f).images = s.images := rfl
@[simp] theorem modCmd_ctxs (s : State) (n : Nat) (f : EngCmd → EngCmd) : (s.modCmd n f).ctxs = s.ctxs := rfl
@[simp] theorem modCmd_notify (s : State) (n : Nat) (f : EngCmd → EngCmd) : (s.modCmd n f).notify = s.notify := rfl
@[simp] theorem modCmd_pageCtx (s : State) (n : Nat) (f : EngCmd → EngCmd) : (s.modCmd n f).pageCtx = s.pageCtx := rfl
@[simp] theorem modCmd_phmargin (s : State) (n : Nat) (f : EngCmd → EngCmd) : (s.modCmd n f).phmargin = s.phmargin := rfl
@[simp] theorem modCmd_irqs (s : State) (n : Nat) (f : EngCmd → EngCmd) : (s.modCmd n f).irqs = s.irqs := rfl
@[simp] theorem modCmd_rights (s : State) (n : Nat) (f : EngCmd → EngCmd) : (s.modCmd n f).rights = s.rights := rfl
@[simp] theorem modCmd_denials (s : State) (n : Nat) (f : EngCmd → EngCmd) : (s.modCmd n f).denials = s.denials := rfl
@[simp] theorem modCmd_links (s : State) (n : Nat) (f : EngCmd → EngCmd) : (s.modCmd n f).links = s.links := rfl
@[simp] theorem modCmd_peer (s : State) (n : Nat) (f : EngCmd → EngCmd) : (s.modCmd n f).peer = s.peer := rfl
@[simp] theorem modCmd_replies (s : State) (n : Nat) (f : EngCmd → EngCmd) : (s.modCmd n f).replies = s.replies := rfl
@[simp] theorem modCmd_interval (s : State) (n : Nat) (f : EngCmd → EngCmd) : (s.modCmd n f).interval = s.interval := rfl
@[simp] theorem modCmd_factor (s : State) (n : Nat) (f : EngCmd → EngCmd) : (s.modCmd n f).factor = s.factor := rfl
@[simp] theorem modCmd_gate (s : State) (n : Nat) (f : EngCmd → EngCmd) : (s.modCmd n f).gate = s.gate := rfl
@[simp] theorem modCmd_power (s : State) (n : Nat) (f : EngCmd → EngCmd) : (s.modCmd n f).power = s.power := rfl
@[simp] theorem modCmd_firmware (s : State) (n : Nat) (f : EngCmd → EngCmd) : (s.modCmd n f).firmware = s.firmware := rfl
@[simp] theorem modCmd_rollback (s : State) (n : Nat) (f : EngCmd → EngCmd) : (s.modCmd n f).rollback = s.rollback := rfl
@[simp] theorem modCmd_recovery (s : State) (n : Nat) (f : EngCmd → EngCmd) : (s.modCmd n f).recovery = s.recovery := rfl
@[simp] theorem modCmd_softErrors (s : State) (n : Nat) (f : EngCmd → EngCmd) : (s.modCmd n f).softErrors = s.softErrors := rfl
@[simp] theorem modCmd_overflow (s : State) (n : Nat) (f : EngCmd → EngCmd) : (s.modCmd n f).overflow = s.overflow := rfl
@[simp] theorem modCmd_pins (s : State) (n : Nat) (f : EngCmd → EngCmd) : (s.modCmd n f).pins = s.pins := rfl
@[simp] theorem modCmd_offering (s : State) (n : Nat) (f : EngCmd → EngCmd) : (s.modCmd n f).offering = s.offering := rfl
@[simp] theorem modCmd_flightNo (s : State) (n : Nat) (f : EngCmd → EngCmd) : (s.modCmd n f).flightNo = s.flightNo := rfl

@[simp] theorem modQuery_cur (s : State) (n : Nat) (f : Query → Query) : (s.modQuery n f).cur = s.cur := rfl
@[simp] theorem modQuery_agenda (s : State) (n : Nat) (f : Query → Query) : (s.modQuery n f).agenda = s.agenda := rfl
@[simp] theorem modQuery_oracle (s : State) (n : Nat) (f : Query → Query) : (s.modQuery n f).oracle = s.oracle := rfl
@[simp] theorem modQuery_freeCtr (s : State) (n : Nat) (f : Query → Query) : (s.modQuery n f).freeCtr = s.freeCtr := rfl
@[simp] theorem modQuery_replays (s : State) (n : Nat) (f : Query → Query) : (s.modQuery n f).replays = s.replays := rfl
@[simp] theorem modQuery_lastId (s : State) (n : Nat) (f : Query → Query) : (s.modQuery n f).lastId = s.lastId := rfl
@[simp] theorem modQuery_time (s : State) (n : Nat) (f : Query → Query) : (s.modQuery n f).time = s.time := rfl
@[simp] theorem modQuery_cores (s : State) (n : Nat) (f : Query → Query) : (s.modQuery n f).cores = s.cores := rfl
@[simp] theorem modQuery_speeds (s : State) (n : Nat) (f : Query → Query) : (s.modQuery n f).speeds = s.speeds := rfl
@[simp] theorem modQuery_threads (s : State) (n : Nat) (f : Query → Query) : (s.modQuery n f).threads = s.threads := rfl
@[simp] theorem modQuery_crews (s : State) (n : Nat) (f : Query → Query) : (s.modQuery n f).crews = s.crews := rfl
@[simp] theorem modQuery_commits (s : State) (n : Nat) (f : Query → Query) : (s.modQuery n f).commits = s.commits := rfl
@[simp] theorem modQuery_teams (s : State) (n : Nat) (f : Query → Query) : (s.modQuery n f).teams = s.teams := rfl
@[simp] theorem modQuery_units (s : State) (n : Nat) (f : Query → Query) : (s.modQuery n f).units = s.units := rfl
@[simp] theorem modQuery_grids (s : State) (n : Nat) (f : Query → Query) : (s.modQuery n f).grids = s.grids := rfl
@[simp] theorem modQuery_pcTable (s : State) (n : Nat) (f : Query → Query) : (s.modQuery n f).pcTable = s.pcTable := rfl
@[simp] theorem modQuery_l1 (s : State) (n : Nat) (f : Query → Query) : (s.modQuery n f).l1 = s.l1 := rfl
@[simp] theorem modQuery_icache (s : State) (n : Nat) (f : Query → Query) : (s.modQuery n f).icache = s.icache := rfl
@[simp] theorem modQuery_layouts (s : State) (n : Nat) (f : Query → Query) : (s.modQuery n f).layouts = s.layouts := rfl
@[simp] theorem modQuery_tlb (s : State) (n : Nat) (f : Query → Query) : (s.modQuery n f).tlb = s.tlb := rfl
@[simp] theorem modQuery_buffers (s : State) (n : Nat) (f : Query → Query) : (s.modQuery n f).buffers = s.buffers := rfl
@[simp] theorem modQuery_mem (s : State) (n : Nat) (f : Query → Query) : (s.modQuery n f).mem = s.mem := rfl
@[simp] theorem modQuery_envLines (s : State) (n : Nat) (f : Query → Query) : (s.modQuery n f).envLines = s.envLines := rfl
@[simp] theorem modQuery_locks (s : State) (n : Nat) (f : Query → Query) : (s.modQuery n f).locks = s.locks := rfl
@[simp] theorem modQuery_monitors (s : State) (n : Nat) (f : Query → Query) : (s.modQuery n f).monitors = s.monitors := rfl
@[simp] theorem modQuery_landings (s : State) (n : Nat) (f : Query → Query) : (s.modQuery n f).landings = s.landings := rfl
@[simp] theorem modQuery_acks (s : State) (n : Nat) (f : Query → Query) : (s.modQuery n f).acks = s.acks := rfl
@[simp] theorem modQuery_reds (s : State) (n : Nat) (f : Query → Query) : (s.modQuery n f).reds = s.reds := rfl
@[simp] theorem modQuery_walks (s : State) (n : Nat) (f : Query → Query) : (s.modQuery n f).walks = s.walks := rfl
@[simp] theorem modQuery_misses (s : State) (n : Nat) (f : Query → Query) : (s.modQuery n f).misses = s.misses := rfl
@[simp] theorem modQuery_fills (s : State) (n : Nat) (f : Query → Query) : (s.modQuery n f).fills = s.fills := rfl
@[simp] theorem modQuery_cmds (s : State) (n : Nat) (f : Query → Query) : (s.modQuery n f).cmds = s.cmds := rfl
@[simp] theorem modQuery_banks (s : State) (n : Nat) (f : Query → Query) : (s.modQuery n f).banks = s.banks := rfl
@[simp] theorem modQuery_queries (s : State) (n : Nat) (f : Query → Query) :
    (s.modQuery n f).queries = updWhere (fun c => c.id == n) f s.queries := rfl
@[simp] theorem modQuery_images (s : State) (n : Nat) (f : Query → Query) : (s.modQuery n f).images = s.images := rfl
@[simp] theorem modQuery_ctxs (s : State) (n : Nat) (f : Query → Query) : (s.modQuery n f).ctxs = s.ctxs := rfl
@[simp] theorem modQuery_notify (s : State) (n : Nat) (f : Query → Query) : (s.modQuery n f).notify = s.notify := rfl
@[simp] theorem modQuery_pageCtx (s : State) (n : Nat) (f : Query → Query) : (s.modQuery n f).pageCtx = s.pageCtx := rfl
@[simp] theorem modQuery_phmargin (s : State) (n : Nat) (f : Query → Query) : (s.modQuery n f).phmargin = s.phmargin := rfl
@[simp] theorem modQuery_irqs (s : State) (n : Nat) (f : Query → Query) : (s.modQuery n f).irqs = s.irqs := rfl
@[simp] theorem modQuery_rights (s : State) (n : Nat) (f : Query → Query) : (s.modQuery n f).rights = s.rights := rfl
@[simp] theorem modQuery_denials (s : State) (n : Nat) (f : Query → Query) : (s.modQuery n f).denials = s.denials := rfl
@[simp] theorem modQuery_links (s : State) (n : Nat) (f : Query → Query) : (s.modQuery n f).links = s.links := rfl
@[simp] theorem modQuery_peer (s : State) (n : Nat) (f : Query → Query) : (s.modQuery n f).peer = s.peer := rfl
@[simp] theorem modQuery_replies (s : State) (n : Nat) (f : Query → Query) : (s.modQuery n f).replies = s.replies := rfl
@[simp] theorem modQuery_interval (s : State) (n : Nat) (f : Query → Query) : (s.modQuery n f).interval = s.interval := rfl
@[simp] theorem modQuery_factor (s : State) (n : Nat) (f : Query → Query) : (s.modQuery n f).factor = s.factor := rfl
@[simp] theorem modQuery_gate (s : State) (n : Nat) (f : Query → Query) : (s.modQuery n f).gate = s.gate := rfl
@[simp] theorem modQuery_power (s : State) (n : Nat) (f : Query → Query) : (s.modQuery n f).power = s.power := rfl
@[simp] theorem modQuery_firmware (s : State) (n : Nat) (f : Query → Query) : (s.modQuery n f).firmware = s.firmware := rfl
@[simp] theorem modQuery_rollback (s : State) (n : Nat) (f : Query → Query) : (s.modQuery n f).rollback = s.rollback := rfl
@[simp] theorem modQuery_recovery (s : State) (n : Nat) (f : Query → Query) : (s.modQuery n f).recovery = s.recovery := rfl
@[simp] theorem modQuery_softErrors (s : State) (n : Nat) (f : Query → Query) : (s.modQuery n f).softErrors = s.softErrors := rfl
@[simp] theorem modQuery_overflow (s : State) (n : Nat) (f : Query → Query) : (s.modQuery n f).overflow = s.overflow := rfl
@[simp] theorem modQuery_pins (s : State) (n : Nat) (f : Query → Query) : (s.modQuery n f).pins = s.pins := rfl
@[simp] theorem modQuery_offering (s : State) (n : Nat) (f : Query → Query) : (s.modQuery n f).offering = s.offering := rfl
@[simp] theorem modQuery_flightNo (s : State) (n : Nat) (f : Query → Query) : (s.modQuery n f).flightNo = s.flightNo := rfl

@[simp] theorem modFill_cur (s : State) (n : Nat) (f : Fill → Fill) : (s.modFill n f).cur = s.cur := rfl
@[simp] theorem modFill_agenda (s : State) (n : Nat) (f : Fill → Fill) : (s.modFill n f).agenda = s.agenda := rfl
@[simp] theorem modFill_oracle (s : State) (n : Nat) (f : Fill → Fill) : (s.modFill n f).oracle = s.oracle := rfl
@[simp] theorem modFill_freeCtr (s : State) (n : Nat) (f : Fill → Fill) : (s.modFill n f).freeCtr = s.freeCtr := rfl
@[simp] theorem modFill_replays (s : State) (n : Nat) (f : Fill → Fill) : (s.modFill n f).replays = s.replays := rfl
@[simp] theorem modFill_lastId (s : State) (n : Nat) (f : Fill → Fill) : (s.modFill n f).lastId = s.lastId := rfl
@[simp] theorem modFill_time (s : State) (n : Nat) (f : Fill → Fill) : (s.modFill n f).time = s.time := rfl
@[simp] theorem modFill_cores (s : State) (n : Nat) (f : Fill → Fill) : (s.modFill n f).cores = s.cores := rfl
@[simp] theorem modFill_speeds (s : State) (n : Nat) (f : Fill → Fill) : (s.modFill n f).speeds = s.speeds := rfl
@[simp] theorem modFill_threads (s : State) (n : Nat) (f : Fill → Fill) : (s.modFill n f).threads = s.threads := rfl
@[simp] theorem modFill_crews (s : State) (n : Nat) (f : Fill → Fill) : (s.modFill n f).crews = s.crews := rfl
@[simp] theorem modFill_commits (s : State) (n : Nat) (f : Fill → Fill) : (s.modFill n f).commits = s.commits := rfl
@[simp] theorem modFill_teams (s : State) (n : Nat) (f : Fill → Fill) : (s.modFill n f).teams = s.teams := rfl
@[simp] theorem modFill_units (s : State) (n : Nat) (f : Fill → Fill) : (s.modFill n f).units = s.units := rfl
@[simp] theorem modFill_grids (s : State) (n : Nat) (f : Fill → Fill) : (s.modFill n f).grids = s.grids := rfl
@[simp] theorem modFill_pcTable (s : State) (n : Nat) (f : Fill → Fill) : (s.modFill n f).pcTable = s.pcTable := rfl
@[simp] theorem modFill_l1 (s : State) (n : Nat) (f : Fill → Fill) : (s.modFill n f).l1 = s.l1 := rfl
@[simp] theorem modFill_icache (s : State) (n : Nat) (f : Fill → Fill) : (s.modFill n f).icache = s.icache := rfl
@[simp] theorem modFill_layouts (s : State) (n : Nat) (f : Fill → Fill) : (s.modFill n f).layouts = s.layouts := rfl
@[simp] theorem modFill_tlb (s : State) (n : Nat) (f : Fill → Fill) : (s.modFill n f).tlb = s.tlb := rfl
@[simp] theorem modFill_buffers (s : State) (n : Nat) (f : Fill → Fill) : (s.modFill n f).buffers = s.buffers := rfl
@[simp] theorem modFill_mem (s : State) (n : Nat) (f : Fill → Fill) : (s.modFill n f).mem = s.mem := rfl
@[simp] theorem modFill_envLines (s : State) (n : Nat) (f : Fill → Fill) : (s.modFill n f).envLines = s.envLines := rfl
@[simp] theorem modFill_locks (s : State) (n : Nat) (f : Fill → Fill) : (s.modFill n f).locks = s.locks := rfl
@[simp] theorem modFill_monitors (s : State) (n : Nat) (f : Fill → Fill) : (s.modFill n f).monitors = s.monitors := rfl
@[simp] theorem modFill_landings (s : State) (n : Nat) (f : Fill → Fill) : (s.modFill n f).landings = s.landings := rfl
@[simp] theorem modFill_acks (s : State) (n : Nat) (f : Fill → Fill) : (s.modFill n f).acks = s.acks := rfl
@[simp] theorem modFill_reds (s : State) (n : Nat) (f : Fill → Fill) : (s.modFill n f).reds = s.reds := rfl
@[simp] theorem modFill_walks (s : State) (n : Nat) (f : Fill → Fill) : (s.modFill n f).walks = s.walks := rfl
@[simp] theorem modFill_misses (s : State) (n : Nat) (f : Fill → Fill) : (s.modFill n f).misses = s.misses := rfl
@[simp] theorem modFill_fills (s : State) (n : Nat) (f : Fill → Fill) : (s.modFill n f).fills = updWhere (fun c => c.pfid == n) f s.fills := rfl
@[simp] theorem modFill_cmds (s : State) (n : Nat) (f : Fill → Fill) : (s.modFill n f).cmds = s.cmds := rfl
@[simp] theorem modFill_banks (s : State) (n : Nat) (f : Fill → Fill) : (s.modFill n f).banks = s.banks := rfl
@[simp] theorem modFill_queries (s : State) (n : Nat) (f : Fill → Fill) : (s.modFill n f).queries = s.queries := rfl
@[simp] theorem modFill_images (s : State) (n : Nat) (f : Fill → Fill) : (s.modFill n f).images = s.images := rfl
@[simp] theorem modFill_ctxs (s : State) (n : Nat) (f : Fill → Fill) : (s.modFill n f).ctxs = s.ctxs := rfl
@[simp] theorem modFill_notify (s : State) (n : Nat) (f : Fill → Fill) : (s.modFill n f).notify = s.notify := rfl
@[simp] theorem modFill_pageCtx (s : State) (n : Nat) (f : Fill → Fill) : (s.modFill n f).pageCtx = s.pageCtx := rfl
@[simp] theorem modFill_phmargin (s : State) (n : Nat) (f : Fill → Fill) : (s.modFill n f).phmargin = s.phmargin := rfl
@[simp] theorem modFill_irqs (s : State) (n : Nat) (f : Fill → Fill) : (s.modFill n f).irqs = s.irqs := rfl
@[simp] theorem modFill_rights (s : State) (n : Nat) (f : Fill → Fill) : (s.modFill n f).rights = s.rights := rfl
@[simp] theorem modFill_denials (s : State) (n : Nat) (f : Fill → Fill) : (s.modFill n f).denials = s.denials := rfl
@[simp] theorem modFill_links (s : State) (n : Nat) (f : Fill → Fill) : (s.modFill n f).links = s.links := rfl
@[simp] theorem modFill_peer (s : State) (n : Nat) (f : Fill → Fill) : (s.modFill n f).peer = s.peer := rfl
@[simp] theorem modFill_replies (s : State) (n : Nat) (f : Fill → Fill) : (s.modFill n f).replies = s.replies := rfl
@[simp] theorem modFill_interval (s : State) (n : Nat) (f : Fill → Fill) : (s.modFill n f).interval = s.interval := rfl
@[simp] theorem modFill_factor (s : State) (n : Nat) (f : Fill → Fill) : (s.modFill n f).factor = s.factor := rfl
@[simp] theorem modFill_gate (s : State) (n : Nat) (f : Fill → Fill) : (s.modFill n f).gate = s.gate := rfl
@[simp] theorem modFill_power (s : State) (n : Nat) (f : Fill → Fill) : (s.modFill n f).power = s.power := rfl
@[simp] theorem modFill_firmware (s : State) (n : Nat) (f : Fill → Fill) : (s.modFill n f).firmware = s.firmware := rfl
@[simp] theorem modFill_rollback (s : State) (n : Nat) (f : Fill → Fill) : (s.modFill n f).rollback = s.rollback := rfl
@[simp] theorem modFill_recovery (s : State) (n : Nat) (f : Fill → Fill) : (s.modFill n f).recovery = s.recovery := rfl
@[simp] theorem modFill_softErrors (s : State) (n : Nat) (f : Fill → Fill) : (s.modFill n f).softErrors = s.softErrors := rfl
@[simp] theorem modFill_overflow (s : State) (n : Nat) (f : Fill → Fill) : (s.modFill n f).overflow = s.overflow := rfl
@[simp] theorem modFill_pins (s : State) (n : Nat) (f : Fill → Fill) : (s.modFill n f).pins = s.pins := rfl
@[simp] theorem modFill_offering (s : State) (n : Nat) (f : Fill → Fill) : (s.modFill n f).offering = s.offering := rfl
@[simp] theorem modFill_flightNo (s : State) (n : Nat) (f : Fill → Fill) : (s.modFill n f).flightNo = s.flightNo := rfl

@[simp] theorem modUnit_cur (s : State) (g u : Nat) (f : Machine.PUnit → Machine.PUnit) : (s.modUnit g u f).cur = s.cur := rfl
@[simp] theorem modUnit_agenda (s : State) (g u : Nat) (f : Machine.PUnit → Machine.PUnit) : (s.modUnit g u f).agenda = s.agenda := rfl
@[simp] theorem modUnit_oracle (s : State) (g u : Nat) (f : Machine.PUnit → Machine.PUnit) : (s.modUnit g u f).oracle = s.oracle := rfl
@[simp] theorem modUnit_freeCtr (s : State) (g u : Nat) (f : Machine.PUnit → Machine.PUnit) : (s.modUnit g u f).freeCtr = s.freeCtr := rfl
@[simp] theorem modUnit_replays (s : State) (g u : Nat) (f : Machine.PUnit → Machine.PUnit) : (s.modUnit g u f).replays = s.replays := rfl
@[simp] theorem modUnit_lastId (s : State) (g u : Nat) (f : Machine.PUnit → Machine.PUnit) : (s.modUnit g u f).lastId = s.lastId := rfl
@[simp] theorem modUnit_time (s : State) (g u : Nat) (f : Machine.PUnit → Machine.PUnit) : (s.modUnit g u f).time = s.time := rfl
@[simp] theorem modUnit_cores (s : State) (g u : Nat) (f : Machine.PUnit → Machine.PUnit) : (s.modUnit g u f).cores = s.cores := rfl
@[simp] theorem modUnit_speeds (s : State) (g u : Nat) (f : Machine.PUnit → Machine.PUnit) : (s.modUnit g u f).speeds = s.speeds := rfl
@[simp] theorem modUnit_threads (s : State) (g u : Nat) (f : Machine.PUnit → Machine.PUnit) : (s.modUnit g u f).threads = s.threads := rfl
@[simp] theorem modUnit_crews (s : State) (g u : Nat) (f : Machine.PUnit → Machine.PUnit) : (s.modUnit g u f).crews = s.crews := rfl
@[simp] theorem modUnit_commits (s : State) (g u : Nat) (f : Machine.PUnit → Machine.PUnit) : (s.modUnit g u f).commits = s.commits := rfl
@[simp] theorem modUnit_teams (s : State) (g u : Nat) (f : Machine.PUnit → Machine.PUnit) : (s.modUnit g u f).teams = s.teams := rfl
@[simp] theorem modUnit_units (s : State) (g u : Nat) (f : Machine.PUnit → Machine.PUnit) :
    (s.modUnit g u f).units = updWhere (fun x => x.grid == g && x.index == u) f s.units := rfl
@[simp] theorem modUnit_grids (s : State) (g u : Nat) (f : Machine.PUnit → Machine.PUnit) : (s.modUnit g u f).grids = s.grids := rfl
@[simp] theorem modUnit_pcTable (s : State) (g u : Nat) (f : Machine.PUnit → Machine.PUnit) : (s.modUnit g u f).pcTable = s.pcTable := rfl
@[simp] theorem modUnit_l1 (s : State) (g u : Nat) (f : Machine.PUnit → Machine.PUnit) : (s.modUnit g u f).l1 = s.l1 := rfl
@[simp] theorem modUnit_icache (s : State) (g u : Nat) (f : Machine.PUnit → Machine.PUnit) : (s.modUnit g u f).icache = s.icache := rfl
@[simp] theorem modUnit_layouts (s : State) (g u : Nat) (f : Machine.PUnit → Machine.PUnit) : (s.modUnit g u f).layouts = s.layouts := rfl
@[simp] theorem modUnit_tlb (s : State) (g u : Nat) (f : Machine.PUnit → Machine.PUnit) : (s.modUnit g u f).tlb = s.tlb := rfl
@[simp] theorem modUnit_buffers (s : State) (g u : Nat) (f : Machine.PUnit → Machine.PUnit) : (s.modUnit g u f).buffers = s.buffers := rfl
@[simp] theorem modUnit_mem (s : State) (g u : Nat) (f : Machine.PUnit → Machine.PUnit) : (s.modUnit g u f).mem = s.mem := rfl
@[simp] theorem modUnit_envLines (s : State) (g u : Nat) (f : Machine.PUnit → Machine.PUnit) : (s.modUnit g u f).envLines = s.envLines := rfl
@[simp] theorem modUnit_locks (s : State) (g u : Nat) (f : Machine.PUnit → Machine.PUnit) : (s.modUnit g u f).locks = s.locks := rfl
@[simp] theorem modUnit_monitors (s : State) (g u : Nat) (f : Machine.PUnit → Machine.PUnit) : (s.modUnit g u f).monitors = s.monitors := rfl
@[simp] theorem modUnit_landings (s : State) (g u : Nat) (f : Machine.PUnit → Machine.PUnit) : (s.modUnit g u f).landings = s.landings := rfl
@[simp] theorem modUnit_acks (s : State) (g u : Nat) (f : Machine.PUnit → Machine.PUnit) : (s.modUnit g u f).acks = s.acks := rfl
@[simp] theorem modUnit_reds (s : State) (g u : Nat) (f : Machine.PUnit → Machine.PUnit) : (s.modUnit g u f).reds = s.reds := rfl
@[simp] theorem modUnit_walks (s : State) (g u : Nat) (f : Machine.PUnit → Machine.PUnit) : (s.modUnit g u f).walks = s.walks := rfl
@[simp] theorem modUnit_misses (s : State) (g u : Nat) (f : Machine.PUnit → Machine.PUnit) : (s.modUnit g u f).misses = s.misses := rfl
@[simp] theorem modUnit_fills (s : State) (g u : Nat) (f : Machine.PUnit → Machine.PUnit) : (s.modUnit g u f).fills = s.fills := rfl
@[simp] theorem modUnit_cmds (s : State) (g u : Nat) (f : Machine.PUnit → Machine.PUnit) : (s.modUnit g u f).cmds = s.cmds := rfl
@[simp] theorem modUnit_banks (s : State) (g u : Nat) (f : Machine.PUnit → Machine.PUnit) : (s.modUnit g u f).banks = s.banks := rfl
@[simp] theorem modUnit_queries (s : State) (g u : Nat) (f : Machine.PUnit → Machine.PUnit) : (s.modUnit g u f).queries = s.queries := rfl
@[simp] theorem modUnit_images (s : State) (g u : Nat) (f : Machine.PUnit → Machine.PUnit) : (s.modUnit g u f).images = s.images := rfl
@[simp] theorem modUnit_ctxs (s : State) (g u : Nat) (f : Machine.PUnit → Machine.PUnit) : (s.modUnit g u f).ctxs = s.ctxs := rfl
@[simp] theorem modUnit_notify (s : State) (g u : Nat) (f : Machine.PUnit → Machine.PUnit) : (s.modUnit g u f).notify = s.notify := rfl
@[simp] theorem modUnit_pageCtx (s : State) (g u : Nat) (f : Machine.PUnit → Machine.PUnit) : (s.modUnit g u f).pageCtx = s.pageCtx := rfl
@[simp] theorem modUnit_phmargin (s : State) (g u : Nat) (f : Machine.PUnit → Machine.PUnit) : (s.modUnit g u f).phmargin = s.phmargin := rfl
@[simp] theorem modUnit_irqs (s : State) (g u : Nat) (f : Machine.PUnit → Machine.PUnit) : (s.modUnit g u f).irqs = s.irqs := rfl
@[simp] theorem modUnit_rights (s : State) (g u : Nat) (f : Machine.PUnit → Machine.PUnit) : (s.modUnit g u f).rights = s.rights := rfl
@[simp] theorem modUnit_denials (s : State) (g u : Nat) (f : Machine.PUnit → Machine.PUnit) : (s.modUnit g u f).denials = s.denials := rfl
@[simp] theorem modUnit_links (s : State) (g u : Nat) (f : Machine.PUnit → Machine.PUnit) : (s.modUnit g u f).links = s.links := rfl
@[simp] theorem modUnit_peer (s : State) (g u : Nat) (f : Machine.PUnit → Machine.PUnit) : (s.modUnit g u f).peer = s.peer := rfl
@[simp] theorem modUnit_replies (s : State) (g u : Nat) (f : Machine.PUnit → Machine.PUnit) : (s.modUnit g u f).replies = s.replies := rfl
@[simp] theorem modUnit_interval (s : State) (g u : Nat) (f : Machine.PUnit → Machine.PUnit) : (s.modUnit g u f).interval = s.interval := rfl
@[simp] theorem modUnit_factor (s : State) (g u : Nat) (f : Machine.PUnit → Machine.PUnit) : (s.modUnit g u f).factor = s.factor := rfl
@[simp] theorem modUnit_gate (s : State) (g u : Nat) (f : Machine.PUnit → Machine.PUnit) : (s.modUnit g u f).gate = s.gate := rfl
@[simp] theorem modUnit_power (s : State) (g u : Nat) (f : Machine.PUnit → Machine.PUnit) : (s.modUnit g u f).power = s.power := rfl
@[simp] theorem modUnit_firmware (s : State) (g u : Nat) (f : Machine.PUnit → Machine.PUnit) : (s.modUnit g u f).firmware = s.firmware := rfl
@[simp] theorem modUnit_rollback (s : State) (g u : Nat) (f : Machine.PUnit → Machine.PUnit) : (s.modUnit g u f).rollback = s.rollback := rfl
@[simp] theorem modUnit_recovery (s : State) (g u : Nat) (f : Machine.PUnit → Machine.PUnit) : (s.modUnit g u f).recovery = s.recovery := rfl
@[simp] theorem modUnit_softErrors (s : State) (g u : Nat) (f : Machine.PUnit → Machine.PUnit) : (s.modUnit g u f).softErrors = s.softErrors := rfl
@[simp] theorem modUnit_overflow (s : State) (g u : Nat) (f : Machine.PUnit → Machine.PUnit) : (s.modUnit g u f).overflow = s.overflow := rfl
@[simp] theorem modUnit_pins (s : State) (g u : Nat) (f : Machine.PUnit → Machine.PUnit) : (s.modUnit g u f).pins = s.pins := rfl
@[simp] theorem modUnit_offering (s : State) (g u : Nat) (f : Machine.PUnit → Machine.PUnit) : (s.modUnit g u f).offering = s.offering := rfl
@[simp] theorem modUnit_flightNo (s : State) (g u : Nat) (f : Machine.PUnit → Machine.PUnit) : (s.modUnit g u f).flightNo = s.flightNo := rfl

/-- A change of a core changes the list of cores only. -/
theorem modCore_eq (s : State) (n : Nat) (f : Core → Core) : ∃ l, s.modCore n f = { s with cores := l } := by
  unfold State.modCore
  split
  · exact ⟨s.cores, rfl⟩
  · exact ⟨_, rfl⟩

@[simp] theorem modCore_cur (s : State) (n : Nat) (f : Core → Core) : (s.modCore n f).cur = s.cur := by
  obtain ⟨l, h⟩ := modCore_eq s n f; rw [h]
@[simp] theorem modCore_agenda (s : State) (n : Nat) (f : Core → Core) : (s.modCore n f).agenda = s.agenda := by
  obtain ⟨l, h⟩ := modCore_eq s n f; rw [h]
@[simp] theorem modCore_oracle (s : State) (n : Nat) (f : Core → Core) : (s.modCore n f).oracle = s.oracle := by
  obtain ⟨l, h⟩ := modCore_eq s n f; rw [h]
@[simp] theorem modCore_freeCtr (s : State) (n : Nat) (f : Core → Core) : (s.modCore n f).freeCtr = s.freeCtr := by
  obtain ⟨l, h⟩ := modCore_eq s n f; rw [h]
@[simp] theorem modCore_replays (s : State) (n : Nat) (f : Core → Core) : (s.modCore n f).replays = s.replays := by
  obtain ⟨l, h⟩ := modCore_eq s n f; rw [h]
@[simp] theorem modCore_lastId (s : State) (n : Nat) (f : Core → Core) : (s.modCore n f).lastId = s.lastId := by
  obtain ⟨l, h⟩ := modCore_eq s n f; rw [h]
@[simp] theorem modCore_time (s : State) (n : Nat) (f : Core → Core) : (s.modCore n f).time = s.time := by
  obtain ⟨l, h⟩ := modCore_eq s n f; rw [h]
@[simp] theorem modCore_speeds (s : State) (n : Nat) (f : Core → Core) : (s.modCore n f).speeds = s.speeds := by
  obtain ⟨l, h⟩ := modCore_eq s n f; rw [h]
@[simp] theorem modCore_threads (s : State) (n : Nat) (f : Core → Core) : (s.modCore n f).threads = s.threads := by
  obtain ⟨l, h⟩ := modCore_eq s n f; rw [h]
@[simp] theorem modCore_crews (s : State) (n : Nat) (f : Core → Core) : (s.modCore n f).crews = s.crews := by
  obtain ⟨l, h⟩ := modCore_eq s n f; rw [h]
@[simp] theorem modCore_commits (s : State) (n : Nat) (f : Core → Core) : (s.modCore n f).commits = s.commits := by
  obtain ⟨l, h⟩ := modCore_eq s n f; rw [h]
@[simp] theorem modCore_teams (s : State) (n : Nat) (f : Core → Core) : (s.modCore n f).teams = s.teams := by
  obtain ⟨l, h⟩ := modCore_eq s n f; rw [h]
@[simp] theorem modCore_units (s : State) (n : Nat) (f : Core → Core) : (s.modCore n f).units = s.units := by
  obtain ⟨l, h⟩ := modCore_eq s n f; rw [h]
@[simp] theorem modCore_grids (s : State) (n : Nat) (f : Core → Core) : (s.modCore n f).grids = s.grids := by
  obtain ⟨l, h⟩ := modCore_eq s n f; rw [h]
@[simp] theorem modCore_pcTable (s : State) (n : Nat) (f : Core → Core) : (s.modCore n f).pcTable = s.pcTable := by
  obtain ⟨l, h⟩ := modCore_eq s n f; rw [h]
@[simp] theorem modCore_l1 (s : State) (n : Nat) (f : Core → Core) : (s.modCore n f).l1 = s.l1 := by
  obtain ⟨l, h⟩ := modCore_eq s n f; rw [h]
@[simp] theorem modCore_icache (s : State) (n : Nat) (f : Core → Core) : (s.modCore n f).icache = s.icache := by
  obtain ⟨l, h⟩ := modCore_eq s n f; rw [h]
@[simp] theorem modCore_layouts (s : State) (n : Nat) (f : Core → Core) : (s.modCore n f).layouts = s.layouts := by
  obtain ⟨l, h⟩ := modCore_eq s n f; rw [h]
@[simp] theorem modCore_tlb (s : State) (n : Nat) (f : Core → Core) : (s.modCore n f).tlb = s.tlb := by
  obtain ⟨l, h⟩ := modCore_eq s n f; rw [h]
@[simp] theorem modCore_buffers (s : State) (n : Nat) (f : Core → Core) : (s.modCore n f).buffers = s.buffers := by
  obtain ⟨l, h⟩ := modCore_eq s n f; rw [h]
@[simp] theorem modCore_mem (s : State) (n : Nat) (f : Core → Core) : (s.modCore n f).mem = s.mem := by
  obtain ⟨l, h⟩ := modCore_eq s n f; rw [h]
@[simp] theorem modCore_envLines (s : State) (n : Nat) (f : Core → Core) : (s.modCore n f).envLines = s.envLines := by
  obtain ⟨l, h⟩ := modCore_eq s n f; rw [h]
@[simp] theorem modCore_locks (s : State) (n : Nat) (f : Core → Core) : (s.modCore n f).locks = s.locks := by
  obtain ⟨l, h⟩ := modCore_eq s n f; rw [h]
@[simp] theorem modCore_monitors (s : State) (n : Nat) (f : Core → Core) : (s.modCore n f).monitors = s.monitors := by
  obtain ⟨l, h⟩ := modCore_eq s n f; rw [h]
@[simp] theorem modCore_landings (s : State) (n : Nat) (f : Core → Core) : (s.modCore n f).landings = s.landings := by
  obtain ⟨l, h⟩ := modCore_eq s n f; rw [h]
@[simp] theorem modCore_acks (s : State) (n : Nat) (f : Core → Core) : (s.modCore n f).acks = s.acks := by
  obtain ⟨l, h⟩ := modCore_eq s n f; rw [h]
@[simp] theorem modCore_reds (s : State) (n : Nat) (f : Core → Core) : (s.modCore n f).reds = s.reds := by
  obtain ⟨l, h⟩ := modCore_eq s n f; rw [h]
@[simp] theorem modCore_walks (s : State) (n : Nat) (f : Core → Core) : (s.modCore n f).walks = s.walks := by
  obtain ⟨l, h⟩ := modCore_eq s n f; rw [h]
@[simp] theorem modCore_misses (s : State) (n : Nat) (f : Core → Core) : (s.modCore n f).misses = s.misses := by
  obtain ⟨l, h⟩ := modCore_eq s n f; rw [h]
@[simp] theorem modCore_fills (s : State) (n : Nat) (f : Core → Core) : (s.modCore n f).fills = s.fills := by
  obtain ⟨l, h⟩ := modCore_eq s n f; rw [h]
@[simp] theorem modCore_cmds (s : State) (n : Nat) (f : Core → Core) : (s.modCore n f).cmds = s.cmds := by
  obtain ⟨l, h⟩ := modCore_eq s n f; rw [h]
@[simp] theorem modCore_banks (s : State) (n : Nat) (f : Core → Core) : (s.modCore n f).banks = s.banks := by
  obtain ⟨l, h⟩ := modCore_eq s n f; rw [h]
@[simp] theorem modCore_queries (s : State) (n : Nat) (f : Core → Core) : (s.modCore n f).queries = s.queries := by
  obtain ⟨l, h⟩ := modCore_eq s n f; rw [h]
@[simp] theorem modCore_images (s : State) (n : Nat) (f : Core → Core) : (s.modCore n f).images = s.images := by
  obtain ⟨l, h⟩ := modCore_eq s n f; rw [h]
@[simp] theorem modCore_ctxs (s : State) (n : Nat) (f : Core → Core) : (s.modCore n f).ctxs = s.ctxs := by
  obtain ⟨l, h⟩ := modCore_eq s n f; rw [h]
@[simp] theorem modCore_notify (s : State) (n : Nat) (f : Core → Core) : (s.modCore n f).notify = s.notify := by
  obtain ⟨l, h⟩ := modCore_eq s n f; rw [h]
@[simp] theorem modCore_pageCtx (s : State) (n : Nat) (f : Core → Core) : (s.modCore n f).pageCtx = s.pageCtx := by
  obtain ⟨l, h⟩ := modCore_eq s n f; rw [h]
@[simp] theorem modCore_phmargin (s : State) (n : Nat) (f : Core → Core) : (s.modCore n f).phmargin = s.phmargin := by
  obtain ⟨l, h⟩ := modCore_eq s n f; rw [h]
@[simp] theorem modCore_irqs (s : State) (n : Nat) (f : Core → Core) : (s.modCore n f).irqs = s.irqs := by
  obtain ⟨l, h⟩ := modCore_eq s n f; rw [h]
@[simp] theorem modCore_rights (s : State) (n : Nat) (f : Core → Core) : (s.modCore n f).rights = s.rights := by
  obtain ⟨l, h⟩ := modCore_eq s n f; rw [h]
@[simp] theorem modCore_denials (s : State) (n : Nat) (f : Core → Core) : (s.modCore n f).denials = s.denials := by
  obtain ⟨l, h⟩ := modCore_eq s n f; rw [h]
@[simp] theorem modCore_links (s : State) (n : Nat) (f : Core → Core) : (s.modCore n f).links = s.links := by
  obtain ⟨l, h⟩ := modCore_eq s n f; rw [h]
@[simp] theorem modCore_peer (s : State) (n : Nat) (f : Core → Core) : (s.modCore n f).peer = s.peer := by
  obtain ⟨l, h⟩ := modCore_eq s n f; rw [h]
@[simp] theorem modCore_replies (s : State) (n : Nat) (f : Core → Core) : (s.modCore n f).replies = s.replies := by
  obtain ⟨l, h⟩ := modCore_eq s n f; rw [h]
@[simp] theorem modCore_interval (s : State) (n : Nat) (f : Core → Core) : (s.modCore n f).interval = s.interval := by
  obtain ⟨l, h⟩ := modCore_eq s n f; rw [h]
@[simp] theorem modCore_factor (s : State) (n : Nat) (f : Core → Core) : (s.modCore n f).factor = s.factor := by
  obtain ⟨l, h⟩ := modCore_eq s n f; rw [h]
@[simp] theorem modCore_gate (s : State) (n : Nat) (f : Core → Core) : (s.modCore n f).gate = s.gate := by
  obtain ⟨l, h⟩ := modCore_eq s n f; rw [h]
@[simp] theorem modCore_power (s : State) (n : Nat) (f : Core → Core) : (s.modCore n f).power = s.power := by
  obtain ⟨l, h⟩ := modCore_eq s n f; rw [h]
@[simp] theorem modCore_firmware (s : State) (n : Nat) (f : Core → Core) : (s.modCore n f).firmware = s.firmware := by
  obtain ⟨l, h⟩ := modCore_eq s n f; rw [h]
@[simp] theorem modCore_rollback (s : State) (n : Nat) (f : Core → Core) : (s.modCore n f).rollback = s.rollback := by
  obtain ⟨l, h⟩ := modCore_eq s n f; rw [h]
@[simp] theorem modCore_recovery (s : State) (n : Nat) (f : Core → Core) : (s.modCore n f).recovery = s.recovery := by
  obtain ⟨l, h⟩ := modCore_eq s n f; rw [h]
@[simp] theorem modCore_softErrors (s : State) (n : Nat) (f : Core → Core) : (s.modCore n f).softErrors = s.softErrors := by
  obtain ⟨l, h⟩ := modCore_eq s n f; rw [h]
@[simp] theorem modCore_overflow (s : State) (n : Nat) (f : Core → Core) : (s.modCore n f).overflow = s.overflow := by
  obtain ⟨l, h⟩ := modCore_eq s n f; rw [h]
@[simp] theorem modCore_pins (s : State) (n : Nat) (f : Core → Core) : (s.modCore n f).pins = s.pins := by
  obtain ⟨l, h⟩ := modCore_eq s n f; rw [h]
@[simp] theorem modCore_offering (s : State) (n : Nat) (f : Core → Core) : (s.modCore n f).offering = s.offering := by
  obtain ⟨l, h⟩ := modCore_eq s n f; rw [h]
@[simp] theorem modCore_flightNo (s : State) (n : Nat) (f : Core → Core) : (s.modCore n f).flightNo = s.flightNo := by
  obtain ⟨l, h⟩ := modCore_eq s n f; rw [h]

/-! ### Identifiers, choices, messages -/

@[simp] theorem fresh_cur (s : State)  : (s.fresh).cur = s.cur := rfl
@[simp] theorem fresh_agenda (s : State)  : (s.fresh).agenda = s.agenda := rfl
@[simp] theorem fresh_oracle (s : State)  : (s.fresh).oracle = s.oracle := rfl
@[simp] theorem fresh_freeCtr (s : State)  : (s.fresh).freeCtr = s.freeCtr := rfl
@[simp] theorem fresh_replays (s : State)  : (s.fresh).replays = s.replays := rfl
@[simp] theorem fresh_lastId (s : State)  : (s.fresh).lastId = s.lastId + 1 := rfl
@[simp] theorem fresh_time (s : State)  : (s.fresh).time = s.time := rfl
@[simp] theorem fresh_cores (s : State)  : (s.fresh).cores = s.cores := rfl
@[simp] theorem fresh_speeds (s : State)  : (s.fresh).speeds = s.speeds := rfl
@[simp] theorem fresh_threads (s : State)  : (s.fresh).threads = s.threads := rfl
@[simp] theorem fresh_crews (s : State)  : (s.fresh).crews = s.crews := rfl
@[simp] theorem fresh_commits (s : State)  : (s.fresh).commits = s.commits := rfl
@[simp] theorem fresh_teams (s : State)  : (s.fresh).teams = s.teams := rfl
@[simp] theorem fresh_units (s : State)  : (s.fresh).units = s.units := rfl
@[simp] theorem fresh_grids (s : State)  : (s.fresh).grids = s.grids := rfl
@[simp] theorem fresh_pcTable (s : State)  : (s.fresh).pcTable = s.pcTable := rfl
@[simp] theorem fresh_l1 (s : State)  : (s.fresh).l1 = s.l1 := rfl
@[simp] theorem fresh_icache (s : State)  : (s.fresh).icache = s.icache := rfl
@[simp] theorem fresh_layouts (s : State)  : (s.fresh).layouts = s.layouts := rfl
@[simp] theorem fresh_tlb (s : State)  : (s.fresh).tlb = s.tlb := rfl
@[simp] theorem fresh_buffers (s : State)  : (s.fresh).buffers = s.buffers := rfl
@[simp] theorem fresh_mem (s : State)  : (s.fresh).mem = s.mem := rfl
@[simp] theorem fresh_envLines (s : State)  : (s.fresh).envLines = s.envLines := rfl
@[simp] theorem fresh_locks (s : State)  : (s.fresh).locks = s.locks := rfl
@[simp] theorem fresh_monitors (s : State)  : (s.fresh).monitors = s.monitors := rfl
@[simp] theorem fresh_landings (s : State)  : (s.fresh).landings = s.landings := rfl
@[simp] theorem fresh_acks (s : State)  : (s.fresh).acks = s.acks := rfl
@[simp] theorem fresh_reds (s : State)  : (s.fresh).reds = s.reds := rfl
@[simp] theorem fresh_walks (s : State)  : (s.fresh).walks = s.walks := rfl
@[simp] theorem fresh_misses (s : State)  : (s.fresh).misses = s.misses := rfl
@[simp] theorem fresh_fills (s : State)  : (s.fresh).fills = s.fills := rfl
@[simp] theorem fresh_cmds (s : State)  : (s.fresh).cmds = s.cmds := rfl
@[simp] theorem fresh_banks (s : State)  : (s.fresh).banks = s.banks := rfl
@[simp] theorem fresh_queries (s : State)  : (s.fresh).queries = s.queries := rfl
@[simp] theorem fresh_images (s : State)  : (s.fresh).images = s.images := rfl
@[simp] theorem fresh_ctxs (s : State)  : (s.fresh).ctxs = s.ctxs := rfl
@[simp] theorem fresh_notify (s : State)  : (s.fresh).notify = s.notify := rfl
@[simp] theorem fresh_pageCtx (s : State)  : (s.fresh).pageCtx = s.pageCtx := rfl
@[simp] theorem fresh_phmargin (s : State)  : (s.fresh).phmargin = s.phmargin := rfl
@[simp] theorem fresh_irqs (s : State)  : (s.fresh).irqs = s.irqs := rfl
@[simp] theorem fresh_rights (s : State)  : (s.fresh).rights = s.rights := rfl
@[simp] theorem fresh_denials (s : State)  : (s.fresh).denials = s.denials := rfl
@[simp] theorem fresh_links (s : State)  : (s.fresh).links = s.links := rfl
@[simp] theorem fresh_peer (s : State)  : (s.fresh).peer = s.peer := rfl
@[simp] theorem fresh_replies (s : State)  : (s.fresh).replies = s.replies := rfl
@[simp] theorem fresh_interval (s : State)  : (s.fresh).interval = s.interval := rfl
@[simp] theorem fresh_factor (s : State)  : (s.fresh).factor = s.factor := rfl
@[simp] theorem fresh_gate (s : State)  : (s.fresh).gate = s.gate := rfl
@[simp] theorem fresh_power (s : State)  : (s.fresh).power = s.power := rfl
@[simp] theorem fresh_firmware (s : State)  : (s.fresh).firmware = s.firmware := rfl
@[simp] theorem fresh_rollback (s : State)  : (s.fresh).rollback = s.rollback := rfl
@[simp] theorem fresh_recovery (s : State)  : (s.fresh).recovery = s.recovery := rfl
@[simp] theorem fresh_softErrors (s : State)  : (s.fresh).softErrors = s.softErrors := rfl
@[simp] theorem fresh_overflow (s : State)  : (s.fresh).overflow = s.overflow := rfl
@[simp] theorem fresh_pins (s : State)  : (s.fresh).pins = s.pins := rfl
@[simp] theorem fresh_offering (s : State)  : (s.fresh).offering = s.offering := rfl
@[simp] theorem fresh_flightNo (s : State)  : (s.fresh).flightNo = s.flightNo := rfl

@[simp] theorem choose_cur (s : State)  : (s.choose).cur = s.cur := rfl
@[simp] theorem choose_agenda (s : State)  : (s.choose).agenda = s.agenda := rfl
@[simp] theorem choose_oracle (s : State)  : (s.choose).oracle = s.oracle.tail := rfl
@[simp] theorem choose_freeCtr (s : State)  : (s.choose).freeCtr = s.freeCtr := rfl
@[simp] theorem choose_replays (s : State)  : (s.choose).replays = s.replays := rfl
@[simp] theorem choose_lastId (s : State)  : (s.choose).lastId = s.lastId := rfl
@[simp] theorem choose_time (s : State)  : (s.choose).time = s.time := rfl
@[simp] theorem choose_cores (s : State)  : (s.choose).cores = s.cores := rfl
@[simp] theorem choose_speeds (s : State)  : (s.choose).speeds = s.speeds := rfl
@[simp] theorem choose_threads (s : State)  : (s.choose).threads = s.threads := rfl
@[simp] theorem choose_crews (s : State)  : (s.choose).crews = s.crews := rfl
@[simp] theorem choose_commits (s : State)  : (s.choose).commits = s.commits := rfl
@[simp] theorem choose_teams (s : State)  : (s.choose).teams = s.teams := rfl
@[simp] theorem choose_units (s : State)  : (s.choose).units = s.units := rfl
@[simp] theorem choose_grids (s : State)  : (s.choose).grids = s.grids := rfl
@[simp] theorem choose_pcTable (s : State)  : (s.choose).pcTable = s.pcTable := rfl
@[simp] theorem choose_l1 (s : State)  : (s.choose).l1 = s.l1 := rfl
@[simp] theorem choose_icache (s : State)  : (s.choose).icache = s.icache := rfl
@[simp] theorem choose_layouts (s : State)  : (s.choose).layouts = s.layouts := rfl
@[simp] theorem choose_tlb (s : State)  : (s.choose).tlb = s.tlb := rfl
@[simp] theorem choose_buffers (s : State)  : (s.choose).buffers = s.buffers := rfl
@[simp] theorem choose_mem (s : State)  : (s.choose).mem = s.mem := rfl
@[simp] theorem choose_envLines (s : State)  : (s.choose).envLines = s.envLines := rfl
@[simp] theorem choose_locks (s : State)  : (s.choose).locks = s.locks := rfl
@[simp] theorem choose_monitors (s : State)  : (s.choose).monitors = s.monitors := rfl
@[simp] theorem choose_landings (s : State)  : (s.choose).landings = s.landings := rfl
@[simp] theorem choose_acks (s : State)  : (s.choose).acks = s.acks := rfl
@[simp] theorem choose_reds (s : State)  : (s.choose).reds = s.reds := rfl
@[simp] theorem choose_walks (s : State)  : (s.choose).walks = s.walks := rfl
@[simp] theorem choose_misses (s : State)  : (s.choose).misses = s.misses := rfl
@[simp] theorem choose_fills (s : State)  : (s.choose).fills = s.fills := rfl
@[simp] theorem choose_cmds (s : State)  : (s.choose).cmds = s.cmds := rfl
@[simp] theorem choose_banks (s : State)  : (s.choose).banks = s.banks := rfl
@[simp] theorem choose_queries (s : State)  : (s.choose).queries = s.queries := rfl
@[simp] theorem choose_images (s : State)  : (s.choose).images = s.images := rfl
@[simp] theorem choose_ctxs (s : State)  : (s.choose).ctxs = s.ctxs := rfl
@[simp] theorem choose_notify (s : State)  : (s.choose).notify = s.notify := rfl
@[simp] theorem choose_pageCtx (s : State)  : (s.choose).pageCtx = s.pageCtx := rfl
@[simp] theorem choose_phmargin (s : State)  : (s.choose).phmargin = s.phmargin := rfl
@[simp] theorem choose_irqs (s : State)  : (s.choose).irqs = s.irqs := rfl
@[simp] theorem choose_rights (s : State)  : (s.choose).rights = s.rights := rfl
@[simp] theorem choose_denials (s : State)  : (s.choose).denials = s.denials := rfl
@[simp] theorem choose_links (s : State)  : (s.choose).links = s.links := rfl
@[simp] theorem choose_peer (s : State)  : (s.choose).peer = s.peer := rfl
@[simp] theorem choose_replies (s : State)  : (s.choose).replies = s.replies := rfl
@[simp] theorem choose_interval (s : State)  : (s.choose).interval = s.interval := rfl
@[simp] theorem choose_factor (s : State)  : (s.choose).factor = s.factor := rfl
@[simp] theorem choose_gate (s : State)  : (s.choose).gate = s.gate := rfl
@[simp] theorem choose_power (s : State)  : (s.choose).power = s.power := rfl
@[simp] theorem choose_firmware (s : State)  : (s.choose).firmware = s.firmware := rfl
@[simp] theorem choose_rollback (s : State)  : (s.choose).rollback = s.rollback := rfl
@[simp] theorem choose_recovery (s : State)  : (s.choose).recovery = s.recovery := rfl
@[simp] theorem choose_softErrors (s : State)  : (s.choose).softErrors = s.softErrors := rfl
@[simp] theorem choose_overflow (s : State)  : (s.choose).overflow = s.overflow := rfl
@[simp] theorem choose_pins (s : State)  : (s.choose).pins = s.pins := rfl
@[simp] theorem choose_offering (s : State)  : (s.choose).offering = s.offering := rfl
@[simp] theorem choose_flightNo (s : State)  : (s.choose).flightNo = s.flightNo := rfl

@[simp] theorem interrupt_cur (s : State) (i : Irq) : (s.interrupt i).cur = s.cur := rfl
@[simp] theorem interrupt_agenda (s : State) (i : Irq) : (s.interrupt i).agenda = s.agenda := rfl
@[simp] theorem interrupt_oracle (s : State) (i : Irq) : (s.interrupt i).oracle = s.oracle := rfl
@[simp] theorem interrupt_freeCtr (s : State) (i : Irq) : (s.interrupt i).freeCtr = s.freeCtr := rfl
@[simp] theorem interrupt_replays (s : State) (i : Irq) : (s.interrupt i).replays = s.replays := rfl
@[simp] theorem interrupt_lastId (s : State) (i : Irq) : (s.interrupt i).lastId = s.lastId := rfl
@[simp] theorem interrupt_time (s : State) (i : Irq) : (s.interrupt i).time = s.time := rfl
@[simp] theorem interrupt_cores (s : State) (i : Irq) : (s.interrupt i).cores = s.cores := rfl
@[simp] theorem interrupt_speeds (s : State) (i : Irq) : (s.interrupt i).speeds = s.speeds := rfl
@[simp] theorem interrupt_threads (s : State) (i : Irq) : (s.interrupt i).threads = s.threads := rfl
@[simp] theorem interrupt_crews (s : State) (i : Irq) : (s.interrupt i).crews = s.crews := rfl
@[simp] theorem interrupt_commits (s : State) (i : Irq) : (s.interrupt i).commits = s.commits := rfl
@[simp] theorem interrupt_teams (s : State) (i : Irq) : (s.interrupt i).teams = s.teams := rfl
@[simp] theorem interrupt_units (s : State) (i : Irq) : (s.interrupt i).units = s.units := rfl
@[simp] theorem interrupt_grids (s : State) (i : Irq) : (s.interrupt i).grids = s.grids := rfl
@[simp] theorem interrupt_pcTable (s : State) (i : Irq) : (s.interrupt i).pcTable = s.pcTable := rfl
@[simp] theorem interrupt_l1 (s : State) (i : Irq) : (s.interrupt i).l1 = s.l1 := rfl
@[simp] theorem interrupt_icache (s : State) (i : Irq) : (s.interrupt i).icache = s.icache := rfl
@[simp] theorem interrupt_layouts (s : State) (i : Irq) : (s.interrupt i).layouts = s.layouts := rfl
@[simp] theorem interrupt_tlb (s : State) (i : Irq) : (s.interrupt i).tlb = s.tlb := rfl
@[simp] theorem interrupt_buffers (s : State) (i : Irq) : (s.interrupt i).buffers = s.buffers := rfl
@[simp] theorem interrupt_mem (s : State) (i : Irq) : (s.interrupt i).mem = s.mem := rfl
@[simp] theorem interrupt_envLines (s : State) (i : Irq) : (s.interrupt i).envLines = s.envLines := rfl
@[simp] theorem interrupt_locks (s : State) (i : Irq) : (s.interrupt i).locks = s.locks := rfl
@[simp] theorem interrupt_monitors (s : State) (i : Irq) : (s.interrupt i).monitors = s.monitors := rfl
@[simp] theorem interrupt_landings (s : State) (i : Irq) : (s.interrupt i).landings = s.landings := rfl
@[simp] theorem interrupt_acks (s : State) (i : Irq) : (s.interrupt i).acks = s.acks := rfl
@[simp] theorem interrupt_reds (s : State) (i : Irq) : (s.interrupt i).reds = s.reds := rfl
@[simp] theorem interrupt_walks (s : State) (i : Irq) : (s.interrupt i).walks = s.walks := rfl
@[simp] theorem interrupt_misses (s : State) (i : Irq) : (s.interrupt i).misses = s.misses := rfl
@[simp] theorem interrupt_fills (s : State) (i : Irq) : (s.interrupt i).fills = s.fills := rfl
@[simp] theorem interrupt_cmds (s : State) (i : Irq) : (s.interrupt i).cmds = s.cmds := rfl
@[simp] theorem interrupt_banks (s : State) (i : Irq) : (s.interrupt i).banks = s.banks := rfl
@[simp] theorem interrupt_queries (s : State) (i : Irq) : (s.interrupt i).queries = s.queries := rfl
@[simp] theorem interrupt_images (s : State) (i : Irq) : (s.interrupt i).images = s.images := rfl
@[simp] theorem interrupt_ctxs (s : State) (i : Irq) : (s.interrupt i).ctxs = s.ctxs := rfl
@[simp] theorem interrupt_notify (s : State) (i : Irq) : (s.interrupt i).notify = s.notify := rfl
@[simp] theorem interrupt_pageCtx (s : State) (i : Irq) : (s.interrupt i).pageCtx = s.pageCtx := rfl
@[simp] theorem interrupt_phmargin (s : State) (i : Irq) : (s.interrupt i).phmargin = s.phmargin := rfl
@[simp] theorem interrupt_irqs (s : State) (i : Irq) : (s.interrupt i).irqs = s.irqs ++ [i] := rfl
@[simp] theorem interrupt_rights (s : State) (i : Irq) : (s.interrupt i).rights = s.rights := rfl
@[simp] theorem interrupt_denials (s : State) (i : Irq) : (s.interrupt i).denials = s.denials := rfl
@[simp] theorem interrupt_links (s : State) (i : Irq) : (s.interrupt i).links = s.links := rfl
@[simp] theorem interrupt_peer (s : State) (i : Irq) : (s.interrupt i).peer = s.peer := rfl
@[simp] theorem interrupt_replies (s : State) (i : Irq) : (s.interrupt i).replies = s.replies := rfl
@[simp] theorem interrupt_interval (s : State) (i : Irq) : (s.interrupt i).interval = s.interval := rfl
@[simp] theorem interrupt_factor (s : State) (i : Irq) : (s.interrupt i).factor = s.factor := rfl
@[simp] theorem interrupt_gate (s : State) (i : Irq) : (s.interrupt i).gate = s.gate := rfl
@[simp] theorem interrupt_power (s : State) (i : Irq) : (s.interrupt i).power = s.power := rfl
@[simp] theorem interrupt_firmware (s : State) (i : Irq) : (s.interrupt i).firmware = s.firmware := rfl
@[simp] theorem interrupt_rollback (s : State) (i : Irq) : (s.interrupt i).rollback = s.rollback := rfl
@[simp] theorem interrupt_recovery (s : State) (i : Irq) : (s.interrupt i).recovery = s.recovery := rfl
@[simp] theorem interrupt_softErrors (s : State) (i : Irq) : (s.interrupt i).softErrors = s.softErrors := rfl
@[simp] theorem interrupt_overflow (s : State) (i : Irq) : (s.interrupt i).overflow = s.overflow := rfl
@[simp] theorem interrupt_pins (s : State) (i : Irq) : (s.interrupt i).pins = s.pins := rfl
@[simp] theorem interrupt_offering (s : State) (i : Irq) : (s.interrupt i).offering = s.offering := rfl
@[simp] theorem interrupt_flightNo (s : State) (i : Irq) : (s.interrupt i).flightNo = s.flightNo := rfl

/-- A denial that is logged changes the log only (R297). -/
theorem logDenial_eq (s : State) (l : Loc) (c : ReqClass) (w : Bool) : ∃ d, s.logDenial l c w = { s with denials := d } := by
  unfold State.logDenial
  split
  · exact ⟨s.denials, rfl⟩
  · exact ⟨_, rfl⟩

/-- Denials that are logged line by line change the log only (R297). -/
theorem logLines_eq (ls : List Nat) (w : Bool) : ∀ s : State, ∃ d, s.logLines ls w = { s with denials := d } := by
  induction ls with
  | nil => exact fun s => ⟨s.denials, rfl⟩
  | cons l ls ih =>
    intro s
    obtain ⟨d, h⟩ := logDenial_eq s (.pa l) .device w
    obtain ⟨d', h'⟩ := ih { s with denials := d }
    exact ⟨d', (congrArg (fun x => State.logLines x ls w) h).trans h'⟩

/-- A write by physical address changes memory, and the denial log where a table denies it (R297). -/
theorem writePhys_eq (s : State) (a : Nat) (bs : List Byte) : ∃ m d, s.writePhys a bs = { s with mem := m, denials := d } := by
  unfold State.writePhys
  split
  · exact ⟨_, s.denials, rfl⟩
  · obtain ⟨d, h⟩ := logLines_eq (s.physBlocked a bs.length true) true s
    exact ⟨_, d, by rw [h]⟩

/-- A write by physical address that no table denies. -/
theorem writePhys_free (s : State) (a : Nat) (bs : List Byte) (h : s.physBlocked a bs.length true = []) :
    s.writePhys a bs = { s with mem := s.mem.writeBytes a bs } := by
  unfold State.writePhys; rw [h]

@[simp] theorem writePhys_cur (s : State) (a : Nat) (bs : List Byte) : (s.writePhys a bs).cur = s.cur := by
  obtain ⟨m, d, h⟩ := writePhys_eq s a bs; rw [h]
@[simp] theorem writePhys_agenda (s : State) (a : Nat) (bs : List Byte) : (s.writePhys a bs).agenda = s.agenda := by
  obtain ⟨m, d, h⟩ := writePhys_eq s a bs; rw [h]
@[simp] theorem writePhys_oracle (s : State) (a : Nat) (bs : List Byte) : (s.writePhys a bs).oracle = s.oracle := by
  obtain ⟨m, d, h⟩ := writePhys_eq s a bs; rw [h]
@[simp] theorem writePhys_freeCtr (s : State) (a : Nat) (bs : List Byte) : (s.writePhys a bs).freeCtr = s.freeCtr := by
  obtain ⟨m, d, h⟩ := writePhys_eq s a bs; rw [h]
@[simp] theorem writePhys_replays (s : State) (a : Nat) (bs : List Byte) : (s.writePhys a bs).replays = s.replays := by
  obtain ⟨m, d, h⟩ := writePhys_eq s a bs; rw [h]
@[simp] theorem writePhys_lastId (s : State) (a : Nat) (bs : List Byte) : (s.writePhys a bs).lastId = s.lastId := by
  obtain ⟨m, d, h⟩ := writePhys_eq s a bs; rw [h]
@[simp] theorem writePhys_time (s : State) (a : Nat) (bs : List Byte) : (s.writePhys a bs).time = s.time := by
  obtain ⟨m, d, h⟩ := writePhys_eq s a bs; rw [h]
@[simp] theorem writePhys_cores (s : State) (a : Nat) (bs : List Byte) : (s.writePhys a bs).cores = s.cores := by
  obtain ⟨m, d, h⟩ := writePhys_eq s a bs; rw [h]
@[simp] theorem writePhys_speeds (s : State) (a : Nat) (bs : List Byte) : (s.writePhys a bs).speeds = s.speeds := by
  obtain ⟨m, d, h⟩ := writePhys_eq s a bs; rw [h]
@[simp] theorem writePhys_threads (s : State) (a : Nat) (bs : List Byte) : (s.writePhys a bs).threads = s.threads := by
  obtain ⟨m, d, h⟩ := writePhys_eq s a bs; rw [h]
@[simp] theorem writePhys_crews (s : State) (a : Nat) (bs : List Byte) : (s.writePhys a bs).crews = s.crews := by
  obtain ⟨m, d, h⟩ := writePhys_eq s a bs; rw [h]
@[simp] theorem writePhys_commits (s : State) (a : Nat) (bs : List Byte) : (s.writePhys a bs).commits = s.commits := by
  obtain ⟨m, d, h⟩ := writePhys_eq s a bs; rw [h]
@[simp] theorem writePhys_teams (s : State) (a : Nat) (bs : List Byte) : (s.writePhys a bs).teams = s.teams := by
  obtain ⟨m, d, h⟩ := writePhys_eq s a bs; rw [h]
@[simp] theorem writePhys_units (s : State) (a : Nat) (bs : List Byte) : (s.writePhys a bs).units = s.units := by
  obtain ⟨m, d, h⟩ := writePhys_eq s a bs; rw [h]
@[simp] theorem writePhys_grids (s : State) (a : Nat) (bs : List Byte) : (s.writePhys a bs).grids = s.grids := by
  obtain ⟨m, d, h⟩ := writePhys_eq s a bs; rw [h]
@[simp] theorem writePhys_pcTable (s : State) (a : Nat) (bs : List Byte) : (s.writePhys a bs).pcTable = s.pcTable := by
  obtain ⟨m, d, h⟩ := writePhys_eq s a bs; rw [h]
@[simp] theorem writePhys_l1 (s : State) (a : Nat) (bs : List Byte) : (s.writePhys a bs).l1 = s.l1 := by
  obtain ⟨m, d, h⟩ := writePhys_eq s a bs; rw [h]
@[simp] theorem writePhys_icache (s : State) (a : Nat) (bs : List Byte) : (s.writePhys a bs).icache = s.icache := by
  obtain ⟨m, d, h⟩ := writePhys_eq s a bs; rw [h]
@[simp] theorem writePhys_layouts (s : State) (a : Nat) (bs : List Byte) : (s.writePhys a bs).layouts = s.layouts := by
  obtain ⟨m, d, h⟩ := writePhys_eq s a bs; rw [h]
@[simp] theorem writePhys_tlb (s : State) (a : Nat) (bs : List Byte) : (s.writePhys a bs).tlb = s.tlb := by
  obtain ⟨m, d, h⟩ := writePhys_eq s a bs; rw [h]
@[simp] theorem writePhys_buffers (s : State) (a : Nat) (bs : List Byte) : (s.writePhys a bs).buffers = s.buffers := by
  obtain ⟨m, d, h⟩ := writePhys_eq s a bs; rw [h]
@[simp] theorem writePhys_envLines (s : State) (a : Nat) (bs : List Byte) : (s.writePhys a bs).envLines = s.envLines := by
  obtain ⟨m, d, h⟩ := writePhys_eq s a bs; rw [h]
@[simp] theorem writePhys_locks (s : State) (a : Nat) (bs : List Byte) : (s.writePhys a bs).locks = s.locks := by
  obtain ⟨m, d, h⟩ := writePhys_eq s a bs; rw [h]
@[simp] theorem writePhys_monitors (s : State) (a : Nat) (bs : List Byte) : (s.writePhys a bs).monitors = s.monitors := by
  obtain ⟨m, d, h⟩ := writePhys_eq s a bs; rw [h]
@[simp] theorem writePhys_landings (s : State) (a : Nat) (bs : List Byte) : (s.writePhys a bs).landings = s.landings := by
  obtain ⟨m, d, h⟩ := writePhys_eq s a bs; rw [h]
@[simp] theorem writePhys_acks (s : State) (a : Nat) (bs : List Byte) : (s.writePhys a bs).acks = s.acks := by
  obtain ⟨m, d, h⟩ := writePhys_eq s a bs; rw [h]
@[simp] theorem writePhys_reds (s : State) (a : Nat) (bs : List Byte) : (s.writePhys a bs).reds = s.reds := by
  obtain ⟨m, d, h⟩ := writePhys_eq s a bs; rw [h]
@[simp] theorem writePhys_walks (s : State) (a : Nat) (bs : List Byte) : (s.writePhys a bs).walks = s.walks := by
  obtain ⟨m, d, h⟩ := writePhys_eq s a bs; rw [h]
@[simp] theorem writePhys_misses (s : State) (a : Nat) (bs : List Byte) : (s.writePhys a bs).misses = s.misses := by
  obtain ⟨m, d, h⟩ := writePhys_eq s a bs; rw [h]
@[simp] theorem writePhys_fills (s : State) (a : Nat) (bs : List Byte) : (s.writePhys a bs).fills = s.fills := by
  obtain ⟨m, d, h⟩ := writePhys_eq s a bs; rw [h]
@[simp] theorem writePhys_cmds (s : State) (a : Nat) (bs : List Byte) : (s.writePhys a bs).cmds = s.cmds := by
  obtain ⟨m, d, h⟩ := writePhys_eq s a bs; rw [h]
@[simp] theorem writePhys_banks (s : State) (a : Nat) (bs : List Byte) : (s.writePhys a bs).banks = s.banks := by
  obtain ⟨m, d, h⟩ := writePhys_eq s a bs; rw [h]
@[simp] theorem writePhys_queries (s : State) (a : Nat) (bs : List Byte) : (s.writePhys a bs).queries = s.queries := by
  obtain ⟨m, d, h⟩ := writePhys_eq s a bs; rw [h]
@[simp] theorem writePhys_images (s : State) (a : Nat) (bs : List Byte) : (s.writePhys a bs).images = s.images := by
  obtain ⟨m, d, h⟩ := writePhys_eq s a bs; rw [h]
@[simp] theorem writePhys_ctxs (s : State) (a : Nat) (bs : List Byte) : (s.writePhys a bs).ctxs = s.ctxs := by
  obtain ⟨m, d, h⟩ := writePhys_eq s a bs; rw [h]
@[simp] theorem writePhys_notify (s : State) (a : Nat) (bs : List Byte) : (s.writePhys a bs).notify = s.notify := by
  obtain ⟨m, d, h⟩ := writePhys_eq s a bs; rw [h]
@[simp] theorem writePhys_pageCtx (s : State) (a : Nat) (bs : List Byte) : (s.writePhys a bs).pageCtx = s.pageCtx := by
  obtain ⟨m, d, h⟩ := writePhys_eq s a bs; rw [h]
@[simp] theorem writePhys_phmargin (s : State) (a : Nat) (bs : List Byte) : (s.writePhys a bs).phmargin = s.phmargin := by
  obtain ⟨m, d, h⟩ := writePhys_eq s a bs; rw [h]
@[simp] theorem writePhys_irqs (s : State) (a : Nat) (bs : List Byte) : (s.writePhys a bs).irqs = s.irqs := by
  obtain ⟨m, d, h⟩ := writePhys_eq s a bs; rw [h]
@[simp] theorem writePhys_rights (s : State) (a : Nat) (bs : List Byte) : (s.writePhys a bs).rights = s.rights := by
  obtain ⟨m, d, h⟩ := writePhys_eq s a bs; rw [h]
@[simp] theorem writePhys_links (s : State) (a : Nat) (bs : List Byte) : (s.writePhys a bs).links = s.links := by
  obtain ⟨m, d, h⟩ := writePhys_eq s a bs; rw [h]
@[simp] theorem writePhys_peer (s : State) (a : Nat) (bs : List Byte) : (s.writePhys a bs).peer = s.peer := by
  obtain ⟨m, d, h⟩ := writePhys_eq s a bs; rw [h]
@[simp] theorem writePhys_replies (s : State) (a : Nat) (bs : List Byte) : (s.writePhys a bs).replies = s.replies := by
  obtain ⟨m, d, h⟩ := writePhys_eq s a bs; rw [h]
@[simp] theorem writePhys_interval (s : State) (a : Nat) (bs : List Byte) : (s.writePhys a bs).interval = s.interval := by
  obtain ⟨m, d, h⟩ := writePhys_eq s a bs; rw [h]
@[simp] theorem writePhys_factor (s : State) (a : Nat) (bs : List Byte) : (s.writePhys a bs).factor = s.factor := by
  obtain ⟨m, d, h⟩ := writePhys_eq s a bs; rw [h]
@[simp] theorem writePhys_gate (s : State) (a : Nat) (bs : List Byte) : (s.writePhys a bs).gate = s.gate := by
  obtain ⟨m, d, h⟩ := writePhys_eq s a bs; rw [h]
@[simp] theorem writePhys_power (s : State) (a : Nat) (bs : List Byte) : (s.writePhys a bs).power = s.power := by
  obtain ⟨m, d, h⟩ := writePhys_eq s a bs; rw [h]
@[simp] theorem writePhys_firmware (s : State) (a : Nat) (bs : List Byte) : (s.writePhys a bs).firmware = s.firmware := by
  obtain ⟨m, d, h⟩ := writePhys_eq s a bs; rw [h]
@[simp] theorem writePhys_rollback (s : State) (a : Nat) (bs : List Byte) : (s.writePhys a bs).rollback = s.rollback := by
  obtain ⟨m, d, h⟩ := writePhys_eq s a bs; rw [h]
@[simp] theorem writePhys_recovery (s : State) (a : Nat) (bs : List Byte) : (s.writePhys a bs).recovery = s.recovery := by
  obtain ⟨m, d, h⟩ := writePhys_eq s a bs; rw [h]
@[simp] theorem writePhys_softErrors (s : State) (a : Nat) (bs : List Byte) : (s.writePhys a bs).softErrors = s.softErrors := by
  obtain ⟨m, d, h⟩ := writePhys_eq s a bs; rw [h]
@[simp] theorem writePhys_overflow (s : State) (a : Nat) (bs : List Byte) : (s.writePhys a bs).overflow = s.overflow := by
  obtain ⟨m, d, h⟩ := writePhys_eq s a bs; rw [h]
@[simp] theorem writePhys_pins (s : State) (a : Nat) (bs : List Byte) : (s.writePhys a bs).pins = s.pins := by
  obtain ⟨m, d, h⟩ := writePhys_eq s a bs; rw [h]
@[simp] theorem writePhys_offering (s : State) (a : Nat) (bs : List Byte) : (s.writePhys a bs).offering = s.offering := by
  obtain ⟨m, d, h⟩ := writePhys_eq s a bs; rw [h]
@[simp] theorem writePhys_flightNo (s : State) (a : Nat) (bs : List Byte) : (s.writePhys a bs).flightNo = s.flightNo := by
  obtain ⟨m, d, h⟩ := writePhys_eq s a bs; rw [h]

@[simp] theorem writePhysNat_cur (s : State) (a n x : Nat) : (s.writePhysNat a n x).cur = s.cur := by
  obtain ⟨m, d, h⟩ := writePhys_eq s a (leBytes n x); unfold State.writePhysNat; rw [h]
@[simp] theorem writePhysNat_agenda (s : State) (a n x : Nat) : (s.writePhysNat a n x).agenda = s.agenda := by
  obtain ⟨m, d, h⟩ := writePhys_eq s a (leBytes n x); unfold State.writePhysNat; rw [h]
@[simp] theorem writePhysNat_oracle (s : State) (a n x : Nat) : (s.writePhysNat a n x).oracle = s.oracle := by
  obtain ⟨m, d, h⟩ := writePhys_eq s a (leBytes n x); unfold State.writePhysNat; rw [h]
@[simp] theorem writePhysNat_freeCtr (s : State) (a n x : Nat) : (s.writePhysNat a n x).freeCtr = s.freeCtr := by
  obtain ⟨m, d, h⟩ := writePhys_eq s a (leBytes n x); unfold State.writePhysNat; rw [h]
@[simp] theorem writePhysNat_replays (s : State) (a n x : Nat) : (s.writePhysNat a n x).replays = s.replays := by
  obtain ⟨m, d, h⟩ := writePhys_eq s a (leBytes n x); unfold State.writePhysNat; rw [h]
@[simp] theorem writePhysNat_lastId (s : State) (a n x : Nat) : (s.writePhysNat a n x).lastId = s.lastId := by
  obtain ⟨m, d, h⟩ := writePhys_eq s a (leBytes n x); unfold State.writePhysNat; rw [h]
@[simp] theorem writePhysNat_time (s : State) (a n x : Nat) : (s.writePhysNat a n x).time = s.time := by
  obtain ⟨m, d, h⟩ := writePhys_eq s a (leBytes n x); unfold State.writePhysNat; rw [h]
@[simp] theorem writePhysNat_cores (s : State) (a n x : Nat) : (s.writePhysNat a n x).cores = s.cores := by
  obtain ⟨m, d, h⟩ := writePhys_eq s a (leBytes n x); unfold State.writePhysNat; rw [h]
@[simp] theorem writePhysNat_speeds (s : State) (a n x : Nat) : (s.writePhysNat a n x).speeds = s.speeds := by
  obtain ⟨m, d, h⟩ := writePhys_eq s a (leBytes n x); unfold State.writePhysNat; rw [h]
@[simp] theorem writePhysNat_threads (s : State) (a n x : Nat) : (s.writePhysNat a n x).threads = s.threads := by
  obtain ⟨m, d, h⟩ := writePhys_eq s a (leBytes n x); unfold State.writePhysNat; rw [h]
@[simp] theorem writePhysNat_crews (s : State) (a n x : Nat) : (s.writePhysNat a n x).crews = s.crews := by
  obtain ⟨m, d, h⟩ := writePhys_eq s a (leBytes n x); unfold State.writePhysNat; rw [h]
@[simp] theorem writePhysNat_commits (s : State) (a n x : Nat) : (s.writePhysNat a n x).commits = s.commits := by
  obtain ⟨m, d, h⟩ := writePhys_eq s a (leBytes n x); unfold State.writePhysNat; rw [h]
@[simp] theorem writePhysNat_teams (s : State) (a n x : Nat) : (s.writePhysNat a n x).teams = s.teams := by
  obtain ⟨m, d, h⟩ := writePhys_eq s a (leBytes n x); unfold State.writePhysNat; rw [h]
@[simp] theorem writePhysNat_units (s : State) (a n x : Nat) : (s.writePhysNat a n x).units = s.units := by
  obtain ⟨m, d, h⟩ := writePhys_eq s a (leBytes n x); unfold State.writePhysNat; rw [h]
@[simp] theorem writePhysNat_grids (s : State) (a n x : Nat) : (s.writePhysNat a n x).grids = s.grids := by
  obtain ⟨m, d, h⟩ := writePhys_eq s a (leBytes n x); unfold State.writePhysNat; rw [h]
@[simp] theorem writePhysNat_pcTable (s : State) (a n x : Nat) : (s.writePhysNat a n x).pcTable = s.pcTable := by
  obtain ⟨m, d, h⟩ := writePhys_eq s a (leBytes n x); unfold State.writePhysNat; rw [h]
@[simp] theorem writePhysNat_l1 (s : State) (a n x : Nat) : (s.writePhysNat a n x).l1 = s.l1 := by
  obtain ⟨m, d, h⟩ := writePhys_eq s a (leBytes n x); unfold State.writePhysNat; rw [h]
@[simp] theorem writePhysNat_icache (s : State) (a n x : Nat) : (s.writePhysNat a n x).icache = s.icache := by
  obtain ⟨m, d, h⟩ := writePhys_eq s a (leBytes n x); unfold State.writePhysNat; rw [h]
@[simp] theorem writePhysNat_layouts (s : State) (a n x : Nat) : (s.writePhysNat a n x).layouts = s.layouts := by
  obtain ⟨m, d, h⟩ := writePhys_eq s a (leBytes n x); unfold State.writePhysNat; rw [h]
@[simp] theorem writePhysNat_tlb (s : State) (a n x : Nat) : (s.writePhysNat a n x).tlb = s.tlb := by
  obtain ⟨m, d, h⟩ := writePhys_eq s a (leBytes n x); unfold State.writePhysNat; rw [h]
@[simp] theorem writePhysNat_buffers (s : State) (a n x : Nat) : (s.writePhysNat a n x).buffers = s.buffers := by
  obtain ⟨m, d, h⟩ := writePhys_eq s a (leBytes n x); unfold State.writePhysNat; rw [h]
@[simp] theorem writePhysNat_envLines (s : State) (a n x : Nat) : (s.writePhysNat a n x).envLines = s.envLines := by
  obtain ⟨m, d, h⟩ := writePhys_eq s a (leBytes n x); unfold State.writePhysNat; rw [h]
@[simp] theorem writePhysNat_locks (s : State) (a n x : Nat) : (s.writePhysNat a n x).locks = s.locks := by
  obtain ⟨m, d, h⟩ := writePhys_eq s a (leBytes n x); unfold State.writePhysNat; rw [h]
@[simp] theorem writePhysNat_monitors (s : State) (a n x : Nat) : (s.writePhysNat a n x).monitors = s.monitors := by
  obtain ⟨m, d, h⟩ := writePhys_eq s a (leBytes n x); unfold State.writePhysNat; rw [h]
@[simp] theorem writePhysNat_landings (s : State) (a n x : Nat) : (s.writePhysNat a n x).landings = s.landings := by
  obtain ⟨m, d, h⟩ := writePhys_eq s a (leBytes n x); unfold State.writePhysNat; rw [h]
@[simp] theorem writePhysNat_acks (s : State) (a n x : Nat) : (s.writePhysNat a n x).acks = s.acks := by
  obtain ⟨m, d, h⟩ := writePhys_eq s a (leBytes n x); unfold State.writePhysNat; rw [h]
@[simp] theorem writePhysNat_reds (s : State) (a n x : Nat) : (s.writePhysNat a n x).reds = s.reds := by
  obtain ⟨m, d, h⟩ := writePhys_eq s a (leBytes n x); unfold State.writePhysNat; rw [h]
@[simp] theorem writePhysNat_walks (s : State) (a n x : Nat) : (s.writePhysNat a n x).walks = s.walks := by
  obtain ⟨m, d, h⟩ := writePhys_eq s a (leBytes n x); unfold State.writePhysNat; rw [h]
@[simp] theorem writePhysNat_misses (s : State) (a n x : Nat) : (s.writePhysNat a n x).misses = s.misses := by
  obtain ⟨m, d, h⟩ := writePhys_eq s a (leBytes n x); unfold State.writePhysNat; rw [h]
@[simp] theorem writePhysNat_fills (s : State) (a n x : Nat) : (s.writePhysNat a n x).fills = s.fills := by
  obtain ⟨m, d, h⟩ := writePhys_eq s a (leBytes n x); unfold State.writePhysNat; rw [h]
@[simp] theorem writePhysNat_cmds (s : State) (a n x : Nat) : (s.writePhysNat a n x).cmds = s.cmds := by
  obtain ⟨m, d, h⟩ := writePhys_eq s a (leBytes n x); unfold State.writePhysNat; rw [h]
@[simp] theorem writePhysNat_banks (s : State) (a n x : Nat) : (s.writePhysNat a n x).banks = s.banks := by
  obtain ⟨m, d, h⟩ := writePhys_eq s a (leBytes n x); unfold State.writePhysNat; rw [h]
@[simp] theorem writePhysNat_queries (s : State) (a n x : Nat) : (s.writePhysNat a n x).queries = s.queries := by
  obtain ⟨m, d, h⟩ := writePhys_eq s a (leBytes n x); unfold State.writePhysNat; rw [h]
@[simp] theorem writePhysNat_images (s : State) (a n x : Nat) : (s.writePhysNat a n x).images = s.images := by
  obtain ⟨m, d, h⟩ := writePhys_eq s a (leBytes n x); unfold State.writePhysNat; rw [h]
@[simp] theorem writePhysNat_ctxs (s : State) (a n x : Nat) : (s.writePhysNat a n x).ctxs = s.ctxs := by
  obtain ⟨m, d, h⟩ := writePhys_eq s a (leBytes n x); unfold State.writePhysNat; rw [h]
@[simp] theorem writePhysNat_notify (s : State) (a n x : Nat) : (s.writePhysNat a n x).notify = s.notify := by
  obtain ⟨m, d, h⟩ := writePhys_eq s a (leBytes n x); unfold State.writePhysNat; rw [h]
@[simp] theorem writePhysNat_pageCtx (s : State) (a n x : Nat) : (s.writePhysNat a n x).pageCtx = s.pageCtx := by
  obtain ⟨m, d, h⟩ := writePhys_eq s a (leBytes n x); unfold State.writePhysNat; rw [h]
@[simp] theorem writePhysNat_phmargin (s : State) (a n x : Nat) : (s.writePhysNat a n x).phmargin = s.phmargin := by
  obtain ⟨m, d, h⟩ := writePhys_eq s a (leBytes n x); unfold State.writePhysNat; rw [h]
@[simp] theorem writePhysNat_irqs (s : State) (a n x : Nat) : (s.writePhysNat a n x).irqs = s.irqs := by
  obtain ⟨m, d, h⟩ := writePhys_eq s a (leBytes n x); unfold State.writePhysNat; rw [h]
@[simp] theorem writePhysNat_rights (s : State) (a n x : Nat) : (s.writePhysNat a n x).rights = s.rights := by
  obtain ⟨m, d, h⟩ := writePhys_eq s a (leBytes n x); unfold State.writePhysNat; rw [h]
@[simp] theorem writePhysNat_links (s : State) (a n x : Nat) : (s.writePhysNat a n x).links = s.links := by
  obtain ⟨m, d, h⟩ := writePhys_eq s a (leBytes n x); unfold State.writePhysNat; rw [h]
@[simp] theorem writePhysNat_peer (s : State) (a n x : Nat) : (s.writePhysNat a n x).peer = s.peer := by
  obtain ⟨m, d, h⟩ := writePhys_eq s a (leBytes n x); unfold State.writePhysNat; rw [h]
@[simp] theorem writePhysNat_replies (s : State) (a n x : Nat) : (s.writePhysNat a n x).replies = s.replies := by
  obtain ⟨m, d, h⟩ := writePhys_eq s a (leBytes n x); unfold State.writePhysNat; rw [h]
@[simp] theorem writePhysNat_interval (s : State) (a n x : Nat) : (s.writePhysNat a n x).interval = s.interval := by
  obtain ⟨m, d, h⟩ := writePhys_eq s a (leBytes n x); unfold State.writePhysNat; rw [h]
@[simp] theorem writePhysNat_factor (s : State) (a n x : Nat) : (s.writePhysNat a n x).factor = s.factor := by
  obtain ⟨m, d, h⟩ := writePhys_eq s a (leBytes n x); unfold State.writePhysNat; rw [h]
@[simp] theorem writePhysNat_gate (s : State) (a n x : Nat) : (s.writePhysNat a n x).gate = s.gate := by
  obtain ⟨m, d, h⟩ := writePhys_eq s a (leBytes n x); unfold State.writePhysNat; rw [h]
@[simp] theorem writePhysNat_power (s : State) (a n x : Nat) : (s.writePhysNat a n x).power = s.power := by
  obtain ⟨m, d, h⟩ := writePhys_eq s a (leBytes n x); unfold State.writePhysNat; rw [h]
@[simp] theorem writePhysNat_firmware (s : State) (a n x : Nat) : (s.writePhysNat a n x).firmware = s.firmware := by
  obtain ⟨m, d, h⟩ := writePhys_eq s a (leBytes n x); unfold State.writePhysNat; rw [h]
@[simp] theorem writePhysNat_rollback (s : State) (a n x : Nat) : (s.writePhysNat a n x).rollback = s.rollback := by
  obtain ⟨m, d, h⟩ := writePhys_eq s a (leBytes n x); unfold State.writePhysNat; rw [h]
@[simp] theorem writePhysNat_recovery (s : State) (a n x : Nat) : (s.writePhysNat a n x).recovery = s.recovery := by
  obtain ⟨m, d, h⟩ := writePhys_eq s a (leBytes n x); unfold State.writePhysNat; rw [h]
@[simp] theorem writePhysNat_softErrors (s : State) (a n x : Nat) : (s.writePhysNat a n x).softErrors = s.softErrors := by
  obtain ⟨m, d, h⟩ := writePhys_eq s a (leBytes n x); unfold State.writePhysNat; rw [h]
@[simp] theorem writePhysNat_overflow (s : State) (a n x : Nat) : (s.writePhysNat a n x).overflow = s.overflow := by
  obtain ⟨m, d, h⟩ := writePhys_eq s a (leBytes n x); unfold State.writePhysNat; rw [h]
@[simp] theorem writePhysNat_pins (s : State) (a n x : Nat) : (s.writePhysNat a n x).pins = s.pins := by
  obtain ⟨m, d, h⟩ := writePhys_eq s a (leBytes n x); unfold State.writePhysNat; rw [h]
@[simp] theorem writePhysNat_offering (s : State) (a n x : Nat) : (s.writePhysNat a n x).offering = s.offering := by
  obtain ⟨m, d, h⟩ := writePhys_eq s a (leBytes n x); unfold State.writePhysNat; rw [h]
@[simp] theorem writePhysNat_flightNo (s : State) (a n x : Nat) : (s.writePhysNat a n x).flightNo = s.flightNo := by
  obtain ⟨m, d, h⟩ := writePhys_eq s a (leBytes n x); unfold State.writePhysNat; rw [h]

/-! ### Continuing after an instruction -/

@[simp] theorem stallUniform_cur (s : State) (c : CrewId) : (s.stallUniform c).cur = s.cur := by
  unfold State.stallUniform State.stallCrew; simp
@[simp] theorem stallUniform_agenda (s : State) (c : CrewId) : (s.stallUniform c).agenda = s.agenda := by
  unfold State.stallUniform State.stallCrew; simp
@[simp] theorem stallUniform_oracle (s : State) (c : CrewId) : (s.stallUniform c).oracle = s.oracle := by
  unfold State.stallUniform State.stallCrew; simp
@[simp] theorem stallUniform_freeCtr (s : State) (c : CrewId) : (s.stallUniform c).freeCtr = s.freeCtr := by
  unfold State.stallUniform State.stallCrew; simp
@[simp] theorem stallUniform_replays (s : State) (c : CrewId) : (s.stallUniform c).replays = s.replays := by
  unfold State.stallUniform State.stallCrew; simp
@[simp] theorem stallUniform_lastId (s : State) (c : CrewId) : (s.stallUniform c).lastId = s.lastId := by
  unfold State.stallUniform State.stallCrew; simp
@[simp] theorem stallUniform_time (s : State) (c : CrewId) : (s.stallUniform c).time = s.time := by
  unfold State.stallUniform State.stallCrew; simp
@[simp] theorem stallUniform_speeds (s : State) (c : CrewId) : (s.stallUniform c).speeds = s.speeds := by
  unfold State.stallUniform State.stallCrew; simp
@[simp] theorem stallUniform_threads (s : State) (c : CrewId) : (s.stallUniform c).threads = s.threads := by
  unfold State.stallUniform State.stallCrew; simp
@[simp] theorem stallUniform_commits (s : State) (c : CrewId) : (s.stallUniform c).commits = s.commits := by
  unfold State.stallUniform State.stallCrew; simp
@[simp] theorem stallUniform_teams (s : State) (c : CrewId) : (s.stallUniform c).teams = s.teams := by
  unfold State.stallUniform State.stallCrew; simp
@[simp] theorem stallUniform_units (s : State) (c : CrewId) : (s.stallUniform c).units = s.units := by
  unfold State.stallUniform State.stallCrew; simp
@[simp] theorem stallUniform_grids (s : State) (c : CrewId) : (s.stallUniform c).grids = s.grids := by
  unfold State.stallUniform State.stallCrew; simp
@[simp] theorem stallUniform_pcTable (s : State) (c : CrewId) : (s.stallUniform c).pcTable = s.pcTable := by
  unfold State.stallUniform State.stallCrew; simp
@[simp] theorem stallUniform_l1 (s : State) (c : CrewId) : (s.stallUniform c).l1 = s.l1 := by
  unfold State.stallUniform State.stallCrew; simp
@[simp] theorem stallUniform_icache (s : State) (c : CrewId) : (s.stallUniform c).icache = s.icache := by
  unfold State.stallUniform State.stallCrew; simp
@[simp] theorem stallUniform_layouts (s : State) (c : CrewId) : (s.stallUniform c).layouts = s.layouts := by
  unfold State.stallUniform State.stallCrew; simp
@[simp] theorem stallUniform_tlb (s : State) (c : CrewId) : (s.stallUniform c).tlb = s.tlb := by
  unfold State.stallUniform State.stallCrew; simp
@[simp] theorem stallUniform_buffers (s : State) (c : CrewId) : (s.stallUniform c).buffers = s.buffers := by
  unfold State.stallUniform State.stallCrew; simp
@[simp] theorem stallUniform_mem (s : State) (c : CrewId) : (s.stallUniform c).mem = s.mem := by
  unfold State.stallUniform State.stallCrew; simp
@[simp] theorem stallUniform_envLines (s : State) (c : CrewId) : (s.stallUniform c).envLines = s.envLines := by
  unfold State.stallUniform State.stallCrew; simp
@[simp] theorem stallUniform_locks (s : State) (c : CrewId) : (s.stallUniform c).locks = s.locks := by
  unfold State.stallUniform State.stallCrew; simp
@[simp] theorem stallUniform_monitors (s : State) (c : CrewId) : (s.stallUniform c).monitors = s.monitors := by
  unfold State.stallUniform State.stallCrew; simp
@[simp] theorem stallUniform_landings (s : State) (c : CrewId) : (s.stallUniform c).landings = s.landings := by
  unfold State.stallUniform State.stallCrew; simp
@[simp] theorem stallUniform_acks (s : State) (c : CrewId) : (s.stallUniform c).acks = s.acks := by
  unfold State.stallUniform State.stallCrew; simp
@[simp] theorem stallUniform_reds (s : State) (c : CrewId) : (s.stallUniform c).reds = s.reds := by
  unfold State.stallUniform State.stallCrew; simp
@[simp] theorem stallUniform_walks (s : State) (c : CrewId) : (s.stallUniform c).walks = s.walks := by
  unfold State.stallUniform State.stallCrew; simp
@[simp] theorem stallUniform_misses (s : State) (c : CrewId) : (s.stallUniform c).misses = s.misses := by
  unfold State.stallUniform State.stallCrew; simp
@[simp] theorem stallUniform_fills (s : State) (c : CrewId) : (s.stallUniform c).fills = s.fills := by
  unfold State.stallUniform State.stallCrew; simp
@[simp] theorem stallUniform_cmds (s : State) (c : CrewId) : (s.stallUniform c).cmds = s.cmds := by
  unfold State.stallUniform State.stallCrew; simp
@[simp] theorem stallUniform_banks (s : State) (c : CrewId) : (s.stallUniform c).banks = s.banks := by
  unfold State.stallUniform State.stallCrew; simp
@[simp] theorem stallUniform_queries (s : State) (c : CrewId) : (s.stallUniform c).queries = s.queries := by
  unfold State.stallUniform State.stallCrew; simp
@[simp] theorem stallUniform_images (s : State) (c : CrewId) : (s.stallUniform c).images = s.images := by
  unfold State.stallUniform State.stallCrew; simp
@[simp] theorem stallUniform_ctxs (s : State) (c : CrewId) : (s.stallUniform c).ctxs = s.ctxs := by
  unfold State.stallUniform State.stallCrew; simp
@[simp] theorem stallUniform_notify (s : State) (c : CrewId) : (s.stallUniform c).notify = s.notify := by
  unfold State.stallUniform State.stallCrew; simp
@[simp] theorem stallUniform_pageCtx (s : State) (c : CrewId) : (s.stallUniform c).pageCtx = s.pageCtx := by
  unfold State.stallUniform State.stallCrew; simp
@[simp] theorem stallUniform_phmargin (s : State) (c : CrewId) : (s.stallUniform c).phmargin = s.phmargin := by
  unfold State.stallUniform State.stallCrew; simp
@[simp] theorem stallUniform_irqs (s : State) (c : CrewId) : (s.stallUniform c).irqs = s.irqs := by
  unfold State.stallUniform State.stallCrew; simp
@[simp] theorem stallUniform_rights (s : State) (c : CrewId) : (s.stallUniform c).rights = s.rights := by
  unfold State.stallUniform State.stallCrew; simp
@[simp] theorem stallUniform_denials (s : State) (c : CrewId) : (s.stallUniform c).denials = s.denials := by
  unfold State.stallUniform State.stallCrew; simp
@[simp] theorem stallUniform_links (s : State) (c : CrewId) : (s.stallUniform c).links = s.links := by
  unfold State.stallUniform State.stallCrew; simp
@[simp] theorem stallUniform_peer (s : State) (c : CrewId) : (s.stallUniform c).peer = s.peer := by
  unfold State.stallUniform State.stallCrew; simp
@[simp] theorem stallUniform_replies (s : State) (c : CrewId) : (s.stallUniform c).replies = s.replies := by
  unfold State.stallUniform State.stallCrew; simp
@[simp] theorem stallUniform_interval (s : State) (c : CrewId) : (s.stallUniform c).interval = s.interval := by
  unfold State.stallUniform State.stallCrew; simp
@[simp] theorem stallUniform_factor (s : State) (c : CrewId) : (s.stallUniform c).factor = s.factor := by
  unfold State.stallUniform State.stallCrew; simp
@[simp] theorem stallUniform_gate (s : State) (c : CrewId) : (s.stallUniform c).gate = s.gate := by
  unfold State.stallUniform State.stallCrew; simp
@[simp] theorem stallUniform_power (s : State) (c : CrewId) : (s.stallUniform c).power = s.power := by
  unfold State.stallUniform State.stallCrew; simp
@[simp] theorem stallUniform_firmware (s : State) (c : CrewId) : (s.stallUniform c).firmware = s.firmware := by
  unfold State.stallUniform State.stallCrew; simp
@[simp] theorem stallUniform_rollback (s : State) (c : CrewId) : (s.stallUniform c).rollback = s.rollback := by
  unfold State.stallUniform State.stallCrew; simp
@[simp] theorem stallUniform_recovery (s : State) (c : CrewId) : (s.stallUniform c).recovery = s.recovery := by
  unfold State.stallUniform State.stallCrew; simp
@[simp] theorem stallUniform_softErrors (s : State) (c : CrewId) : (s.stallUniform c).softErrors = s.softErrors := by
  unfold State.stallUniform State.stallCrew; simp
@[simp] theorem stallUniform_overflow (s : State) (c : CrewId) : (s.stallUniform c).overflow = s.overflow := by
  unfold State.stallUniform State.stallCrew; simp
@[simp] theorem stallUniform_pins (s : State) (c : CrewId) : (s.stallUniform c).pins = s.pins := by
  unfold State.stallUniform State.stallCrew; simp
@[simp] theorem stallUniform_offering (s : State) (c : CrewId) : (s.stallUniform c).offering = s.offering := by
  unfold State.stallUniform State.stallCrew; simp
@[simp] theorem stallUniform_flightNo (s : State) (c : CrewId) : (s.stallUniform c).flightNo = s.flightNo := by
  unfold State.stallUniform State.stallCrew; simp

@[simp] theorem stallThread_cur (s : State) (t : ThreadId) : (s.stallThread t).cur = s.cur := rfl
@[simp] theorem stallThread_agenda (s : State) (t : ThreadId) : (s.stallThread t).agenda = s.agenda := rfl
@[simp] theorem stallThread_oracle (s : State) (t : ThreadId) : (s.stallThread t).oracle = s.oracle := rfl
@[simp] theorem stallThread_freeCtr (s : State) (t : ThreadId) : (s.stallThread t).freeCtr = s.freeCtr := rfl
@[simp] theorem stallThread_replays (s : State) (t : ThreadId) : (s.stallThread t).replays = s.replays := rfl
@[simp] theorem stallThread_lastId (s : State) (t : ThreadId) : (s.stallThread t).lastId = s.lastId := rfl
@[simp] theorem stallThread_time (s : State) (t : ThreadId) : (s.stallThread t).time = s.time := rfl
@[simp] theorem stallThread_cores (s : State) (t : ThreadId) : (s.stallThread t).cores = s.cores := rfl
@[simp] theorem stallThread_speeds (s : State) (t : ThreadId) : (s.stallThread t).speeds = s.speeds := rfl
@[simp] theorem stallThread_threads (s : State) (t : ThreadId) :
    (s.stallThread t).threads = updWhere (fun x => x.id == t) (fun x => { x with stall := .busy }) s.threads := rfl
@[simp] theorem stallThread_crews (s : State) (t : ThreadId) : (s.stallThread t).crews = s.crews := rfl
@[simp] theorem stallThread_commits (s : State) (t : ThreadId) : (s.stallThread t).commits = s.commits := rfl
@[simp] theorem stallThread_teams (s : State) (t : ThreadId) : (s.stallThread t).teams = s.teams := rfl
@[simp] theorem stallThread_units (s : State) (t : ThreadId) : (s.stallThread t).units = s.units := rfl
@[simp] theorem stallThread_grids (s : State) (t : ThreadId) : (s.stallThread t).grids = s.grids := rfl
@[simp] theorem stallThread_pcTable (s : State) (t : ThreadId) : (s.stallThread t).pcTable = s.pcTable := rfl
@[simp] theorem stallThread_l1 (s : State) (t : ThreadId) : (s.stallThread t).l1 = s.l1 := rfl
@[simp] theorem stallThread_icache (s : State) (t : ThreadId) : (s.stallThread t).icache = s.icache := rfl
@[simp] theorem stallThread_layouts (s : State) (t : ThreadId) : (s.stallThread t).layouts = s.layouts := rfl
@[simp] theorem stallThread_tlb (s : State) (t : ThreadId) : (s.stallThread t).tlb = s.tlb := rfl
@[simp] theorem stallThread_buffers (s : State) (t : ThreadId) : (s.stallThread t).buffers = s.buffers := rfl
@[simp] theorem stallThread_mem (s : State) (t : ThreadId) : (s.stallThread t).mem = s.mem := rfl
@[simp] theorem stallThread_envLines (s : State) (t : ThreadId) : (s.stallThread t).envLines = s.envLines := rfl
@[simp] theorem stallThread_locks (s : State) (t : ThreadId) : (s.stallThread t).locks = s.locks := rfl
@[simp] theorem stallThread_monitors (s : State) (t : ThreadId) : (s.stallThread t).monitors = s.monitors := rfl
@[simp] theorem stallThread_landings (s : State) (t : ThreadId) : (s.stallThread t).landings = s.landings := rfl
@[simp] theorem stallThread_acks (s : State) (t : ThreadId) : (s.stallThread t).acks = s.acks := rfl
@[simp] theorem stallThread_reds (s : State) (t : ThreadId) : (s.stallThread t).reds = s.reds := rfl
@[simp] theorem stallThread_walks (s : State) (t : ThreadId) : (s.stallThread t).walks = s.walks := rfl
@[simp] theorem stallThread_misses (s : State) (t : ThreadId) : (s.stallThread t).misses = s.misses := rfl
@[simp] theorem stallThread_fills (s : State) (t : ThreadId) : (s.stallThread t).fills = s.fills := rfl
@[simp] theorem stallThread_cmds (s : State) (t : ThreadId) : (s.stallThread t).cmds = s.cmds := rfl
@[simp] theorem stallThread_banks (s : State) (t : ThreadId) : (s.stallThread t).banks = s.banks := rfl
@[simp] theorem stallThread_queries (s : State) (t : ThreadId) : (s.stallThread t).queries = s.queries := rfl
@[simp] theorem stallThread_images (s : State) (t : ThreadId) : (s.stallThread t).images = s.images := rfl
@[simp] theorem stallThread_ctxs (s : State) (t : ThreadId) : (s.stallThread t).ctxs = s.ctxs := rfl
@[simp] theorem stallThread_notify (s : State) (t : ThreadId) : (s.stallThread t).notify = s.notify := rfl
@[simp] theorem stallThread_pageCtx (s : State) (t : ThreadId) : (s.stallThread t).pageCtx = s.pageCtx := rfl
@[simp] theorem stallThread_phmargin (s : State) (t : ThreadId) : (s.stallThread t).phmargin = s.phmargin := rfl
@[simp] theorem stallThread_irqs (s : State) (t : ThreadId) : (s.stallThread t).irqs = s.irqs := rfl
@[simp] theorem stallThread_rights (s : State) (t : ThreadId) : (s.stallThread t).rights = s.rights := rfl
@[simp] theorem stallThread_denials (s : State) (t : ThreadId) : (s.stallThread t).denials = s.denials := rfl
@[simp] theorem stallThread_links (s : State) (t : ThreadId) : (s.stallThread t).links = s.links := rfl
@[simp] theorem stallThread_peer (s : State) (t : ThreadId) : (s.stallThread t).peer = s.peer := rfl
@[simp] theorem stallThread_replies (s : State) (t : ThreadId) : (s.stallThread t).replies = s.replies := rfl
@[simp] theorem stallThread_interval (s : State) (t : ThreadId) : (s.stallThread t).interval = s.interval := rfl
@[simp] theorem stallThread_factor (s : State) (t : ThreadId) : (s.stallThread t).factor = s.factor := rfl
@[simp] theorem stallThread_gate (s : State) (t : ThreadId) : (s.stallThread t).gate = s.gate := rfl
@[simp] theorem stallThread_power (s : State) (t : ThreadId) : (s.stallThread t).power = s.power := rfl
@[simp] theorem stallThread_firmware (s : State) (t : ThreadId) : (s.stallThread t).firmware = s.firmware := rfl
@[simp] theorem stallThread_rollback (s : State) (t : ThreadId) : (s.stallThread t).rollback = s.rollback := rfl
@[simp] theorem stallThread_recovery (s : State) (t : ThreadId) : (s.stallThread t).recovery = s.recovery := rfl
@[simp] theorem stallThread_softErrors (s : State) (t : ThreadId) : (s.stallThread t).softErrors = s.softErrors := rfl
@[simp] theorem stallThread_overflow (s : State) (t : ThreadId) : (s.stallThread t).overflow = s.overflow := rfl
@[simp] theorem stallThread_pins (s : State) (t : ThreadId) : (s.stallThread t).pins = s.pins := rfl
@[simp] theorem stallThread_offering (s : State) (t : ThreadId) : (s.stallThread t).offering = s.offering := rfl
@[simp] theorem stallThread_flightNo (s : State) (t : ThreadId) : (s.stallThread t).flightNo = s.flightNo := rfl

@[simp] theorem leaveAll_cur (s : State) (ts : List Thread) (n : Nat) : (s.leaveAll ts n).cur = s.cur := rfl
@[simp] theorem leaveAll_agenda (s : State) (ts : List Thread) (n : Nat) : (s.leaveAll ts n).agenda = s.agenda := rfl
@[simp] theorem leaveAll_oracle (s : State) (ts : List Thread) (n : Nat) : (s.leaveAll ts n).oracle = s.oracle := rfl
@[simp] theorem leaveAll_freeCtr (s : State) (ts : List Thread) (n : Nat) : (s.leaveAll ts n).freeCtr = s.freeCtr := rfl
@[simp] theorem leaveAll_replays (s : State) (ts : List Thread) (n : Nat) : (s.leaveAll ts n).replays = s.replays := rfl
@[simp] theorem leaveAll_lastId (s : State) (ts : List Thread) (n : Nat) : (s.leaveAll ts n).lastId = s.lastId := rfl
@[simp] theorem leaveAll_time (s : State) (ts : List Thread) (n : Nat) : (s.leaveAll ts n).time = s.time := rfl
@[simp] theorem leaveAll_cores (s : State) (ts : List Thread) (n : Nat) : (s.leaveAll ts n).cores = s.cores := rfl
@[simp] theorem leaveAll_speeds (s : State) (ts : List Thread) (n : Nat) : (s.leaveAll ts n).speeds = s.speeds := rfl
@[simp] theorem leaveAll_threads (s : State) (ts : List Thread) (n : Nat) :
    (s.leaveAll ts n).threads = updWhere (fun x => ts.any (fun t => t.id == x.id)) (·.leave n) s.threads := rfl
@[simp] theorem leaveAll_crews (s : State) (ts : List Thread) (n : Nat) : (s.leaveAll ts n).crews = s.crews := rfl
@[simp] theorem leaveAll_commits (s : State) (ts : List Thread) (n : Nat) : (s.leaveAll ts n).commits = s.commits := rfl
@[simp] theorem leaveAll_teams (s : State) (ts : List Thread) (n : Nat) : (s.leaveAll ts n).teams = s.teams := rfl
@[simp] theorem leaveAll_units (s : State) (ts : List Thread) (n : Nat) : (s.leaveAll ts n).units = s.units := rfl
@[simp] theorem leaveAll_grids (s : State) (ts : List Thread) (n : Nat) : (s.leaveAll ts n).grids = s.grids := rfl
@[simp] theorem leaveAll_pcTable (s : State) (ts : List Thread) (n : Nat) : (s.leaveAll ts n).pcTable = s.pcTable := rfl
@[simp] theorem leaveAll_l1 (s : State) (ts : List Thread) (n : Nat) : (s.leaveAll ts n).l1 = s.l1 := rfl
@[simp] theorem leaveAll_icache (s : State) (ts : List Thread) (n : Nat) : (s.leaveAll ts n).icache = s.icache := rfl
@[simp] theorem leaveAll_layouts (s : State) (ts : List Thread) (n : Nat) : (s.leaveAll ts n).layouts = s.layouts := rfl
@[simp] theorem leaveAll_tlb (s : State) (ts : List Thread) (n : Nat) : (s.leaveAll ts n).tlb = s.tlb := rfl
@[simp] theorem leaveAll_buffers (s : State) (ts : List Thread) (n : Nat) : (s.leaveAll ts n).buffers = s.buffers := rfl
@[simp] theorem leaveAll_mem (s : State) (ts : List Thread) (n : Nat) : (s.leaveAll ts n).mem = s.mem := rfl
@[simp] theorem leaveAll_envLines (s : State) (ts : List Thread) (n : Nat) : (s.leaveAll ts n).envLines = s.envLines := rfl
@[simp] theorem leaveAll_locks (s : State) (ts : List Thread) (n : Nat) : (s.leaveAll ts n).locks = s.locks := rfl
@[simp] theorem leaveAll_monitors (s : State) (ts : List Thread) (n : Nat) : (s.leaveAll ts n).monitors = s.monitors := rfl
@[simp] theorem leaveAll_landings (s : State) (ts : List Thread) (n : Nat) : (s.leaveAll ts n).landings = s.landings := rfl
@[simp] theorem leaveAll_acks (s : State) (ts : List Thread) (n : Nat) : (s.leaveAll ts n).acks = s.acks := rfl
@[simp] theorem leaveAll_reds (s : State) (ts : List Thread) (n : Nat) : (s.leaveAll ts n).reds = s.reds := rfl
@[simp] theorem leaveAll_walks (s : State) (ts : List Thread) (n : Nat) : (s.leaveAll ts n).walks = s.walks := rfl
@[simp] theorem leaveAll_misses (s : State) (ts : List Thread) (n : Nat) : (s.leaveAll ts n).misses = s.misses := rfl
@[simp] theorem leaveAll_fills (s : State) (ts : List Thread) (n : Nat) : (s.leaveAll ts n).fills = s.fills := rfl
@[simp] theorem leaveAll_cmds (s : State) (ts : List Thread) (n : Nat) : (s.leaveAll ts n).cmds = s.cmds := rfl
@[simp] theorem leaveAll_banks (s : State) (ts : List Thread) (n : Nat) : (s.leaveAll ts n).banks = s.banks := rfl
@[simp] theorem leaveAll_queries (s : State) (ts : List Thread) (n : Nat) : (s.leaveAll ts n).queries = s.queries := rfl
@[simp] theorem leaveAll_images (s : State) (ts : List Thread) (n : Nat) : (s.leaveAll ts n).images = s.images := rfl
@[simp] theorem leaveAll_ctxs (s : State) (ts : List Thread) (n : Nat) : (s.leaveAll ts n).ctxs = s.ctxs := rfl
@[simp] theorem leaveAll_notify (s : State) (ts : List Thread) (n : Nat) : (s.leaveAll ts n).notify = s.notify := rfl
@[simp] theorem leaveAll_pageCtx (s : State) (ts : List Thread) (n : Nat) : (s.leaveAll ts n).pageCtx = s.pageCtx := rfl
@[simp] theorem leaveAll_phmargin (s : State) (ts : List Thread) (n : Nat) : (s.leaveAll ts n).phmargin = s.phmargin := rfl
@[simp] theorem leaveAll_irqs (s : State) (ts : List Thread) (n : Nat) : (s.leaveAll ts n).irqs = s.irqs := rfl
@[simp] theorem leaveAll_rights (s : State) (ts : List Thread) (n : Nat) : (s.leaveAll ts n).rights = s.rights := rfl
@[simp] theorem leaveAll_denials (s : State) (ts : List Thread) (n : Nat) : (s.leaveAll ts n).denials = s.denials := rfl
@[simp] theorem leaveAll_links (s : State) (ts : List Thread) (n : Nat) : (s.leaveAll ts n).links = s.links := rfl
@[simp] theorem leaveAll_peer (s : State) (ts : List Thread) (n : Nat) : (s.leaveAll ts n).peer = s.peer := rfl
@[simp] theorem leaveAll_replies (s : State) (ts : List Thread) (n : Nat) : (s.leaveAll ts n).replies = s.replies := rfl
@[simp] theorem leaveAll_interval (s : State) (ts : List Thread) (n : Nat) : (s.leaveAll ts n).interval = s.interval := rfl
@[simp] theorem leaveAll_factor (s : State) (ts : List Thread) (n : Nat) : (s.leaveAll ts n).factor = s.factor := rfl
@[simp] theorem leaveAll_gate (s : State) (ts : List Thread) (n : Nat) : (s.leaveAll ts n).gate = s.gate := rfl
@[simp] theorem leaveAll_power (s : State) (ts : List Thread) (n : Nat) : (s.leaveAll ts n).power = s.power := rfl
@[simp] theorem leaveAll_firmware (s : State) (ts : List Thread) (n : Nat) : (s.leaveAll ts n).firmware = s.firmware := rfl
@[simp] theorem leaveAll_rollback (s : State) (ts : List Thread) (n : Nat) : (s.leaveAll ts n).rollback = s.rollback := rfl
@[simp] theorem leaveAll_recovery (s : State) (ts : List Thread) (n : Nat) : (s.leaveAll ts n).recovery = s.recovery := rfl
@[simp] theorem leaveAll_softErrors (s : State) (ts : List Thread) (n : Nat) : (s.leaveAll ts n).softErrors = s.softErrors := rfl
@[simp] theorem leaveAll_overflow (s : State) (ts : List Thread) (n : Nat) : (s.leaveAll ts n).overflow = s.overflow := rfl
@[simp] theorem leaveAll_pins (s : State) (ts : List Thread) (n : Nat) : (s.leaveAll ts n).pins = s.pins := rfl
@[simp] theorem leaveAll_offering (s : State) (ts : List Thread) (n : Nat) : (s.leaveAll ts n).offering = s.offering := rfl
@[simp] theorem leaveAll_flightNo (s : State) (ts : List Thread) (n : Nat) : (s.leaveAll ts n).flightNo = s.flightNo := rfl

@[simp] theorem finishUniform_cur (s : State) (c : CrewId) (n : Nat) : (s.finishUniform c n).cur = s.cur := rfl
@[simp] theorem finishUniform_agenda (s : State) (c : CrewId) (n : Nat) : (s.finishUniform c n).agenda = s.agenda := rfl
@[simp] theorem finishUniform_oracle (s : State) (c : CrewId) (n : Nat) : (s.finishUniform c n).oracle = s.oracle := rfl
@[simp] theorem finishUniform_freeCtr (s : State) (c : CrewId) (n : Nat) : (s.finishUniform c n).freeCtr = s.freeCtr := rfl
@[simp] theorem finishUniform_replays (s : State) (c : CrewId) (n : Nat) : (s.finishUniform c n).replays = s.replays := rfl
@[simp] theorem finishUniform_lastId (s : State) (c : CrewId) (n : Nat) : (s.finishUniform c n).lastId = s.lastId := rfl
@[simp] theorem finishUniform_time (s : State) (c : CrewId) (n : Nat) : (s.finishUniform c n).time = s.time := rfl
@[simp] theorem finishUniform_cores (s : State) (c : CrewId) (n : Nat) : (s.finishUniform c n).cores = s.cores := rfl
@[simp] theorem finishUniform_speeds (s : State) (c : CrewId) (n : Nat) : (s.finishUniform c n).speeds = s.speeds := rfl
@[simp] theorem finishUniform_threads (s : State) (c : CrewId) (n : Nat) :
    (s.finishUniform c n).threads = updWhere (fun t => t.id.crewId == c && t.live) (·.leave n) s.threads := rfl
@[simp] theorem finishUniform_crews (s : State) (c : CrewId) (n : Nat) :
    (s.finishUniform c n).crews = updWhere (fun x => x.id == c) (fun x => x.released) s.crews := rfl
@[simp] theorem finishUniform_commits (s : State) (c : CrewId) (n : Nat) : (s.finishUniform c n).commits = s.commits := rfl
@[simp] theorem finishUniform_teams (s : State) (c : CrewId) (n : Nat) : (s.finishUniform c n).teams = s.teams := rfl
@[simp] theorem finishUniform_units (s : State) (c : CrewId) (n : Nat) : (s.finishUniform c n).units = s.units := rfl
@[simp] theorem finishUniform_grids (s : State) (c : CrewId) (n : Nat) : (s.finishUniform c n).grids = s.grids := rfl
@[simp] theorem finishUniform_pcTable (s : State) (c : CrewId) (n : Nat) : (s.finishUniform c n).pcTable = s.pcTable := rfl
@[simp] theorem finishUniform_l1 (s : State) (c : CrewId) (n : Nat) : (s.finishUniform c n).l1 = s.l1 := rfl
@[simp] theorem finishUniform_icache (s : State) (c : CrewId) (n : Nat) : (s.finishUniform c n).icache = s.icache := rfl
@[simp] theorem finishUniform_layouts (s : State) (c : CrewId) (n : Nat) : (s.finishUniform c n).layouts = s.layouts := rfl
@[simp] theorem finishUniform_tlb (s : State) (c : CrewId) (n : Nat) : (s.finishUniform c n).tlb = s.tlb := rfl
@[simp] theorem finishUniform_buffers (s : State) (c : CrewId) (n : Nat) : (s.finishUniform c n).buffers = s.buffers := rfl
@[simp] theorem finishUniform_mem (s : State) (c : CrewId) (n : Nat) : (s.finishUniform c n).mem = s.mem := rfl
@[simp] theorem finishUniform_envLines (s : State) (c : CrewId) (n : Nat) : (s.finishUniform c n).envLines = s.envLines := rfl
@[simp] theorem finishUniform_locks (s : State) (c : CrewId) (n : Nat) : (s.finishUniform c n).locks = s.locks := rfl
@[simp] theorem finishUniform_monitors (s : State) (c : CrewId) (n : Nat) : (s.finishUniform c n).monitors = s.monitors := rfl
@[simp] theorem finishUniform_landings (s : State) (c : CrewId) (n : Nat) : (s.finishUniform c n).landings = s.landings := rfl
@[simp] theorem finishUniform_acks (s : State) (c : CrewId) (n : Nat) : (s.finishUniform c n).acks = s.acks := rfl
@[simp] theorem finishUniform_reds (s : State) (c : CrewId) (n : Nat) : (s.finishUniform c n).reds = s.reds := rfl
@[simp] theorem finishUniform_walks (s : State) (c : CrewId) (n : Nat) : (s.finishUniform c n).walks = s.walks := rfl
@[simp] theorem finishUniform_misses (s : State) (c : CrewId) (n : Nat) : (s.finishUniform c n).misses = s.misses := rfl
@[simp] theorem finishUniform_fills (s : State) (c : CrewId) (n : Nat) : (s.finishUniform c n).fills = s.fills := rfl
@[simp] theorem finishUniform_cmds (s : State) (c : CrewId) (n : Nat) : (s.finishUniform c n).cmds = s.cmds := rfl
@[simp] theorem finishUniform_banks (s : State) (c : CrewId) (n : Nat) : (s.finishUniform c n).banks = s.banks := rfl
@[simp] theorem finishUniform_queries (s : State) (c : CrewId) (n : Nat) : (s.finishUniform c n).queries = s.queries := rfl
@[simp] theorem finishUniform_images (s : State) (c : CrewId) (n : Nat) : (s.finishUniform c n).images = s.images := rfl
@[simp] theorem finishUniform_ctxs (s : State) (c : CrewId) (n : Nat) : (s.finishUniform c n).ctxs = s.ctxs := rfl
@[simp] theorem finishUniform_notify (s : State) (c : CrewId) (n : Nat) : (s.finishUniform c n).notify = s.notify := rfl
@[simp] theorem finishUniform_pageCtx (s : State) (c : CrewId) (n : Nat) : (s.finishUniform c n).pageCtx = s.pageCtx := rfl
@[simp] theorem finishUniform_phmargin (s : State) (c : CrewId) (n : Nat) : (s.finishUniform c n).phmargin = s.phmargin := rfl
@[simp] theorem finishUniform_irqs (s : State) (c : CrewId) (n : Nat) : (s.finishUniform c n).irqs = s.irqs := rfl
@[simp] theorem finishUniform_rights (s : State) (c : CrewId) (n : Nat) : (s.finishUniform c n).rights = s.rights := rfl
@[simp] theorem finishUniform_denials (s : State) (c : CrewId) (n : Nat) : (s.finishUniform c n).denials = s.denials := rfl
@[simp] theorem finishUniform_links (s : State) (c : CrewId) (n : Nat) : (s.finishUniform c n).links = s.links := rfl
@[simp] theorem finishUniform_peer (s : State) (c : CrewId) (n : Nat) : (s.finishUniform c n).peer = s.peer := rfl
@[simp] theorem finishUniform_replies (s : State) (c : CrewId) (n : Nat) : (s.finishUniform c n).replies = s.replies := rfl
@[simp] theorem finishUniform_interval (s : State) (c : CrewId) (n : Nat) : (s.finishUniform c n).interval = s.interval := rfl
@[simp] theorem finishUniform_factor (s : State) (c : CrewId) (n : Nat) : (s.finishUniform c n).factor = s.factor := rfl
@[simp] theorem finishUniform_gate (s : State) (c : CrewId) (n : Nat) : (s.finishUniform c n).gate = s.gate := rfl
@[simp] theorem finishUniform_power (s : State) (c : CrewId) (n : Nat) : (s.finishUniform c n).power = s.power := rfl
@[simp] theorem finishUniform_firmware (s : State) (c : CrewId) (n : Nat) : (s.finishUniform c n).firmware = s.firmware := rfl
@[simp] theorem finishUniform_rollback (s : State) (c : CrewId) (n : Nat) : (s.finishUniform c n).rollback = s.rollback := rfl
@[simp] theorem finishUniform_recovery (s : State) (c : CrewId) (n : Nat) : (s.finishUniform c n).recovery = s.recovery := rfl
@[simp] theorem finishUniform_softErrors (s : State) (c : CrewId) (n : Nat) : (s.finishUniform c n).softErrors = s.softErrors := rfl
@[simp] theorem finishUniform_overflow (s : State) (c : CrewId) (n : Nat) : (s.finishUniform c n).overflow = s.overflow := rfl
@[simp] theorem finishUniform_pins (s : State) (c : CrewId) (n : Nat) : (s.finishUniform c n).pins = s.pins := rfl
@[simp] theorem finishUniform_offering (s : State) (c : CrewId) (n : Nat) : (s.finishUniform c n).offering = s.offering := rfl
@[simp] theorem finishUniform_flightNo (s : State) (c : CrewId) (n : Nat) : (s.finishUniform c n).flightNo = s.flightNo := rfl

@[simp] theorem laneReg_cur (s : State) (n : Nat) (g : Guard) (f : State → Thread → Thread) : (laneReg n g f s).cur = .idle := rfl
@[simp] theorem laneReg_agenda (s : State) (n : Nat) (g : Guard) (f : State → Thread → Thread) : (laneReg n g f s).agenda = s.agenda := rfl
@[simp] theorem laneReg_oracle (s : State) (n : Nat) (g : Guard) (f : State → Thread → Thread) : (laneReg n g f s).oracle = s.oracle := rfl
@[simp] theorem laneReg_freeCtr (s : State) (n : Nat) (g : Guard) (f : State → Thread → Thread) : (laneReg n g f s).freeCtr = s.freeCtr := rfl
@[simp] theorem laneReg_replays (s : State) (n : Nat) (g : Guard) (f : State → Thread → Thread) : (laneReg n g f s).replays = s.replays := rfl
@[simp] theorem laneReg_lastId (s : State) (n : Nat) (g : Guard) (f : State → Thread → Thread) : (laneReg n g f s).lastId = s.lastId := rfl
@[simp] theorem laneReg_time (s : State) (n : Nat) (g : Guard) (f : State → Thread → Thread) : (laneReg n g f s).time = s.time := rfl
@[simp] theorem laneReg_cores (s : State) (n : Nat) (g : Guard) (f : State → Thread → Thread) : (laneReg n g f s).cores = s.cores := rfl
@[simp] theorem laneReg_speeds (s : State) (n : Nat) (g : Guard) (f : State → Thread → Thread) : (laneReg n g f s).speeds = s.speeds := rfl
@[simp] theorem laneReg_threads (s : State) (n : Nat) (g : Guard) (f : State → Thread → Thread) :
    (laneReg n g f s).threads = updWhere (fun t => s.cur.ids.contains t.id) (regStep n g f s) s.threads := rfl
@[simp] theorem laneReg_crews (s : State) (n : Nat) (g : Guard) (f : State → Thread → Thread) : (laneReg n g f s).crews = s.crews := rfl
@[simp] theorem laneReg_commits (s : State) (n : Nat) (g : Guard) (f : State → Thread → Thread) : (laneReg n g f s).commits = s.commits := rfl
@[simp] theorem laneReg_teams (s : State) (n : Nat) (g : Guard) (f : State → Thread → Thread) : (laneReg n g f s).teams = s.teams := rfl
@[simp] theorem laneReg_units (s : State) (n : Nat) (g : Guard) (f : State → Thread → Thread) : (laneReg n g f s).units = s.units := rfl
@[simp] theorem laneReg_grids (s : State) (n : Nat) (g : Guard) (f : State → Thread → Thread) : (laneReg n g f s).grids = s.grids := rfl
@[simp] theorem laneReg_pcTable (s : State) (n : Nat) (g : Guard) (f : State → Thread → Thread) : (laneReg n g f s).pcTable = s.pcTable := rfl
@[simp] theorem laneReg_l1 (s : State) (n : Nat) (g : Guard) (f : State → Thread → Thread) : (laneReg n g f s).l1 = s.l1 := rfl
@[simp] theorem laneReg_icache (s : State) (n : Nat) (g : Guard) (f : State → Thread → Thread) : (laneReg n g f s).icache = s.icache := rfl
@[simp] theorem laneReg_layouts (s : State) (n : Nat) (g : Guard) (f : State → Thread → Thread) : (laneReg n g f s).layouts = s.layouts := rfl
@[simp] theorem laneReg_tlb (s : State) (n : Nat) (g : Guard) (f : State → Thread → Thread) : (laneReg n g f s).tlb = s.tlb := rfl
@[simp] theorem laneReg_buffers (s : State) (n : Nat) (g : Guard) (f : State → Thread → Thread) : (laneReg n g f s).buffers = s.buffers := rfl
@[simp] theorem laneReg_mem (s : State) (n : Nat) (g : Guard) (f : State → Thread → Thread) : (laneReg n g f s).mem = s.mem := rfl
@[simp] theorem laneReg_envLines (s : State) (n : Nat) (g : Guard) (f : State → Thread → Thread) : (laneReg n g f s).envLines = s.envLines := rfl
@[simp] theorem laneReg_locks (s : State) (n : Nat) (g : Guard) (f : State → Thread → Thread) : (laneReg n g f s).locks = s.locks := rfl
@[simp] theorem laneReg_monitors (s : State) (n : Nat) (g : Guard) (f : State → Thread → Thread) : (laneReg n g f s).monitors = s.monitors := rfl
@[simp] theorem laneReg_landings (s : State) (n : Nat) (g : Guard) (f : State → Thread → Thread) : (laneReg n g f s).landings = s.landings := rfl
@[simp] theorem laneReg_acks (s : State) (n : Nat) (g : Guard) (f : State → Thread → Thread) : (laneReg n g f s).acks = s.acks := rfl
@[simp] theorem laneReg_reds (s : State) (n : Nat) (g : Guard) (f : State → Thread → Thread) : (laneReg n g f s).reds = s.reds := rfl
@[simp] theorem laneReg_walks (s : State) (n : Nat) (g : Guard) (f : State → Thread → Thread) : (laneReg n g f s).walks = s.walks := rfl
@[simp] theorem laneReg_misses (s : State) (n : Nat) (g : Guard) (f : State → Thread → Thread) : (laneReg n g f s).misses = s.misses := rfl
@[simp] theorem laneReg_fills (s : State) (n : Nat) (g : Guard) (f : State → Thread → Thread) : (laneReg n g f s).fills = s.fills := rfl
@[simp] theorem laneReg_cmds (s : State) (n : Nat) (g : Guard) (f : State → Thread → Thread) : (laneReg n g f s).cmds = s.cmds := rfl
@[simp] theorem laneReg_banks (s : State) (n : Nat) (g : Guard) (f : State → Thread → Thread) : (laneReg n g f s).banks = s.banks := rfl
@[simp] theorem laneReg_queries (s : State) (n : Nat) (g : Guard) (f : State → Thread → Thread) : (laneReg n g f s).queries = s.queries := rfl
@[simp] theorem laneReg_images (s : State) (n : Nat) (g : Guard) (f : State → Thread → Thread) : (laneReg n g f s).images = s.images := rfl
@[simp] theorem laneReg_ctxs (s : State) (n : Nat) (g : Guard) (f : State → Thread → Thread) : (laneReg n g f s).ctxs = s.ctxs := rfl
@[simp] theorem laneReg_notify (s : State) (n : Nat) (g : Guard) (f : State → Thread → Thread) : (laneReg n g f s).notify = s.notify := rfl
@[simp] theorem laneReg_pageCtx (s : State) (n : Nat) (g : Guard) (f : State → Thread → Thread) : (laneReg n g f s).pageCtx = s.pageCtx := rfl
@[simp] theorem laneReg_phmargin (s : State) (n : Nat) (g : Guard) (f : State → Thread → Thread) : (laneReg n g f s).phmargin = s.phmargin := rfl
@[simp] theorem laneReg_irqs (s : State) (n : Nat) (g : Guard) (f : State → Thread → Thread) : (laneReg n g f s).irqs = s.irqs := rfl
@[simp] theorem laneReg_rights (s : State) (n : Nat) (g : Guard) (f : State → Thread → Thread) : (laneReg n g f s).rights = s.rights := rfl
@[simp] theorem laneReg_denials (s : State) (n : Nat) (g : Guard) (f : State → Thread → Thread) : (laneReg n g f s).denials = s.denials := rfl
@[simp] theorem laneReg_links (s : State) (n : Nat) (g : Guard) (f : State → Thread → Thread) : (laneReg n g f s).links = s.links := rfl
@[simp] theorem laneReg_peer (s : State) (n : Nat) (g : Guard) (f : State → Thread → Thread) : (laneReg n g f s).peer = s.peer := rfl
@[simp] theorem laneReg_replies (s : State) (n : Nat) (g : Guard) (f : State → Thread → Thread) : (laneReg n g f s).replies = s.replies := rfl
@[simp] theorem laneReg_interval (s : State) (n : Nat) (g : Guard) (f : State → Thread → Thread) : (laneReg n g f s).interval = s.interval := rfl
@[simp] theorem laneReg_factor (s : State) (n : Nat) (g : Guard) (f : State → Thread → Thread) : (laneReg n g f s).factor = s.factor := rfl
@[simp] theorem laneReg_gate (s : State) (n : Nat) (g : Guard) (f : State → Thread → Thread) : (laneReg n g f s).gate = s.gate := rfl
@[simp] theorem laneReg_power (s : State) (n : Nat) (g : Guard) (f : State → Thread → Thread) : (laneReg n g f s).power = s.power := rfl
@[simp] theorem laneReg_firmware (s : State) (n : Nat) (g : Guard) (f : State → Thread → Thread) : (laneReg n g f s).firmware = s.firmware := rfl
@[simp] theorem laneReg_rollback (s : State) (n : Nat) (g : Guard) (f : State → Thread → Thread) : (laneReg n g f s).rollback = s.rollback := rfl
@[simp] theorem laneReg_recovery (s : State) (n : Nat) (g : Guard) (f : State → Thread → Thread) : (laneReg n g f s).recovery = s.recovery := rfl
@[simp] theorem laneReg_softErrors (s : State) (n : Nat) (g : Guard) (f : State → Thread → Thread) :
    (laneReg n g f s).softErrors = s.softErrors := rfl
@[simp] theorem laneReg_overflow (s : State) (n : Nat) (g : Guard) (f : State → Thread → Thread) : (laneReg n g f s).overflow = s.overflow := rfl
@[simp] theorem laneReg_pins (s : State) (n : Nat) (g : Guard) (f : State → Thread → Thread) : (laneReg n g f s).pins = s.pins := rfl
@[simp] theorem laneReg_offering (s : State) (n : Nat) (g : Guard) (f : State → Thread → Thread) : (laneReg n g f s).offering = s.offering := rfl
@[simp] theorem laneReg_flightNo (s : State) (n : Nat) (g : Guard) (f : State → Thread → Thread) : (laneReg n g f s).flightNo = s.flightNo := rfl

/-! ### Threads -/

@[simp] theorem thread_setReg_id (t : Thread) (n : Nat) (w : Word) : (t.setReg n w).id = t.id := rfl
@[simp] theorem thread_setReg_pc (t : Thread) (n : Nat) (w : Word) : (t.setReg n w).pc = t.pc := rfl
@[simp] theorem thread_setReg_v (t : Thread) (n : Nat) (w : Word) : (t.setReg n w).v = setAt t.v n w := rfl
@[simp] theorem thread_setReg_p (t : Thread) (n : Nat) (w : Word) : (t.setReg n w).p = t.p := rfl
@[simp] theorem thread_setReg_live (t : Thread) (n : Nat) (w : Word) : (t.setReg n w).live = t.live := rfl
@[simp] theorem thread_setReg_park (t : Thread) (n : Nat) (w : Word) : (t.setReg n w).park = t.park := rfl
@[simp] theorem thread_setReg_stall (t : Thread) (n : Nat) (w : Word) : (t.setReg n w).stall = t.stall := rfl
@[simp] theorem thread_setReg_arrived (t : Thread) (n : Nat) (w : Word) : (t.setReg n w).arrived = t.arrived := rfl
@[simp] theorem thread_setReg_inh (t : Thread) (n : Nat) (w : Word) : (t.setReg n w).inh = t.inh := rfl
@[simp] theorem thread_setReg_cause (t : Thread) (n : Nat) (w : Word) : (t.setReg n w).cause = t.cause := rfl
@[simp] theorem thread_setReg_trapc (t : Thread) (n : Nat) (w : Word) : (t.setReg n w).trapc = t.trapc := rfl
@[simp] theorem thread_setReg_trapv (t : Thread) (n : Nat) (w : Word) : (t.setReg n w).trapv = t.trapv := rfl
@[simp] theorem thread_setReg_clockHi (t : Thread) (n : Nat) (w : Word) : (t.setReg n w).clockHi = t.clockHi := rfl
@[simp] theorem thread_setReg_wait (t : Thread) (n : Nat) (w : Word) : (t.setReg n w).wait = t.wait := rfl
@[simp] theorem thread_setReg_aged (t : Thread) (n : Nat) (w : Word) : (t.setReg n w).aged = t.aged := rfl
@[simp] theorem thread_setReg_demoted (t : Thread) (n : Nat) (w : Word) : (t.setReg n w).demoted = t.demoted := rfl
@[simp] theorem thread_setReg_held (t : Thread) (n : Nat) (w : Word) : (t.setReg n w).held = t.held := rfl
@[simp] theorem thread_setReg_record (t : Thread) (n : Nat) (w : Word) : (t.setReg n w).record = t.record := rfl
@[simp] theorem thread_setReg_loads (t : Thread) (n : Nat) (w : Word) : (t.setReg n w).loads = t.loads := rfl
@[simp] theorem thread_setReg_committed (t : Thread) (n : Nat) (w : Word) : (t.setReg n w).committed = t.committed := rfl
@[simp] theorem thread_setReg_woken (t : Thread) (n : Nat) (w : Word) : (t.setReg n w).woken = t.woken := rfl
@[simp] theorem thread_setReg_run (t : Thread) (n : Nat) (w : Word) : (t.setReg n w).run = t.run := rfl
@[simp] theorem thread_setReg_cont (t : Thread) (n : Nat) (w : Word) : (t.setReg n w).cont = t.cont := rfl
@[simp] theorem thread_setReg_conv (t : Thread) (n : Nat) (w : Word) : (t.setReg n w).conv = t.conv := rfl
@[simp] theorem thread_setReg_late (t : Thread) (n : Nat) (w : Word) : (t.setReg n w).late = t.late := rfl

@[simp] theorem thread_advance_id (t : Thread) (n : Nat) : (t.advance n).id = t.id := rfl
@[simp] theorem thread_advance_pc (t : Thread) (n : Nat) : (t.advance n).pc = t.pc + BitVec.ofNat 32 n := rfl
@[simp] theorem thread_advance_v (t : Thread) (n : Nat) : (t.advance n).v = t.v := rfl
@[simp] theorem thread_advance_p (t : Thread) (n : Nat) : (t.advance n).p = t.p := rfl
@[simp] theorem thread_advance_live (t : Thread) (n : Nat) : (t.advance n).live = t.live := rfl
@[simp] theorem thread_advance_park (t : Thread) (n : Nat) : (t.advance n).park = t.park := rfl
@[simp] theorem thread_advance_stall (t : Thread) (n : Nat) : (t.advance n).stall = t.stall := rfl
@[simp] theorem thread_advance_arrived (t : Thread) (n : Nat) : (t.advance n).arrived = t.arrived := rfl
@[simp] theorem thread_advance_inh (t : Thread) (n : Nat) : (t.advance n).inh = t.inh := rfl
@[simp] theorem thread_advance_cause (t : Thread) (n : Nat) : (t.advance n).cause = t.cause := rfl
@[simp] theorem thread_advance_trapc (t : Thread) (n : Nat) : (t.advance n).trapc = t.trapc := rfl
@[simp] theorem thread_advance_trapv (t : Thread) (n : Nat) : (t.advance n).trapv = t.trapv := rfl
@[simp] theorem thread_advance_clockHi (t : Thread) (n : Nat) : (t.advance n).clockHi = t.clockHi := rfl
@[simp] theorem thread_advance_wait (t : Thread) (n : Nat) : (t.advance n).wait = t.wait := rfl
@[simp] theorem thread_advance_aged (t : Thread) (n : Nat) : (t.advance n).aged = t.aged := rfl
@[simp] theorem thread_advance_demoted (t : Thread) (n : Nat) : (t.advance n).demoted = t.demoted := rfl
@[simp] theorem thread_advance_held (t : Thread) (n : Nat) : (t.advance n).held = t.held := rfl
@[simp] theorem thread_advance_record (t : Thread) (n : Nat) : (t.advance n).record = t.record := rfl
@[simp] theorem thread_advance_loads (t : Thread) (n : Nat) : (t.advance n).loads = t.loads := rfl
@[simp] theorem thread_advance_committed (t : Thread) (n : Nat) : (t.advance n).committed = t.committed := rfl
@[simp] theorem thread_advance_woken (t : Thread) (n : Nat) : (t.advance n).woken = t.woken := rfl
@[simp] theorem thread_advance_run (t : Thread) (n : Nat) : (t.advance n).run = t.run := rfl
@[simp] theorem thread_advance_cont (t : Thread) (n : Nat) : (t.advance n).cont = t.cont := rfl
@[simp] theorem thread_advance_conv (t : Thread) (n : Nat) : (t.advance n).conv = t.conv := rfl
@[simp] theorem thread_advance_late (t : Thread) (n : Nat) : (t.advance n).late = t.late := rfl

@[simp] theorem thread_leave_id (t : Thread) (n : Nat) : (t.leave n).id = t.id := rfl
@[simp] theorem thread_leave_pc (t : Thread) (n : Nat) : (t.leave n).pc = t.pc + BitVec.ofNat 32 n := rfl
@[simp] theorem thread_leave_v (t : Thread) (n : Nat) : (t.leave n).v = t.v := rfl
@[simp] theorem thread_leave_p (t : Thread) (n : Nat) : (t.leave n).p = t.p := rfl
@[simp] theorem thread_leave_live (t : Thread) (n : Nat) : (t.leave n).live = t.live := rfl
@[simp] theorem thread_leave_park (t : Thread) (n : Nat) : (t.leave n).park = t.park := rfl
@[simp] theorem thread_leave_stall (t : Thread) (n : Nat) : (t.leave n).stall = .none := rfl
@[simp] theorem thread_leave_arrived (t : Thread) (n : Nat) : (t.leave n).arrived = none := rfl
@[simp] theorem thread_leave_inh (t : Thread) (n : Nat) : (t.leave n).inh = t.inh := rfl
@[simp] theorem thread_leave_cause (t : Thread) (n : Nat) : (t.leave n).cause = t.cause := rfl
@[simp] theorem thread_leave_trapc (t : Thread) (n : Nat) : (t.leave n).trapc = t.trapc := rfl
@[simp] theorem thread_leave_trapv (t : Thread) (n : Nat) : (t.leave n).trapv = t.trapv := rfl
@[simp] theorem thread_leave_clockHi (t : Thread) (n : Nat) : (t.leave n).clockHi = t.clockHi := rfl
@[simp] theorem thread_leave_wait (t : Thread) (n : Nat) : (t.leave n).wait = 0 := rfl
@[simp] theorem thread_leave_aged (t : Thread) (n : Nat) : (t.leave n).aged = t.aged := rfl
@[simp] theorem thread_leave_demoted (t : Thread) (n : Nat) : (t.leave n).demoted = t.demoted := rfl
@[simp] theorem thread_leave_held (t : Thread) (n : Nat) : (t.leave n).held = t.held := rfl
@[simp] theorem thread_leave_record (t : Thread) (n : Nat) : (t.leave n).record = t.record := rfl
@[simp] theorem thread_leave_loads (t : Thread) (n : Nat) : (t.leave n).loads = t.loads := rfl
@[simp] theorem thread_leave_committed (t : Thread) (n : Nat) : (t.leave n).committed = t.committed := rfl
@[simp] theorem thread_leave_woken (t : Thread) (n : Nat) : (t.leave n).woken = t.woken := rfl
@[simp] theorem thread_leave_run (t : Thread) (n : Nat) : (t.leave n).run = t.run := rfl
@[simp] theorem thread_leave_cont (t : Thread) (n : Nat) : (t.leave n).cont = t.cont := rfl
@[simp] theorem thread_leave_conv (t : Thread) (n : Nat) : (t.leave n).conv = t.conv := rfl
@[simp] theorem thread_leave_late (t : Thread) (n : Nat) : (t.leave n).late = t.late := rfl

/-- A write of a predicate changes the predicates only; p7 takes no write. -/
theorem thread_setPred_eq (t : Thread) (n : Nat) (b : Bool) :
    t.setPred n b = { t with p := if n = 7 then t.p else setAt t.p n b } := by
  unfold Thread.setPred; split <;> rfl

@[simp] theorem thread_setPred_id (t : Thread) (n : Nat) (b : Bool) : (t.setPred n b).id = t.id := by
  rw [thread_setPred_eq]
@[simp] theorem thread_setPred_pc (t : Thread) (n : Nat) (b : Bool) : (t.setPred n b).pc = t.pc := by
  rw [thread_setPred_eq]
@[simp] theorem thread_setPred_v (t : Thread) (n : Nat) (b : Bool) : (t.setPred n b).v = t.v := by
  rw [thread_setPred_eq]
@[simp] theorem thread_setPred_live (t : Thread) (n : Nat) (b : Bool) : (t.setPred n b).live = t.live := by
  rw [thread_setPred_eq]
@[simp] theorem thread_setPred_park (t : Thread) (n : Nat) (b : Bool) : (t.setPred n b).park = t.park := by
  rw [thread_setPred_eq]
@[simp] theorem thread_setPred_stall (t : Thread) (n : Nat) (b : Bool) : (t.setPred n b).stall = t.stall := by
  rw [thread_setPred_eq]
@[simp] theorem thread_setPred_arrived (t : Thread) (n : Nat) (b : Bool) : (t.setPred n b).arrived = t.arrived := by
  rw [thread_setPred_eq]
@[simp] theorem thread_setPred_inh (t : Thread) (n : Nat) (b : Bool) : (t.setPred n b).inh = t.inh := by
  rw [thread_setPred_eq]
@[simp] theorem thread_setPred_cause (t : Thread) (n : Nat) (b : Bool) : (t.setPred n b).cause = t.cause := by
  rw [thread_setPred_eq]
@[simp] theorem thread_setPred_trapc (t : Thread) (n : Nat) (b : Bool) : (t.setPred n b).trapc = t.trapc := by
  rw [thread_setPred_eq]
@[simp] theorem thread_setPred_trapv (t : Thread) (n : Nat) (b : Bool) : (t.setPred n b).trapv = t.trapv := by
  rw [thread_setPred_eq]
@[simp] theorem thread_setPred_clockHi (t : Thread) (n : Nat) (b : Bool) : (t.setPred n b).clockHi = t.clockHi := by
  rw [thread_setPred_eq]
@[simp] theorem thread_setPred_wait (t : Thread) (n : Nat) (b : Bool) : (t.setPred n b).wait = t.wait := by
  rw [thread_setPred_eq]
@[simp] theorem thread_setPred_aged (t : Thread) (n : Nat) (b : Bool) : (t.setPred n b).aged = t.aged := by
  rw [thread_setPred_eq]
@[simp] theorem thread_setPred_demoted (t : Thread) (n : Nat) (b : Bool) : (t.setPred n b).demoted = t.demoted := by
  rw [thread_setPred_eq]
@[simp] theorem thread_setPred_held (t : Thread) (n : Nat) (b : Bool) : (t.setPred n b).held = t.held := by
  rw [thread_setPred_eq]
@[simp] theorem thread_setPred_record (t : Thread) (n : Nat) (b : Bool) : (t.setPred n b).record = t.record := by
  rw [thread_setPred_eq]
@[simp] theorem thread_setPred_loads (t : Thread) (n : Nat) (b : Bool) : (t.setPred n b).loads = t.loads := by
  rw [thread_setPred_eq]
@[simp] theorem thread_setPred_committed (t : Thread) (n : Nat) (b : Bool) : (t.setPred n b).committed = t.committed := by
  rw [thread_setPred_eq]
@[simp] theorem thread_setPred_woken (t : Thread) (n : Nat) (b : Bool) : (t.setPred n b).woken = t.woken := by
  rw [thread_setPred_eq]
@[simp] theorem thread_setPred_run (t : Thread) (n : Nat) (b : Bool) : (t.setPred n b).run = t.run := by
  rw [thread_setPred_eq]
@[simp] theorem thread_setPred_cont (t : Thread) (n : Nat) (b : Bool) : (t.setPred n b).cont = t.cont := by
  rw [thread_setPred_eq]
@[simp] theorem thread_setPred_conv (t : Thread) (n : Nat) (b : Bool) : (t.setPred n b).conv = t.conv := by
  rw [thread_setPred_eq]
@[simp] theorem thread_setPred_late (t : Thread) (n : Nat) (b : Bool) : (t.setPred n b).late = t.late := by
  rw [thread_setPred_eq]

/-- A write of consecutive registers changes the registers only. -/
theorem thread_setRegs_eq (t : Thread) (n : Nat) (ws : List Word) : ∃ l, t.setRegs n ws = { t with v := l } := by
  induction ws generalizing t n with
  | nil => exact ⟨t.v, rfl⟩
  | cons w ws ih => obtain ⟨l, h⟩ := ih (t.setReg n w) (n + 1); exact ⟨l, by rw [Thread.setRegs, h]; rfl⟩

@[simp] theorem thread_setRegs_id (t : Thread) (n : Nat) (ws : List Word) : (t.setRegs n ws).id = t.id := by
  obtain ⟨l, h⟩ := thread_setRegs_eq t n ws; rw [h]
@[simp] theorem thread_setRegs_pc (t : Thread) (n : Nat) (ws : List Word) : (t.setRegs n ws).pc = t.pc := by
  obtain ⟨l, h⟩ := thread_setRegs_eq t n ws; rw [h]
@[simp] theorem thread_setRegs_p (t : Thread) (n : Nat) (ws : List Word) : (t.setRegs n ws).p = t.p := by
  obtain ⟨l, h⟩ := thread_setRegs_eq t n ws; rw [h]
@[simp] theorem thread_setRegs_live (t : Thread) (n : Nat) (ws : List Word) : (t.setRegs n ws).live = t.live := by
  obtain ⟨l, h⟩ := thread_setRegs_eq t n ws; rw [h]
@[simp] theorem thread_setRegs_park (t : Thread) (n : Nat) (ws : List Word) : (t.setRegs n ws).park = t.park := by
  obtain ⟨l, h⟩ := thread_setRegs_eq t n ws; rw [h]
@[simp] theorem thread_setRegs_stall (t : Thread) (n : Nat) (ws : List Word) : (t.setRegs n ws).stall = t.stall := by
  obtain ⟨l, h⟩ := thread_setRegs_eq t n ws; rw [h]
@[simp] theorem thread_setRegs_arrived (t : Thread) (n : Nat) (ws : List Word) : (t.setRegs n ws).arrived = t.arrived := by
  obtain ⟨l, h⟩ := thread_setRegs_eq t n ws; rw [h]
@[simp] theorem thread_setRegs_inh (t : Thread) (n : Nat) (ws : List Word) : (t.setRegs n ws).inh = t.inh := by
  obtain ⟨l, h⟩ := thread_setRegs_eq t n ws; rw [h]
@[simp] theorem thread_setRegs_cause (t : Thread) (n : Nat) (ws : List Word) : (t.setRegs n ws).cause = t.cause := by
  obtain ⟨l, h⟩ := thread_setRegs_eq t n ws; rw [h]
@[simp] theorem thread_setRegs_trapc (t : Thread) (n : Nat) (ws : List Word) : (t.setRegs n ws).trapc = t.trapc := by
  obtain ⟨l, h⟩ := thread_setRegs_eq t n ws; rw [h]
@[simp] theorem thread_setRegs_trapv (t : Thread) (n : Nat) (ws : List Word) : (t.setRegs n ws).trapv = t.trapv := by
  obtain ⟨l, h⟩ := thread_setRegs_eq t n ws; rw [h]
@[simp] theorem thread_setRegs_clockHi (t : Thread) (n : Nat) (ws : List Word) : (t.setRegs n ws).clockHi = t.clockHi := by
  obtain ⟨l, h⟩ := thread_setRegs_eq t n ws; rw [h]
@[simp] theorem thread_setRegs_wait (t : Thread) (n : Nat) (ws : List Word) : (t.setRegs n ws).wait = t.wait := by
  obtain ⟨l, h⟩ := thread_setRegs_eq t n ws; rw [h]
@[simp] theorem thread_setRegs_aged (t : Thread) (n : Nat) (ws : List Word) : (t.setRegs n ws).aged = t.aged := by
  obtain ⟨l, h⟩ := thread_setRegs_eq t n ws; rw [h]
@[simp] theorem thread_setRegs_demoted (t : Thread) (n : Nat) (ws : List Word) : (t.setRegs n ws).demoted = t.demoted := by
  obtain ⟨l, h⟩ := thread_setRegs_eq t n ws; rw [h]
@[simp] theorem thread_setRegs_held (t : Thread) (n : Nat) (ws : List Word) : (t.setRegs n ws).held = t.held := by
  obtain ⟨l, h⟩ := thread_setRegs_eq t n ws; rw [h]
@[simp] theorem thread_setRegs_record (t : Thread) (n : Nat) (ws : List Word) : (t.setRegs n ws).record = t.record := by
  obtain ⟨l, h⟩ := thread_setRegs_eq t n ws; rw [h]
@[simp] theorem thread_setRegs_loads (t : Thread) (n : Nat) (ws : List Word) : (t.setRegs n ws).loads = t.loads := by
  obtain ⟨l, h⟩ := thread_setRegs_eq t n ws; rw [h]
@[simp] theorem thread_setRegs_committed (t : Thread) (n : Nat) (ws : List Word) : (t.setRegs n ws).committed = t.committed := by
  obtain ⟨l, h⟩ := thread_setRegs_eq t n ws; rw [h]
@[simp] theorem thread_setRegs_woken (t : Thread) (n : Nat) (ws : List Word) : (t.setRegs n ws).woken = t.woken := by
  obtain ⟨l, h⟩ := thread_setRegs_eq t n ws; rw [h]
@[simp] theorem thread_setRegs_run (t : Thread) (n : Nat) (ws : List Word) : (t.setRegs n ws).run = t.run := by
  obtain ⟨l, h⟩ := thread_setRegs_eq t n ws; rw [h]
@[simp] theorem thread_setRegs_cont (t : Thread) (n : Nat) (ws : List Word) : (t.setRegs n ws).cont = t.cont := by
  obtain ⟨l, h⟩ := thread_setRegs_eq t n ws; rw [h]
@[simp] theorem thread_setRegs_conv (t : Thread) (n : Nat) (ws : List Word) : (t.setRegs n ws).conv = t.conv := by
  obtain ⟨l, h⟩ := thread_setRegs_eq t n ws; rw [h]
@[simp] theorem thread_setRegs_late (t : Thread) (n : Nat) (ws : List Word) : (t.setRegs n ws).late = t.late := by
  obtain ⟨l, h⟩ := thread_setRegs_eq t n ws; rw [h]

/-! ### Crews -/

/-- A write of a k register changes the k registers only; k63 takes no write (R308). -/
theorem crew_setReg_eq (c : Crew) (n : Nat) (w : Word) : c.setReg n w = { c with k := if n = 63 then c.k else setAt c.k n w } := by
  unfold Crew.setReg; split <;> rfl

/-- A write of a q predicate changes the predicates only; q7 takes no write (R308). -/
theorem crew_setPred_eq (c : Crew) (n : Nat) (b : Bool) : c.setPred n b = { c with q := if n = 7 then c.q else setAt c.q n b } := by
  unfold Crew.setPred; split <;> rfl

@[simp] theorem crew_setReg_id (c : Crew) (n : Nat) (w : Word) : (c.setReg n w).id = c.id := by
  rw [crew_setReg_eq]
@[simp] theorem crew_setReg_q (c : Crew) (n : Nat) (w : Word) : (c.setReg n w).q = c.q := by
  rw [crew_setReg_eq]
@[simp] theorem crew_setReg_sat (c : Crew) (n : Nat) (w : Word) : (c.setReg n w).sat = c.sat := by
  rw [crew_setReg_eq]
@[simp] theorem crew_setReg_satArm (c : Crew) (n : Nat) (w : Word) : (c.setReg n w).satArm = c.satArm := by
  rw [crew_setReg_eq]
@[simp] theorem crew_setReg_cflict (c : Crew) (n : Nat) (w : Word) : (c.setReg n w).cflict = c.cflict := by
  rw [crew_setReg_eq]
@[simp] theorem crew_setReg_stragId (c : Crew) (n : Nat) (w : Word) : (c.setReg n w).stragId = c.stragId := by
  rw [crew_setReg_eq]
@[simp] theorem crew_setReg_stragWait (c : Crew) (n : Nat) (w : Word) : (c.setReg n w).stragWait = c.stragWait := by
  rw [crew_setReg_eq]
@[simp] theorem crew_setReg_phArm (c : Crew) (n : Nat) (w : Word) : (c.setReg n w).phArm = c.phArm := by
  rw [crew_setReg_eq]
@[simp] theorem crew_setReg_phCount (c : Crew) (n : Nat) (w : Word) : (c.setReg n w).phCount = c.phCount := by
  rw [crew_setReg_eq]
@[simp] theorem crew_setReg_phLimit (c : Crew) (n : Nat) (w : Word) : (c.setReg n w).phLimit = c.phLimit := by
  rw [crew_setReg_eq]
@[simp] theorem crew_setReg_notice (c : Crew) (n : Nat) (w : Word) : (c.setReg n w).notice = c.notice := by
  rw [crew_setReg_eq]
@[simp] theorem crew_setReg_unack (c : Crew) (n : Nat) (w : Word) : (c.setReg n w).unack = c.unack := by
  rw [crew_setReg_eq]
@[simp] theorem crew_setReg_slot (c : Crew) (n : Nat) (w : Word) : (c.setReg n w).slot = c.slot := by
  rw [crew_setReg_eq]
@[simp] theorem crew_setReg_clockHi (c : Crew) (n : Nat) (w : Word) : (c.setReg n w).clockHi = c.clockHi := by
  rw [crew_setReg_eq]
@[simp] theorem crew_setReg_stalled (c : Crew) (n : Nat) (w : Word) : (c.setReg n w).stalled = c.stalled := by
  rw [crew_setReg_eq]
@[simp] theorem crew_setReg_hold (c : Crew) (n : Nat) (w : Word) : (c.setReg n w).hold = c.hold := by
  rw [crew_setReg_eq]
@[simp] theorem crew_setReg_fence (c : Crew) (n : Nat) (w : Word) : (c.setReg n w).fence = c.fence := by
  rw [crew_setReg_eq]
@[simp] theorem crew_setReg_rdvFrom (c : Crew) (n : Nat) (w : Word) : (c.setReg n w).rdvFrom = c.rdvFrom := by
  rw [crew_setReg_eq]
@[simp] theorem crew_setReg_exitAt (c : Crew) (n : Nat) (w : Word) : (c.setReg n w).exitAt = c.exitAt := by
  rw [crew_setReg_eq]
@[simp] theorem crew_setReg_retired (c : Crew) (n : Nat) (w : Word) : (c.setReg n w).retired = c.retired := by
  rw [crew_setReg_eq]
@[simp] theorem crew_setReg_absent (c : Crew) (n : Nat) (w : Word) : (c.setReg n w).absent = c.absent := by
  rw [crew_setReg_eq]
@[simp] theorem crew_setReg_issuing (c : Crew) (n : Nat) (w : Word) : (c.setReg n w).issuing = c.issuing := by
  rw [crew_setReg_eq]
@[simp] theorem crew_setReg_drops (c : Crew) (n : Nat) (w : Word) : (c.setReg n w).drops = c.drops := by
  rw [crew_setReg_eq]
@[simp] theorem crew_setReg_complete (c : Crew) (n : Nat) (w : Word) : (c.setReg n w).complete = c.complete := by
  rw [crew_setReg_eq]
@[simp] theorem crew_setReg_begun (c : Crew) (n : Nat) (w : Word) : (c.setReg n w).begun = c.begun := by
  rw [crew_setReg_eq]
@[simp] theorem crew_setPred_id (c : Crew) (n : Nat) (b : Bool) : (c.setPred n b).id = c.id := by
  rw [crew_setPred_eq]
@[simp] theorem crew_setPred_k (c : Crew) (n : Nat) (b : Bool) : (c.setPred n b).k = c.k := by
  rw [crew_setPred_eq]
@[simp] theorem crew_setPred_sat (c : Crew) (n : Nat) (b : Bool) : (c.setPred n b).sat = c.sat := by
  rw [crew_setPred_eq]
@[simp] theorem crew_setPred_satArm (c : Crew) (n : Nat) (b : Bool) : (c.setPred n b).satArm = c.satArm := by
  rw [crew_setPred_eq]
@[simp] theorem crew_setPred_cflict (c : Crew) (n : Nat) (b : Bool) : (c.setPred n b).cflict = c.cflict := by
  rw [crew_setPred_eq]
@[simp] theorem crew_setPred_stragId (c : Crew) (n : Nat) (b : Bool) : (c.setPred n b).stragId = c.stragId := by
  rw [crew_setPred_eq]
@[simp] theorem crew_setPred_stragWait (c : Crew) (n : Nat) (b : Bool) : (c.setPred n b).stragWait = c.stragWait := by
  rw [crew_setPred_eq]
@[simp] theorem crew_setPred_phArm (c : Crew) (n : Nat) (b : Bool) : (c.setPred n b).phArm = c.phArm := by
  rw [crew_setPred_eq]
@[simp] theorem crew_setPred_phCount (c : Crew) (n : Nat) (b : Bool) : (c.setPred n b).phCount = c.phCount := by
  rw [crew_setPred_eq]
@[simp] theorem crew_setPred_phLimit (c : Crew) (n : Nat) (b : Bool) : (c.setPred n b).phLimit = c.phLimit := by
  rw [crew_setPred_eq]
@[simp] theorem crew_setPred_notice (c : Crew) (n : Nat) (b : Bool) : (c.setPred n b).notice = c.notice := by
  rw [crew_setPred_eq]
@[simp] theorem crew_setPred_unack (c : Crew) (n : Nat) (b : Bool) : (c.setPred n b).unack = c.unack := by
  rw [crew_setPred_eq]
@[simp] theorem crew_setPred_slot (c : Crew) (n : Nat) (b : Bool) : (c.setPred n b).slot = c.slot := by
  rw [crew_setPred_eq]
@[simp] theorem crew_setPred_clockHi (c : Crew) (n : Nat) (b : Bool) : (c.setPred n b).clockHi = c.clockHi := by
  rw [crew_setPred_eq]
@[simp] theorem crew_setPred_stalled (c : Crew) (n : Nat) (b : Bool) : (c.setPred n b).stalled = c.stalled := by
  rw [crew_setPred_eq]
@[simp] theorem crew_setPred_hold (c : Crew) (n : Nat) (b : Bool) : (c.setPred n b).hold = c.hold := by
  rw [crew_setPred_eq]
@[simp] theorem crew_setPred_fence (c : Crew) (n : Nat) (b : Bool) : (c.setPred n b).fence = c.fence := by
  rw [crew_setPred_eq]
@[simp] theorem crew_setPred_rdvFrom (c : Crew) (n : Nat) (b : Bool) : (c.setPred n b).rdvFrom = c.rdvFrom := by
  rw [crew_setPred_eq]
@[simp] theorem crew_setPred_exitAt (c : Crew) (n : Nat) (b : Bool) : (c.setPred n b).exitAt = c.exitAt := by
  rw [crew_setPred_eq]
@[simp] theorem crew_setPred_retired (c : Crew) (n : Nat) (b : Bool) : (c.setPred n b).retired = c.retired := by
  rw [crew_setPred_eq]
@[simp] theorem crew_setPred_absent (c : Crew) (n : Nat) (b : Bool) : (c.setPred n b).absent = c.absent := by
  rw [crew_setPred_eq]
@[simp] theorem crew_setPred_issuing (c : Crew) (n : Nat) (b : Bool) : (c.setPred n b).issuing = c.issuing := by
  rw [crew_setPred_eq]
@[simp] theorem crew_setPred_drops (c : Crew) (n : Nat) (b : Bool) : (c.setPred n b).drops = c.drops := by
  rw [crew_setPred_eq]
@[simp] theorem crew_setPred_complete (c : Crew) (n : Nat) (b : Bool) : (c.setPred n b).complete = c.complete := by
  rw [crew_setPred_eq]
@[simp] theorem crew_setPred_begun (c : Crew) (n : Nat) (b : Bool) : (c.setPred n b).begun = c.begun := by
  rw [crew_setPred_eq]
@[simp] theorem crew_released_id (c : Crew)  : (c.released).id = c.id := rfl
@[simp] theorem crew_released_k (c : Crew)  : (c.released).k = c.k := rfl
@[simp] theorem crew_released_q (c : Crew)  : (c.released).q = c.q := rfl
@[simp] theorem crew_released_sat (c : Crew)  : (c.released).sat = c.sat := rfl
@[simp] theorem crew_released_satArm (c : Crew)  : (c.released).satArm = c.satArm := rfl
@[simp] theorem crew_released_cflict (c : Crew)  : (c.released).cflict = c.cflict := rfl
@[simp] theorem crew_released_stragId (c : Crew)  : (c.released).stragId = c.stragId := rfl
@[simp] theorem crew_released_stragWait (c : Crew)  : (c.released).stragWait = c.stragWait := rfl
@[simp] theorem crew_released_phArm (c : Crew)  : (c.released).phArm = c.phArm := rfl
@[simp] theorem crew_released_phCount (c : Crew)  : (c.released).phCount = c.phCount := rfl
@[simp] theorem crew_released_phLimit (c : Crew)  : (c.released).phLimit = c.phLimit := rfl
@[simp] theorem crew_released_notice (c : Crew)  : (c.released).notice = c.notice := rfl
@[simp] theorem crew_released_unack (c : Crew)  : (c.released).unack = c.unack := rfl
@[simp] theorem crew_released_slot (c : Crew)  : (c.released).slot = c.slot := rfl
@[simp] theorem crew_released_clockHi (c : Crew)  : (c.released).clockHi = c.clockHi := rfl
@[simp] theorem crew_released_stalled (c : Crew)  : (c.released).stalled = false := rfl
@[simp] theorem crew_released_hold (c : Crew)  : (c.released).hold = false := rfl
@[simp] theorem crew_released_fence (c : Crew)  : (c.released).fence = none := rfl
@[simp] theorem crew_released_rdvFrom (c : Crew)  : (c.released).rdvFrom = none := rfl
@[simp] theorem crew_released_exitAt (c : Crew)  : (c.released).exitAt = c.exitAt := rfl
@[simp] theorem crew_released_retired (c : Crew)  : (c.released).retired = c.retired := rfl
@[simp] theorem crew_released_absent (c : Crew)  : (c.released).absent = none := rfl
@[simp] theorem crew_released_issuing (c : Crew)  : (c.released).issuing = none := rfl
@[simp] theorem crew_released_drops (c : Crew)  : (c.released).drops = c.drops := rfl
@[simp] theorem crew_released_complete (c : Crew)  : (c.released).complete = false := rfl
@[simp] theorem crew_released_begun (c : Crew)  : (c.released).begun = false := rfl

end Sys2Proof.Laws
end

