-- ==== Sys2Proof/Laws/Ops.lean ====
section
/-!
SUPPORT. One law for each shared operation of Machine/Ops.lean: what it answers, and everything that it can change.
-/

namespace Sys2Proof.Laws
open Sys2Proof Sys2Proof.Machine

/-! ### The forms of an instruction -/

/-- A lane instruction that changes registers only, on a flight: each thread of the flight from the state before it. -/
theorem laneReg_flight (n : Nat) (g : Guard) (f : State → Thread → Thread) (s : State) (core : Nat) (ids : List ThreadId) (rdv : Bool)
    (h : s.cur = .flight core ids rdv) :
    laneReg n g f s = { s with cur := .idle, threads := s.threads.map (fun t => if t.id ∈ ids then regStep n g f s t else t) } := by
  simp [laneReg, h, Focus.ids, updWhere]

/-- A flight of one live thread, from a state `x` in which it is live and in its handler as before: the meaning where the guard is true, the next
instruction where it is false. -/
theorem laneFrom_one (n : Nat) (g : Guard) (f : State → Thread → State) (s x : State) (core : Nat) (t u : Thread) (rdv : Bool)
    (h : s.cur = .flight core [t.id] rdv) (ht : s.thread? t.id = some t) (hu : x.thread? t.id = some u) (hl : u.live = true)
    (hi : u.inh = t.inh) :
    laneFrom n g f s x = if u.guard g then f x u else x.modThread t.id (·.advance n) := by
  simp [laneFrom, h, Focus.ids, ht, hu, hl, hi]

/-- A lane instruction on a flight of one live thread: its meaning where the guard is true, the next instruction where it is false. -/
theorem laneEach_one (n : Nat) (g : Guard) (f : State → Thread → State) (s : State) (core : Nat) (t : Thread) (rdv : Bool)
    (h : s.cur = .flight core [t.id] rdv) (ht : s.thread? t.id = some t) (hl : t.live = true) :
    laneEach n g f s =
      if t.guard g then f { s with cur := .idle } t else ({ s with cur := .idle } : State).modThread t.id (·.advance n) := by
  have h' : ({ s with cur := .idle } : State).thread? t.id = some t := ht
  exact laneFrom_one n g f s _ core t t rdv h ht h' hl rfl

/-- A lane instruction on an empty flight does nothing. -/
theorem laneEach_nil (n : Nat) (g : Guard) (f : State → Thread → State) (s : State) (core : Nat) (rdv : Bool)
    (h : s.cur = .flight core [] rdv) : laneEach n g f s = { s with cur := .idle } := by
  simp [laneEach, laneFrom, h, Focus.ids]

/-- A crew collective on a flight: the crew's rendezvous is over, then its meaning, on all threads of the flight and on those whose
guard is true. -/
theorem laneCrew_flight (g : Guard) (f : State → CrewId → List Thread → List Thread → State) (s : State) (core : Nat)
    (ids : List ThreadId) (rdv : Bool) (t : Thread) (ts : List Thread) (h : s.cur = .flight core ids rdv)
    (hts : ids.filterMap s.thread? = t :: ts) :
    laneCrew g f s =
      f (({ s with cur := .idle } : State).modCrew t.id.crewId Crew.released) t.id.crewId (t :: ts) ((t :: ts).filter (·.guard g)) := by
  simp [laneCrew, h, Focus.ids, hts]

/-- A uniform instruction of a crew: its meaning where the guard is true; where it is false the crew only continues. -/
theorem uniformRun_crew (n : Nat) (g : Guard) (f : State → Crew → State) (s : State) (c : Crew) (h : s.cur = .uniform c.id)
    (hc : s.crew? c.id = some c) :
    uniformRun n g f s =
      if c.guard g then f { s with cur := .idle } c else State.finishUniform { s with cur := .idle } c.id n := by
  simp [uniformRun, h, Focus.crew?, hc]

/-- A uniform instruction that changes its crew's registers only. -/
theorem uniformReg_crew (n : Nat) (g : Guard) (f : State → Crew → Crew) (s : State) (c : Crew) (h : s.cur = .uniform c.id)
    (hc : s.crew? c.id = some c) :
    uniformReg n g f s =
      ((if c.guard g then ({ s with cur := .idle } : State).modCrew c.id (fun _ => f { s with cur := .idle } c)
        else { s with cur := .idle }).finishUniform c.id n) := by
  rw [uniformReg, uniformRun_crew n g _ s c h hc]
  split <;> rfl

/-! ### Barriers, rings, status bits -/

/-- A change of a barrier changes teams, units or grids, and nothing else. -/
theorem modBarrier_eq (s : State) (team : Nat) (b : BarRef) (f : Barrier → Barrier) :
    ∃ ts us gs, s.modBarrier team b f = { s with teams := ts, units := us, grids := gs } := by
  unfold State.modBarrier
  split
  · exact ⟨s.teams, s.units, s.grids, rfl⟩
  · split <;> exact ⟨_, _, _, rfl⟩

/-- Setting a bit of CSTAT changes contexts and interrupts, and nothing else. -/
theorem setCstat_eq (s : State) (ctx bit : Nat) : ∃ cs is, s.setCstat ctx bit = { s with ctxs := cs, irqs := is } := by
  unfold State.setCstat
  split
  · exact ⟨s.ctxs, s.irqs, rfl⟩
  · split <;> exact ⟨_, _, rfl⟩

/-- A write by physical address changes memory and the denial log, and nothing else; memory stays canonical. -/
theorem writePhys_frame (s : State) (a : Nat) (bs : List Byte) :
    ∃ m d, s.writePhys a bs = { s with mem := m, denials := d } ∧ (s.mem.wf = true → Memory.wf m = true) := by
  unfold State.writePhys
  split
  · exact ⟨_, s.denials, rfl, wf_writeBytes a bs⟩
  · obtain ⟨d, h⟩ := logLines_eq (s.physBlocked a bs.length true) true s
    exact ⟨_, d, by rw [h], wf_writeAll _⟩

/-- Moving escalation records into their ring changes memory, the denial log, contexts and interrupts, and nothing else. -/
theorem drainEsc_eq (ctx n : Nat) (s : State) :
    ∃ m d cs is, State.drainEsc ctx n s = { s with mem := m, denials := d, ctxs := cs, irqs := is } ∧
      (s.mem.wf = true → Memory.wf m = true) := by
  induction n generalizing s with
  | zero => exact ⟨s.mem, s.denials, s.ctxs, s.irqs, rfl, id⟩
  | succ n ih =>
    unfold State.drainEsc
    split
    · exact ⟨s.mem, s.denials, s.ctxs, s.irqs, rfl, id⟩
    · split
      · exact ⟨s.mem, s.denials, s.ctxs, s.irqs, rfl, id⟩
      · split
        · exact ⟨s.mem, s.denials, s.ctxs, s.irqs, rfl, id⟩
        · rename_i _ c _ _ r rest _ _
          obtain ⟨m, d, e, w⟩ := writePhys_frame s (c.regs.erbase + 32 * (c.regs.erprod % 2 ^ c.regs.erlog2)) r
          simp only [e]
          obtain ⟨m', d', cs, is, e', w'⟩ := ih
            ((({ s with mem := m, denials := d } : State).modCtx ctx (fun c =>
              { c with erwait := rest, regs := { c.regs with erprod := (c.regs.erprod + 1) % 2 ^ 32 } })).interrupt
                (.escalationRing ctx))
          exact ⟨m', d', cs, is, e', fun h => w' (w h)⟩

/-- An escalation record changes memory, the denial log, contexts and interrupts, and nothing else; memory stays canonical (R274, R291). -/
theorem escRecord_eq (s : State) (ctx : Nat) (r : EscRecord) :
    ∃ m d cs is, s.escRecord ctx r = { s with mem := m, denials := d, ctxs := cs, irqs := is } ∧
      (s.mem.wf = true → Memory.wf m = true) := by
  unfold State.escRecord
  split
  · exact ⟨s.mem, s.denials, s.ctxs, s.irqs, rfl, id⟩
  · rename_i c _
    obtain ⟨m, d, cs, is, e, w⟩ := drainEsc_eq ctx (c.erwait.length + 1) (s.modCtx ctx (fun c =>
      { c with erwait := c.erwait ++ [r.bytes c.erseq], erseq := (c.erseq + 1) % 2 ^ 31 }))
    exact ⟨m, d, cs, is, e, w⟩

/-- An escalation changes memory, the denial log, contexts, interrupts and its grid, and nothing else (R274). -/
theorem escalate_eq (s : State) (t : Thread) (cause trapv trapc : Word) (reason first : Nat) :
    ∃ m d cs is gs, s.escalate t cause trapv trapc reason first =
        { s with mem := m, denials := d, ctxs := cs, irqs := is, grids := gs } ∧
      (s.mem.wf = true → Memory.wf m = true) := by
  unfold State.escalate
  split
  · exact ⟨s.mem, s.denials, s.ctxs, s.irqs, s.grids, rfl, id⟩
  · split
    · exact ⟨s.mem, s.denials, s.ctxs, s.irqs, s.grids, rfl, id⟩
    · split
      · exact ⟨s.mem, s.denials, s.ctxs, s.irqs, s.grids, rfl, id⟩
      · rename_i _ tm _ _ g _ _
        obtain ⟨m, d, cs, is, e, w⟩ := escRecord_eq (s.modGrid g.id (fun g => { g with stopped := true })) tm.ctx
          { cause := cause, trapv := trapv, trapc := trapc, grid := g.id, core := tm.coreD, tid := t.id.tid, reason := reason,
            first := first }
        exact ⟨m, d, cs, is, _, e, w⟩

/-! ### Taking a trap -/

/-- Withdrawing an arrival changes teams, units or grids, and nothing else (R152). -/
theorem withdrawArrival_eq (s : State) (t : Thread) :
    ∃ ts us gs, s.withdrawArrival t = { s with teams := ts, units := us, grids := gs } := by
  unfold State.withdrawArrival
  split
  · exact modBarrier_eq s _ _ _
  · exact ⟨s.teams, s.units, s.grids, rfl⟩

/-- The entry to the handler changes threads, the counters of barriers, the wake marks of teams and the queues that the thread waits in:
crews, memory, buffers, caches, envelope lines and the machine's other parts stay (R268). -/
theorem enterHandler_eq (s : State) (t : Thread) (r : TrapRegs) (resume : Word) :
    ∃ th ts us gs ws cs ms ov ps fs mo qs co re, s.enterHandler t r resume =
      { s with threads := th, teams := ts, units := us, grids := gs, walks := ws, ctxs := cs, misses := ms, overflow := ov, pins := ps,
               fills := fs, monitors := mo, queries := qs, commits := co, replays := re } := by
  obtain ⟨ts, us, gs, e⟩ := withdrawArrival_eq s t
  unfold State.enterHandler
  rw [e]
  exact ⟨_, _, _, _, _, _, _, _, _, _, _, _, _, _, rfl⟩

/-- What a trap does to the thread it reaches (R268, R270, R274): in the handler, its own trap escalates and another's is held; outside,
it enters the handler where there is one, and escalates where there is none. -/
theorem takeTrap_eq (s : State) (t : Thread) (own : Bool) (r : TrapRegs) (resume : Word) :
    s.takeTrap t own r resume =
      if t.inh = true then
        (if own = true then s.escalate t r.cause r.trapv resume 1 (t.cause.toNat % 0x100)
         else s.modThread t.id (fun x => { x with held := x.held ++ [r] }))
      else if s.traph t.id.team = 0 then s.escalate t r.cause r.trapv resume 0 0 else s.enterHandler t r resume := rfl

/-- A trap keeps memory canonical, and changes no crew, no cache and no buffer. -/
theorem takeTrap_frame (s : State) (t : Thread) (own : Bool) (r : TrapRegs) (resume : Word) :
    let s' := s.takeTrap t own r resume
    s'.cur = s.cur ∧ s'.crews = s.crews ∧ s'.cores = s.cores ∧ s'.buffers = s.buffers ∧ s'.l1 = s.l1 ∧ s'.icache = s.icache ∧
      s'.tlb = s.tlb ∧ s'.envLines = s.envLines ∧ s'.cmds = s.cmds ∧ s'.banks = s.banks ∧ (s.mem.wf = true → s'.mem.wf = true) := by
  simp only [takeTrap_eq]
  split
  · split
    · obtain ⟨m, d, cs, is, gs, e, w⟩ := escalate_eq s t r.cause r.trapv resume 1 (t.cause.toNat % 0x100)
      rw [e]; exact ⟨rfl, rfl, rfl, rfl, rfl, rfl, rfl, rfl, rfl, rfl, w⟩
    · exact ⟨rfl, rfl, rfl, rfl, rfl, rfl, rfl, rfl, rfl, rfl, id⟩
  · split
    · obtain ⟨m, d, cs, is, gs, e, w⟩ := escalate_eq s t r.cause r.trapv resume 0 0
      rw [e]; exact ⟨rfl, rfl, rfl, rfl, rfl, rfl, rfl, rfl, rfl, rfl, w⟩
    · obtain ⟨th, ts, us, gs, ws, cs, ms, ov, ps, fs, mo, qs, co, re, e⟩ := enterHandler_eq s t r resume
      rw [e]; exact ⟨rfl, rfl, rfl, rfl, rfl, rfl, rfl, rfl, rfl, rfl, id⟩

/-- A crew trap keeps memory canonical, and changes no cache, no buffer and no engine (R121, R475). -/
theorem crewTrap_frame (s : State) (crew : CrewId) (c : Cause) (own : ThreadId → Bool) (trapv : ThreadId → Word) (aux : Nat) :
    let s' := s.crewTrap crew c own trapv aux
    s'.cur = s.cur ∧ s'.cores = s.cores ∧ s'.buffers = s.buffers ∧ s'.l1 = s.l1 ∧ s'.icache = s.icache ∧ s'.tlb = s.tlb ∧
      s'.envLines = s.envLines ∧ s'.cmds = s.cmds ∧ s'.banks = s.banks ∧ (s.mem.wf = true → s'.mem.wf = true) := by
  intro s'
  have step : ∀ (ts : List Thread) (r : State),
      r.cur = s.cur ∧ r.cores = s.cores ∧ r.buffers = s.buffers ∧ r.l1 = s.l1 ∧ r.icache = s.icache ∧ r.tlb = s.tlb ∧
        r.envLines = s.envLines ∧ r.cmds = s.cmds ∧ r.banks = s.banks ∧ (s.mem.wf = true → r.mem.wf = true) →
      let r' := ts.foldl (fun s t => s.takeTrap t (own t.id) ⟨causeWord c true (own t.id) aux, trapv t.id⟩ t.pc) r
      r'.cur = s.cur ∧ r'.cores = s.cores ∧ r'.buffers = s.buffers ∧ r'.l1 = s.l1 ∧ r'.icache = s.icache ∧ r'.tlb = s.tlb ∧
        r'.envLines = s.envLines ∧ r'.cmds = s.cmds ∧ r'.banks = s.banks ∧ (s.mem.wf = true → r'.mem.wf = true) := by
    intro ts
    induction ts with
    | nil => intro r h; exact h
    | cons t ts ih =>
      intro r h
      obtain ⟨a, _, b, d, e, f, g, i, j, k, w⟩ :=
        takeTrap_frame r t (own t.id) ⟨causeWord c true (own t.id) aux, trapv t.id⟩ t.pc
      obtain ⟨h1, h2, h3, h4, h5, h6, h7, h8, h9, hw⟩ := h
      exact ih _ ⟨a.trans h1, b.trans h2, d.trans h3, e.trans h4, f.trans h5, g.trans h6, i.trans h7, j.trans h8, k.trans h9,
        fun q => w (hw q)⟩
  exact step (s.liveOf crew) _ (by split <;> exact ⟨rfl, rfl, rfl, rfl, rfl, rfl, rfl, rfl, rfl, id⟩)

/-- The return from the handler (R270, R271): with nothing held the thread leaves the handler; a held crew trap is delivered where there
is a handler, and escalates where there is none (R268, R274). -/
theorem returnTo_eq (s : State) (t : Thread) (target : Word) :
    s.returnTo t target =
      match t.held with
      | [] => s.modThread t.id (fun x => { x with inh := false, pc := target })
      | r :: rest =>
        if s.traph t.id.team = 0 then
          (s.modThread t.id (fun x => { x with held := rest, inh := false, pc := target })).escalate t r.cause r.trapv target 0 0
        else s.modThread t.id (fun x => { x with held := rest, trapc := target, cause := r.cause, trapv := r.trapv,
                                                 pc := BitVec.ofNat 32 (s.traph t.id.team) }) := rfl

end Sys2Proof.Laws
end

