-- ==== Sys2Proof/Laws/Lane.lean ====
section
/-!
SUPPORT. Lane instructions that write registers or predicates: what one thread of the flight becomes, and the sign extension of the
immediates.
-/

namespace Sys2Proof.Laws
open Sys2Proof Sys2Proof.Machine

/-- A register write, for a thread whose guard is true or false. -/
theorem regStep_setReg (n : Nat) (g : Guard) (d : Nat) (f : State → Thread → Word) (s : State) (t : Thread) :
    regStep n g (fun s t => t.setReg d (f s t)) s t =
      { (if t.guard g then { t with v := t.v.set d (f s t) } else t) with pc := t.pc + BitVec.ofNat 32 n } := by
  unfold regStep
  by_cases h : t.guard g = true <;> simp [h, Thread.setReg, Thread.advance]

/-- A predicate write, for a thread whose guard is true or false; p7 takes no write. -/
theorem regStep_setPred (n : Nat) (g : Guard) (d : Nat) (f : State → Thread → Bool) (s : State) (t : Thread) :
    regStep n g (fun s t => t.setPred d (f s t)) s t =
      { (if t.guard g then { t with p := if d = 7 then t.p else t.p.set d (f s t) } else t) with
        pc := t.pc + BitVec.ofNat 32 n } := by
  unfold regStep
  by_cases h : t.guard g = true <;> by_cases h7 : d = 7 <;> simp [h, h7, Thread.setPred, Thread.advance]

/-- IMM9 is sign-extended (R305). -/
theorem imm9_eq_signExtend (i : BitVec 9) : imm9 i = i.signExtend 32 := by
  revert i; decide

/-- Sign extension by cases on the top bit. -/
theorem sextW_toNat (w x : Nat) (hw : w ≤ 32) :
    (sextW w x).toNat = if x % 2 ^ w < 2 ^ (w - 1) then x % 2 ^ w else x % 2 ^ w + (2 ^ 32 - 2 ^ w) := by
  have h1 : x % 2 ^ w < 2 ^ w := Nat.mod_lt _ (Nat.two_pow_pos w)
  have h2 : 2 ^ w ≤ 2 ^ 32 := Nat.pow_le_pow_right (by omega) hw
  unfold sextW
  split <;> rw [BitVec.toNat_ofNat, Nat.mod_eq_of_lt (by omega)]

end Sys2Proof.Laws
end

