-- ==== Sys2Proof/Laws/Space.lean ====
section
/-!
SUPPORT. One law for each operation of the global path and of the scratchpads: everything that it can change, and that memory and the
scratchpads stay canonical.
-/

namespace Sys2Proof.Laws
open Sys2Proof Sys2Proof.Machine

/-! ### Monitors, envelope lines, device reach -/

theorem noteWake_eq (s : State) (ids : List ThreadId) : ∃ th ts, s.noteWake ids = { s with threads := th, teams := ts } :=
  ⟨_, _, rfl⟩

/-- Waking monitors changes threads, wake marks of teams and monitors (R277). -/
theorem wakeMonitors_eq (s : State) (p : Loc → Bool) :
    ∃ th ts mo, s.wakeMonitors p = { s with threads := th, teams := ts, monitors := mo } := ⟨_, _, _, rfl⟩

/-- Restoring a HELD line changes envelope lines only (R185). -/
theorem restoreEnv_eq (s : State) (ctx n : Nat) : ∃ ev, s.restoreEnv ctx n = { s with envLines := ev } := by
  unfold State.restoreEnv
  split
  · split
    · exact ⟨_, rfl⟩
    · exact ⟨s.envLines, rfl⟩
  · exact ⟨s.envLines, rfl⟩

theorem touchEnv_eq (s : State) (ctx n gen : Nat) : ∃ ev, s.touchEnv ctx n gen = { s with envLines := ev } := by
  unfold State.touchEnv
  split
  · exact ⟨_, rfl⟩
  · exact restoreEnv_eq s ctx n

/-- A word lands in an envelope line, or is given back; only envelope lines change (R191). -/
theorem landWord_eq (s : State) (ctx gen base : Nat) (bs : List (Nat × Byte)) :
    ∃ ev, (State.landWord s ctx gen base bs).1 = { s with envLines := ev } := by
  unfold State.landWord
  split
  · exact ⟨s.envLines, rfl⟩
  · obtain ⟨ev, e⟩ := restoreEnv_eq s ctx base
    obtain ⟨ev', e'⟩ := touchEnv_eq { s with envLines := ev } ctx base gen
    simp only [e, e']
    generalize ((match ({ s with envLines := ev } : State).envLine? ctx base with
      | none => false
      | some l => l.valid.getD (base % 128 / 4) false) || (List.range 4).all (fun j => bs.any (fun b => b.1 == j))) = q
    cases q
    · exact ⟨ev, rfl⟩
    · exact ⟨_, rfl⟩

/-- The form and the tag byte of a compressed sector change memory and the denial log only, and memory stays canonical (R86, R87, R297). -/
theorem packStore_eq (s : State) (ctx pa : Nat) :
    ∃ m d, s.packStore ctx pa = { s with mem := m, denials := d } ∧ (s.mem.wf = true → Memory.wf m = true) := by
  unfold State.packStore
  split
  · exact ⟨s.mem, s.denials, rfl, id⟩
  · rename_i c _
    dsimp only
    have hw : s.mem.wf = true → (s.mem.writeBytes (pa - pa % 32)
        (State.expandSector (State.sectorTag (s.sectorWords pa)) (State.packSector (s.sectorWords pa)))).wf = true := wf_writeBytes _ _
    revert hw
    generalize s.mem.writeBytes (pa - pa % 32)
        (State.expandSector (State.sectorTag (s.sectorWords pa)) (State.packSector (s.sectorWords pa))) = m1
    intro hw
    generalize State.physBlocked _ (c.regs.tagbase + pa / 128) 1 false = ls
    obtain ⟨d, e⟩ := logLines_eq ls false { s with mem := m1 }
    rw [e]
    obtain ⟨m, d', e', w⟩ := writePhys_frame { s with mem := m1, denials := d } (c.regs.tagbase + pa / 128) (leBytes 1 _)
    exact ⟨m, d', e', fun h => w (hw h)⟩

/-- Bytes land at device reach: memory, the denial log, envelope lines, monitors, threads and wake marks of teams can change; memory stays
canonical (R84, R191, R277). -/
theorem landBytes_eq (s : State) (ctx : Nat) (tr : Translation) (sec : Loc) (bs : List (Nat × Byte)) :
    ∃ m d ev th ts mo, (s.landBytes ctx tr sec bs).1 =
        { s with mem := m, denials := d, envLines := ev, threads := th, teams := ts, monitors := mo } ∧
      (s.mem.wf = true → Memory.wf m = true) := by
  cases sec with
  | pa a =>
    have hw : s.mem.wf = true → (s.mem.writeAll (bs.map (fun b => (a + b.1, b.2)))).wf = true := wf_writeAll _
    have key : ∃ m d, (if tr.c then ({ s with mem := s.mem.writeAll (bs.map (fun b => (a + b.1, b.2))) } : State).packStore ctx a
        else { s with mem := s.mem.writeAll (bs.map (fun b => (a + b.1, b.2))) }) = { s with mem := m, denials := d } ∧
        (s.mem.wf = true → Memory.wf m = true) := by
      cases tr.c
      · exact ⟨_, s.denials, rfl, hw⟩
      · obtain ⟨m, d, e, w⟩ := packStore_eq { s with mem := s.mem.writeAll (bs.map (fun b => (a + b.1, b.2))) } ctx a
        exact ⟨m, d, by rw [if_pos rfl, e], fun h => w (hw h)⟩
    obtain ⟨m, d, e, w⟩ := key
    simp only [State.landBytes, e]
    split
    · exact ⟨m, d, _, _, _, _, rfl, w⟩
    · exact ⟨m, d, s.envLines, s.threads, s.teams, s.monitors, rfl, w⟩
  | env k n =>
    have fold : ∀ (l : List Nat) (r : State × List (Nat × Byte)), (∃ ev, r.1 = { s with envLines := ev }) →
        ∃ ev, (l.foldl (fun (r : State × List (Nat × Byte)) i =>
          let part := (bs.filter (fun b => b.1 / 4 == i)).map (fun b => (b.1 % 4, b.2))
          let q := State.landWord r.1 k tr.gen (n + 4 * i) part
          (q.1, r.2 ++ q.2.map (fun b => (4 * i + b.1, b.2)))) r).1 = { s with envLines := ev } := by
      intro l
      induction l with
      | nil => intro r h; exact h
      | cons i is ih =>
        rintro r ⟨ev, h⟩
        refine ih _ ?_
        obtain ⟨ev', e'⟩ := landWord_eq r.1 k tr.gen (n + 4 * i) ((bs.filter (fun b => b.1 / 4 == i)).map (fun b => (b.1 % 4, b.2)))
        exact ⟨ev', by simp only [e']; rw [h]⟩
    obtain ⟨ev, e⟩ := fold (List.range 8) (s, []) ⟨s.envLines, rfl⟩
    obtain ⟨th, ts, mo, w⟩ := wakeMonitors_eq ({ s with envLines := ev } : State) (· == .env k n)
    refine ⟨s.mem, s.denials, ev, th, ts, mo, ?_, id⟩
    rw [← w, ← e]
    rfl

/-- A line that leaves the cache changes envelope lines, monitors, threads and wake marks of teams (R185, R277). -/
theorem evictLine_eq (s : State) (l : EnvLine) :
    ∃ ev th ts mo, s.evictLine l = { s with envLines := ev, threads := th, teams := ts, monitors := mo } := by
  unfold State.evictLine
  obtain ⟨th, ts, mo, e⟩ := wakeMonitors_eq s (fun x => x.line == .env l.ctx l.name)
  simp only [e]
  split
  · exact ⟨_, _, _, _, rfl⟩
  · exact ⟨_, _, _, _, rfl⟩

/-- What making room for an envelope line can change: the line that gives way with its monitors, or a notice to the host (R203). -/
theorem makeRoom_eq (s : State) (ctx n : Nat) :
    ∃ ev th ts mo f cs is, (s.makeRoom ctx n).1 =
      { s with envLines := ev, threads := th, teams := ts, monitors := mo, freeCtr := f, ctxs := cs, irqs := is } := by
  unfold State.makeRoom
  dsimp only
  split
  · exact ⟨s.envLines, s.threads, s.teams, s.monitors, s.freeCtr, s.ctxs, s.irqs, rfl⟩
  · split
    · rename_i l _
      obtain ⟨ev, th, ts, mo, e⟩ := evictLine_eq s l
      exact ⟨ev, th, ts, mo, s.freeCtr + 1, s.ctxs, s.irqs, by rw [e]⟩
    · have fold : ∀ (l : List Nat) (r : State), (∃ cs is, r = { s with ctxs := cs, irqs := is }) →
          ∃ cs is, l.foldl (fun s c => s.setCstat c 1) r = { s with ctxs := cs, irqs := is } := by
        intro l
        induction l with
        | nil => intro r h; exact h
        | cons c l ih =>
          rintro r ⟨cs, is, rfl⟩
          refine ih _ ?_
          obtain ⟨cs', is', e'⟩ := setCstat_eq { s with ctxs := cs, irqs := is } c 1
          exact ⟨cs', is', e'⟩
      obtain ⟨cs, is, e⟩ := fold _ s ⟨s.ctxs, s.irqs, rfl⟩
      exact ⟨s.envLines, s.threads, s.teams, s.monitors, s.freeCtr, cs, is, e⟩

/-- A device write makes room, then lands or waits as a landing: what the two can change, and a landing more. Memory stays canonical. -/
theorem devWrite_eq (s : State) (ctx va : Nat) (tr : Translation) (l : Loc) (bs : List Byte) :
    ∃ m d ev th ts mo f cs is ls, s.devWrite ctx va tr l bs =
        { s with mem := m, denials := d, envLines := ev, threads := th, teams := ts, monitors := mo, freeCtr := f, ctxs := cs, irqs := is,
                 landings := ls } ∧
      (s.mem.wf = true → Memory.wf m = true) := by
  have room : ∀ part, ∃ ev th ts mo f cs is, (s.roomFor l.sector part).1 =
      { s with envLines := ev, threads := th, teams := ts, monitors := mo, freeCtr := f, ctxs := cs, irqs := is } := by
    intro part
    unfold State.roomFor
    split
    · exact ⟨s.envLines, s.threads, s.teams, s.monitors, s.freeCtr, s.ctxs, s.irqs, rfl⟩
    · exact makeRoom_eq s _ _
  unfold State.devWrite
  dsimp only
  obtain ⟨ev, th, ts, mo, f, cs, is, e⟩ := room (bs.zipIdx.map (fun b => (l.num % 32 + b.2, b.1)))
  split
  · obtain ⟨m, d, ev', th', ts', mo', e', w⟩ :=
      landBytes_eq (s.roomFor l.sector (bs.zipIdx.map (fun b => (l.num % 32 + b.2, b.1)))).1 ctx tr l.sector
        (bs.zipIdx.map (fun b => (l.num % 32 + b.2, b.1)))
    rw [e] at w
    exact ⟨m, d, ev', th', ts', mo', f, cs, is, s.landings, by rw [e', e], w⟩
  · exact ⟨s.mem, s.denials, ev, th, ts, mo, f, cs, is, _, by rw [e], id⟩

/-! ### Buffers and caches -/

/-- A byte put in a buffer is the buffer's copy. -/
theorem bufGet_bufPut_self (s : State) (x : BufByte) : (s.bufPut x).bufGet x.buf x.loc = some x := by
  simp only [State.bufGet, State.bufPut, List.find?_append]
  have h : (s.buffers.filter (fun y => !(y.buf == x.buf && y.loc == x.loc))).find? (fun y => y.buf == x.buf && y.loc == x.loc) = none := by
    rw [List.find?_eq_none]
    intro y hy
    have := (List.mem_filter.mp hy).2
    simp only [Bool.not_eq_true'] at this
    simp [this]
  rw [h]
  simp

/-- Another buffer's copies, and copies of other bytes, stay. -/
theorem bufGet_bufPut_of_ne (s : State) (x : BufByte) (b : Buf) (l : Loc) (h : ¬ (x.buf = b ∧ x.loc = l)) :
    (s.bufPut x).bufGet b l = s.bufGet b l := by
  have hx : (x.buf == b && x.loc == l) = false := by
    rw [Bool.eq_false_iff]; simpa using h
  simp only [State.bufGet, State.bufPut, List.find?_append, List.find?_filter, List.find?_cons, hx, List.find?_nil, Option.or_none]
  congr 1
  funext y
  by_cases hy : (y.buf == b && y.loc == l) = true
  · have : ¬ (y.buf == x.buf && y.loc == x.loc) = true := by
      intro e
      simp only [Bool.and_eq_true, beq_iff_eq] at e hy
      exact h ⟨e.1.symm.trans hy.1, e.2.symm.trans hy.2⟩
    simp [hy, this]
  · simp [hy]

/-- An installed sector, and the line that it may push out, change L1 and the count of free values (R80). -/
theorem l1Install_eq (s : State) (core : Nat) (sec : Loc) (bytes : List Byte) :
    ∃ l n, s.l1Install core sec bytes = { s with l1 := l, freeCtr := n } := by
  unfold State.l1Install
  dsimp only
  split
  · exact ⟨_, _, rfl⟩
  · exact ⟨_, _, rfl⟩

/-- A TLB fill changes TLBs and the count of free values (R92). -/
theorem tlbPut_eq (s : State) (u : TlbUnit) (room ctx : Nat) (t : Translation) :
    ∃ l n, s.tlbPut u room ctx t = { s with tlb := l, freeCtr := n } := by
  unfold State.tlbPut
  dsimp only
  split
  · exact ⟨_, s.freeCtr, rfl⟩
  · split
    · exact ⟨_, s.freeCtr, rfl⟩
    · exact ⟨_, _, rfl⟩

theorem tlbFill_eq (s : State) (core ctx : Nat) (t : Translation) :
    ∃ l n, s.tlbFill core ctx t = { s with tlb := l, freeCtr := n } := by
  unfold State.tlbFill
  obtain ⟨l, n, e⟩ := tlbPut_eq s (.cluster (clusterOf core)) Config.clusterTlb ctx t
  rw [e]
  obtain ⟨l', n', e'⟩ := tlbPut_eq { s with tlb := l, freeCtr := n } (.core core) Config.coreTlb ctx t
  exact ⟨l', n', by rw [e']⟩

/-! ### Walks, faults, accesses -/

/-- Only memory and the denial log differ, and memory stays canonical. -/
def MemOnly (s r : State) : Prop := ∃ m d, r = { s with mem := m, denials := d } ∧ (s.mem.wf = true → Memory.wf m = true)

theorem MemOnly.refl (s : State) : MemOnly s s := ⟨s.mem, s.denials, rfl, id⟩

theorem MemOnly.trans {s r q : State} (h : MemOnly s r) (h' : MemOnly r q) : MemOnly s q := by
  obtain ⟨m, d, rfl, w⟩ := h
  obtain ⟨m', d', rfl, w'⟩ := h'
  exact ⟨m', d', rfl, fun x => w' (w x)⟩

theorem MemOnly.writePhysNat (s : State) (a n x : Nat) : MemOnly s (s.writePhysNat a n x) := writePhys_frame s a _

theorem MemOnly.logLines (s : State) (ls : List Nat) (w : Bool) : MemOnly s (s.logLines ls w) := by
  obtain ⟨d, e⟩ := logLines_eq ls w s
  exact ⟨s.mem, d, e, id⟩

theorem MemOnly.ite {s a b : State} {c : Prop} {_ : Decidable c} (ha : MemOnly s a) (hb : MemOnly s b) : MemOnly s (if c then a else b) := by
  split
  · exact ha
  · exact hb

theorem MemOnly.ite_fst {α : Type} {s : State} {a b : State × α} {c : Prop} {_ : Decidable c} (ha : MemOnly s a.1) (hb : MemOnly s b.1) :
    MemOnly s (if c then a else b).1 := by
  split
  · exact ha
  · exact hb

/-- A fold whose every turn changes only memory and the denial log. -/
theorem MemOnly.foldl {α : Type} (f : State → α → State) (h : ∀ s x, MemOnly s (f s x)) (l : List α) :
    ∀ s : State, MemOnly s (l.foldl f s) := by
  induction l with
  | nil => exact .refl
  | cons x l ih => exact fun s => (h s x).trans (ih _)

/-- The accessed bits of a run (R91, R92). -/
theorem MemOnly.markRun (s : State) (entry : Nat) : MemOnly s (s.markRun entry) :=
  .foldl _ (fun s _ => .ite (.writePhysNat s _ _ _) (.refl s)) _ s

/-- The accessed bit of an entry (R92). -/
theorem accessed_memOnly (s : State) (entry e : Nat) :
    MemOnly s (if bitAt e 8 then s else s.writePhysNat (entry + 1) 1 (bits e 15 8 + 1)) := .ite (.refl s) (.writePhysNat s _ _ _)

/-- A run's accessed bits, where a leaf is of a run (R91). -/
theorem run_memOnly (s : State) (c : Prop) [Decidable c] (entry : Nat) : MemOnly s (if c then s.markRun entry else s) :=
  .ite (.markRun s entry) (.refl s)

/-- A level of a walk changes memory, for accessed and dirty bits, and the denial log only (R92, R297). -/
theorem walkLevel_memOnly (w : WalkFor) (level table : Nat) (s : State) : MemOnly s (State.walkLevel w level table s).1 := by
  induction level generalizing table s with
  | zero =>
    unfold State.walkLevel
    refine MemOnly.trans (.logLines s (s.physBlocked (table + 8 * levelIndex 0 w.va) 8 false) false) ?_
    refine MemOnly.ite_fst (.refl _) ?_
    refine MemOnly.trans (accessed_memOnly _ (table + 8 * levelIndex 0 w.va) (s.readPhysNat (table + 8 * levelIndex 0 w.va) 8)) ?_
    refine MemOnly.ite_fst (.refl _) (.ite_fst (.refl _) (.ite_fst (.refl _) ?_))
    refine MemOnly.trans (run_memOnly _ (0 = 0 ∧ bitAt (s.readPhysNat (table + 8 * levelIndex 0 w.va) 8) 4 = true)
      (table + 8 * levelIndex 0 w.va)) ?_
    exact MemOnly.ite_fst (.refl _) (.ite_fst (.refl _) (.ite (.writePhysNat _ _ _ _) (.refl _)))
  | succ n ih =>
    unfold State.walkLevel
    refine MemOnly.trans (.logLines s (s.physBlocked (table + 8 * levelIndex (n + 1) w.va) 8 false) false) ?_
    refine MemOnly.ite_fst (.refl _) ?_
    refine MemOnly.trans
      (accessed_memOnly _ (table + 8 * levelIndex (n + 1) w.va) (s.readPhysNat (table + 8 * levelIndex (n + 1) w.va) 8)) ?_
    refine MemOnly.ite_fst (.refl _) (.ite_fst (ih _ _) (.ite_fst (.refl _) ?_))
    refine MemOnly.trans (run_memOnly _ (n + 1 = 0 ∧ bitAt (s.readPhysNat (table + 8 * levelIndex (n + 1) w.va) 8) 4 = true)
      (table + 8 * levelIndex (n + 1) w.va)) ?_
    exact MemOnly.ite_fst (.refl _) (.ite_fst (.refl _) (.ite (.writePhysNat _ _ _ _) (.refl _)))

/-- A walk changes memory, the denial log, TLBs and the count of free values; memory stays canonical (R92). -/
theorem walk_eq (s : State) (core : Nat) (w : WalkFor) :
    ∃ m d l n, (s.walk core w).1 = { s with mem := m, denials := d, tlb := l, freeCtr := n } ∧ (s.mem.wf = true → Memory.wf m = true) := by
  unfold State.walk
  split
  · exact ⟨s.mem, s.denials, s.tlb, s.freeCtr, rfl, id⟩
  · rename_i c _
    obtain ⟨m, d, e, hw⟩ := walkLevel_memOnly w 4 c.regs.ptroot s
    split
    · exact ⟨s.mem, s.denials, s.tlb, s.freeCtr, rfl, id⟩
    dsimp only
    split
    · exact ⟨m, d, s.tlb, s.freeCtr, by rw [e], hw⟩
    · rename_i t _
      rw [e]
      obtain ⟨l, n, e'⟩ := tlbFill_eq { s with mem := m, denials := d } core w.ctx t
      exact ⟨m, d, l, n, e', hw⟩

/-- Joining a walk changes the walks only (R92). -/
theorem joinWalk_eq (s : State) (ctx core va : Nat) (kind : Kind) (write : Bool) (who : Waiter) :
    ∃ ws, s.joinWalk ctx core va kind write who = { s with walks := ws } := by
  unfold State.joinWalk
  dsimp only
  split <;> exact ⟨_, rfl⟩

theorem faultRingCheck_eq (s : State) (ctx : Nat) : ∃ cs is, s.faultRingCheck ctx = { s with ctxs := cs, irqs := is } := by
  unfold State.faultRingCheck
  split
  · exact ⟨s.ctxs, s.irqs, rfl⟩
  · split
    · exact setCstat_eq s ctx 2
    · exact ⟨s.ctxs, s.irqs, rfl⟩

/-- Only memory, the denial log, contexts and interrupts differ, and memory stays canonical. -/
def RecordOnly (s r : State) : Prop :=
  ∃ m d cs is, r = { s with mem := m, denials := d, ctxs := cs, irqs := is } ∧ (s.mem.wf = true → Memory.wf m = true)

theorem RecordOnly.refl (s : State) : RecordOnly s s := ⟨s.mem, s.denials, s.ctxs, s.irqs, rfl, id⟩

theorem RecordOnly.trans {s r q : State} (h : RecordOnly s r) (h' : RecordOnly r q) : RecordOnly s q := by
  obtain ⟨m, d, cs, is, rfl, w⟩ := h
  obtain ⟨m', d', cs', is', rfl, w'⟩ := h'
  exact ⟨m', d', cs', is', rfl, fun x => w' (w x)⟩

theorem RecordOnly.of_ctxs {s r : State} (h : ∃ cs is, r = { s with ctxs := cs, irqs := is }) : RecordOnly s r := by
  obtain ⟨cs, is, rfl⟩ := h
  exact ⟨s.mem, s.denials, cs, is, rfl, id⟩

theorem RecordOnly.writePhys (s : State) (a : Nat) (bs : List Byte) : RecordOnly s (s.writePhys a bs) := by
  obtain ⟨m, d, e, w⟩ := writePhys_frame s a bs
  exact ⟨m, d, s.ctxs, s.irqs, e, w⟩

theorem RecordOnly.modCtx (s : State) (n : Nat) (f : Ctx → Ctx) : RecordOnly s (s.modCtx n f) := ⟨s.mem, s.denials, _, s.irqs, rfl, id⟩

theorem RecordOnly.interrupt (s : State) (i : Irq) : RecordOnly s (s.interrupt i) := ⟨s.mem, s.denials, s.ctxs, _, rfl, id⟩

/-- A fault record changes memory, the denial log, contexts and interrupts; memory stays canonical (R94, R291). -/
theorem writeFault_recordOnly (s : State) (ctx : Nat) : RecordOnly s (s.writeFault ctx) := by
  unfold State.writeFault
  split
  · exact .refl s
  · split
    · exact .refl s
    · split
      · exact .of_ctxs (setCstat_eq s ctx 2)
      · exact (((RecordOnly.writePhys s _ _).trans (.modCtx _ ctx _)).trans (.interrupt _ _)).trans
          (.of_ctxs (faultRingCheck_eq _ ctx))

/-- A replayable failure changes memory, the denial log, contexts, interrupts and the threads that it parks; memory stays canonical (R93, R94). -/
theorem raiseFault_recordOnly (s : State) (ctx core va : Nat) (kind : Kind) (joined : List Joined) :
    let kept := joined.filter (fun j => match j.who with | .prefetch _ _ => false | _ => true)
    let parked := kept.filterMap (fun j => match j.who with | .thread t => some t | _ => none)
    RecordOnly { s with threads := updWhere (fun t => parked.contains t.id) (fun t => { t with park := .fault, stall := .none }) s.threads }
      (s.raiseFault ctx core va kind joined) :=
  (RecordOnly.modCtx _ ctx _).trans (writeFault_recordOnly _ ctx)

/-- What a thread's global access does: a trap, the wait for a walk, or `f` at the place (R96). -/
theorem withAccess_ok (s : State) (t : Thread) (va n : Nat) (write : Bool) (kind : Kind) (f : State → Translation → Loc → State)
    (tr : Translation) (l : Loc) (h : s.access t.id.team va n write = .ok tr l) : s.withAccess t va n write kind f = f s tr l := by
  simp only [State.withAccess, h]

/-! ### Scratchpads -/

/-- A scratchpad write keeps every scratchpad canonical, and changes teams only. -/
theorem spadWrite_wf (s : State) (team off : Nat) (bs : List Byte) (h : ∀ t ∈ s.teams, t.spad.wf = true) :
    ∀ t ∈ (s.spadWrite team off bs).teams, t.spad.wf = true := by
  intro t ht
  obtain ⟨x, hx, rfl⟩ := (mem_updWhere _ _ _ _).mp ht
  split
  · exact wf_writeBytes off bs (h x hx)
  · exact h x hx

/-- Presence bits leave scratchpads alone. -/
theorem setPresent_spads (s : State) (team : Nat) (lines : List Nat) :
    (s.setPresent team lines).teams.map Team.spad = s.teams.map Team.spad := by
  simp only [State.setPresent, modTeam_teams, updWhere, List.map_map]
  congr 1
  funext t
  simp only [Function.comp]
  split <;> rfl

theorem clearPresent_spads (s : State) (team : Nat) (lines : List Nat) :
    (s.clearPresent team lines).teams.map Team.spad = s.teams.map Team.spad := by
  simp only [State.clearPresent, modTeam_teams, updWhere, List.map_map]
  congr 1
  funext t
  simp only [Function.comp]
  split <;> rfl

/-- A scratchpad access that is aligned, inside and present does `f` (R79, R96). -/
theorem withSpad_ok (s : State) (t : Thread) (off n : Nat) (f : State → State) (tm : Team) (ht : s.team? t.id.team = some tm)
    (ha : off % n = 0) (he : off + n ≤ tm.spadSize) (hp : tm.present off = true) : s.withSpad t off n f = f s := by
  simp [State.withSpad, ht, ha, hp, Nat.not_lt.mpr he]

end Sys2Proof.Laws
end

