-- ==== Sys2Proof/Laws/Step.lean ====
section
/-!
SUPPORT. What a step can be: the instruction of the focus, the agenda's next event, one of the device's own events, or a cycle of a
core. An invariant of every step follows from its parts: the fetch, every `exec`, and the replays.
-/

namespace Sys2Proof.Laws
open Sys2Proof Sys2Proof.Machine

/-- A thread's replay changes the focus, its number, the list of replays and the threads' mark of the run, and nothing else. -/
theorem replayFocus_eq (s : State) : ∃ c r n th, replayFocus s = { s with cur := c, replays := r, flightNo := n, threads := th } := by
  unfold replayFocus
  split
  · split
    · exact ⟨s.cur, s.replays, s.flightNo, s.threads, rfl⟩
    · exact ⟨_, _, _, _, rfl⟩
  · exact ⟨s.cur, s.replays, s.flightNo, s.threads, rfl⟩

/-- With a focus, no other waiter replays. -/
theorem replayOther_of_focus (s : State) (h : s.cur ≠ .idle) : replayOther s = none := by
  unfold replayOther
  split
  · contradiction
  · rfl

/-- With nothing to replay, no other waiter replays. -/
theorem replayOther_of_nil (s : State) (h : s.replays = []) : replayOther s = none := by
  unfold replayOther
  split
  · simp_all
  · rfl

/-- What another waiter's replay is: that of the first one of the list. -/
theorem replayOther_some {s t : State} (h : replayOther s = some t) :
    ∃ j rest, s.replays = j :: rest ∧ t = replayWaiter { s with replays := rest } j := by
  unfold replayOther at h
  split at h
  · rename_i j rest _ e
    split at h
    · cases h
    · exact ⟨j, rest, e, (Option.some.inj h).symm⟩
  · cases h

/-- With a focus, nothing replays. -/
theorem replayFocus_of_focus (s : State) (h : s.cur ≠ .idle) : replayFocus s = s := by
  unfold replayFocus
  split
  · contradiction
  · rfl

/-- With nothing to replay, nothing changes. -/
theorem replayFocus_of_nil (s : State) (h : s.replays = []) : replayFocus s = s := by
  unfold replayFocus
  split
  · simp_all
  · rfl

/-- What a step answers, unless another waiter than a thread replays: the event's next state with the PC tables swept (R19), or its stop. -/
theorem step_eq (s : State) (h : replayOther s = none) : step s = swept (stepEvent (replayFocus s)) := by
  simp only [step, h]

/-- A focus runs its instruction. -/
theorem step_of_focus (s : State) (h : s.cur ≠ .idle) : step s = swept (runFocus s) := by
  rw [step_eq s (replayOther_of_focus s h), replayFocus_of_focus s h, stepEvent]
  split
  · exact absurd ‹_› h
  · exact absurd ‹_› h
  · rfl

/-- Without a focus and without replays, the agenda's next event happens. -/
theorem step_of_agenda (s : State) (i : Instr) (rest : List Instr) (h : s.cur = .idle) (hr : s.replays = [])
    (ha : s.agenda = i :: rest) : step s = swept (exec i { s with agenda := rest }) := by
  simp only [step_eq s (replayOther_of_nil s hr), replayFocus_of_nil s hr, stepEvent, h, ha]

/-- Without a focus, replays and an agenda, the device moves on by itself. -/
theorem step_of_idle (s : State) (h : s.cur = .idle) (hr : s.replays = []) (ha : s.agenda = []) : step s = swept (ownEvent s) := by
  simp only [step_eq s (replayOther_of_nil s hr), replayFocus_of_nil s hr, stepEvent, h, ha]

/-- Sweeping changes the PC tables, and nothing else (R19). -/
theorem sweepTable_eq (s : State) : ∃ pt, s.sweepTable = { s with pcTable := pt } := ⟨_, rfl⟩

/-- A swept answer is a next state only where the event's answer is one. -/
theorem swept_next {o : Out} {s' : State} (h : swept o = .next s') : ∃ t, o = .next t ∧ s' = t.sweepTable := by
  cases o with
  | next t => exact ⟨t, rfl, by simpa [swept] using h.symm⟩
  | fault f => cases h
  | refused r => cases h

/-- The first event that changes the state is one of the list. -/
theorem firstChange_some {s : State} {l : List Instr} {o : Out} (h : firstChange s l = some o) : ∃ i ∈ l, exec i s = o := by
  induction l with
  | nil => cases h
  | cons i is ih =>
    unfold firstChange at h
    split at h
    · rename_i t e
      split at h
      · obtain ⟨j, hj, ej⟩ := ih h
        exact ⟨j, by simp [hj], ej⟩
      · exact ⟨i, by simp, e.trans (Option.some.inj h)⟩
    · exact ⟨i, by simp, Option.some.inj h⟩

/-- An own event of the device is an event. -/
theorem ownEvent_exec (s : State) : ∃ i, ownEvent s = exec i s := by
  unfold ownEvent
  generalize hl : leaveEvents s ++ threadEvents s ++ memoryEvents s ++ barrierEvents s ++ engineEvents s ++ workEvents s ++ deviceEvents s = l
  cases h : firstChange s l with
  | none => exact ⟨.flightIssue (nextCore s), rfl⟩
  | some o =>
    obtain ⟨i, _, e⟩ := firstChange_some h
    exact ⟨i, e.symm⟩

/-- What ran answers a next state only where the instruction did; then pins of threads that have replayed may be gone (R198). -/
theorem afterRun_next {ids : List ThreadId} {o : Out} {s' : State} (h : afterRun ids o = .next s') :
    ∃ t p, o = .next t ∧ s' = { t with pins := p } := by
  cases o with
  | next t => exact ⟨t, _, rfl, by simpa [afterRun, performedPins] using h.symm⟩
  | fault f => cases h
  | refused r => cases h

/-- What a step that answers a next state can have been: the replay of a waiter other than a thread; a fetch that went no further; or an `exec` at
the state after a thread's replay was taken up and, in one case each, the agenda's head removed or the fetch made. Pins may go after the
instruction of a focus, and then the PC tables are swept. -/
theorem step_cases {s s' : State} (h : step s = .next s') :
    ∃ r, s' = r.sweepTable ∧
      ((∃ j rest, s.replays = j :: rest ∧ r = replayWaiter { s with replays := rest } j) ∨
       prepare (replayFocus s) = some (r, none) ∨
       (∃ t i u p, prepare (replayFocus s) = some (t, some i) ∧ exec i t = .next u ∧ r = { u with pins := p }) ∨
       (∃ i rest, (replayFocus s).agenda = i :: rest ∧ exec i { replayFocus s with agenda := rest } = .next r) ∨
       (∃ i, exec i (replayFocus s) = .next r)) := by
  unfold step at h
  split at h
  · rename_i t e
    obtain ⟨r, hr, rfl⟩ := swept_next h
    cases hr
    exact ⟨_, rfl, .inl (replayOther_some e)⟩
  · obtain ⟨r, hr, rfl⟩ := swept_next h
    refine ⟨r, rfl, .inr ?_⟩
    unfold stepEvent at hr
    revert hr
    intro h
    split at h
    · obtain ⟨i, e⟩ := ownEvent_exec (replayFocus s)
      exact .inr (.inr (.inr ⟨i, e ▸ h⟩))
    · rename_i i rest _ e
      exact .inr (.inr (.inl ⟨i, rest, e, h⟩))
    · unfold runFocus at h
      split at h
      · cases h
      · rename_i t e
        cases h
        exact .inl e
      · rename_i t i e
        obtain ⟨u, p, x, rfl⟩ := afterRun_next h
        exact .inr (.inl ⟨t, i, u, p, e, x, rfl⟩)

/-- An invariant of the fetch, of replays, of pins that go, of sweeping the PC tables and of every `exec` is an invariant of every step. -/
theorem step_induction (P : State → Prop)
    (hr : ∀ s c r n th, replayFocus s = { s with cur := c, replays := r, flightNo := n, threads := th } → P s → P (replayFocus s))
    (hw : ∀ s j rest, s.replays = j :: rest → P s → P (replayWaiter { s with replays := rest } j))
    (ha : ∀ s a, P s → P { s with agenda := a }) (ht : ∀ s pt, P s → P { s with pcTable := pt })
    (hu : ∀ s p, P s → P { s with pins := p }) (hp : ∀ s t i, P s → prepare s = some (t, i) → P t)
    (he : ∀ i s s', P s → exec i s = .next s' → P s') (s s' : State) (hs : P s) (h : step s = .next s') : P s' := by
  have hf : P (replayFocus s) := by
    obtain ⟨c, r, n, th, e⟩ := replayFocus_eq s
    exact hr s c r n th e hs
  obtain ⟨r, rfl, ⟨j, rest, e, rfl⟩ | e | ⟨t, i, u, p, e, x, rfl⟩ | ⟨i, rest, _, x⟩ | ⟨i, x⟩⟩ := step_cases h
  · exact ht _ _ (hw _ _ _ e hs)
  · exact ht _ _ (hp _ _ _ hf e)
  · exact ht _ _ (hu _ _ (he _ _ _ (hp _ _ _ hf e) x))
  · exact ht _ _ (he _ _ _ (ha _ _ hf) x)
  · exact ht _ _ (he _ _ _ hf x)

end Sys2Proof.Laws
end

