-- ==== Sys2Proof/Tests/Slice0.lean ====
section
/-!
SUPPORT. Tests of the model: ill-formed terms that `wf` refuses, words that the specification works out from its encoding tables, small
single steps whose results the specification states or that follow by hand from its rules, and for each statement of
`Obligations` states that meet its hypotheses.
-/

namespace Sys2Proof.Tests

set_option Elab.async false

open Sys2Proof Sys2Proof.Machine Sys2Proof.Stmt

/-! ### Well-formedness: one ill-formed term for each check -/

/-- Ill-formed terms: registers. -/
def illFormed_registers : List Instr :=
  [.iaddw { g := ⟨7, false⟩, d := 3, a := 2, b := .v 0 },
   .iaddw { g := ⟨7, false⟩, d := 2, a := 3, b := .v 0 },
   .mov64 { g := ⟨7, false⟩, d := 3, b := .v 2 },
   .mov64 { g := ⟨7, false⟩, d := 2, b := .k 3 },
   .lea { g := ⟨7, false⟩, s := 0, d := 1, a := 2, b := .v 0 },
   .lea { g := ⟨7, false⟩, s := 0, d := 2, a := 5, b := .v 0 },
   .cvt { g := ⟨7, false⟩, mode := .rz, d := 0, a := 0, code := .f32F16 },
   .cvt { g := ⟨7, false⟩, mode := .rn, d := 0, a := 1, code := .f16x2F32 },
   .cvt { g := ⟨7, false⟩, mode := .rn, d := 2, a := 0, code := .f16x8E2m1 },
   .qscl { g := ⟨7, false⟩, e5m2 := false, d := 0, a := 2, b := .v 0 },
   .trav { g := ⟨7, false⟩, d := 2, a := 8, b := 2 },
   .trav { g := ⟨7, false⟩, d := 4, a := 4, b := 2 },
   .trav { g := ⟨7, false⟩, d := 4, a := 8, b := 3 },
   .travCont { g := ⟨7, false⟩, d := 4, a := 4, b := 2 },
   .travCont { g := ⟨7, false⟩, d := 4, a := 8, b := 1 },
   .recld { g := ⟨7, false⟩, n := 3, d := 61, w := 0 },
   .recld { g := ⟨7, false⟩, n := 3, d := 0, w := 13 }]

theorem test_wf_refuses_registers : illFormed_registers.all (fun i => !i.wf) = true := by decide +kernel

/-- Ill-formed terms: accesses. -/
def illFormed_accesses : List Instr :=
  [.ldt { g := ⟨7, false⟩, d := 0, a := 0, sz := 1, off := 0 },
   .ldt { g := ⟨7, false⟩, d := 0, a := 0, sz := 4, off := 4 },
   .ldt { g := ⟨7, false⟩, d := 1, a := 0, sz := 3, off := 0 },
   .ldt { g := ⟨7, false⟩, d := 0, a := 0, sz := 5, off := 0 },
   .ld { g := ⟨7, false⟩, d := 0, a := 0, sz := 7, off := 0 },
   .ld { g := ⟨7, false⟩, d := 0, a := 1, sz := 2, off := 0 },
   .ld { g := ⟨7, false⟩, d := 2, a := 0, sz := 4, off := 0 },
   .st { g := ⟨7, false⟩, d := 0, a := 0, sz := 5, off := 0 },
   .st { g := ⟨7, false⟩, d := 0, a := 1, sz := 2, off := 0 },
   .st { g := ⟨7, false⟩, d := 1, a := 0, sz := 3, off := 0 },
   .lds { g := ⟨7, false⟩, d := 0, a := 0, sz := 7, off := 0 },
   .lds { g := ⟨7, false⟩, d := 1, a := 0, sz := 3, off := 0 },
   .sts { g := ⟨7, false⟩, d := 0, a := 0, sz := 6, off := 0 },
   .sts { g := ⟨7, false⟩, d := 1, a := 0, sz := 4, off := 0 },
   .pref { g := ⟨7, false⟩, a := 0, sz := 5, off := 0 },
   .pref { g := ⟨7, false⟩, a := 1, sz := 0, off := 0 },
   .waitm { g := ⟨7, false⟩, d := 0, a := 0, sz := 1, off := 0 },
   .waitm { g := ⟨7, false⟩, d := 0, a := 1, sz := 2, off := 0 },
   .waitm { g := ⟨7, false⟩, d := 1, a := 0, sz := 3, off := 0 },
   .kld { g := ⟨7, false⟩, d := 1, a := 0, wide := true, off := 0 },
   .kst { g := ⟨7, false⟩, d := 1, a := 0, wide := true, off := 0 }]

theorem test_wf_refuses_accesses : illFormed_accesses.all (fun i => !i.wf) = true := by decide +kernel

/-- Ill-formed terms: atomics. -/
def illFormed_atomics : List Instr :=
  [.atom { g := ⟨7, false⟩, d := 0, a := 1, op := .add, sc := .device, w := false },
   .atom { g := ⟨7, false⟩, d := 1, a := 0, op := .add, sc := .team, w := true },
   .atom { g := ⟨7, false⟩, d := 0, a := 0, op := .addF32, sc := .team, w := true },
   .cas { g := ⟨7, false⟩, d := 1, a := 0, sc := .team, w := false },
   .cas { g := ⟨7, false⟩, d := 2, a := 0, sc := .team, w := true },
   .cas { g := ⟨7, false⟩, d := 0, a := 1, sc := .system, w := false },
   .red { g := ⟨7, false⟩, d := 0, a := 0, op := .exch, sc := .team, w := false },
   .red { g := ⟨7, false⟩, d := 0, a := 1, op := .add, sc := .device, w := false }]

theorem test_wf_refuses_atomics : illFormed_atomics.all (fun i => !i.wf) = true := by decide +kernel

/-- Ill-formed terms: barriers. -/
def illFormed_barriers : List Instr :=
  [.bar { g := ⟨7, false⟩, level := .grid, id := 4, cmt := false, acq := false },
   .bar { g := ⟨7, false⟩, level := .crew, id := 0, cmt := false, acq := true },
   .bara { g := ⟨7, false⟩, level := .crew, id := 0, d := 0, b := .v 0 },
   .bara { g := ⟨7, false⟩, level := .team, id := 16, d := 0, b := .v 0 }]

theorem test_wf_refuses_barriers : illFormed_barriers.all (fun i => !i.wf) = true := by decide +kernel

/-- Ill-formed terms: escapes. -/
def illFormed_escapes : List Instr :=
  [.trap { g := ⟨7, false⟩, n := 0x4000 },
   .iaddImm { g := ⟨7, false⟩, d := 0, a := 0, imm := 0x100 },
   .imulImm { g := ⟨7, false⟩, d := 0, a := 0, imm := 0x100 },
   .andImm { g := ⟨7, false⟩, d := 0, a := 0, imm := 0x100 },
   .orImm { g := ⟨7, false⟩, d := 0, a := 0, imm := 0x100 },
   .xorImm { g := ⟨7, false⟩, d := 0, a := 0, imm := 0x100 },
   .icmpImm { g := ⟨7, false⟩, cond := .eq, pd := 0, a := 0, imm := 0x100 },
   .movi { g := ⟨7, false⟩, d := 0, imm := 0x4000 },
   .kaddImm { g := ⟨7, false⟩, d := 0, a := 0, imm := 0x100 },
   .kmovImm { g := ⟨7, false⟩, d := 0, imm := 0x4000 }]

theorem test_wf_refuses_escapes : illFormed_escapes.all (fun i => !i.wf) = true := by decide +kernel

/-- Ill-formed terms: slots. -/
def illFormed_slots : List Instr :=
  [.cpy { g := ⟨7, false⟩, kp := 0, gs := 1, ge := false },
   .mma { g := ⟨7, false⟩, kp := 0, gs := 1, ge := false },
   .mmast { g := ⟨7, false⟩, kp := 0, gs := 1, ge := false },
   .mmaz { g := ⟨7, false⟩, gs := 1, ge := false, bank := 0 },
   .mmazRel { g := ⟨7, false⟩, gs := 1, ge := false, bank := 0 },
   .pairs { g := ⟨7, false⟩, kp := 0, gs := 1, ge := false }]

theorem test_wf_refuses_slots : illFormed_slots.all (fun i => !i.wf) = true := by decide +kernel

/-- A word that names a register beyond the team's is illegal for the team (R308, R310). -/
theorem test_wf_team_registers :
    Instr.legalFor 16 (.iadd { g := ⟨7, false⟩, d := 16, a := 0, b := .v 0 }) = false ∧
    Instr.legalFor 17 (.iadd { g := ⟨7, false⟩, d := 16, a := 0, b := .v 0 }) = true := by decide +kernel

/-! ### Words that the specification works out -/

/-- The decoder reads the instruction from the word and, where there is one, its extension word; the instruction is well-formed, and the
encoder gives the words back. -/
def reads (c : Word × Word × Instr) : Bool :=
  match decode c.1 c.2.1 with
  | .ok i => i == c.2.2 && i.wf && encode i == (if i.isExt then [c.1, c.2.1] else [c.1])
  | .error _ => false

/-- Words of CLZ, IADD, IMULH and their neighbours in the instruction reference. -/
def words_integer : List (Word × Word × Instr) :=
  [(0x05C45084, 0, .iadd { g := ⟨7, false⟩, d := 5, a := 2, b := .k 4 }),
   (0x05D0C308, 0, .iaddw { g := ⟨7, false⟩, d := 12, a := 12, b := .v 8 }),
   (0x07D46182, 0, .imulhN32 { g := ⟨7, false⟩, d := 6, a := 6, b := .k 2 }),
   (0x07D88083, 0, .imad { g := ⟨7, false⟩, d := 8, a := 2, b := .v 3 }),
   (0x09D81083, 0, .imaxN { g := ⟨7, false⟩, d := 1, a := 2, b := .v 3 }),
   (0x0BDC5183, 0, .andn { g := ⟨7, false⟩, d := 5, a := 6, b := .k 3 }),
   (0x0DCC2083, 0, .shr { g := ⟨7, false⟩, d := 2, a := 2, b := .k 3 }),
   (0x0FC02240, 0, .clz { g := ⟨7, false⟩, d := 2, a := 9 }),
   (0x0FD02240, 0, .brev { g := ⟨7, false⟩, d := 2, a := 9 }),
   (0x11CC3101, 0, .bfxS { g := ⟨7, false⟩, d := 3, a := 4, b := .k 1 })]

theorem test_decode_integer : words_integer.all reads = true := by decide +kernel

/-- Words of NOP, ICMP, SEL, MOV, LEA. -/
def words_moves : List (Word × Word × Instr) :=
  [(0x03C00000, 0, .nop ⟨7, false⟩),
   (0x15D79083, 0, .icmp { g := ⟨7, false⟩, comb := .or, cond := .geN, pd := 1, a := 2, b := .k 3 }),
   (0x15CC443F, 0, .icmp { g := ⟨7, false⟩, comb := .and, cond := .eq, pd := 4, a := 16, b := .k 63 }),
   (0x16801083, 0, .sel { g := ⟨2, false⟩, d := 1, a := 2, b := .v 3 }),
   (0x16A01083, 0, .sel { g := ⟨2, true⟩, d := 1, a := 2, b := .v 3 }),
   (0x19C44000, 0, .mov { g := ⟨7, false⟩, d := 4, b := .k 0 }),
   (0x19CC4002, 0, .mov64 { g := ⟨7, false⟩, d := 4, b := .k 2 }),
   (0x2DC84100, 0, .lea { g := ⟨7, false⟩, s := 1, d := 4, a := 4, b := .v 0 })]

theorem test_decode_moves : words_moves.all reads = true := by decide +kernel

/-- Words of FADD to QSCL. -/
def words_float : List (Word × Word × Instr) :=
  [(0x1BC04083, 0, .faddF32 { g := ⟨7, false⟩, d := 4, a := 2, b := .v 3 }),
   (0x1BDC4081, 0, .ffmaF32 { g := ⟨7, false⟩, d := 4, a := 2, b := .k 1 }),
   (0x21D84083, 0, .fmaxF16x2 { g := ⟨7, false⟩, d := 4, a := 2, b := .v 3 }),
   (0x23C04083, 0, .fminBf16x2 { g := ⟨7, false⟩, d := 4, a := 2, b := .v 3 }),
   (0x25C11083, 0, .fcmp { g := ⟨7, false⟩, comb := .set, cond := .lt, pd := 1, a := 2, b := .v 3 }),
   (0x27C05101, 0, .fsfn { g := ⟨7, false⟩, d := 5, a := 4, fn := .rsq }),
   (0x29C0F3C2, 0, .cvt { g := ⟨7, false⟩, mode := .rn, d := 15, a := 15, code := .f32S32 }),
   (0x2BC49102, 0, .qscl { g := ⟨7, false⟩, e5m2 := false, d := 9, a := 4, b := .k 2 })]

theorem test_decode_float : words_float.all reads = true := by decide +kernel

/-- Words of SHFL, VOTE, CREDUCE, ELECT, CMT, ABT, ACQ. -/
def words_crew : List (Word × Word × Instr) :=
  [(0x2FDC5101, 0, .shfl { g := ⟨7, false⟩, mode := .xor, d := 5, a := 4, b := .k 1 }),
   (0x31C82040, 0, .vote { g := ⟨7, false⟩, any := true, pd := 2, pa := 1 }),
   (0x31D06040, 0, .voteBallot { g := ⟨7, false⟩, d := 6, pa := 1 }),
   (0x33C0F380, 0, .creduce { g := ⟨7, false⟩, form := .reduce, d := 15, a := 14, op := .add }),
   (0x35C03000, 0, .elect { g := ⟨7, false⟩, pd := 3 }),
   (0x53C89000, 0, .cmt { g := ⟨7, false⟩, level := .cluster, x := true, pd := 1 }),
   (0x55C80000, 0, .abt { g := ⟨7, false⟩, level := .team }),
   (0x57D80000, 0, .acq { g := ⟨7, false⟩, level := .system })]

theorem test_decode_crew : words_crew.all reads = true := by decide +kernel

/-- Words of SRD and KSRD. -/
def words_special : List (Word × Word × Instr) :=
  [(0x37C10023, 0, .srd { g := ⟨7, false⟩, d := 2, sr := .bphaseT 3 }),
   (0x37C0801D, 0, .srd { g := ⟨7, false⟩, d := 1, sr := .node }),
   (0x91C2000B, 0, .ksrd { g := ⟨7, false⟩, d := 4, sr := .core })]

theorem test_decode_special : words_special.all reads = true := by decide +kernel

/-- Words of LDT to RED. -/
def words_memory : List (Word × Word × Instr) :=
  [(0x39C304C1, 0, .ldt { g := ⟨7, false⟩, d := 6, a := 2, sz := 3, off := 1 }),
   (0x41C20543, 0, .ld { g := ⟨7, false⟩, d := 4, a := 2, sz := 5, off := 3 }),
   (0x43C40500, 0, .st { g := ⟨7, false⟩, d := 8, a := 2, sz := 4, off := 0 }),
   (0x45C40302, 0, .lds { g := ⟨7, false⟩, d := 8, a := 1, sz := 4, off := 2 }),
   (0x47C29E50, 0, .sts { g := ⟨7, false⟩, d := 5, a := 15, sz := 1, off := 16 }),
   (0x49C00484, 0, .pref { g := ⟨7, false⟩, a := 2, sz := 2, off := 4 }),
   (0x4BC40484, 0, .waitm { g := ⟨7, false⟩, d := 8, a := 2, sz := 2, off := 4 }),
   (0x4DC21200, 0, .atom { g := ⟨7, false⟩, d := 4, a := 9, op := .add, sc := .team, w := false }),
   (0x4FC30408, 0, .cas { g := ⟨7, false⟩, d := 6, a := 2, sc := .cluster, w := false }),
   (0x51C20550, 0, .red { g := ⟨7, false⟩, d := 4, a := 2, op := .maxF32, sc := .device, w := false })]

theorem test_decode_memory : words_memory.all reads = true := by decide +kernel

/-- Words of TRAV, SPAWN, RECLD. -/
def words_records : List (Word × Word × Instr) :=
  [(0x3BC44202, 0, .trav { g := ⟨7, false⟩, d := 4, a := 8, b := 2 }),
   (0x3BCD4202, 0, .travCont { g := ⟨7, false⟩, d := 20, a := 8, b := 2 }),
   (0x3DC00203, 0, .spawn { g := ⟨7, false⟩, a := 8, b := .v 3 }),
   (0x3DCC2204, 0, .spawnNb { g := ⟨7, false⟩, pd := 2, a := 8, b := .k 4 }),
   (0x3FD84000, 0, .recld { g := ⟨7, false⟩, n := 3, d := 4, w := 0 }),
   (0x3FC0600A, 0, .recld { g := ⟨7, false⟩, n := 0, d := 6, w := 10 })]

theorem test_decode_records : words_records.all reads = true := by decide +kernel

/-- Words of BAR, BARA, BARW. -/
def words_barriers : List (Word × Word × Instr) :=
  [(0x59C00000, 0, .bar { g := ⟨7, false⟩, level := .crew, id := 0, cmt := false, acq := false }),
   (0x59C800C3, 0, .bar { g := ⟨7, false⟩, level := .team, id := 3, cmt := true, acq := true }),
   (0x59D80001, 0, .bar { g := ⟨7, false⟩, level := .grid, id := 0, cmt := true, acq := false }),
   (0x5BC8F00E, 0, .bara { g := ⟨7, false⟩, level := .team, id := 0, d := 15, b := .v 14 }),
   (0x5DC00202, 0, .barw { g := ⟨7, false⟩, a := 8, acq := true })]

theorem test_decode_barriers : words_barriers.all reads = true := by decide +kernel

/-- Words of BRX to TRAP. -/
def words_control : List (Word × Word × Instr) :=
  [(0x63C001C0, 0, .brx { g := ⟨7, false⟩, a := 7 }),
   (0x63C80500, 0, .ret { g := ⟨7, false⟩, a := 20 }),
   (0x63D141C0, 0, .callx { g := ⟨7, false⟩, d := 20, a := 7 }),
   (0x65C80000, 0, .tretNext ⟨7, false⟩),
   (0x65D00180, 0, .tretReg { g := ⟨7, false⟩, a := 6 }),
   (0x6BC0002A, 0, .trap { g := ⟨7, false⟩, n := 42 }),
   (0x6BC04000, 0x12345, .trapExt { g := ⟨7, false⟩, n := 0x12345 })]

theorem test_decode_control : words_control.all reads = true := by decide +kernel

/-- Words of the immediate and the two-word forms. -/
def words_immediates : List (Word × Word × Instr) :=
  [(0x6DC18700, 0x1000, .iaddImmExt { g := ⟨7, false⟩, d := 3, a := 3, imm := 0x1000 }),
   (0x71C5961F, 0, .andImm { g := ⟨7, false⟩, d := 11, a := 11, imm := 31 }),
   (0x77C08002, 0, .shlImm { g := ⟨7, false⟩, d := 1, a := 0, s := 2 }),
   (0x77C18644, 0, .sraImm { g := ⟨7, false⟩, d := 3, a := 3, s := 4 }),
   (0x77C68E38, 0, .shrImm { g := ⟨7, false⟩, d := 13, a := 7, s := 24 }),
   (0x79C90A64, 0, .icmpImm { g := ⟨7, false⟩, cond := .ltS, pd := 2, a := 5, imm := 100 }),
   (0x7BC27FFF, 0, .movi { g := ⟨7, false⟩, d := 4, imm := 0x7FFF }),
   (0x7BC24000, 0xFFFFC000, .moviExt { g := ⟨7, false⟩, d := 4, imm := 0xFFFFC000 })]

theorem test_decode_immediates : words_immediates.all reads = true := by decide +kernel

/-- Words of KADD to KSHR. -/
def words_uniform : List (Word × Word × Instr) :=
  [(0x85C81083, 0, .ksub { g := ⟨7, false⟩, d := 1, a := 2, b := 3 }),
   (0x87D01083, 0, .kxor { g := ⟨7, false⟩, d := 1, a := 2, b := 3 }),
   (0x8BD0A17F, 0, .kcmp { g := ⟨7, false⟩, comb := .or, cond := .ne, qd := 2, a := 5, b := 63 }),
   (0x8CA01083, 0, .ksel { g := ⟨2, true⟩, d := 1, a := 2, b := 3 }),
   (0x8FC04009, 0, .kmov { g := ⟨7, false⟩, d := 4, b := 9 }),
   (0x8FC84009, 0, .kmovV { g := ⟨7, false⟩, d := 4, b := 9 }),
   (0x93C2848F, 0, .kld { g := ⟨7, false⟩, d := 5, a := 2, wide := false, off := 15 }),
   (0x95C77EC7, 0, .kst { g := ⟨7, false⟩, d := 14, a := 63, wide := true, off := 7 }),
   (0x99C105C0, 0, .kaddImm { g := ⟨7, false⟩, d := 2, a := 2, imm := 0x1C0 }),
   (0x9BC28FA0, 0, .kmovImm { g := ⟨7, false⟩, d := 5, imm := 4000 }),
   (0x9DC18604, 0, .kshlImm { g := ⟨7, false⟩, d := 3, a := 3, s := 4 }),
   (0x9DC18828, 0, .kshrImm { g := ⟨7, false⟩, d := 3, a := 4, s := 8 })]

theorem test_decode_uniform : words_uniform.all reads = true := by decide +kernel

/-- Words of CPY to PAIRS. -/
def words_engines : List (Word × Word × Instr) :=
  [(0xA1C32800, 0, .cpy { g := ⟨7, false⟩, kp := 6, gs := 2, ge := true }),
   (0xA3C28000, 0, .cpyq { g := ⟨7, false⟩, kp := 5 }),
   (0xA3C28100, 0, .cpyqW { g := ⟨7, false⟩, kp := 5, n := 0 }),
   (0xA5C43800, 0, .mma { g := ⟨7, false⟩, kp := 8, gs := 3, ge := true }),
   (0xA7C50000, 0, .mmast { g := ⟨7, false⟩, kp := 10, gs := 0, ge := false }),
   (0xA9C01800, 0, .mmaz { g := ⟨7, false⟩, gs := 1, ge := true, bank := 0 }),
   (0xA9C00002, 0, .mmazRel { g := ⟨7, false⟩, gs := 0, ge := false, bank := 0 }),
   (0xABC31800, 0, .pairs { g := ⟨7, false⟩, kp := 6, gs := 1, ge := true })]

theorem test_decode_engines : words_engines.all reads = true := by decide +kernel

/-- Words of LAUNCH to FENCE. -/
def words_settings : List (Word × Word × Instr) :=
  [(0xADC10000, 0, .launch { g := ⟨7, false⟩, kp := 2 }),
   (0xAFC20001, 0, .filldone { g := ⟨7, false⟩, kp := 4, n := 1 }),
   (0xB1C20000, 0, .fillfail { g := ⟨7, false⟩, kp := 4, n := 0 }),
   (0xB3C02040, 0, .gset { g := ⟨7, false⟩, gs := 2, qa := 1 }),
   (0xB3C82040, 0, .gsetNot { g := ⟨7, false⟩, gs := 2, qa := 1 }),
   (0xB3D02000, 0, .gsetClr { g := ⟨7, false⟩, gs := 2 }),
   (0xB5C00005, 0, .phase { g := ⟨7, false⟩, kb := 5 }),
   (0xB5C80000, 0, .phaseOff ⟨7, false⟩),
   (0xB7D80000, 0, .satarm { g := ⟨7, false⟩, clr := true, off := true }),
   (0xB9C00000, 0, .fenceLr ⟨7, false⟩),
   (0xB9C80000, 0, .fenceEng ⟨7, false⟩)]

theorem test_decode_settings : words_settings.all reads = true := by decide +kernel

/-- R310: a reserved bit, an unlisted operation and an illegal size are refused. -/
theorem test_decode_refuses :
    [0x03C00001, 0x01C00000, 0x0FD02241, 0x41C205C3, 0x59D80100, 0xB7C00001, 0xFFFFFFFF].all
      (fun w => match decode w 0 with | .ok _ => false | .error _ => true) = true := by decide +kernel

/-- A table word is laid out as the machine stores it. -/
theorem test_decode_table_word :
    decodeTableWord 32 0x6BC0002A = some (.trap { g := ⟨7, false⟩, n := 42 }) ∧
    decodeTableWord 64 0x123456787BC24000 = some (.moviExt { g := ⟨7, false⟩, d := 4, imm := 0x12345678 }) := by decide +kernel

/-! ### States for the statements -/

/-- The always-true guard. -/
abbrev g7 : Guard := ⟨7, false⟩

/-- A node without timer or count triggers near. -/
def nodeA : NodeDesc :=
  { entry := 0x200, regs := 32, nbar := 0, spad := 1, c := 32, t := 10, floor := 0, cap := 1024, rsize := 6, creg := 0, prio := 0,
    fill := false, preload := false, args := 0 }

/-- A fill node and its generator: spans of one line. -/
def nodeF : NodeDesc := { nodeA with fill := true, rsize := 16 }
def genA : GenDesc := { node := 1, log2span := 0, ballast := false, pfloor := 0, vbase := 0, src := 0, args := [] }

/-- A context with a handler, tables, rings and areas. -/
def ctxA : Ctx :=
  { Ctx.reset 0 with
    regs := { CtxRegs.reset with
      ptroot := 0x10000, traph := 0x100, lrbase := 0x400, lrcount := 2, saveslots := 4, savebase := 0x200000, swapslots := 4,
      swapbase := 0x800000, poolsize := 1, frlog2 := 4, erlog2 := 4, erbase := 0x4000, ballast := 1 }
    nodes := [nodeA, nodeF], gens := [genA] }

/-- A page of the first 8 KiB, without and with an envelope. -/
def pageA : Translation := { base := 0, size := 0x2000, frame := 0, w := true, x := true, c := false, e := false, d := true, gen := 0 }
def pageE : Translation := { pageA with e := true }

/-- One live thread: v2 = 17, v3 = −1, v6 = 1008, v8 = 1024, v10 = 0x2000, v12 = 0x40. -/
def tA : Thread :=
  { probeThread ⟨1, 0⟩ false with
    v := [0, 0, 17, 0xFFFFFFFF, 0, 0, 1008, 0, 1024, 0, 0x2000, 0, 0x40] ++ List.replicate 51 0 }

/-- A device with one resident team of one thread. -/
def base : State := { withProbe State.reset false with ctxs := [ctxA], threads := [tA], tlb := [⟨.core 0, 0, pageA⟩] }

def crewA : Crew := probeCrew ⟨1, 0⟩
def teamA : Team := probeTeam 1 2
def gridA : Grid := probeGrid 2

/-- The thread is the focus. -/
def lane : State := { base with cur := .flight 0 [⟨1, 0⟩] false }

/-- The crew is the focus. -/
def uni : State := { base with cur := .uniform ⟨1, 0⟩ }

/-- The focus in a device with one thing changed. -/
def laneT (f : Thread → Thread) : State := { lane with threads := [f tA] }
def laneTeam (f : Team → Team) : State := { lane with teams := [f teamA] }
def laneCrewS (f : Crew → Crew) : State := { lane with crews := [f crewA] }

theorem one_lane : OneThread lane 0 tA false := by unfold OneThread; decide +kernel
theorem one_uni : OneCrew uni crewA := by unfold OneCrew; decide +kernel

/-- An outcome is a next state with a property. -/
def nextIs (o : Out) (p : State → Bool) : Bool := match o with | .next t => p t | _ => false

theorem next_of {o : Out} {p : State → Bool} (h : nextIs o p = true) : ∃ t, o = .next t ∧ p t = true := by
  cases o with
  | next t => exact ⟨t, rfl, h⟩
  | fault f => cases h
  | refused r => cases h

theorem pair_of {α β : Type} {x : α × β} {b : β} (h : x.2 = b) : ∃ a, x = (a, b) := ⟨x.1, Prod.ext rfl h⟩

/-! ### Witnesses: encoding and fetching -/

theorem witness_DecodeOfEncode :
    Instr.wf (.moviExt { g := ⟨6, true⟩, d := 63, imm := 0xFFFFFFFF }) = true ∧
    Instr.isEvent (.moviExt { g := ⟨6, true⟩, d := 63, imm := 0xFFFFFFFF }) = false := by decide +kernel

theorem witness_DecodeIsExact : reads (0x3FD84000, 0, .recld { g := ⟨7, false⟩, n := 3, d := 4, w := 0 }) = true := by decide +kernel

/-- A device whose next instruction is the word. -/
def at_ (w : Nat) : State := State.reset.withFetchWord 32 w

theorem witness_StepRunsDecoded_1 :
    (at_ 0x05C45084).cur = .flight 0 [⟨1, 0⟩] false ∧ leadOf (at_ 0x05C45084) [⟨1, 0⟩] = some ⟨1, 0⟩ ∧
    (at_ 0x05C45084).thread? ⟨1, 0⟩ = some (probeThread ⟨1, 0⟩ false) ∧
    (fetchPair (at_ 0x05C45084) [⟨1, 0⟩] ⟨1, 0⟩ 0).2 = some (0x05C45084, 0) ∧
    Instr.legalFor (regsOf (fetchPair (at_ 0x05C45084) [⟨1, 0⟩] ⟨1, 0⟩ 0).1 ⟨1, 0⟩) (.iadd { g := g7, d := 5, a := 2, b := .k 4 }) = true ∧
    Instr.isConvergent (.iadd { g := g7, d := 5, a := 2, b := .k 4 }) = false := by decide +kernel

theorem witness_StepRunsDecoded_2 :
    (fetchPair (at_ 0x03C00001) [⟨1, 0⟩] ⟨1, 0⟩ 0).2 = some (0x03C00001, 0) ∧
    (0x03C00001 : Word).toNat < 0x80000000 ∧ (match decode 0x03C00001 0 with | .ok _ => false | .error _ => true) = true := by decide +kernel

/-- A vote met outside a rendezvous. -/
theorem witness_StepRunsDecoded_3 :
    let s := { at_ 0x31C02040 with cur := .flight 0 [⟨1, 0⟩] false }
    leadOf s [⟨1, 0⟩] = some ⟨1, 0⟩ ∧ (fetchPair s [⟨1, 0⟩] ⟨1, 0⟩ 0).2 = some (0x31C02040, 0) ∧
    Instr.isConvergent (.vote { g := g7, any := false, pd := 2, pa := 1 }) = true := by decide +kernel

theorem witness_StepRunsDecoded_4 :
    (at_ 0x85C01083).cur = .uniform ⟨1, 0⟩ ∧ (at_ 0x85C01083).liveOf ⟨1, 0⟩ = [probeThread ⟨1, 0⟩ true] ∧
    (fetchPair (at_ 0x85C01083) [⟨1, 0⟩] ⟨1, 0⟩ 0).2 = some (0x85C01083, 0) ∧
    Instr.isUniform (.kadd { g := g7, d := 1, a := 2, b := 3 }) = true := by decide +kernel

theorem witness_StepRunsDecoded_5 :
    let s := { base with agenda := [.correctedSoftError] }
    s.cur = .idle ∧ s.replays = [] ∧ s.agenda = [.correctedSoftError] := by decide +kernel

/-- A flight that meets a uniform word, and a rendezvous at a word that no instruction has. -/
theorem witness_StepRunsDecoded_6 :
    let s := { at_ 0x85C01083 with cur := .flight 0 [⟨1, 0⟩] false }
    let bad := at_ 0x80000001
    leadOf s [⟨1, 0⟩] = some ⟨1, 0⟩ ∧ (fetchPair s [⟨1, 0⟩] ⟨1, 0⟩ 0).2 = some (0x85C01083, 0) ∧ 0x80000000 ≤ (0x85C01083 : Word).toNat ∧
    bad.cur = .uniform ⟨1, 0⟩ ∧ bad.liveOf ⟨1, 0⟩ = [probeThread ⟨1, 0⟩ false] ∧
    (fetchPair bad [⟨1, 0⟩] ⟨1, 0⟩ 0).2 = some (0x80000001, 0) ∧
    (match decode 0x80000001 0 with | .ok _ => false | .error _ => true) = true := by decide +kernel

theorem witness_FetchReadsCode_1 :
    let s := { base with icache := [⟨0, 2, 0, 0x03C00000⟩] }
    CodeAt s 1 2 0 0x03C00000 ∧ needsExt 0x03C00000 = false ∧ gridId s ⟨1, 0⟩ = 2 :=
  ⟨.inl ⟨⟨0, 2, 0, 0x03C00000⟩, by decide +kernel⟩, by decide +kernel⟩

/-- Both words of a two-word instruction come from memory. -/
theorem witness_FetchReadsCode_2 :
    let s := { base with mem := base.mem.writeBytes 0 [0x00, 0x40, 0xC2, 0x7B, 0x78, 0x56, 0x34, 0x12] }
    CodeAt s 1 2 0 0x7BC24000 ∧ needsExt 0x7BC24000 = true ∧ CodeAt s 1 2 4 0x12345678 :=
  ⟨.inr ⟨by decide +kernel, pageA, by decide +kernel⟩, by decide +kernel, .inr ⟨by decide +kernel, pageA, by decide +kernel⟩⟩

theorem witness_CanonicalKept : State.reset.Inv ∧ base.Inv ∧ ∃ t, step lane = .next t :=
  ⟨by decide +kernel, by decide +kernel, by
    obtain ⟨t, h, -⟩ := next_of (o := step lane) (p := fun _ => true) (by decide +kernel)
    exact ⟨t, h⟩⟩

/-! ### Witnesses: lane instructions -/

/-- The focus of the statements about lane instructions: IntegerArithmetic, MovesAndCompares, FloatArithmetic, BitCountsAndFields,
FloatCompareAndFunctions, CrewCollectives, ThreadExitAndYield. -/
theorem witness_lane : lane.cur = .flight 0 [⟨1, 0⟩] false ∧ tA.guard g7 = true ∧ tA.guard ⟨0, false⟩ = false := by decide +kernel

/-- NaNs and numbers, the zeros among them. -/
theorem witness_FloatArithmetic :
    nanOf .f32 0x7FC00000 = true ∧ nanOf .f16 0x7C01 = true ∧ nanOf .bf16 0xFFFF = true ∧ nanOf .f32 0x7F800000 = false ∧
    nanOf .bf16 0x8000 = false ∧ 0xFFFF < 2 ^ (1 + Fmt.bf16.eb + Fmt.bf16.mb) := by decide +kernel

/-- A tie between 1 and the next FP32 number, in every mode and for both signs, and the first value beyond the greatest number. -/
theorem witness_RoundingOfCodes :
    (Fmt.f32.decode (Fmt.f32.round .rn .nan)).isNan = true ∧ 0xFF7FFFFF < 2 ^ (1 + Fmt.f32.eb + Fmt.f32.mb) ∧
    (Fmt.f32.decode 0xFF7FFFFF).isNan = false ∧ 0x3F800000 + 1 ≤ (2 ^ Fmt.f32.eb - 1) * 2 ^ Fmt.f32.mb ∧
    Picks .f32 .rn false (2 ^ 24 + 1) (-24) 0x3F800000 0x3F800000 ∧ Picks .f32 .rz true (2 ^ 24 + 1) (-24) 0x3F800000 0x3F800000 ∧
    Picks .f32 .rm true (2 ^ 24 + 1) (-24) 0x3F800000 0x3F800001 ∧ Picks .f32 .rp true (2 ^ 24 + 1) (-24) 0x3F800000 0x3F800000 ∧
    stepsIn .f32 (magOf .f32 0x7F800000) 128 ≤ valueIn .f32 1 128 := by
  unfold Picks; decide +kernel

/-- A NaN and two zeros to compare, and an operand of each kind that the functions fix. -/
theorem witness_FloatCompareAndFunctions :
    nanOf .f32 0xFFC00001 = true ∧ nanOf .f32 0x80000000 = false ∧ numOf .f32 0x80000000 = numOf .f32 0 ∧ numOf .f32 0x80000001 < 0 ∧
    numOf .f32 0xC3150000 = -149 * 2 ^ 149 ∧ numOf .f32 0xC2FC0000 = -126 * 2 ^ 149 ∧ numOf .f32 0x43000000 = 128 * 2 ^ 149 ∧
    magOf .f32 0xC0000000 % 2 ^ 149 = 0 ∧ magOf .f32 0xC0000000 < 2 ^ 277 ∧ magOf .f32 0x40200000 % 2 ^ 149 = 2 ^ 148 ∧
    magOf .f32 0x80000001 < 2 ^ 137 ∧ f32 0x40400000 = .fin false 0xC00000 (-22) ∧ Sfn.special .rcp (f32 0x40400000) = none ∧
    (match Sfn.approx .rcp false 0xC00000 (-22) with | .fin _ _ _ => true | _ => false) = true ∧
    (0 < 0xC00000 ∧ 0xC00000 < 2 ^ 24 ∧ (-22 : Int) = 2 * (-11) + (false.toNat : Int) ∧ (-23 : Int) = 2 * (-12) + (true.toNat : Int)) ∧
    0 < (0x00000001 : Word).toNat ∧ (0x7F7FFFFF : Word).toNat < 0x7F800000 := by decide +kernel

theorem witness_Conversions :
    (f32 0x7F800001).isNan = true ∧ f32 0x7F800000 = .inf false ∧ f32 0xFF800000 = .inf true ∧
    (f32 0x4F000000 = .fin false 0x800000 8 ∧ (0 : Int) ≤ 0x800000 * 2 ^ 8 - 2 ^ 31 * 1 ∧ (0x800000 * 2 ^ 8 - 2 ^ 31 * 1 : Int) < 1) ∧
    (f32 0xC0200000 = .fin true 0xA00000 (-22) ∧ (0 : Int) ≤ -1 * 0xA00000 - -3 * 2 ^ 22 ∧ (-1 * 0xA00000 - -3 * 2 ^ 22 : Int) < 2 ^ 22) ∧
    OneThread lane 0 tA false ∧ tA.guard g7 = true :=
  ⟨by decide +kernel, by decide +kernel, by decide +kernel, by decide +kernel, by decide +kernel, one_lane, by decide +kernel⟩

/-- Values beyond, at and below the greatest number of E4M3 and E5M2. -/
theorem witness_Conversions_saturate :
    stepsIn .e4m3 (magOf .e4m3 0x7E) 0 < valueIn .e4m3 449 0 ∧ stepsIn .e4m3 (magOf .e4m3 0x7E) 0 = valueIn .e4m3 448 0 ∧
    Picks .e4m3 .rn true 440 0 0x7D 0x7E ∧ 0x7D + 1 ≤ 0x7E ∧ stepsIn .e5m2 (magOf .e5m2 0x7B) 0 < valueIn .e5m2 57345 0 ∧
    Picks .e5m2 .rn false 1 (-17) 0 0 := by
  unfold Picks; decide +kernel

/-- Two threads of one crew. -/
def two : State := { lane with threads := [tA, { tA with id := ⟨1, 1⟩ }], cur := .flight 0 [⟨1, 0⟩, ⟨1, 1⟩] false }

theorem witness_FlightOrder_1 :
    (oneByOne (.srd { g := g7, d := 5, sr := .tid })).isSome = true ∧
    ∃ s1, exec (.srd { g := g7, d := 5, sr := .tid }) { two with cur := .flight 0 [⟨1, 0⟩] false } = .next s1 ∧
      ((s1.cur == .idle) && ((s1.thread? ⟨1, 1⟩).map Thread.inh == (two.thread? ⟨1, 1⟩).map Thread.inh)) = true :=
  ⟨by decide +kernel, next_of (by decide +kernel)⟩

/-- An atomic in a flight of two threads, the other of which has one load outstanding, which has performed. -/
theorem witness_FlightOrder_atomics :
    let l : Load := { slot := 4, dst := 5, regs := 1, size := 4, sext := false, ctx := 0, va := 0, loc := .pa 0, done := true,
                      install := none, at_ := 0, remote := false }
    let s := { two with threads := [tA, { tA with id := ⟨1, 1⟩, loads := [l] }], cur := .flight 0 [⟨1, 0⟩] false }
    let i : Instr := .atom { g := g7, d := 4, a := 0, op := .add, sc := .team, w := false }
    (oneByOne i).isSome = true ∧ s.thread? ⟨1, 1⟩ = some { tA with id := ⟨1, 1⟩, loads := [l] } ∧ l.done = true ∧
    ∃ s1, exec i s = .next s1 ∧ ((s1.cur == .idle) && (s1.thread? ⟨1, 1⟩ == s.thread? ⟨1, 1⟩)) = true :=
  ⟨by decide +kernel, by decide +kernel, rfl, next_of (by decide +kernel)⟩

theorem witness_FlightOrder_2 :
    oneByOne (.trap { g := ⟨0, false⟩, n := 1 }) = some ⟨0, false⟩ ∧ OneThread lane 0 tA false ∧ tA.guard ⟨0, false⟩ = false :=
  ⟨by decide +kernel, one_lane, by decide +kernel⟩

/-! ### Witnesses: memory -/

/-- The last 16 bytes of the team's scratchpad. -/
theorem witness_ScratchpadAccess_1 :
    OneThread lane 0 tA false ∧ (tA.reg 6).toNat + 0 * szBytes 4 = 1008 ∧ SpadOk lane 1 1008 (szBytes 4) :=
  ⟨one_lane, by decide +kernel, teamA, by decide +kernel⟩

/-- MISALIGNED, ACCESS one byte past the end, and an absent line. -/
theorem witness_ScratchpadAccess_2 :
    lane.team? 1 = some teamA ∧ (tA.reg 2).toNat % szBytes 2 ≠ 0 ∧ (tA.reg 8).toNat % szBytes 0 = 0 ∧
    128 * teamA.spadLines < (tA.reg 8).toNat + szBytes 0 := by decide +kernel

theorem witness_ScratchpadAccess_3 :
    let s := laneTeam (fun t => { t with absent := [7] })
    OneThread s 0 tA false ∧ s.team? 1 = some { teamA with absent := [7] } ∧ (tA.reg 6).toNat / 128 ∈ [7] ∧
      (tA.reg 6).toNat + szBytes 4 ≤ 128 * teamA.spadLines := by
  unfold OneThread; decide +kernel

theorem witness_GlobalAccess_1 :
    OneThread lane 0 tA false ∧ lane.access 1 (tA.pair 0 + 63 * szBytes 4) (szBytes 4) false = .ok pageA (.pa 1008) ∧
    Quiet lane (.pa 1008) ∧ ((settledFlight lane tA (.pa 1008)).loadBytes? ⟨1, 0⟩ (lane.coreOf 1) (.pa 1008) (szBytes 4)).isSome = true :=
  ⟨one_lane, by decide +kernel, by unfold Quiet NoneLanding; decide +kernel, by decide +kernel⟩

/-- Without access tables nothing is denied. -/
theorem no_denial (s : State) (h : s.rights = []) (l : Loc) (c : ReqClass) (w : Bool) : s.deniedAt l c w = none := by
  have hn : ∀ t, s.right t c = 3 := fun t => by simp [State.right, h]
  simp [State.deniedAt, hn]

/-- A page of peer 1's memory at address 0, and the state of a thread that reads it; with its link up, and without a link. -/
def pageP : Translation := { pageA with frame := 0x20000000000 }
def peerLoc : Loc := .pa 0x20000000000
def remoteS (ls : List Link) : State := { lane with tlb := [⟨.core 0, 0, pageP⟩], links := ls }
def linkUp : Link := ⟨1, none, false⟩

/-- With every link up no access waits. -/
theorem up_no_wait (s : State) (h : ∀ l ∈ s.links, l.down = none) (p a : Nat) : s.linkWaits p a = false := by
  rcases e : s.linkFor? p a with _ | x
  · simp [State.linkWaits, e]
  · have hx := List.mem_filter.1 (List.mem_of_getElem? (by simpa [State.linkFor?] using e))
    simp [State.linkWaits, e, h x.1 (List.fst_mem_of_mem_zipIdx hx.1)]

theorem up_not_delayed (s : State) (h : ∀ l ∈ s.links, l.down = none) (l : Loc) : s.delayed l = false := by
  unfold State.delayed
  split
  · rfl
  · rename_i a
    cases peerOf a <;> simp [up_no_wait s h]

theorem remote_reachable (ls : List Link) (w : Bool) : (remoteS ls).reachable peerLoc w = (remoteS ls).linkTo 1 := by
  simp [State.reachable, no_denial (remoteS ls) rfl, peerLoc, peerOf]

/-- An `LD` of a peer's memory, which needs bytes from beyond L1. -/
theorem witness_GlobalAccess_remote :
    OneThread (remoteS [linkUp]) 0 tA false ∧ (remoteS [linkUp]).access 1 (tA.pair 0 + 0 * szBytes 2) (szBytes 2) false = .ok pageP peerLoc ∧
    Quiet (remoteS [linkUp]) peerLoc ∧ (remoteS [linkUp]).delayed peerLoc = false ∧
    (settledFlight (remoteS [linkUp]) tA peerLoc).loadBytes? ⟨1, 0⟩ 0 peerLoc 4 = some [0, 0, 0, 0] ∧
    (settledFlight (remoteS [linkUp]) tA peerLoc).needsFar ⟨1, 0⟩ 0 peerLoc 4 = true ∧ (peerOf 0x20000000000).isSome = true := by
  have hr : (remoteS [linkUp]).reachable peerLoc false = true := by rw [remote_reachable]; decide +kernel
  refine ⟨by unfold OneThread; decide +kernel, ?_, by unfold Quiet NoneLanding; decide +kernel, up_not_delayed _ (by decide) _, by decide +kernel,
    by decide +kernel, by decide +kernel⟩
  have h1 : (remoteS [linkUp]).lockedBy ((remoteS [linkUp]).coreOf 1) ((remoteS [linkUp]).ctxId 1) 0 4 false = false := by decide +kernel
  have h2 : (remoteS [linkUp]).tlbFind ((remoteS [linkUp]).coreOf 1) ((remoteS [linkUp]).ctxId 1) 0 = some pageP := by decide +kernel
  have h3 : tA.pair 0 = 0 ∧ szBytes 2 = 4 := by decide +kernel
  have h4 : pageP.loc ((remoteS [linkUp]).ctxId 1) 0 = peerLoc := by decide +kernel
  simp [State.access, h1, h2, h3, h4, hr]

theorem quiet_lane : Quiet lane (.pa 1008) ∧ Quiet lane (.pa 0) := by unfold Quiet NoneLanding; decide +kernel

theorem witness_GlobalAccess_2 :
    Quiet lane (.pa 1008) ∧ OneThread lane 0 tA false ∧ lane.access 1 (tA.pair 0 + 63 * szBytes 4) (szBytes 4) true = .ok pageA (.pa 1008) ∧
    storeLimit (settled lane tA (.pa 1008)) ⟨1, 0⟩ (Loc.sector (.pa 1008)) = none := ⟨quiet_lane.1, one_lane, by decide +kernel⟩

/-- Each check of an address, where the ones before it pass: an odd address, 2^52 exceeded by the last byte, a locked line, no TLB
entry, and a page without write permission. -/
theorem witness_AddressChecks :
    let locked := { base with locks := [⟨0, 0, 0, 0, true, 9, false⟩] }
    let none_ := { base with tlb := [] }
    let readOnly := { base with tlb := [⟨.core 0, 0, { pageA with w := false }⟩] }
    3 % 2 ≠ 0 ∧ (2 ^ 52 % 4 = 0 ∧ 2 ^ 52 < 2 ^ 52 + 4) ∧
    (locked.lockedBy (locked.coreOf 1) (locked.ctxId 1) 0 4 false = true) ∧
    (none_.lockedBy (none_.coreOf 1) (none_.ctxId 1) (2 ^ 52 - 4) 4 true = false ∧ none_.tlbFind 0 0 (2 ^ 52 - 4) = none) ∧
    (readOnly.lockedBy 0 0 0 4 true = false ∧ readOnly.tlbFind (readOnly.coreOf 1) (readOnly.ctxId 1) 0 =
      some { pageA with w := false }) := by decide +kernel

/-- A device that keeps its own accesses from every slice. -/
def kept (s : State) : State := { s with rights := (List.range 96).map (fun n => ⟨.slice n, .device, 0⟩) }

/-- Each trap of `LD` and `ST`: RANGE_LOCK, MISALIGNED, ACCESS beyond 2^52, ACCESS by an access table. -/
theorem witness_AddressChecks_trap :
    let locked := { lane with locks := [⟨0, 0, 0, 0, true, 9, false⟩] }
    let tB := { tA with v := tA.v.set 1 0x00100000 }
    let top := { lane with threads := [tB] }
    (OneThread locked 0 tA false ∧ CanTrap locked tA ∧ locked.access 1 (tA.pair 0) 4 false = .trap .rangeLock ∧
      locked.access 1 (tA.pair 0) 4 true = .trap .rangeLock) ∧
    (CanTrap lane tA ∧ lane.access 1 (tA.pair 2) 4 false = .trap .misaligned ∧ lane.access 1 (tA.pair 2) 4 true = .trap .misaligned) ∧
    (OneThread top 0 tB false ∧ CanTrap top tB ∧ top.access 1 (tB.pair 0) 4 false = .trap .access ∧ 2 ^ 52 < tB.pair 0 + 4 ∧
      top.access 1 (tB.pair 0) 4 true = .trap .access) ∧
    (OneThread (kept lane) 0 tA false ∧ (kept lane).access 1 (tA.pair 0) 4 false = .trap .access ∧
      (kept lane).access 1 (tA.pair 0) 4 true = .trap .access ∧ tA.pair 0 + 4 ≤ 2 ^ 52 ∧
      (kept lane).tlbFind ((kept lane).coreOf 1) ((kept lane).ctxId 1) (tA.pair 0) = some pageA) := by
  unfold OneThread CanTrap; decide +kernel

/-- The highest handle, cached and not, and the first one beyond. -/
theorem witness_LayoutLoad :
    let cached := { lane with layouts := [⟨0, 0, 1, List.replicate 64 7⟩] }
    let t1 := { tA with v := tA.v.set 0 1 }
    let t2 := { tA with v := tA.v.set 0 2 }
    lane.ctxOf 1 = some ctxA ∧ (t1.reg 0).toNat % 65536 < ctxA.regs.lrcount ∧
    layoutCached cached (clusterOf (cached.coreOf 1)) 0 1 = some (List.replicate 64 7) ∧ layoutCached lane 0 0 1 = none ∧
    lane.tlbFind (lane.coreOf 1) 0 (0x400 + 64) = some pageA ∧ lane.reachable (pageA.loc 0 (0x400 + 64)) false = true ∧
    (lane.devBytes? (pageA.loc 0 (0x400 + 64)) 64).isSome = true ∧ ctxA.regs.lrcount ≤ (t2.reg 0).toNat % 65536 := by decide +kernel

/-- A prefetch that fails its check, one that an access table forbids, one that a walk for the page is made for, and one that finds its
sector. -/
theorem witness_PrefetchAndMonitor :
    let walking := { lane with tlb := [], walks := [⟨0, 0, 0, 0, .read, false, []⟩] }
    lane.access 1 (tA.pair 2 + 0) 4 false = .trap .misaligned ∧
    ((kept lane).access 1 (tA.pair 0) 4 false = .trap .access ∧ (kept lane).tlbFind 0 0 (tA.pair 0) = some pageA) ∧
    (walking.access 1 (tA.pair 0) 4 false = .walk ∧ walking.walking (walking.ctxId 1) (walking.coreOf 1) (tA.pair 0) = true) ∧
    lane.access 1 (tA.pair 0 + 0) 4 false = .ok pageA (.pa 0) ∧ lane.landings = [] ∧
    lane.sectorFill? (lane.coreOf 1) (Loc.sector (.pa 0)) = some (List.replicate 32 0) ∧
    lane.devBytes? (.pa 0) 4 = some [0, 0, 0, 0] ∧
    leNat [0, 0, 0, 0] ≠ leNat (storedBytes tA 3 2) ∧ leNat [0, 0, 0, 0] = leNat (storedBytes tA 0 2) := by decide +kernel

theorem witness_AtomicAccess :
    atomFields (.cas { g := g7, d := 4, a := 0, sc := .team, w := true }) = some (g7, 0, 4, true, .team) ∧
    atomFields (.atom { g := g7, d := 4, a := 0, op := .exch, sc := .system, w := true }) = some (g7, 0, 4, true, .system) ∧
    OneThread lane 0 tA false ∧ SpadOk lane 1 0 8 ∧ Quiet lane (.pa 0) ∧ lane.monitors = [] ∧
    lane.access 1 (tA.pair 0) 8 true = .ok pageA (.pa 0) ∧ pageA.c = false ∧ (settled lane tA (.pa 0)).thread? ⟨1, 0⟩ = some tA :=
  ⟨by decide +kernel, by decide +kernel, one_lane, ⟨teamA, by decide +kernel⟩, quiet_lane.2, by decide +kernel⟩

/-- A load of the atomic's sector that has still to perform: it performs before, and v5 has its value when the atomic takes its operand. -/
theorem witness_AtomicAccess_loads :
    let l : Load := { slot := 4, dst := 5, regs := 1, size := 4, sext := false, ctx := 0, va := 0, loc := .pa 0, done := false,
                      install := none, at_ := 0, remote := false }
    let t := { tA with v := tA.v.set 5 7, loads := [l] }
    let s := { lane with threads := [t] }
    OneThread s 0 t false ∧ s.access 1 (t.pair 0) 4 true = .ok pageA (.pa 0) ∧
    (settled s t (.pa 0)).thread? ⟨1, 0⟩ = some { tA with loads := [{ l with done := true }] } := by
  unfold OneThread; decide +kernel

/-- Eight bytes at their home, in a cluster buffer with room. -/
theorem witness_AtomicAccess_cluster :
    (∀ k, k < 8 → lane.farByte? (clusterOf (lane.coreOf 1)) (Loc.add (.pa 0) k) = some ((List.replicate 8 0).getD k 0)) ∧
    State.sectorCount (lane.buffers.filter (fun b => b.buf == .cluster 0)) < 8192 := by decide +kernel

/-- 255 operations outstanding leave room, 256 do not. -/
theorem witness_Reductions_1 :
    (laneCrewS (fun c => { c with unack := 255 })).crew? ⟨1, 0⟩ = some { crewA with unack := 255 } ∧
    (laneCrewS (fun c => { c with unack := 256 })).crew? ⟨1, 0⟩ = some { crewA with unack := 256 } ∧
    OneThread (laneCrewS (fun c => { c with unack := 256 })) 0 tA false := by
  unfold OneThread; decide +kernel

def redA : Sys2Proof.Machine.RedOp :=
  { crews := [⟨1, 0⟩], team := 1, scope := .team, op := .add, wide := true, operand := 5, off := 1016, va := 0, loc := .pa 0, ctx := 0,
    tr := pageA, core := 0, waiting := false }

theorem witness_Reductions_2 :
    let s := { base with reds := [redA] }
    s.reds[0]? = some redA ∧ s.choice = 0 ∧ s.team? 1 = some teamA ∧ s.spadPresent 1 1016 8 = true := by decide +kernel

/-- A `RED` to memory at device reach, and one of cluster scope, each with its eight bytes at home. -/
theorem witness_Reductions_3 :
    let red := fun (sc : Scope) => { redA with scope := sc }
    let s := fun sc => { lane with reds := [red sc] }
    (∀ k, k < 8 → (lane.devByte? (Loc.add (.pa 0) k)).isSome = true) ∧
    ((s .device).reds[0]? = some (red .device) ∧ redA.tr.c = false ∧ (s .device).choice = 0 ∧ (s .device).reachable (.pa 0) true = true) ∧
    (∀ k, k < 8 → (s .cluster).farByte? (clusterOf redA.core) (redA.loc.add k) = some ((List.replicate 8 0).getD k 0)) ∧
    NoneLanding (s .cluster) redA.loc := by unfold NoneLanding; decide +kernel

/-! ### Witnesses: control flow and traps -/

theorem witness_Branches :
    OneThread lane 0 tA false ∧ (tA.reg 12).toNat % 16 = 0 ∧ (tA.reg 2).toNat % 16 ≠ 0 := ⟨one_lane, by decide +kernel⟩

theorem can_trap : CanTrap lane tA := by unfold CanTrap; decide +kernel

theorem witness_SoftwareTrap : OneThread lane 0 tA false ∧ tA.guard g7 = true ∧ CanTrap lane tA := ⟨one_lane, by decide +kernel, can_trap⟩

/-- A thread inside the handler, and a device whose context has no handler. -/
def tH : Thread := { tA with inh := true, trapc := 0x40 }
def inh : State := { lane with threads := [tH] }

theorem witness_TrapEntry :
    CanTrap lane tA ∧ inh.thread? ⟨1, 0⟩ = some tH ∧ inh.team? 1 = some teamA ∧ inh.grid? 2 = some gridA ∧
    State.traph { lane with ctxs := [{ ctxA with regs := CtxRegs.reset }] } 1 = 0 ∧
    State.grid? { inh with grids := [{ gridA with stopped := true }] } 2 = some { gridA with stopped := true } :=
  ⟨can_trap, by decide +kernel⟩

/-- Without a handler, the ring of the context has room for a record. -/
theorem witness_TrapEntry_record :
    tH.inh = true ∧ gridA.stopped = false ∧ inh.ctx? teamA.ctx = some ctxA ∧ ctxA.erwait = [] ∧
    ringCount ctxA.regs.erprod ctxA.regs.ercons < 2 ^ ctxA.regs.erlog2 ∧ inh.physBlocked 0x4000 32 true = [] := by decide +kernel

/-- A crew of two live threads, one outside and one inside the handler. -/
theorem witness_TrapEntry_crew :
    let s := { lane with threads := [tA, { tH with id := ⟨1, 1⟩ }] }
    (s.threads.map Thread.id).Nodup ∧ s.liveOf ⟨1, 0⟩ = [tA, { tH with id := ⟨1, 1⟩ }] ∧ CanTrap s tA ∧ tH.inh = true := by
  unfold CanTrap; decide +kernel

theorem witness_ReturnFromHandler :
    OneThread inh 0 tH false ∧ tH.held = [] ∧ (tH.reg 12).toNat % 16 = 0 ∧ (tH.reg 2).toNat % 16 ≠ 0 ∧ OneThread lane 0 tA false ∧
    tA.inh = false ∧ OneThread { inh with threads := [{ tH with held := [⟨0x10C, 5⟩] }] } 0 { tH with held := [⟨0x10C, 5⟩] } false ∧
    State.traph inh 1 ≠ 0 ∧ State.traph { inh with ctxs := [{ ctxA with regs := CtxRegs.reset }] } 1 = 0 := by
  unfold OneThread; decide +kernel

theorem witness_ThreadExitAndYield_exit :
    OneThread { two with cur := .flight 0 [⟨1, 0⟩] false } 0 tA false ∧ tA.record = none ∧ { tA with id := ⟨1, 1⟩ } ∈ two.threads ∧
    two.team? 1 = some teamA ∧ two.grid? 2 = some gridA ∧ two.ctx? 0 = some ctxA ∧ ctxA.allocs = [] := by
  unfold OneThread; decide +kernel

theorem witness_ThreadExitAndYield_events :
    State.thread? { base with threads := [{ tA with wait := 2048, demoted := some 0 }] } ⟨1, 0⟩ =
      some { tA with wait := 2048, demoted := some 0 } ∧ 0 ≤ base.cycleOf (base.coreOf 1) := by decide +kernel

theorem witness_SpecialRegisters_1 :
    base.team? 1 = some teamA ∧ base.crew? ⟨1, 0⟩ = some crewA ∧ base.grid? 2 = some gridA ∧ teamA.node = none := by decide +kernel

/-- A team of a shape, a fill that its thread holds, barriers that are claimed and ones that are not. -/
theorem witness_SpecialRegisters_3 :
    let f : Fill := ⟨7, 0, 0, 0x1000, 0x1000, 0, 1, .running, 2, []⟩
    let s := { lane with fills := [f], threads := [{ tA with record := some ⟨[], some 7, some 0, none⟩ }] }
    s.fills = [f] ∧ f.state = .running ∧ (s.threads.any (fun u => u.live && u.record.bind Record.pfid == some 7)) = true ∧ gridA.prio ≤ 2 ∧
    lane.fills = [] ∧ 1 ≤ (gridA.role 0).ntx ∧ 1 ≤ (gridA.role 0).nty ∧ teamA.bars[15]? = some (probeBarrier 1) ∧ gridA.bars.length ≤ 0 ∧
    (let u : Machine.PUnit := { grid := 2, index := 0, cluster := some 0, bars := [probeBarrier 1] }
     State.unit? { lane with units := [u] } teamA.grid teamA.unit = some u ∧ u.bars[0]? = some (probeBarrier 1)) ∧ lane.unit? 2 0 = none ∧
    State.team? (laneTeam (fun t => { t with bars := [] })) 1 = some { teamA with bars := [] } := by decide +kernel

/-- A readable register, one that is not readable, and a crew's read. -/
theorem witness_SpecialRegisters_2 :
    OneThread lane 0 tA false ∧ (lane.readSReg tA tA.clockHi .clockLo).isSome = true ∧ lane.readSReg tA tA.clockHi (.bphaseG 0) = none ∧
    uni.cur = .uniform ⟨1, 0⟩ ∧ uni.crew? ⟨1, 0⟩ = some crewA ∧ uni.liveOf ⟨1, 0⟩ = [tA] ∧
    (uni.readSReg tA crewA.clockHi .core).isSome = true := ⟨one_lane, by decide +kernel⟩

/-! ### Witnesses: records, queries, commits and barriers -/

theorem witness_SpawnRecord :
    SpawnOk lane tA 6 0 teamA ctxA nodeA ∧ ctxA.canAlloc 0 = true ∧ NoTrigger ctxA 0 0 nodeA ∧
    SpawnOk { lane with ctxs := [{ ctxA with regs := { ctxA.regs with poolsize := 0 } }] } tA 6 0 teamA
      { ctxA with regs := { ctxA.regs with poolsize := 0 } } nodeA ∧
    Ctx.canAlloc { ctxA with regs := { ctxA.regs with poolsize := 0 } } 0 = false := by
  unfold SpawnOk NoTrigger; decide +kernel

/-- A bin part that lacks one record of its node's count. -/
theorem witness_SpawnRecord_batch :
    let c := { ctxA with used := [(0, 31)], bins := List.replicate 31 ⟨0, 0, ⟨[1, 2, 3, 4, 5, 6], none, none, none⟩, 0⟩ }
    SpawnOk { lane with ctxs := [c] } tA 6 0 teamA c nodeA ∧ c.canAlloc 0 = true ∧ Triggers c 0 0 nodeA ∧ (opb lane tA (.v 0)).toNat = 0 := by
  unfold SpawnOk Triggers; decide +kernel

/-- A node that the context does not have, a record one register beyond the team's, and a fill node at depth 2. -/
theorem witness_SpawnRecord_traps :
    let t := { tA with v := tA.v.set 0 1 }
    let deep := { lane with threads := [t], teams := [{ teamA with fdepth := 2 }] }
    spawnFields (.spawn { g := g7, a := 0, b := .v 6 }) = some (g7, 0, .v 6) ∧ CanTrap lane tA ∧ lane.team? 1 = some teamA ∧ lane.ctx? 0 = some ctxA ∧
    ctxA.nodes.length ≤ (opb lane tA (.v 6)).toNat ∧ (opb lane tA (.v 0)).toNat = 0 ∧ teamA.regs < 59 + nodeA.rsize ∧
    OneThread deep 0 t false ∧ CanTrap deep t ∧ deep.team? 1 = some { teamA with fdepth := 2 } ∧ (opb deep t (.v 0)).toNat = 1 ∧
    ctxA.nodes[1]? = some nodeF ∧ 0 + nodeF.rsize ≤ teamA.regs ∧ nodeF.fill = true := by
  unfold OneThread CanTrap; decide +kernel

/-- A team of the node, its thread with a record. -/
def noded : State := { lane with
  teams := [{ teamA with node := some 0 }], threads := [{ tA with record := some ⟨[1, 2, 3, 4, 5, 6], none, none, none⟩ }] }

theorem witness_RecordsAndQueries :
    noded.team? 1 = some { teamA with node := some 0 } ∧ noded.node? 0 0 = some nodeA ∧ lane.team? 1 = some teamA ∧ teamA.node = none ∧
    lane.node? (lane.ctxId 1) (tA.reg 0).toNat = some nodeA ∧ 4 ≤ nodeA.rsize ∧ nodeA.fill = false ∧
    crewA.pair 2 < 2 ^ 52 ∧ crewA.pair 2 % 128 = 0 ∧ lane.queries.length < 4096 := by decide +kernel

/-- A byte in the crew's buffer. -/
def byteA : BufByte :=
  { buf := .crew ⟨1, 0⟩, author := .crew ⟨1, 0⟩, ctx := 0, va := 0, loc := .pa 0, tr := pageA, val := 9 }

def stored : State := { lane with buffers := [byteA], cur := .flight 0 [⟨1, 0⟩] true }

theorem at_cmt (g : Guard) (l : CmtLevel) (x : Bool) (c : Crew) (bs : List BufByte) (hg : tA.guard g = true) (hc : c.id = ⟨1, 0⟩) :
    AtCmt ⟨g, l, x, 1⟩ { stored with crews := [c], buffers := bs } tA c :=
  ⟨0, [⟨1, 0⟩], true, [], rfl, rfl, by simp [State.crew?, hc]; rfl, tA, by simp, hg⟩

/-- A commit that finds nothing in its way, at each level. -/
theorem witness_Commit :
    AtCmt ⟨g7, .team, false, 1⟩ stored tA crewA ∧ Unsent stored crewA ∧
    (∀ l ∈ [CmtLevel.team, .cluster, .device, .system], ∀ x ∈ [false, true], MayMove ⟨g7, l, x, 1⟩ stored crewA (stored.movedBytes ⟨1, 0⟩ l.num)) ∧
    (∀ n ∈ [2, 3, 4], stored.landingsOf ⟨1, 0⟩ 0 ((stored.movedBytes ⟨1, 0⟩ n).map Moved.byte) ≠ []) ∧
    stored.monitors = [] ∧ (∀ b ∈ stored.buffers, b.author ≠ .unit) :=
  ⟨at_cmt g7 .team false crewA [byteA] (by decide +kernel) rfl, by unfold Unsent; decide +kernel, by unfold MayMove; decide +kernel, by decide +kernel⟩

/-- Operations outstanding at the limit and beyond it, an L1 that holds the sector of the byte, and crews with nothing of their own to move, one of
them in a cluster whose unit has a byte. -/
theorem witness_Commit_more :
    (let c := { crewA with unack := 256 }
     AtCmt ⟨g7, .cluster, false, 1⟩ { stored with crews := [c] } tA c ∧ c.unack ≤ 256 ∧ c.unack ≠ 0) ∧
    (let c := { crewA with unack := 257 }
     AtCmt ⟨g7, .cluster, false, 1⟩ { stored with crews := [c] } tA c ∧ 256 < c.unack) ∧
    (State.l1Byte? { stored with l1 := [⟨0, .pa 0, List.replicate 32 0⟩] } 0 byteA.loc).isSome = true ∧
    (let u : BufByte := { byteA with buf := .cluster 0, author := .unit }
     let s := fun bs => { stored with crews := [crewA], buffers := bs }
     ∀ bs ∈ [[], [u]], (s bs).movedBytes ⟨1, 0⟩ 3 = [] ∧ (s bs).movedBytes ⟨1, 0⟩ 2 = [] ∧ (s bs).unitInFlight 0 = [] ∧ Unsent (s bs) crewA ∧
      MayMove ⟨g7, .device, false, 1⟩ (s bs) crewA []) :=
  ⟨⟨at_cmt g7 .cluster false _ [byteA] (by decide +kernel) rfl, by decide +kernel⟩,
    ⟨at_cmt g7 .cluster false _ [byteA] (by decide +kernel) rfl, by decide +kernel⟩, by decide +kernel, by unfold Unsent MayMove; decide +kernel⟩

theorem witness_Commit_without_bytes (l : CmtLevel) (bs : List BufByte) :
    AtCmt ⟨g7, l, false, 1⟩ { stored with crews := [crewA], buffers := bs } tA crewA :=
  at_cmt g7 l false crewA bs (by decide +kernel) rfl

/-- One byte in each of `n` sectors of a buffer. -/
def spread (buf : Buf) (a : Author) (n : Nat) : List BufByte :=
  (List.range n).map (fun i => { byteA with buf := buf, author := a, loc := .pa (32 * i), va := 32 * i })

theorem eraseDups_nodup {α : Type} [BEq α] [LawfulBEq α] : ∀ l : List α, l.Nodup → l.eraseDups = l
  | [], _ => rfl
  | a :: l, h => by
    have h := List.nodup_cons.1 h
    rw [List.eraseDups_cons, List.filter_eq_self.2 (fun b hb => by simpa using fun e => h.1 (by simpa [e] using hb)), eraseDups_nodup l h.2]

theorem spread_sector (i : Nat) : Loc.sector (.pa (32 * i)) = .pa (32 * i) := by simp [Loc.sector, Loc.down]

theorem spread_filter (buf : Buf) (a : Author) (n : Nat) (p : BufByte → Bool)
    (h : ∀ i, p { byteA with buf := buf, author := a, loc := .pa (32 * i), va := 32 * i } = true) : (spread buf a n).filter p = spread buf a n :=
  List.filter_eq_self.2 (fun b hb => by obtain ⟨i, -, rfl⟩ := List.mem_map.1 hb; exact h i)

theorem spread_none (buf : Buf) (a : Author) (n : Nat) (p : BufByte → Bool)
    (h : ∀ i, p { byteA with buf := buf, author := a, loc := .pa (32 * i), va := 32 * i } = false) : (spread buf a n).filter p = [] :=
  List.filter_eq_nil_iff.2 (fun b hb => by obtain ⟨i, -, rfl⟩ := List.mem_map.1 hb; simp [h i])

theorem spread_count (buf : Buf) (a : Author) (n : Nat) : State.sectorCount (spread buf a n) = n := by
  rw [State.sectorCount, spread, List.map_map, eraseDups_nodup, List.length_map, List.length_range]
  exact List.Nodup.map (fun i j h => by simpa [spread_sector] using h) List.nodup_range

theorem spread_keys (buf : Buf) (a : Author) (n : Nat) : (((spread buf a n).map (fun b => (b.buf, b.loc.sector))).eraseDups).length = n := by
  rw [spread, List.map_map, eraseDups_nodup, List.length_map, List.length_range]
  exact List.Nodup.map (fun i j h => by simpa [spread_sector] using h) List.nodup_range

/-- The team's quota, then the collector; the team's share of the cluster buffer, then the whole. -/
theorem rooms (n : Nat) :
    base.roomLimit ⟨1, 0⟩ (spread (.team 1) (.crew ⟨1, 0⟩) n) 1 = (if 256 < n then some 1 else if 2048 < n then some 3 else none) ∧
    base.roomLimit ⟨1, 0⟩ (spread (.crew ⟨1, 0⟩) (.crew ⟨1, 0⟩) n) 1 = (if 2048 < n then some 3 else none) ∧
    base.roomLimit ⟨1, 0⟩ (spread (.cluster 0) (.crew ⟨1, 0⟩) n) 2 = (if 512 < n then some 2 else if 8192 < n then some 4 else none) ∧
    base.roomLimit ⟨1, 0⟩ (spread (.cluster 0) .unit n) 2 = (if 8192 < n then some 4 else none) := by
  have hc : base.coreOf 1 = 0 := by decide +kernel
  have hl : base.clusterOfCrew ⟨1, 0⟩ = 0 := by decide +kernel
  refine ⟨?_, ?_, ?_, ?_⟩ <;> unfold State.roomLimit
  · rw [spread_filter _ _ _ _ (fun _ => by simp), State.collectorCount, spread_filter _ _ _ _ (fun _ => by simp), spread_count, spread_keys]
    rfl
  · rw [spread_none _ _ _ _ (fun _ => rfl), State.collectorCount, spread_filter _ _ _ _ (fun _ => by simp), spread_keys]
    rfl
  · have h := spread_filter (.cluster 0) (.crew ⟨1, 0⟩) n (fun b => b.buf == .cluster 0) (fun _ => by simp)
    simp only [hl, h, show (2 = 1) = False by decide, if_false, if_true]
    rw [spread_filter _ _ _ _ (fun _ => by simp), spread_count]
    rfl
  · have h := spread_filter (.cluster 0) .unit n (fun b => b.buf == .cluster 0) (fun _ => by simp)
    simp only [hl, h, show (2 = 1) = False by decide, if_false, if_true]
    rw [spread_none _ _ _ _ (fun _ => rfl), spread_count]
    rfl

theorem witness_Commit_rooms :
    (base.roomLimit ⟨1, 0⟩ (spread (.team 1) (.crew ⟨1, 0⟩) 256) 1 = none ∧ base.roomLimit ⟨1, 0⟩ (spread (.team 1) (.crew ⟨1, 0⟩) 257) 1 = some 1 ∧
      base.roomLimit ⟨1, 0⟩ (spread (.team 1) (.crew ⟨1, 0⟩) 2049) 1 = some 1) ∧
    (base.roomLimit ⟨1, 0⟩ (spread (.crew ⟨1, 0⟩) (.crew ⟨1, 0⟩) 2048) 1 = none ∧
      base.roomLimit ⟨1, 0⟩ (spread (.crew ⟨1, 0⟩) (.crew ⟨1, 0⟩) 2049) 1 = some 3) ∧
    (base.roomLimit ⟨1, 0⟩ (spread (.cluster 0) (.crew ⟨1, 0⟩) 512) 2 = none ∧ base.roomLimit ⟨1, 0⟩ (spread (.cluster 0) (.crew ⟨1, 0⟩) 513) 2 = some 2 ∧
      base.roomLimit ⟨1, 0⟩ (spread (.cluster 0) (.crew ⟨1, 0⟩) 8193) 2 = some 2) ∧
    base.roomLimit ⟨1, 0⟩ (spread (.cluster 0) .unit 8192) 2 = none ∧ base.roomLimit ⟨1, 0⟩ (spread (.cluster 0) .unit 8193) 2 = some 4 := by
  simp [rooms]

/-- A commit that finds a notice, one that would conflict in the team buffer, one without room there, and one without a true guard. -/
theorem witness_Commit_nothing :
    (let c := { crewA with notice := true }
     AtCmt ⟨g7, .device, false, 1⟩ { stored with crews := [c], buffers := [byteA] } tA c ∧ Unsent { stored with crews := [c] } c) ∧
    (let bs := [byteA, { byteA with buf := .team 1, author := .crew ⟨1, 1⟩, loc := .pa 3, va := 3 }]
     let s := { stored with crews := [crewA], buffers := bs }
     AtCmt ⟨g7, .team, true, 1⟩ s tA crewA ∧ s.conflictBits ⟨1, 0⟩ (s.movedBytes ⟨1, 0⟩ 1) 1 = 1) ∧
    (let bs := byteA :: (List.range 256).map (fun i => { byteA with buf := .team 1, loc := .pa (32 * (i + 1)), va := 32 * (i + 1) })
     let s := { stored with crews := [crewA], buffers := bs }
     AtCmt ⟨g7, .team, false, 1⟩ s tA crewA ∧ s.roomLimit ⟨1, 0⟩ (s.movedBuffers ⟨1, 0⟩ (s.movedBytes ⟨1, 0⟩ 1) 1) 1 = some 1) ∧
    ([ThreadId.mk 1 0].filterMap stored.thread? = [tA] ∧ tA.guard ⟨0, false⟩ = false) :=
  ⟨⟨at_cmt g7 .device false _ [byteA] (by decide +kernel) rfl, by unfold Unsent; decide +kernel⟩,
    ⟨at_cmt g7 .team true crewA _ (by decide +kernel) rfl, by decide +kernel⟩,
    ⟨at_cmt g7 .team false crewA _ (by decide +kernel) rfl, by decide +kernel⟩, by decide +kernel⟩

theorem witness_AbortAndAcquire :
    stored.cur = .flight 0 [⟨1, 0⟩] true ∧ [ThreadId.mk 1 0].filterMap stored.thread? = [tA] ∧ tA.guard g7 = true ∧
    OneThread lane 0 tA false ∧ tA.loads = [] := ⟨by decide +kernel, by decide +kernel, by decide +kernel, one_lane, by decide +kernel⟩

/-- Barrier 15 of the team is claimed, barrier 0 of the grid is not; a token of an earlier phase and one of the running phase. -/
theorem witness_BarrierArrival :
    OneThread lane 0 tA false ∧ lane.satDue ⟨1, 0⟩ = false ∧ lane.barrier? 1 ⟨.team, 15⟩ = some (probeBarrier 1) ∧
    lane.barrier? 1 ⟨.grid, 0⟩ = none ∧ barrierOfNumber (0x2F % 256) = some ⟨.team, 15⟩ ∧ tokenDone 1 0 = true ∧
    tokenDone 0 0 = false ∧ [ThreadId.mk 1 0].filterMap lane.thread? = [tA] := ⟨one_lane, by decide +kernel⟩

/-- R148, R155, R159: eight units of one `BARA` at a barrier of four: the next unit joins the second phase after; the first completion
leaves four units, which count as made then, and its report names the thread that made them. -/
theorem test_arrivals_carry :
    let b : Barrier := { probeBarrier 4 with a := 8, arr := [⟨1, 5, 0, 3, 8, false⟩] }
    b.joins = 2 ∧ b.first = some 3 ∧ b.last = some (5, 0, false) ∧ (b.next 7).a = 4 ∧ (b.next 7).p = 1 ∧ (b.next 7).first = some 7 ∧
      (b.next 7).last = some (5, 0, false) := by decide

/-- R152, R159: a withdrawn `BAR` is in no report. -/
theorem test_withdrawn_arrival :
    let b : Barrier := { probeBarrier 4 with a := 2, arr := [⟨1, 5, 0, 3, 1, true⟩, ⟨1, 6, 0, 9, 1, true⟩] }
    (b.withdraw ⟨1, 5⟩).a = 1 ∧ (b.withdraw ⟨1, 5⟩).first = some 9 := by decide

/-- A barrier with its one arrival made, and the same barrier without it. -/
theorem witness_BarrierPhase :
    let full := { base with teams := [{ teamA with bars := [{ probeBarrier 1 with a := 1 }] }] }
    full.team? 1 = some { teamA with bars := [{ probeBarrier 1 with a := 1 }] } ∧ teamA.place = .resident 0 ∧ tA.park = .none ∧
    base.team? 1 = some teamA ∧ teamA.bars[15]? = some (probeBarrier 1) ∧ (probeBarrier 1).a < (probeBarrier 1).e := by decide +kernel

/-- The waiter of BarrierPhase. -/
theorem witness_BarrierPhase_waiter :
    let t := { tA with park := .barrier ⟨.team, 0⟩ 0 false true }
    let s := { base with threads := [t] }
    s.threads.filter (fun u => u.id == t.id) = [t] ∧ t.id.team = 1 ∧ t.live = true := by decide +kernel

/-- R157: a thread that a team barrier has released forms no flight in the next cycle of its core, and forms one in the cycle after. -/
theorem test_released_waits_a_cycle :
    let t := { tA with park := .barrier ⟨.team, 0⟩ 0 false true }
    let full := { base with threads := [t], teams := [{ teamA with bars := [{ probeBarrier 1 with a := 1 }] }] }
    (full.completePhase [1] 1 ⟨.team, 0⟩).threads.map (fun u => (u.park, u.stall)) = [(.none, .released)] ∧
    (State.candidates { base with threads := [{ tA with stall := .released }] } 0).map Cand.threads = [] ∧
    (State.candidates (State.freeReleased { base with threads := [{ tA with stall := .released }] } 0) 0).map Cand.threads = [[tA.id]] := by
  decide +kernel

/-! ### Witnesses: uniform instructions -/

theorem witness_UniformArithmetic : OneCrew uni crewA ∧ crewA.guard g7 = true ∧ uni.liveOf ⟨1, 0⟩ = [tA] := ⟨one_uni, by decide +kernel⟩

/-- A wide access of the last eight bytes, with k5 = 1016. -/
def crewK : Crew := { crewA with k := crewA.k.set 5 1016 }
def uniK : State := { uni with crews := [crewK] }

theorem witness_UniformScratchpad : OneCrew uniK crewK ∧ crewK.guard g7 = true ∧ SpadOk uniK 1 ((crewK.reg 5).toNat + 0 * 8) 8 ∧ uniK.reds = [] := by
  unfold OneCrew; exact ⟨by decide +kernel, by decide +kernel, ⟨teamA, by decide +kernel⟩, by decide +kernel⟩

theorem witness_UniformControl : OneCrew uni crewA ∧ crewA.unack = 0 ∧ (∀ x ∈ uni.cmds, x.team = 1 → x.kind = .pairs) :=
  ⟨one_uni, by decide +kernel⟩

/-- A copy that issued after the fence's rendezvous completed. -/
theorem witness_UniformControl_fence :
    let c := { crewA with fence := some 2 }
    let s := { uni with crews := [c], cmds := [uni.newCmd crewA .cpy none 0 []] }
    OneCrew s c ∧ (∀ x ∈ s.cmds, x.team = 1 → 2 < x.id) := by
  unfold OneCrew; decide +kernel

/-! ### Witnesses: engine commands -/

/-- `n` words of a block, zero but for those listed. -/
def blockOf (n : Nat) (ws : List (Nat × Word)) : List Word := (List.range n).map (fun i => ((ws.find? (fun w => w.1 == i)).map Prod.snd).getD 0)

/-- The bytes of a block. -/
def blockBytes (ws : List Word) : List Byte := ws.flatMap (fun w => leBytes 4 w.toNat)

/-- The crew's focus in a team whose scratchpad begins with a block. -/
def teamB (ws : List Word) : Team := { teamA with spad := Memory.writeBytes [] 0 (blockBytes ws) }
def uniB (ws : List Word) : State := { uni with teams := [teamB ws], banks := [⟨0, 0, some 1, [], false, false⟩] }

/-- Four bytes from global address 0 to the team's scratchpad line 1. -/
def cpyA : List Word := blockOf 32 [(0, 0x14), (4, 0x80), (8, 4), (13, 1), (22, 1)]

/-- An 8-bit integer product of one row, one column and depth 128, its operands in lines 1 and 2. -/
def mmaA : List Word := blockOf 16 [(0, 6), (1, 0x00010001), (2, 128), (3, 0x80), (4, 0x100)]

/-- One element of the bank to line 1, its status to line 2. -/
def mmastA : List Word := blockOf 16 [(1, 0x00010001), (2, 0x80), (3, 16), (5, 0x100)]

/-- The pairs of one hierarchy with itself, 512 bytes at address 0. -/
def pairsA : List Word := blockOf 16 [(0, 1), (6, 512), (8, 4)]

/-- The block is ready. -/
theorem ready_of (ws : List Word) (n : Nat) (h : (0 + n ≤ 128 * (teamB ws).spadLines) := by decide +kernel)
    (ht : (uniB ws).team? 1 = some (teamB ws) := by rfl) (hl : (∀ t ∈ (uniB ws).liveOf ⟨1, 0⟩, t.loads = []) := by decide +kernel) :
    BlockReady (uniB ws) crewA (teamB ws) 0 n :=
  ⟨ht, rfl, hl, Nat.zero_mod n, h, fun r (hr : r ∈ ([] : List Sys2Proof.Machine.RedOp)) => by (cases hr), fun _ _ => by simp [teamB, teamA, probeTeam]⟩

/-- A code table in scratchpad line 2, and one in global memory, whose stream of one byte gives four bytes in line 1. -/
def cpyT : List Word := blockOf 32 [(0, 0x3015), (2, 0x180), (4, 0x80), (6, 0x100), (8, 4), (13, 1), (22, 1)]
def cpyG : List Word := blockOf 32 [(0, 0x3014), (2, 0x180), (4, 0x80), (6, 0x100), (8, 4), (13, 1), (22, 1)]

/-- What the statement asks of the block, from the state that its fetch leaves. -/
def copyPasses (ws : List Word) : Bool :=
  let s0 := { uniB ws with cur := .idle }
  let b := CopyBlock.of (blockAt (uniB ws) (teamB ws) 0 128)
  let r1 := s0.sideOf ⟨1, 0⟩ b.srck b.src b.sstr
  let r2 := r1.1.sideOf ⟨1, 0⟩ b.dstk b.dst b.dstr
  match r1.2, r2.2 with
  | .ok src, .ok dst =>
    let rs := b.ranges ⟨src.base, dst.base, src.str, dst.str⟩ (r2.1.tableCodes (teamB ws) b)
    let s3 := r2.1.logTable (teamB ws) b
    b.badField 2 == none && b.rulesOk && s0.targets (teamB ws) b == some [teamB ws] && b.xarg == b.xarg % 2 ^ 32 &&
      rs.all (fun r => decide (0 ≤ r.a) && r.a % (r.align : Int) == 0 && decide (r.a + r.n ≤ (if r.kind = 1 then 1024 else 2 ^ 52))) &&
      r2.1.tableWaits (teamB ws) b == none && s3.cur == .idle && decide (s3.copyLoad 0 < 160) &&
      s3.lockRoom 0 (State.copyLocks (teamB ws) rs).length
  | _, _ => false

theorem witness_CopyIssue :
    OneCrew (uniB cpyA) crewA ∧ OneCrew (uniB cpyT) crewA ∧ OneCrew (uniB cpyG) crewA ∧
    BlockReady (uniB cpyA) crewA (teamB cpyA) 0 128 ∧ BlockReady (uniB cpyT) crewA (teamB cpyT) 0 128 ∧
    BlockReady (uniB cpyG) crewA (teamB cpyG) 0 128 ∧ (uniB cpyA).ctx? 0 = some ctxA ∧
    copyPasses cpyA = true ∧ copyPasses cpyT = true ∧ copyPasses cpyG = true ∧ (teamB cpyA).spadSize = 1024 :=
  ⟨by unfold OneCrew; decide +kernel, by unfold OneCrew; decide +kernel, by unfold OneCrew; decide +kernel, ready_of cpyA 128, ready_of cpyT 128,
    ready_of cpyG 128, by decide +kernel, by decide +kernel, by decide +kernel, by decide +kernel, by decide +kernel⟩

/-- No copy in flight, and a limit above and at the number of copies. -/
def copyA : EngCmd := uni.newCmd crewA .cpy none 0 cpyA

theorem witness_CopyIssue_wait :
    OneCrew { uni with cmds := [copyA] } crewA ∧ (uni.cmds.countP (fun x => x.team == 1 && x.kind == .cpy)) ≤ 0 ∧
    0 < ([copyA].countP (fun x => x.team == 1 && x.kind == .cpy)) := by
  unfold OneCrew; decide +kernel

theorem witness_MatrixIssue_mma :
    OneCrew (uniB mmaA) crewA ∧ BlockReady (uniB mmaA) crewA (teamB mmaA) 0 64 ∧
    (let ws := blockAt (uniB mmaA) (teamB mmaA) 0 64
     let b := MmaBlock.of ws
     b.badField ws true true = none ∧ (uniB mmaA).participants (teamB mmaA) b = some [teamB mmaA] ∧
     (uniB mmaA).holdsBank (teamB mmaA) b.bank = true ∧ (∀ r ∈ b.operands, r.1 + r.2 ≤ (teamB mmaA).spadSize) ∧
     (uniB mmaA).matrixLoad 0 < 8) :=
  ⟨by unfold OneCrew; decide +kernel, ready_of mmaA 64, by decide +kernel⟩

theorem witness_MatrixIssue_mmast :
    OneCrew (uniB mmastA) crewA ∧ BlockReady (uniB mmastA) crewA (teamB mmastA) 0 64 ∧
    (let ws := blockAt (uniB mmastA) (teamB mmastA) 0 64
     let b := MmastBlock.of ws
     b.badField ws true = none ∧ (uniB mmastA).holdsBank (teamB mmastA) b.bank = true ∧
     (∀ r ∈ b.rows ++ [(b.soff, 4)], r.1 + r.2 ≤ (teamB mmastA).spadSize)) :=
  ⟨by unfold OneCrew; decide +kernel, ready_of mmastA 64, by decide +kernel⟩

/-- R389, log entry 47: the team's issue checks no longer call a bank held once its `MMAZ.REL` has issued, also after a new `MMAZ`; once the
release has taken effect, an `MMAZ` claims the bank again. -/
theorem test_release_ends_hold :
    let s := { uni with banks := [⟨0, 1, some 1, [], false, false⟩], cmds := [{ uni.newCmd crewA .mmazRel none 0 [] with bank := 1 }] }
    s.holdsBank teamA 1 = false ∧ (s.claimBank 0 1 1).holdsBank teamA 1 = false ∧
    (State.claimBank { s with cmds := [], banks := [⟨0, 1, none, [], false, false⟩] } 0 1 1).holdsBank teamA 1 = true := by decide +kernel

/-- A free bank, an own bank and another team's bank. -/
theorem witness_MatrixIssue_mmaz :
    let own := { uni with banks := [⟨0, 1, some 1, [], false, false⟩] }
    let other := { uni with banks := [⟨0, 1, some 9, [], false, false⟩] }
    OneCrew own crewA ∧ OneCrew other crewA ∧ uni.team? 1 = some teamA ∧ (∀ t ∈ uni.liveOf ⟨1, 0⟩, t.loads = []) ∧
    uni.matrixLoad 0 < 8 ∧ uni.banks = [] ∧ own.holdsBank teamA 1 = true ∧ uni.holdsBank teamA 1 = false := by
  unfold OneCrew; decide +kernel

theorem witness_MatrixIssue_pairs :
    OneCrew (uniB pairsA) crewA ∧ BlockReady (uniB pairsA) crewA (teamB pairsA) 0 64 ∧
    (let ws := blockAt (uniB pairsA) (teamB pairsA) 0 64
     (PairsBlock.of ws).badField ws ((uniB pairsA).node? 0 0) = none ∧ (uniB pairsA).pairsLoad 0 < 16 ∧
     (uniB pairsA).lockRoom 0 1 = true) :=
  ⟨by unfold OneCrew; decide +kernel, ready_of pairsA 64, by decide +kernel⟩

/-- A launch of one team of one thread on core 0. -/
def launchA : List Word := blockOf 32 [(2, 1), (4, 1), (16, 0x100), (17, 0x00080001), (18, 0x00010001), (19, 1)]

def launchBlock : LaunchBlock := LaunchBlock.of launchA

theorem witness_Launch :
    OneCrew (uniB launchA) crewA ∧ crewA.id.crew = 0 ∧
    (let s := uniB launchA
     s.team? 1 = some (teamB launchA) ∧ s.grid? 2 = some gridA ∧ gridA.depth < 10 ∧ 0 + 128 ≤ (teamB launchA).spadSize ∧
     s.spadPresent 1 0 128 = true ∧ blockAt s (teamB launchA) 0 128 = launchA ∧ launchBlock.badField launchA = none ∧
     launchBlock.args = 0 ∧
     (State.decideLaunch { s with cur := .idle } launchBlock 0 1 (some 1) (List.replicate 16 0)).1.cur = .idle) := by
  unfold OneCrew; decide +kernel

/-- The four decisions: a grid without cores, one with a grid barrier and no swap slots, one without room, one that is admitted. -/
theorem witness_Launch_decisions :
    let grid := fun (s : State) (b : LaunchBlock) => s.gridOfBlock b 0 0 none []
    let nowhere := { launchBlock with coremask := 0 }
    let many := { launchBlock with gbar := 1, roles := launchBlock.roles.map (fun r => { r with ntx := 15 }) }
    let noSwap := { base with ctxs := [{ ctxA with regs := { ctxA.regs with swapslots := 0 } }] }
    let full := { base with ctxs := [{ ctxA with regs := { ctxA.regs with saveslots := 1 } }] }
    let put := fun (s : State) => State.placeNext { s with lastId := s.lastId + 1, grids := s.grids ++ [grid s launchBlock] } (s.lastId + 1)
    base.fitsEmpty (grid base nowhere) = false ∧
    (noSwap.fitsEmpty (grid noSwap many) = true ∧ noSwap.noSwap (grid noSwap many) = true) ∧
    (full.fitsEmpty (grid full launchBlock) = true ∧ full.noSwap (grid full launchBlock) = false ∧ (put full).isNone = true) ∧
    (put base).isSome = true := by decide +kernel

/-- A running fill of one line whose record the crew's thread holds; the fill block names it, with its data in line 1 or a code. -/
def fillA (ws : List Joined) : Fill :=
  { pfid := 3, ctx := 0, gen := 0, span := 0x1000, name := 0x1000, log2span := 0, depth := 1, state := .running, cls := 0, waiters := ws }
def fillBlock (code soff : Nat) : List Word := blockOf 16 [(0, BitVec.ofNat 32 (3 + 0x10000 * code)), (1, BitVec.ofNat 32 soff)]
def filling (code soff : Nat) (ws : List Joined) : State :=
  { uniB (fillBlock code soff) with
    fills := [fillA ws], threads := [{ tA with record := some ⟨[], some 3, some 0, none⟩ }] }

/-- A line of the cache that lacks its first word, and one in a ballast store. -/
def lineF (name : Nat) (held : Bool) : EnvLine :=
  { ctx := 0, name := name, held := held, gen := 0, written := true, valid := held :: List.replicate 31 true, words := List.replicate 32 5 }

/-- A context's lines are few enough for every set of the cache. -/
theorem ways_free (s : State) (lines : List (Nat × Nat)) (h : s.envLines.length + lines.length ≤ 16) : WaysFree s lines :=
  fun _ _ _ => Nat.le_trans (Nat.add_le_add (List.length_filter_le _ _) List.countP_le_length) h

/-- Two fills whose records two threads of the crew hold, for the first of which a thread of another crew waits; the cache lists no line of theirs,
a partly valid one and a HELD one, or others. -/
def twoFills (code soff : Nat) (ws : List Joined) (ls : List EnvLine) : State :=
  { uniB (blockOf 16 [(0, BitVec.ofNat 32 (3 + 0x10000 * code)), (1, BitVec.ofNat 32 soff), (2, BitVec.ofNat 32 (4 + 0x10000 * code)),
      (3, BitVec.ofNat 32 (2 * soff))]) with
    fills := [fillA ws, { fillA [] with pfid := 4, span := 0x2000, name := 0x2000 }]
    threads := [{ tA with record := some ⟨[], some 3, some 0, none⟩ }, { tA with id := ⟨1, 1⟩, record := some ⟨[], some 4, some 0, none⟩ },
      { tA with id := ⟨1, 32⟩, park := .fill }]
    envLines := ls }

theorem witness_FillEnds_two :
    let j : Joined := ⟨.thread ⟨1, 32⟩, 0x1004, .read⟩
    let fs := [fillA [j], { fillA [] with pfid := 4, span := 0x2000, name := 0x2000 }]
    ∀ ls ∈ [[], [lineF 0x1000 false, lineF 0x2000 true], [lineF 0x2000 false]],
      let s := twoFills 0 0x80 [j] ls
      OneCrew s crewA ∧ s.monitors = [] ∧ s.overflow = [] ∧ s.spadPresent 1 0 16 = true ∧
      ((s.team? 1).map (fun tm => fillEntries (blockAt s tm 0 64) 2)) = some [⟨3, 0, 0, 0x80⟩, ⟨4, 0, 0, 0x100⟩] ∧
      s.holdsFill ⟨1, 0⟩ 3 = true ∧ s.holdsFill ⟨1, 0⟩ 4 = true ∧ [3, 4].filterMap s.fill? = fs ∧ s.spadPresent 1 0x80 128 = true ∧
      s.spadPresent 1 0x100 128 = true ∧ (fillLines fs).Nodup ∧ WaysFree s (fillLines fs) ∧ ThreadsWait s fs := by
  intro j fs ls hl
  have hw : WaysFree (twoFills 0 0x80 [j] ls) (fillLines fs) := ways_free _ _ (by
    have : ls.length ≤ 2 := by fin_cases hl <;> decide
    exact Nat.le_trans (Nat.add_le_add_right this _) (by decide))
  have ht : ThreadsWait (twoFills 0 0x80 [j] ls) fs := by
    refine ⟨by decide, fun k hk => ⟨{ tA with id := ⟨1, 32⟩, park := .fill }, ?_⟩, ?_⟩
    · obtain rfl : k = j := by simpa [fs, fillA] using hk
      exact ⟨rfl, rfl, rfl, rfl⟩
    · intro k hk
      obtain rfl : k = j := by simpa [fs, fillA] using hk
      exact ⟨fun r hr => (by cases hr), fun m hm => (by cases hm), fun f hf => .inl hf⟩
  refine ⟨⟨rfl, rfl⟩, rfl, rfl, ?_, ?_, ?_, ?_, ?_, ?_, ?_, by decide, hw, ht⟩ <;> fin_cases hl <;> decide +kernel

/-- `FILLFAIL` of the two, without a waiter. -/
theorem witness_FillEnds_fails :
    let s := twoFills 0xEF 0 [] []
    OneCrew s crewA ∧ ((s.team? 1).map (fun tm => fillEntries (blockAt s tm 0 64) 2)) = some [⟨3, 0xEF, 0, 0⟩, ⟨4, 0xEF, 0, 0⟩] ∧
    (∀ f ∈ [3, 4].filterMap s.fill?, f.waiters = []) := by
  unfold OneCrew; decide +kernel

theorem witness_FillEnds :
    OneCrew (filling 0 0x80 []) crewA ∧ (filling 0 0x80 []).team? 1 = some (teamB (fillBlock 0 0x80)) ∧
    0 + 64 ≤ (teamB (fillBlock 0 0x80)).spadSize ∧ (filling 0 0x80 []).spadPresent 1 0 8 = true ∧
    fillEntries (blockAt (filling 0 0x80 []) (teamB (fillBlock 0 0x80)) 0 64) 1 = [⟨3, 0, 0, 0x80⟩] ∧
    (filling 0 0x80 []).holdsFill ⟨1, 0⟩ 3 = true ∧ (filling 0 0x80 []).fill? 3 = some (fillA []) ∧
    (filling 0 0x80 []).spadPresent 1 0x80 128 = true ∧ (filling 0 0x80 []).overflow = [] ∧
    fillEntries (blockAt (filling 0xEF 0 []) (teamB (fillBlock 0xEF 0)) 0 64) 1 = [⟨3, 0xEF, 0, 0⟩] ∧
    (filled (filling 0xEF 0 [⟨.thread ⟨1, 0⟩, 0x1000, .read⟩]) 3).thread? ⟨1, 0⟩ = some { tA with record := some ⟨[], none, some 0, none⟩ } := by
  unfold OneCrew; decide +kernel

/-! ### Witnesses: the scheduler, timers and errors -/

theorem witness_Scheduling_issue :
    Runs base ∧ Calm base ∧ base.cores[575]? = some Core.reset ∧ base.threads = [tA] ∧
    teamA.place = .resident 0 ∧ teamA.blocked = 0 ∧ gridA.stopped = false ∧ base.ctx? 0 = some ctxA ∧ ctxA.regs.ptroot ≠ 0 ∧
    ctxA.preempted = false ∧ ctxA.lost = false ∧ ctxA.stopping = false ∧ tA.arrived = none ∧ tA.loads = [] ∧ peekWord? base tA.id tA.pc = some 0 ∧
    needsExt 0 = false ∧ atConvergent base tA = false ∧ (∀ c ∈ base.crews, c.rdvFrom = none) := by
  unfold Runs Calm; decide +kernel

/-- Two teams of one thread each, of two contexts, on one core; the second team has class `n`. -/
def both (n : Nat) (f g : Thread → Thread) : State := { base with
  ctxs := [ctxA, { ctxA with id := 1 }], grids := [gridA, { gridA with id := 3, ctx := 1, prio := n }]
  teams := [teamA, { teamA with id := 2, grid := 3, ctx := 1 }], threads := [f tA, g { tA with id := ⟨2, 0⟩ }]
  tlb := [⟨.core 0, 0, pageA⟩, ⟨.core 0, 1, pageA⟩] }

/-- Each key of the ranking decides: an aged entry, the longer wait of two aged ones, an entry that is not demoted, the higher class, the older
entry, the lower program counter, the lower context. -/
theorem witness_Scheduling_ranking :
    let aged := fun (w : Nat) (t : Thread) => { t with aged := true, wait := w }
    let first := fun (s : State) (t u : Thread) => RanksBefore s 0 1 t u
    let t0 := tA
    let u0 := { tA with id := ⟨2, 0⟩ }
    (Runs (both 0 id id) ∧ (both 0 id id).cores[0]? = some Core.reset ∧ (∀ c ∈ (both 0 id id).crews, c.rdvFrom = none) ∧
      ((both 0 id id).threads.map Thread.id).Nodup) ∧
    first (both 2 (aged 9) id) (aged 9 t0) u0 ∧ first (both 2 (aged 9) (aged 8)) (aged 9 t0) (aged 8 u0) ∧
    first (both 2 id (fun t => { t with demoted := some 5 })) t0 { u0 with demoted := some 5 } ∧ first (both 2 id id) u0 t0 ∧
    first { both 0 id (fun t => { t with pc := 4 }) with pcTable := [⟨0, 0, 0, 7⟩, ⟨0, 1, 4, 6⟩] } { u0 with pc := 4 } t0 ∧
    first (both 0 (fun t => { t with pc := 4 }) id) u0 { t0 with pc := 4 } ∧ first (both 0 id id) t0 u0 := by
  unfold Runs RanksBefore entryOf; decide +kernel

theorem witness_Scheduling_issuable :
    (∀ u ∈ (both 2 id id).threads, Issuable (both 2 id id) 0 u) ∧ Issuable base 0 tA := by
  refine ⟨fun u hu => ?_, teamA, gridA, ctxA, 0, by decide +kernel⟩
  rcases List.mem_cons.1 (show u ∈ [tA, { tA with id := ⟨2, 0⟩ }] from hu) with rfl | hu
  · exact ⟨teamA, gridA, ctxA, 0, by decide +kernel⟩
  · obtain rfl := List.mem_singleton.1 hu
    exact ⟨{ teamA with id := 2, grid := 3, ctx := 1 }, { gridA with id := 3, ctx := 1, prio := 2 }, { ctxA with id := 1 }, 0, by decide +kernel⟩

/-- A crew whose only thread has arrived at a uniform word. -/
def rdv : State := { base with
  threads := [{ tA with arrived := some 0, conv := some 0x85C01083 }], mem := base.mem.writeBytes 0 [0x83, 0x10, 0xC0, 0x85] }

theorem witness_Scheduling_rendezvous :
    Runs rdv ∧ Calm rdv ∧ (∀ x ∈ rdv.ctxs, x.stopping = false) ∧ rdv.crews = [crewA] ∧ crewA.retired = false ∧
    crewA.stalled = false ∧ crewA.phArm = false ∧
      rdv.liveOf ⟨1, 0⟩ = [{ tA with arrived := some 0, conv := some 0x85C01083 }] ∧
    rdv.rendezvousAt ⟨1, 0⟩ = some (0, 0) ∧ rdv.cores[0]? = some Core.reset ∧ Core.reset.pipe ≠ some Core.reset.cycle ∧
    0x80000000 ≤ (0x85C01083 : Word).toNat ∧
    (∀ u ∈ rdv.liveOf ⟨1, 0⟩, u.loads = []) := by
  unfold Runs Calm; decide +kernel

/-- An armed phase timer one cycle beyond its limit. -/
theorem witness_TimersAndErrors_phase :
    let c := { crewA with phArm := true, phLimit := 7, phCount := 8 }
    let s := { base with crews := [c] }
    s.crew? ⟨1, 0⟩ = some c ∧ s.threads.filter (fun u => u.id == tA.id) = [tA] ∧ CanTrap s tA := by
  unfold CanTrap; decide +kernel

theorem witness_TimersAndErrors_monitor :
    let t := { tA with park := .monitor }
    let s := { base with
      threads := [t], monitors := [⟨⟨1, 0⟩, .pa 0, 0⟩], cores := base.cores.set 0 { Core.reset with cycle := 65536 } }
    s.thread? ⟨1, 0⟩ = some t ∧ s.monitors.find? (fun x => x.thread == t.id) = some ⟨⟨1, 0⟩, .pa 0, 0⟩ ∧ s.outside 1 = false ∧
    0 + 65536 ≤ s.cycleOf (s.coreOf 1) := by decide +kernel

theorem witness_TimersAndErrors_load :
    let l : Load := { slot := 4, dst := 5, regs := 1, size := 4, sext := false, ctx := 0, va := 0, loc := .pa 0, done := true,
                      install := none, at_ := 0, remote := false }
    let t := { tA with loads := [l] }
    State.thread? { base with threads := [t] } ⟨1, 0⟩ = some t ∧ t.loads.find? (fun x => x.slot == l.slot) = some l ∧
      l.install = none ∧ base.landings = [] ∧ base.parkedLandings = [] ∧ base.delayed l.loc = false := by decide +kernel

/-- An `.ACQ` of cluster scope that waits for one load, and one that waits for two. -/
theorem witness_TimersAndErrors_acquire :
    let l : Load := { slot := 4, dst := 5, regs := 1, size := 4, sext := false, ctx := 0, va := 0, loc := .pa 0, done := true,
                      install := none, at_ := 0, remote := false }
    ∀ ls ∈ [[l], [l, { l with slot := 5, dst := 6 }]],
      let t := { tA with loads := ls, stall := .acq 2 }
      State.thread? { base with threads := [t] } ⟨1, 0⟩ = some t ∧ t.loads.find? (fun x => x.slot == l.slot) = some l ∧ l.install = none ∧
        NoneLanding base l.loc ∧ base.delayed l.loc = false := by
  unfold NoneLanding; decide +kernel

/-- A load of a peer's memory that returns, over a link, and without one. -/
theorem witness_TimersAndErrors_remote :
    let l : Load := { slot := 4, dst := 5, regs := 1, size := 4, sext := false, ctx := 0, va := 0, loc := peerLoc, done := false,
                      install := none, at_ := 0, remote := true }
    let t := { tA with loads := [l], stall := .remote }
    (∀ ls ∈ [[linkUp], []], let s := { remoteS ls with threads := [t] }
      s.thread? ⟨1, 0⟩ = some t ∧ NoneLanding s l.loc ∧ s.delayed l.loc = false ∧ s.loadBytes? ⟨1, 0⟩ 0 l.loc 4 = some [0, 0, 0, 0] ∧
        s.needsFar ⟨1, 0⟩ 0 l.loc 4 = true ∧ CanTrap s t) ∧
    State.reachable { remoteS [linkUp] with threads := [t] } l.loc false = true ∧ State.reachable { remoteS [] with threads := [t] } l.loc false = false := by
  refine ⟨?_, ?_, ?_⟩
  · intro ls hl
    have hd : ∀ x ∈ ls, x.down = none := by fin_cases hl <;> decide
    refine ⟨rfl, ?_, up_not_delayed _ hd _, ?_, ?_, ?_⟩ <;> (try unfold NoneLanding) <;> (try unfold CanTrap) <;> fin_cases hl <;> decide +kernel
  · exact (remote_reachable [linkUp] false).trans (by decide +kernel)
  · exact (remote_reachable [] false).trans (by decide +kernel)

theorem witness_TimersAndErrors_park :
    let tm := { teamA with parkedSince := some 0 }
    let s := { base with teams := [tm], threads := [{ tA with park := .query }], time := 100 * 10 ^ 9 }
    s.team? 1 = some tm ∧ 0 + 100 * 10 ^ 9 ≤ s.time ∧ (∀ t ∈ s.threads, t.park ≠ .none) := by decide +kernel

theorem witness_TimersAndErrors_soft :
    base.team? 1 = some teamA ∧ base.grid? 2 = some gridA ∧ gridA.stopped = false ∧ base.ctx? 0 = some ctxA ∧ ctxA.erwait = [] ∧
    (ctxA.regs.erprod + 2 ^ 32 - ctxA.regs.ercons) % 2 ^ 32 < 2 ^ ctxA.regs.erlog2 ∧ base.physBlocked 0x4000 32 true = [] := by decide +kernel

/-! ### Witnesses: the memory system -/

def walkA : Walk := { ctx := 0, frame := 0, core := 0, va := 0x3000, kind := .read, write := false, joined := [⟨.thread ⟨1, 0⟩, 0x3000, .read⟩] }

/-- Five tables, one page each from 0x10000 on, that lead address 0x3000 to the frame at 0x7000. -/
def tables : Memory :=
  (((Memory.writeBytes [] 0x10000 (leBytes 8 0x11103)).writeBytes 0x11000 (leBytes 8 0x12103)).writeBytes 0x12000 (leBytes 8 0x13103)
    |>.writeBytes 0x13000 (leBytes 8 0x14103)).writeBytes 0x14018 (leBytes 8 0x7105)

/-- The same tables, with the entry that they lead to in the table of a level, in place of the page's or on the way to it. -/
def walking (level e : Nat) (ws : List Walk) : State :=
  { base with mem := tables.writeBytes (if level = 0 then 0x14018 else if level = 1 then 0x13000 else 0x12000) (leBytes 8 e), walks := ws }

theorem leads (level e : Nat) (ws : List Walk)
    (h : 0x11103 = tableEntry (walking level e ws) 0x10000 4 0x3000 ∧ 0x12103 = tableEntry (walking level e ws) (pteFrame 0x11103) 3 0x3000 ∧
      (level = 2 ∧ e = tableEntry (walking level e ws) (pteFrame 0x12103) 2 0x3000 ∨ 0x13103 = tableEntry (walking level e ws) (pteFrame 0x12103) 2 0x3000 ∧
        (level = 1 ∧ e = tableEntry (walking level e ws) (pteFrame 0x13103) 1 0x3000 ∨
          0x14103 = tableEntry (walking level e ws) (pteFrame 0x13103) 1 0x3000 ∧ level = 0 ∧
            e = tableEntry (walking level e ws) (pteFrame 0x14103) 0 0x3000))) : LeadsTo (walking level e ws) 0x10000 0x3000 level e := by
  have p : ∀ x ∈ [0x11103, 0x12103, 0x13103, 0x14103], PointsOn x := by unfold PointsOn; decide +kernel
  exact ⟨_, _, h.1, h.2.1, p _ (by simp), p _ (by simp), h.2.2.imp id fun h => ⟨_, h.1, p _ (by simp), h.2.imp id fun h => ⟨_, h.1, p _ (by simp), h.2⟩⟩⟩

/-- Leaves of 4 KiB, 2 MiB and 1 GiB that allow a read, of which the two larger ones take another walk along. -/
theorem witness_WalksAndFaults_leaf :
    let near : Walk := { walkA with frame := 4, va := 0x4000, joined := [⟨.thread ⟨1, 1⟩, 0x4000, .fetch⟩] }
    (∀ x ∈ [(0, 0x7105), (1, 0x200105), (2, 0x40000105)], PlainLeaf x.1 x.2) ∧
    (∀ x ∈ [(0, 0x7105), (1, 0x200105), (2, 0x40000105)], LeadsTo (walking x.1 x.2 [walkA, near]) 0x10000 0x3000 x.1 x.2 ∧
      (walking x.1 x.2 [walkA, near]).walks[0]? = some walkA ∧ (walking x.1 x.2 [walkA, near]).ctx? 0 = some ctxA) ∧
    ctxA.regs.ptroot = 0x10000 ∧ walkA.write = false ∧ walkA.kind ≠ .fetch ∧
    insidePage walkA 0 near = false ∧ insidePage walkA 1 near = true ∧ insidePage walkA 2 near = true ∧
    together walkA [near] (insidePage walkA 1) = [⟨.thread ⟨1, 0⟩, 0x3000, .read⟩, ⟨.thread ⟨1, 1⟩, 0x4000, .fetch⟩] := by
  refine ⟨by unfold PlainLeaf pageBytes; decide +kernel, ?_, by unfold insidePage pageBytes; decide +kernel⟩
  simp only [List.forall_mem_cons, List.not_mem_nil, false_implies, implies_true, and_true]
  exact ⟨⟨leads _ _ _ (by unfold tableEntry; decide +kernel), by decide +kernel⟩, ⟨leads _ _ _ (by unfold tableEntry; decide +kernel), by decide +kernel⟩,
    ⟨leads _ _ _ (by unfold tableEntry; decide +kernel), by decide +kernel⟩⟩

/-- A store that reaches a page without W, a fetch that reaches one without X, and, joined to them, an access of the other sort. -/
theorem witness_WalksAndFaults_denied :
    let st : Walk := { walkA with kind := .write, write := true, joined := [⟨.thread ⟨1, 0⟩, 0x3000, .write⟩, ⟨.thread ⟨1, 1⟩, 0x3000, .read⟩] }
    let fe : Walk := { walkA with kind := .fetch, joined := [⟨.thread ⟨1, 0⟩, 0x3000, .fetch⟩, ⟨.thread ⟨1, 1⟩, 0x3000, .read⟩] }
    LeadsTo (walking 0 0x7101 [st]) 0x10000 0x3000 0 0x7101 ∧ PlainLeaf 0 0x7101 ∧ bitAt 0x7101 2 = false ∧ bitAt 0x7101 3 = false ∧
    LeadsTo (walking 0 0x7101 [fe]) 0x10000 0x3000 0 0x7101 ∧ (walking 0 0x7101 [st]).walks[0]? = some st ∧ (walking 0 0x7101 [fe]).walks[0]? = some fe ∧
    st.joined.map (fun j => (j.kind == .fetch) == (st.kind == .fetch) && writes j.kind == st.write) = [true, false] ∧
    fe.joined.map (fun j => (j.kind == .fetch) == (fe.kind == .fetch) && writes j.kind == fe.write) = [true, false] :=
  ⟨leads _ _ _ (by unfold tableEntry; decide +kernel), by unfold PlainLeaf pageBytes; decide +kernel, by decide +kernel, by decide +kernel,
    leads _ _ _ (by unfold tableEntry; decide +kernel), by decide +kernel⟩

theorem witness_WalksAndFaults_absent :
    let s := { base with walks := [walkA] }
    s.walks[0]? = some walkA ∧ s.ctx? 0 = some ctxA ∧ bitAt (tableEntry s 0x10000 4 0x3000) 0 = false ∧ s.thread? ⟨1, 0⟩ = some tA := by
  unfold tableEntry; decide +kernel

def faultA : Fault94 := { seq := some 5, va := 0x3000, kind := .read, core := 0, joined := [⟨.thread ⟨1, 0⟩, 0x3000, .read⟩] }

/-- Replies 5 and 5 with bit 31 find the record, reply 6 finds none. -/
theorem witness_WalksAndFaults_reply :
    let c := { ctxA with faults := [faultA] }
    let s := { base with ctxs := [c] }
    s.ctx? 0 = some c ∧ c.faults.find? (fun x => x.seq == some ((5 : Word).toNat % 2 ^ 31)) = some faultA ∧
    c.faults.find? (fun x => x.seq == some ((0x80000005 : Word).toNat % 2 ^ 31)) = some faultA ∧ (5 : Word).getLsbD 31 = false ∧
    (0x80000005 : Word).getLsbD 31 = true ∧ s.outside 1 = false ∧ (∀ f ∈ c.faults, f.seq ≠ some ((6 : Word).toNat % 2 ^ 31)) ∧
    HostMay s 0x1008C true := by
  unfold HostMay; decide +kernel

def landA : Landing :=
  { author := .crew ⟨1, 0⟩, crew := ⟨1, 0⟩, fdepth := 0, ctx := 0, va := 0x40, loc := .pa 0x40, tr := pageA,
    bytes := [(0, 1), (31, 2)], implied := 0, core := 0, seen := 0, id := 0, cmd := 0 }
def waitA : CommitWait :=
  { crew := ⟨1, 0⟩, members := [⟨1, 0⟩], waiters := [⟨1, 0⟩], pd := 1, result := true, cflict := 0, unitWait := [], units := false, barrier := false, trap := none }

theorem witness_MemoryEvents_landing :
    let s := { base with landings := [landA] }
    s.landings[0]? = some landA ∧ s.reachable (.pa 0x40) true = true ∧ landA.tr.c = false ∧
      (∀ b ∈ landA.bytes, ∀ b' ∈ landA.bytes, b'.1 = b.1 → b' = b) := by decide +kernel

/-- An acknowledgement of a crew without a commit, the last one of a commit, and one of the cluster unit. -/
theorem witness_MemoryEvents_acks :
    let last := { crewA with unack := 1 }
    let s := { base with acks := [⟨.crew ⟨1, 0⟩, 0, 0⟩], crews := [last], commits := [waitA] }
    let u := { base with acks := [⟨.unit, 5, 0⟩], commits := [{ waitA with unitWait := [5, 6] }] }
    base.commits = [] ∧ s.acks[0]? = some ⟨.crew ⟨1, 0⟩, 0, 0⟩ ∧ s.crew? ⟨1, 0⟩ = some last ∧ last.unack = 1 ∧ waitA.unitWait = [] ∧
      waitA.members ≠ [] ∧
    waitA.waiters ≠ [] ∧ u.acks[0]? = some ⟨.unit, 5, 0⟩ ∧ u.commits = [{ waitA with unitWait := [5, 6] }] ∧ 6 ∈ [5, 6] ∧ 6 ≠ 5 := by decide +kernel

/-- The last acknowledgement of a crew whose commit has still to send a word of the cluster unit. -/
theorem witness_MemoryEvents_units :
    let b : BufByte := { byteA with buf := .cluster 0, author := .unit }
    let s := { base with acks := [⟨.crew ⟨1, 0⟩, 0, 0⟩], crews := [{ crewA with unack := 1 }], commits := [{ waitA with units := true }], buffers := [b] }
    s.acks[0]? = some ⟨.crew waitA.crew, 0, 0⟩ ∧ s.crew? waitA.crew = some { crewA with unack := 1 } ∧ clusterOf (s.coreOf waitA.crew.team) = 0 ∧
      b ∈ s.buffers := by decide +kernel

/-- A word of the cluster unit in the buffer of cluster 35. -/
theorem witness_MemoryEvents_unit :
    let b : BufByte := { byteA with buf := .cluster 35, author := .unit, loc := .pa 0x44, va := 0x44 }
    State.buffers { base with buffers := [b, byteA] } = [b, byteA] ∧
    [b, byteA].filter (fun b => b.buf == .cluster 35 && b.author == .unit && b.loc.down 4 == Loc.down (.pa 0x47) 4) = [b] := by decide +kernel

def lineA (written : Bool) : EnvLine :=
  { ctx := 0, name := 0x1000, held := false, gen := 0, written := written, valid := List.replicate 32 true, words := List.replicate 32 0 }

theorem witness_MemoryEvents_evictions :
    let s := fun w => { base with envLines := [lineA w] }
    (s true).pins = [] ∧ (s true).monitors = [] ∧ (s true).envLine? 0 0x1000 = some (lineA true) ∧
      (s false).envLine? 0 0x1000 = some (lineA false) ∧ ctxA.gens[0]? = some genA ∧
    genA.ballast = false ∧ (s true).envLines.countP (fun x => x.ctx == 0 && x.held) < ctxA.regs.ballast * 0x4000000 / 128 := by
  decide +kernel

def missA : Miss :=
  { ctx := 0, va := 0x1080, word := 0x1080, loc := .env 0 0x1080, gen := 0, pageBase := 0x1000, pageSize := 0x1000, depth := 1, cls := 0,
    waiter := .thread ⟨1, 0⟩, kind := .read }

/-- A miss whose word has become valid, one that a fill serves, and one that needs a fill of its own. -/
theorem witness_MemoryEvents_misses :
    let valid := { base with misses := [missA], envLines := [{ lineA false with name := 0x1080 }] }
    let served := { base with misses := [missA], fills := [{ fillA [] with span := 0x1080, depth := 2 }] }
    let own := { base with misses := [missA] }
    valid.misses[0]? = some missA ∧ valid.devByte? missA.loc = some 0 ∧ valid.outside 1 = false ∧
    ((valid.envLine? 0 0x1080).map EnvLine.held = some false ∧ tA.run = none ∧ valid.replays = [] ∧ without valid.misses 0 ++ valid.overflow = [] ∧
      valid.fills = []) ∧
    own.envLine? 0 0x1080 = none ∧ missA.depth < 2 ∧ missA.pageBase ≤ 0x1080 ∧ 0x1080 + 128 ≤ missA.pageBase + missA.pageSize ∧
    genA.vbase ≤ 0x1080 ∧
    served.fills.any (fun f => f.ctx == 0 && f.span == missA.word - missA.word % 128 && f.depth == missA.depth + 1) = true ∧
    own.fills = [] ∧ own.freePfid = some 0 ∧ ctxA.nodes[1]? = some nodeF ∧ ctxA.canAlloc 1 = true ∧ NoTrigger ctxA 1 2 nodeF := by
  unfold NoTrigger; decide +kernel

/-! ### Witnesses: work distribution -/

/-- A launch ring and a record ring with one entry each. -/
def ringA (record : Bool) : NotifyReg :=
  { page := 0, reg := 0, base := 0x1000, log2n := 3, record := record, node := 0, prod := 1, cons := 0, nstat := 1 }
def ringS (record : Bool) : State :=
  { base with tlb := [⟨.core Config.noCore, 0, pageA⟩], notify := [ringA record], mem := base.mem.writeBytes 0x1000 (blockBytes launchA) }

theorem witness_WorkDistribution_notify :
    (0 < 4096 ∧ 63 < 64) ∧ HostMay base (0x1000000 + 64 * 63 + 0x10) true ∧ HostMay base (0x1000000 + 64 * 63 + 0x18) false ∧
      (base.notifyReg 0 63).base = 0 ∧ (ringS false).notifyReg 0 0 = ringA false ∧ (ringA false).base ≠ 0 ∧
    ((9 : Word).toNat + 2 ^ 32 - 1) % 2 ^ 32 ≤ 2 ^ 3 ∧ 2 ^ 3 < ((9 : Word).toNat + 2 ^ 32 - 0) % 2 ^ 32 := by
  unfold HostMay; decide +kernel

theorem witness_WorkDistribution_launchRing :
    let s := ringS false
    let s0 := { s with lastId := s.lastId + 1, images := s.images ++ [⟨s.lastId + 1, 0, none, 0, 0, [], .none, false, false⟩] }
    let r1 := State.reachRead s0 Config.noCore 0 (ringA false).entryVa 128 0 0 .devRead (.image (s.lastId + 1))
    (ringA false).prod ≠ (ringA false).cons ∧ s.scheduled (s.pageContext 0) = true ∧ s.images = [] ∧ s.offering = false ∧
    (match r1.2 with | .ok bs => bs == blockBytes launchA | _ => false) = true ∧
    LaunchBlock.badField (LaunchBlock.of launchA) launchA = none ∧
    (match ((r1.1.unpin (.image (s.lastId + 1))).reach Config.noCore 0 ((ringA false).entryVa + 0x3C) true .devWrite (.image (s.lastId + 1))).2 with
      | .ok tr (.pa a) => a == 0x103C && !tr.c
      | _ => false) = true ∧
    (State.decideLaunch s launchBlock 0 0 none (List.replicate 16 0)).2 = 0 := by decide +kernel

theorem witness_WorkDistribution_recordRing :
    let s := ringS true
    let s0 := { s with lastId := s.lastId + 1, images := s.images ++ [⟨s.lastId + 1, 0, none, 0, 0, [], .none, false, false⟩] }
    (ringA true).record = true ∧ s.node? 0 0 = some nodeA ∧ s.canAlloc 0 0 = true ∧
    (match (State.reachRead s0 Config.noCore 0 (ringA true).entryVa (4 * 6) 0 0 .devRead (.image (s.lastId + 1))).2 with | .ok _ => true | _ => false) = true ∧
    NoTrigger ctxA 0 (nodeA.partOf 0) nodeA := by
  unfold NoTrigger; decide +kernel

def imageA (bad : Bool) : ImageRead :=
  { id := 7, ctx := 0, crew := some ⟨1, 0⟩, page := 0, reg := 0, block := blockBytes (launchA.set 6 0x40), wait := .none, bad := bad, mute := false }

theorem witness_WorkDistribution_images :
    let s := fun b => { base with images := [imageA b] }
    (s true).images[0]? = some (imageA true) ∧ (imageA true).block ≠ [] ∧ (s true).scheduled 0 = true ∧ (s true).offering = false ∧
    (LaunchBlock.of (State.wordsOf (imageA false).block 32)).args = 0x40 ∧
    (match (State.reachRead (s false) 0 0 0x40 64 0 0 .devRead (.image 7)).2 with | .ok _ => true | _ => false) = true ∧
    (State.reachRead (s false) 0 0 0x40 64 0 0 .devRead (.image 7)).1.images = (s false).images := by decide +kernel

/-- A record that has waited 100·T ns, and a formed batch. -/
def entryA : BinEntry := { node := 0, part := 0, record := ⟨[1, 2, 3, 4, 5, 6], none, none, none⟩, entered := 0 }

theorem witness_WorkDistribution_batches :
    let c := { ctxA with bins := [entryA] }
    let s := { base with ctxs := [c], time := 10 * 100 * 10 ^ 6 }
    let b : Batch := ⟨0, 0, [entryA.record], 0⟩
    let d := { base with ctxs := [{ ctxA with batches := [b] }] }
    s.ctx? 0 = some c ∧ c.binPart 0 0 = [entryA] ∧ nodeA.t ≠ 0xFFFF ∧ entryA.entered + nodeA.t * 100 * 10 ^ 6 ≤ s.time ∧ 1 ≤ nodeA.c ∧
    (batchPlace d 0 b).isSome = true ∧ batchTurn d 0 0 = true ∧ d.offering = false ∧ nodeA.args = 0 ∧ (∀ t ∈ d.teams, t.grid ≤ d.lastId ∧
      t.id ≤ d.lastId) ∧
    (∀ g ∈ d.grids, g.id ≤ d.lastId) := by decide +kernel

theorem witness_WorkDistribution_retirement :
    let tm := { teamA with place := .draining 0 }
    let s := { base with teams := [tm], threads := [{ tA with live := false }] }
    s.team? 1 = some tm ∧ s.cmds = [] ∧ (∀ c ∈ s.crews, c.unack = 0) ∧ (∀ g ∈ s.grids, g.parent = none) ∧ s.buffers = [] ∧
    tm.id ≤ s.lastId ∧ s.grid? 2 = some gridA ∧ gridA.unitCount ≤ gridA.nextUnit := by decide +kernel

/-! ### Witnesses: the events of the engines -/

def cmdOf (k : CmdKind) (ws : List Word) (guard : Option Nat) (started : Option Nat) : EngCmd :=
  { uni.newCmd crewA k guard 0 ws with started := started }

/-- A queue head without a guard, with a slot that is FALSE, and with one that stays UNRESOLVED. -/
theorem witness_EngineCommands_heads :
    let tm := { teamA with gslots := .false :: teamA.gslots }
    let s := fun g => { base with teams := [tm], threads := [], cmds := [cmdOf .cpy cpyA g none] }
    (s none).team? 1 = some tm ∧ tm.out = false ∧
    (∀ g ∈ [none, some 0, some 1], (s g).cmds.find? (fun x => x.team == 1 && x.kind.queue == .copy && x.started.isNone) =
      some (cmdOf .cpy cpyA g none)) ∧
    tm.gslots.getD 0 .unresolved = .false ∧ tm.gslots.getD 1 .unresolved = .unresolved ∧ (s none).liveTeam 1 = [] := by decide +kernel

/-- A running copy with two lines left, with one, with none, and one that has failed. -/
def copyS (p : List (Nat × Nat)) (r : Option (Nat × Nat)) : State :=
  { base with cmds := [{ cmdOf .cpy cpyA none (some 1) with
      dst := 0x80, sstr := [1, 0, 0, 0, 0, 0, 0, 0, 0], dstr := [1, 0, 0, 0, 0, 0, 0, 0, 0], pending := p, result := r }] }

theorem witness_EngineCommands_copies :
    let id := uni.lastId + 1
    base.power = .active ∧ (copyS [(1, 1)] none).landingLeft id = false ∧ (copyRuns (copyS [(1, 1), (1, 2)] none) id).isSome = true ∧
      (copyRuns (copyS [(1, 1)] none) id).isSome = true ∧
    (copyRuns (copyS [] none) id).map failed = some false ∧ (copyRuns (copyS [] (some (0x0F, 3))) id).isSome = true ∧
    ((copyRuns (copyS [(1, 1), (1, 2)] none) id).map (fun c => match (copyLine c 1 1 (copyS [(1, 1), (1, 2)] none)) with
      | (s, .done) => (s.team? 1).isSome
      | _ => false)) = some true ∧
    ((copyRuns (copyS [(1, 1)] none) id).map (fun c => match (copyLine c 1 1 (copyS [(1, 1)] none)) with
      | (s, .done) => (s.cmd? id).isSome && (s.team? 1).isSome
      | _ => false)) = some true := by decide +kernel

/-- A copy whose source an access table keeps from the device. -/
theorem witness_EngineCommands_copy_fails :
    ((copyRuns (kept (copyS [(1, 1)] none)) (uni.lastId + 1)).map (fun c => match copyLine c 1 1 (kept (copyS [(1, 1)] none)) with
      | (s, .fail _) => (s.cmd? c.id).isSome && (s.team? 1).isSome
      | _ => false)) = some true := by decide +kernel

/-- A copy whose source no TLB entry covers waits for a walk. -/
theorem witness_EngineCommands_copy_waits :
    ((copyRuns { copyS [(1, 1), (1, 2)] none with tlb := [] } (uni.lastId + 1)).map (fun c =>
      match copyLine c 1 1 { copyS [(1, 1), (1, 2)] none with tlb := [] } with
      | (s, .wait _) => (s.cmd? c.id).isSome
      | _ => false)) = some true := by decide +kernel

/-- Four bytes from line 0 of the team's scratchpad to line 1, and one column of MXFP4 to line 1. -/
def cpyS : List Word := blockOf 32 [(0, 0x15), (4, 0x80), (8, 4), (13, 1), (22, 1)]
def cpyX : List Word := blockOf 32 [(0, 0x2025), (4, 0x80), (8, 0x10080)]

theorem witness_EngineCommands_plain :
    let c := { cmdOf .cpy cpyS none (some 1) with dst := 0x80, sstr := [1, 0, 0, 0, 0, 0, 0, 0, 0], dstr := [1, 0, 0, 0, 0, 0, 0, 0, 0], pending := [(1, 1)] }
    let g := { cmdOf .cpy cpyA none (some 1) with dst := 0x80, sstr := [1, 0, 0, 0, 0, 0, 0, 0, 0], dstr := [1, 0, 0, 0, 0, 0, 0, 0, 0], pending := [(1, 1)],
                                                  sectors := [(0, List.replicate 32 (some 7))] }
    let x := { cmdOf .cpy cpyX none (some 1) with dst := 0x80, pending := [(1, 1)] }
    let done := fun (c : EngCmd) => match copyLine c 1 1 { base with cmds := [c] } with | (_, .done) => true | _ => false
    c.copy.xop = 0 ∧ c.copy.srck = 1 ∧ done c = true ∧ g.copy.xop = 0 ∧ g.copy.srck = 0 ∧ done g = true ∧
    x.copy.xop = 4 ∧ x.copy.srck = 1 ∧ x.out = none ∧ x.dst % 128 = 0 ∧ 0 < x.copy.extAt 1 ∧ done x = true ∧
    (indices c.copy.dims).length = 4 ∧ c.copy.size = 1 := by decide +kernel

/-- A sector of the first page that the command has not read, with all its bytes valid. -/
theorem witness_EngineCommands_sector :
    (match State.reach (copyS [(1, 1)] none) 0 0 0 false .engRead (.cmd (uni.lastId + 1)) with
      | (s, .ok _ loc) => (s.cmd? (uni.lastId + 1)).isSome && !s.delayed loc && (List.range 32).all (fun i => (s.devByte? (loc.sector.add i)).isSome)
      | _ => false) = true := by decide +kernel

/-- The largest scale of two blocks, with one block that is NaN. -/
theorem witness_EngineCommands_mxfp :
    let scales : List Byte := [120, 255, 130, 3]
    4 * 1 ≤ scales.length ∧ (scales.getD 2 0).toNat = 130 ∧ (∀ n, n < 4 → (scales.getD n 0).toNat < 255 → (scales.getD n 0).toNat ≤ 130) ∧
    (scales.getD 1 0).toNat = 255 := by decide +kernel

/-- A block of each type, within the bank. -/
theorem witness_EngineCommands_sums :
    ∀ n, n < 9 → (MmaBlock.of (blockOf 16 [(0, BitVec.ofNat 32 n), (1, 0x00010001), (2, 128)])).type = n ∧
      (MmaBlock.of (blockOf 16 [(0, BitVec.ofNat 32 n), (1, 0x00010001), (2, 128)])).n ≤ 128 ∧
      (MmaBlock.of (blockOf 16 [(0, BitVec.ofNat 32 n), (1, 0x00010001), (2, 128)])).k % 4 = 0 := by decide +kernel

def matrixS (k : CmdKind) (ws : List Word) : State :=
  { base with cmds := [{ cmdOf k ws none (some 1) with parts := [1] }], banks := [⟨0, 0, some 1, [], false, false⟩] }

theorem witness_EngineCommands_matrix :
    let id := uni.lastId + 1
    (∀ k ∈ [CmdKind.mma, .mmast, .mmaz, .mmazRel], (matrixTurn (matrixS k (if k = .mma then mmaA else mmastA)) id).map EngCmd.kind = some k) ∧
    operandsPresent (matrixS .mma mmaA) id 1 1 (MmaBlock.of mmaA).operands = true ∧ (MmastBlock.of mmastA).badField mmastA true = none ∧
    (matrixS .mmast mmastA).banks.find? (fun x => x.core == 0 && x.bank == (MmastBlock.of mmastA).bank) =
      some ⟨0, 0, some 1, [], false, false⟩ := by decide +kernel

/-- A query whose ray is empty, and one whose block at address 0 is malformed. -/
def queryA (ray : List Word) : Query := { id := 5, thread := ⟨1, 0⟩, cont := none, dst := 4, base := 0, ray := ray, wait := .none }
def ones : List Word := [0, 0, 0, 0x3F800000, 0x3F800000, 0x3F800000, 0, 0x42C80000]

theorem witness_TraversalCommands_queries :
    let s := fun r => { base with queries := [queryA r], threads := [{ tA with park := .query }] }
    (s []).query? 5 = some (queryA []) ∧ ray? (List.replicate 8 0x7FC00000) = none ∧
    (match queryWalk (queryA (List.replicate 8 0x7FC00000)) (s []) with | (_, .best none) => true | _ => false) = true ∧
    (match queryWalk (queryA ones) { s ones with mem := base.mem.writeBytes 0 (List.replicate 128 0xFF) } with
      | (t, .malformed _) => (t.thread? ⟨1, 0⟩).isSome
      | _ => false) = true ∧ (s []).outside 1 = false := by decide +kernel

/-- A hierarchy of one interior node whose one child is a leaf block of one triangle, 128 bytes on. -/
def treeA : Memory :=
  ((Memory.writeBytes [] 0x0C ((List.replicate 3 (leBytes 4 0x3F800000)).flatten)).writeBytes 0x18 [1, 1]).writeBytes 0x50 [1]
    |>.writeBytes 0x80 [1]

def pairsC (n : Nat) : State :=
  { base with cmds := [{ cmdOf .pairs pairsA none (some 1) with progress := n }], mem := treeA }

/-- The first pair is the leaf with itself, there is no second one, and the limit of four is reached. -/
theorem witness_TraversalCommands_pairs :
    let id := uni.lastId + 1
    (pairsTurn (pairsC 0) id).map (fun c => match pairsWalk c (c.start + c.progress) (pairsC 0) with
      | (s, .found a b same) => a == 1 && b == 1 && same && s.ctx? 0 == some ctxA
      | _ => false) = some true ∧
    ctxA.nodes[(PairsBlock.of pairsA).node]? = some nodeA ∧ ctxA.canAlloc 0 = true ∧ NoTrigger ctxA 0 0 nodeA ∧
    (pairsTurn (pairsC 1) id).map (fun c => match pairsWalk c (c.start + c.progress) (pairsC 1) with
      | (s, .skip _) => (s.team? 1).isSome
      | _ => false) = some true ∧
    (pairsTurn (pairsC 4) id).map (fun c => decide (c.pairs.limit ≤ c.progress)) = some true := by
  unfold NoTrigger; decide +kernel

/-- A `PAIRS` whose hierarchy an access table keeps from the device. -/
theorem witness_TraversalCommands_pairs_fail :
    (pairsTurn (kept (pairsC 0)) (uni.lastId + 1)).map (fun c => match pairsWalk c (c.start + c.progress) (kept (pairsC 0)) with
      | (s, .fail _) => (s.team? 1).isSome && c.addr % 64 == 0
      | _ => false) = some true := by decide +kernel

/-- A query with a continuation whose ray is empty, with a slot in its node, and with none. -/
theorem witness_TraversalCommands_continuation :
    let q := { queryA (List.replicate 8 0x7FC00000) with cont := some 0 }
    let s := fun (used : Nat) => { base with
      queries := [q], threads := [{ tA with park := .query, cont := true }], ctxs := [{ ctxA with used := [(0, used)] }] }
    (∀ n ∈ [0, 1024], (s n).query? 5 = some q ∧ q.wait = .none ∧ (match queryWalk q (s n) with
      | (t, .best none) => (t.thread? ⟨1, 0⟩).isSome && (t.team? 1).isSome && t.node? 0 0 == some nodeA && t.canAlloc 0 0 == (n == 0) && !t.outside 1
      | _ => false) = true) ∧ 4 ≤ nodeA.rsize := by decide +kernel

/-- A ray along z through a triangle that faces it, and a box that it meets. -/
def rayZ : Ray := { o := [0, 0, -1], d := [0, 0, 1], tmin := some ⟨0, 1⟩, tmax := none }
def triA : Tri := ⟨[0xBF800000, 0xBF800000, 0], [0x3F800000, 0xBF800000, 0], [0, 0x3F800000, 0]⟩

theorem witness_TraversalCommands_hits :
    RayOk rayZ ∧ (hitTri rayZ 9 4 2 triA).isSome = true ∧ (triA.v0 ++ triA.v1 ++ triA.v2).all isFinite = true ∧
    Box.meets ⟨[some (-1), some (-1), some 0], [some 1, some 1, none]⟩ rayZ = true ∧
    (leafHit rayZ 4 9 [triA]).isSome = true ∧ leafHit rayZ 4 9 [] = none ∧
    ((hitTri rayZ 9 4 2 triA).map (fun h => decide (0 < h.den) && decide (0 ≤ h.u) && decide (0 ≤ h.v) && decide (h.u + h.v ≤ h.den))) = some true :=
  ⟨⟨fun m h => by cases h; decide, fun m h => by cases h⟩, by decide +kernel⟩

/-- The hierarchy of one leaf after its walk: every block has been read, and following a reference finds it at once. -/
def walkC : EngCmd := { cmdOf .pairs pairsA none (some 1) with
  sectors := (List.range 16).map (fun i => (i, (List.range 32).map (fun j => some (treeA.read (32 * i + j))))) }
def walked : State := { pairsC 0 with cmds := [{ walkC with id := ((pairsC 0).cmds.map EngCmd.id).headD 0 }] }
def walkCmd : EngCmd := walked.cmds.headD walkC
def boxA : Box := ⟨[some 0, some 0, some 0], [some 0, some 0, some 0]⟩
def leafN : HNode := ⟨.a, 1, true, boxA, 2, []⟩
def rootN : HNode := ⟨.a, 0, false, boxA, 1, [⟨1, true, boxA⟩]⟩

/-- A read gives bytes and leaves the state alone. -/
def gave (r : State × EngRead) (s : State) (bs : List Byte) : Bool :=
  match r with
  | (t, .ok l) => decide (t = s) && l == bs
  | _ => false

theorem gave_iff {r : State × EngRead} {s : State} {bs : List Byte} (h : gave r s bs = true) : r = (s, .ok bs) := by
  unfold gave at h
  split at h
  · simp_all
  · cases h

/-- A read of the whole block is what both reads of a reference come to, when the command has read its sectors before. -/
theorem follow_of {c : EngCmd} {side : Side} {ref depth : Nat} {leaf : Bool} {box : List Kid → Box} {s : State} {hd bs : List Byte} {x : HNode}
    (h1 : gave (State.engGlobal c (fun p => decide (p - ((sideOf c.pairs side).1 + 128 * ref) < 32)) (fun _ => false) 33
      ((sideOf c.pairs side).1 + 128 * ref) 32 s) s hd = true)
    (h2 : gave (State.engGlobal c (fun p => Machine.blockBytes leaf hd (p - ((sideOf c.pairs side).1 + 128 * ref))) (fun _ => false) (blockSize leaf + 1)
      ((sideOf c.pairs side).1 + 128 * ref) (blockSize leaf) s) s bs = true)
    (h3 : (!leaf && decide (64 < depth)) = false ∧ 128 * ref + blockSize leaf ≤ (sideOf c.pairs side).2 ∧
      (sideOf c.pairs side).1 + 128 * ref + blockSize leaf ≤ 2 ^ 52)
    (h4 : (if leaf then (leaf? bs).isSome else (interior? bs).isSome) = true)
    (h5 : x = ⟨side, ref, leaf, box (if leaf then [] else (interior? bs).getD []), depth, if leaf then [] else (interior? bs).getD []⟩)
    (f : State → HNode → State × PairsWalk) : follow c side ref leaf box depth s f = f s x := by
  unfold follow pairsRead
  simp only [gave_iff h1, gave_iff h2, h3.1, Nat.not_lt.2 h3.2.1, Nat.not_lt.2 h3.2.2, if_false, Bool.false_eq_true]
  cases leaf
  · obtain ⟨kids, h⟩ := Option.isSome_iff_exists.1 (by simpa using h4)
    simp [h, h5]
  · simp_all

theorem walk_root (f : State → HNode → State × PairsWalk) : follow walkCmd .a 0 false rootBox 1 walked f = f walked rootN :=
  follow_of (hd := (List.range 32).map treeA.read) (bs := (List.range 128).map treeA.read) (by decide +kernel) (by decide +kernel)
    (by decide +kernel) (by decide +kernel) (by decide +kernel) f

theorem walk_leaf (f : State → HNode → State × PairsWalk) :
    follow walkCmd .a 1 true (fun _ => boxA) 2 walked f = f walked leafN :=
  follow_of (hd := (List.range 32).map (fun i => treeA.read (128 + i))) (bs := (List.range 384).map (fun i => treeA.read (128 + i)))
    (by decide +kernel) (by decide +kernel) (by decide +kernel) (by decide +kernel) (by decide +kernel) f

theorem witness_TraversalCommands_order :
    Readable walkCmd (· = walked) (fun x => x = rootN ∨ x = leafN) (fun a => if a.leaf then [] else [leafN]) (fun a => if a.leaf then 0 else 1) ∧
    Finds walkCmd (· = walked) .a 0 false rootBox 1 rootN ∧ walkCmd.pairs.self = true := by
  refine ⟨?_, fun s h => ⟨_, rfl, fun f => h ▸ walk_root f⟩, by decide +kernel⟩
  rintro a (rfl | rfl)
  · refine ⟨by decide, fun _ => ⟨rfl, fun x hx => ?_⟩⟩
    obtain rfl : x = leafN := List.mem_singleton.1 hx
    refine ⟨.inr rfl, by decide, fun s h => ⟨walked, rfl, fun f => ?_⟩⟩
    rw [show s = walked from h]
    exact walk_leaf f
  · exact ⟨by decide, fun h => absurd h (by decide)⟩

/-! ### Witnesses: the host's commands, saving and swapping -/

/-- Context 0 carries out a command, with its tables at 0x1000 and command arguments of a range. -/
def running (n : Nat) (f : CtxRegs → CtxRegs) : Ctx :=
  { ctxA with running := some n, regs := f ctxA.regs, cmdArgs := ((f ctxA.regs).cmdarg0, (f ctxA.regs).cmdarg1), nodes := [] }
def host (n : Nat) (f : CtxRegs → CtxRegs) : State := { base with ctxs := [running n f], teams := [], threads := [] }

theorem carries_host (n : Nat) (f : CtxRegs → CtxRegs) : Carries (host n f) (running n f) n := ⟨rfl, rfl, rfl, rfl⟩

/-- A bad count, and tables of one descriptor each whose bytes are readable. -/
def oneNode (r : CtxRegs) : CtxRegs := { r with nodebase := 0x1000, nodecount := 1, poolsize := 0 }
def oneGen (r : CtxRegs) : CtxRegs := { r with genbase := 0x1000, gencount := 1 }
def nodeBytes : List Byte := [0, 2, 0, 0, 32, 0, 1, 0, 32, 0, 10, 0, 0, 0, 0, 0, 0, 4, 0, 0, 6, 0, 0, 0] ++ List.replicate 8 0
def genBytes : List Byte := List.replicate 64 0

theorem witness_ContextCommands :
    Carries (host 1 id) (running 1 id) 1 ∧ (running 1 id).regs.nodecount = 0 ∧
    Carries (host 1 oneNode) (running 1 oneNode) 1 ∧ (running 1 oneNode).nodes = [] ∧
    Carries (host 2 oneGen) (running 2 oneGen) 2 ∧ (∀ f ∈ (host 2 oneGen).fills, f.ctx ≠ 0) ∧
    (match (tableLoad 0 64 (genDesc? []) 1 0x1000 (host 2 oneGen)).2 with | .bad => true | _ => false) = true ∧
    Carries (host 5 id) (running 5 id) 5 ∧ (∀ w ∈ (host 5 id).walks, w.ctx ≠ 0) ∧
    (let c := { ctxA with outcome := some 1 }
     State.ctx? { base with ctxs := [c] } 0 = some c ∧ c.regs.cmd ≠ 6 ∧ base.power = .active) :=
  ⟨carries_host _ _, by decide +kernel, carries_host _ _, by decide +kernel, carries_host _ _, by decide +kernel, by decide +kernel,
    carries_host _ _, by decide +kernel⟩

/-- The node table loads one descriptor, and with it the generator table. -/
theorem witness_ContextCommands_tables :
    (match (tableLoad 0 32 nodeDesc? 1 0x1000 { host 1 oneNode with mem := Memory.writeBytes [] 0x1000 nodeBytes }).2 with
      | .ok ds => (ds.map NodeDesc.floor).sum == 0
      | _ => false) = true ∧
    (match (tableLoad 0 64 (genDesc? [nodeF]) 1 0x1000 { host 2 oneGen with mem := Memory.writeBytes [] 0x1000 genBytes }).2 with
      | .ok _ => true
      | _ => false) = true := by
  decide +kernel

theorem slotOk_of (s : State) (base : Nat) (w : Bool) (hr : s.rights = []) (hl : base + 0x100000 ≤ 0x1000000000) :
    Sys2Proof.Machine.slotOk s base w = true := by
  simp only [Sys2Proof.Machine.slotOk, List.all_eq_true, List.mem_range, slotSize]
  intro i hi
  have h1 : base + 128 * i < 0x1000000000 := by omega
  have hn : ∀ t c, s.right t c = 3 := by intro t c; simp [State.right, hr]
  have hp : peerOf (base + 128 * i) = none := by unfold peerOf; split <;> first | rfl | omega
  simp only [physOk, State.reachable, State.deniedAt, hn, hp]
  simp [isReserved, isRegister]
  omega

/-- A context to save, with one team. -/
def saving : State := { host 3 id with teams := [teamA], threads := [tA] }
def quiet : State := (flushUnits saving 0).quiesce [1]

theorem witness_SavingAndSwapping_save :
    Carries saving (running 3 id) 3 ∧ quiet.teams.filter (fun t => t.ctx == 0 && !t.out) = [teamA] ∧ quiet.team? 1 = some teamA ∧
    quiet.atRest [1] = true ∧
    quiet.landings = [] ∧ quiet.freeSlotsOf 0 4 State.saveSlot = [0, 1, 2, 3] ∧ Sys2Proof.Machine.slotOk quiet 0x200000 true = true ∧
    Carries (host 3 id) (running 3 id) 3 ∧ (host 3 id).teams = [] ∧ (host 3 id).buffers = [] ∧ (host 3 id).landings = [] ∧ (host 3 id).acks = [] ∧
    (host 3 id).reds = [] :=
  ⟨⟨rfl, rfl, rfl, rfl⟩, by decide +kernel, by decide +kernel, by decide +kernel, by decide +kernel, by decide +kernel,
    slotOk_of _ _ _ (by decide +kernel) (by decide), carries_host _ _, rfl, rfl, rfl, rfl, rfl⟩

/-- A saved team whose slot holds a STATE of 1 and, as its header, zeros: the image fails its checks. -/
def savedTeam : Team := { teamA with place := .saved 0 }
def savedS : State := { host 4 id with teams := [savedTeam], mem := Memory.writeBytes [] 0x200000 [1] }

theorem witness_SavingAndSwapping_restore :
    Carries (host 4 id) (running 4 id) 4 ∧ Carries savedS (running 4 id) 4 ∧ savedTeam.ctx = 0 ∧ savedS.readPhysNat 0x200000 4 = 1 ∧
    savedS.imageOk savedTeam 0x200000 = false ∧ bitAt (running 4 id).regs.cstat 0 = false ∧ (running 4 id).lost = false ∧
    (host 4 id).teams = [] ∧ savedSlots (host 4 id) (running 4 id) = [] := by
  have h : savedS.headerOk savedTeam 0x200000 = false := by decide +kernel
  exact ⟨carries_host _ _, ⟨rfl, rfl, rfl, rfl⟩, rfl, by decide +kernel, by simp [State.imageOk, h], by decide +kernel, rfl, rfl,
    by decide +kernel⟩

/-- A saved team with a good image: its header, and zeros. -/
def goodS : State := { host 4 id with
  teams := [savedTeam], mem := (Memory.writeBytes [] 0x200000 [1, 0, 0, 0, 2]).writeBytes 0x20000C [1, 0, 64, 16, 8, 0, 0, 0, 0xFF, 0xFF, 0xFF, 0xFF] }

theorem witness_SavingAndSwapping_good :
    let s0 := Sys2Proof.Machine.logStates goodS (running 4 id)
    Carries goodS (running 4 id) 4 ∧ savedSlots s0 (running 4 id) = [0] ∧ s0.hasImage savedTeam 0x200000 = true ∧
    s0.imageOk savedTeam 0x200000 = true := by
  have h := slotOk_of (Sys2Proof.Machine.logStates goodS (running 4 id)) 0x200000 false (by decide +kernel) (by decide)
  refine ⟨⟨rfl, rfl, rfl, rfl⟩, by decide +kernel, by decide +kernel, ?_⟩
  simp only [State.imageOk, h, Bool.true_and]
  decide +kernel

/-- A team within the limits of an image, and a saved one that comes back from an image without a sector. -/
theorem witness_SavingAndSwapping_image :
    Sys2Proof.Machine.slotOk saving 0x200000 true = true ∧ Sys2Proof.Machine.slotOk saving 0x200000 false = true ∧
    ((sectorKeys saving 1).length ≤ 1792 ∧ (teamCmds saving 1).length ≤ 320 ∧ teamA.regs ≤ 64 ∧ teamA.spadLines ≤ 1536 ∧ teamA.bars.length ≤ 16 ∧
      (saving.threads.map Thread.id).Nodup ∧ (saving.crews.map Crew.id).Nodup ∧
      (∀ x ∈ saving.threads, x.id.team = 1 → x.id.tid < 1024 ∧ x.v.length = 64 ∧ x.p.length = 7 ∧ x.park = .none) ∧
      (∀ c ∈ saving.crews, c.id.team = 1 → c.id.crew < 32 ∧ c.k.length = 63 ∧ c.q.length = 7 ∧ c.phCount < 2 ^ 32 ∧ c.phLimit < 2 ^ 32)) ∧
    (let s := { goodS with threads := [tA], ctxs := [{ running 4 id with running := none }] }
     s.team? 1 = some savedTeam ∧ s.outOf savedTeam = [(savedTeam, 0x200000)] ∧ s.buffers = [] ∧ s.readPhysNat 0x200020 4 = 0 ∧
       bits (s.readPhysNat 0x200404 1) 4 2 = 0 ∧ (s.bringBack savedTeam).isSome = true) :=
  ⟨slotOk_of _ _ _ (by decide +kernel) (by decide), slotOk_of _ _ _ (by decide +kernel) (by decide), by decide +kernel, by decide +kernel⟩

theorem witness_SavingAndSwapping_remove :
    let f := fun (r : CtxRegs) => { r with cmdarg0 := 2 }
    Carries (host 6 f) (running 6 f) 6 ∧ (host 6 f).grid? 2 = some gridA ∧ (running 6 f).cmdArgs.1 = 2 :=
  ⟨carries_host _ _, by decide +kernel⟩

/-- A parked team of a grid that has a second team and, with one save slot, no room for it. -/
def gridB : Grid := { gridA with clmask := 1, coremask := 1, roles := [{ probeRole with ntx := 2 }] }
def parkedTeam : Team := { teamA with parkedSince := some 0, parkExpired := true }
def crowded : State := { base with
  ctxs := [{ ctxA with regs := { ctxA.regs with saveslots := 1 } }], grids := [gridB], teams := [parkedTeam],
  threads := [{ tA with park := .query }] }

theorem witness_SavingAndSwapping_out :
    crowded.team? 1 = some parkedTeam ∧ crowded.grid? 2 = some gridB ∧ unitResident crowded parkedTeam = [parkedTeam] ∧
    crowded.scheduled 0 = true ∧ needsRoom crowded gridB = true ∧ pickedForSwap crowded parkedTeam = true ∧
    crowded.freeSlotsOf 0 4 State.swapSlot = [0, 1, 2, 3] ∧ (crowded.quiesce [1]).atRest [1] = true ∧
    Sys2Proof.Machine.slotOk (crowded.quiesce [1]) 0x800000 true = true :=
  ⟨by decide +kernel, by decide +kernel, by decide +kernel, by decide +kernel, by decide +kernel, by decide +kernel, by decide +kernel,
    by decide +kernel, slotOk_of _ _ _ (by decide +kernel) (by decide)⟩

/-- The team swapped out and woken, with an image in slot 0: its header, and zeros. -/
def outTeam : Team := { teamA with place := .swapped 0 0, wake := true }
def outS : State := { crowded with
  teams := [outTeam], mem := Memory.writeBytes [] 0x80000C [1, 0, 64, 16, 8, 0, 0, 0, 0xFF, 0xFF, 0xFF, 0xFF] }

theorem witness_SavingAndSwapping_in :
    outS.team? 1 = some outTeam ∧ outS.firstBack gridB = some outTeam ∧ outS.offering = false ∧ outS.offerTurn (.back 2 1) = true ∧
    outS.outOf outTeam = [(outTeam, 0x800000)] ∧ outS.imageOk outTeam 0x800000 = true ∧ (outS.bringBack outTeam).map State.offering = some false := by
  have h := slotOk_of outS 0x800000 false (by decide +kernel) (by decide)
  refine ⟨by decide +kernel, by decide +kernel, by decide +kernel, by decide +kernel, by decide +kernel, ?_, by decide +kernel⟩
  simp only [State.imageOk, h, Bool.true_and]
  decide +kernel

/-! ### Witnesses: registers, access from outside, power and identity -/

theorem witness_RegistersAndAccess_writes :
    base.ctx? 0 = some ctxA ∧ (ctxA.regs.frprod + 2 ^ 32 - ctxA.regs.frcons) % 2 ^ 32 < 2 ^ ctxA.regs.frlog2 ∧
    (∀ f ∈ ctxA.faults, f.seq ≠ none) ∧ ctxA.erwait = [] ∧ ctxA.id < 64 ∧
    (∀ off ∈ [0x10014, 0x10088, 0x100A0, 0x10000, 0x1010], HostMay base off true) := by
  unfold HostMay; decide +kernel

/-- A readable place, a place that the access tables keep from a class, a reserved one, and a peer's access. -/
theorem witness_RegistersAndAccess_outside :
    let kept := { base with rights := [⟨.slice 32, .fomor, 0⟩] }
    base.power = .active ∧ isRegister 0x1000 = false ∧ classReaches base .fomor 0x1000 16 false = true ∧
    classReaches base .fomor 0x1000 16 true = true ∧ base.linkTo 1 = true ∧ isLocal 0x1000 = true ∧ isLocal (2 ^ 51) = false ∧
    classReaches base (.peer 1) 0x1000 16 false = true ∧ classReaches kept .fomor 0x1000 16 false = false ∧
    classReaches kept .fomor 0x1000 16 true = false ∧ kept.deniedAt (.pa 0x1000) .fomor true = some (.slice 32) ∧
    classReaches base .fomor 0x1000000000 1 false = false ∧ base.deniedAt (.pa 0x1000000000) .fomor true = none := by decide +kernel

/-- A register that a Fomor core reads, and a device in recovery. -/
theorem witness_RegistersAndAccess_registers :
    0x1010 < 2 ^ 40 ∧ HostMay base 0x1010 false ∧ State.power { base with recovery := true } = .active ∧ 0x1000 < 0x70000000200 ∧
    HostMay base (0x1000000 + 0x10) true := by
  unfold HostMay; decide +kernel

theorem witness_RegistersAndAccess_links :
    base.links[0]? = some ⟨1, none, false⟩ ∧
    (let s := { base with links := [⟨1, some 0, false⟩], time := 10 ^ 12 }
     s.links[0]? = some ⟨1, some 0, false⟩ ∧ 0 + 10 ^ 12 ≤ s.time) := by decide +kernel

/-- With every link up no access waits: the places of the statements about accesses are among them. -/
theorem witness_links_up : (∀ l ∈ base.links, l.down = none) ∧
    (∀ a ∈ [0, 3, 0x40, 0x400, 0x1000, 0x2000], base.delayed (.pa a) = false ∧ lane.delayed (.pa a) = false) ∧
    (∀ p a, base.linkWaits p a = false) := by
  have h : ∀ l ∈ base.links, l.down = none := by decide +kernel
  exact ⟨h, by decide +kernel, up_no_wait base h⟩

/-- The next interval of the arbiter has come. Which prediction fits is free: either F from 32 to 64 fits without gating, or none does. -/
theorem witness_PowerAndIdentity_arbiter :
    let s := { base with time := 10 ^ 12 }
    (s.interval + 1) * 10 ^ 12 ≤ s.time ∧
    ((∃ f, 32 ≤ f ∧ f ≤ 64 ∧ Config.powerFits s.interval f 64 = true) ∨
      ∀ f, 32 ≤ f → f ≤ 64 → Config.powerFits s.interval f 64 = false) := by
  refine ⟨by decide +kernel, ?_⟩
  by_cases h : ∃ f, 32 ≤ f ∧ f ≤ 64 ∧ Config.powerFits 0 f 64 = true
  · exact .inl h
  · refine .inr fun f h1 h2 => ?_
    cases hf : Config.powerFits 0 f 64 with
    | false => exact hf
    | true => exact absurd ⟨f, h1, h2, hf⟩ h

theorem witness_PowerAndIdentity_clock :
    let s := { base with factor := 32 }
    s.cur = .idle ∧ s.cores[575]? = some Core.reset ∧ Core.reset.f ≠ s.factor := by decide +kernel

def imgA : FwImage := { body := [1], version := 3, signature := [2] }

/-- Nothing is on its way, or a miss. -/
theorem witness_PowerAndIdentity_still :
    Still State.reset ∧ State.reset.monitors = [] ∧ ¬Still { base with misses := [missA] } ∧ base.landings = [] ∧ base.reds = [] ∧ base.acks = [] ∧
    (∀ t ∈ base.teams, t.place = .resident 0) := by
  unfold Still; decide +kernel

theorem witness_PowerAndIdentity_off :
    State.reset.power = .active ∧ (∀ c ∈ State.reset.ctxs, c.regs.ptroot = 0 ∨ c.preempted = true) ∧ State.reset.fills = [] ∧
    State.reset.landings = [] ∧ State.reset.reds = [] ∧ State.reset.acks = [] ∧ State.reset.teams = [] ∧
    (∀ c ∈ State.ctxs { State.reset with ctxs := [{ ctxA with preempted := true }] }, c.preempted = true) ∧
      State.power { base with power := .deepOff } = .deepOff := by decide +kernel

/-- A line that must stay finds room, or finds none, in a pre-empted context's ballast store; a context that runs. -/
theorem witness_PowerAndIdentity_ballast :
    let s := fun (n : Nat) => { base with
      teams := [], ctxs := [{ ctxA with preempted := true, regs := { ctxA.regs with ballast := n } }], envLines := [lineA true] }
    BallastRoom (s 1) ∧ ¬BallastRoom (s 0) ∧ (s 0).fills = [] ∧ bitAt ctxA.regs.cstat 1 = false ∧ ctxA.regs.ptroot ≠ 0 ∧ ctxA.preempted = false := by
  unfold BallastRoom; decide +kernel

/-- A verified image of a sufficient version and one that is refused: which of the two an image is, is free. -/
theorem witness_PowerAndIdentity_image :
    State.reset.rollback ≤ imgA.version ∧
    (Config.signatureOk imgA.body imgA.signature = true ∨ Config.signatureOk imgA.body imgA.signature = false) ∧
    (List.replicate 32 (0 : Byte)).length = 32 ∧ State.firmware { base with firmware := some imgA } = some imgA :=
  ⟨by decide +kernel, by cases Config.signatureOk imgA.body imgA.signature <;> simp, by decide +kernel, by decide +kernel⟩

/-! ### Witnesses: rules stated whole -/

theorem witness_NopDoesNothing :
    (0x03C00001 : Word).toNat / 2 ^ 25 = 1 ∧ (0x03C00001 : Word).toNat % 2 ^ 21 ≠ 0 ∧ (0x02200000 : Word).toNat / 2 ^ 25 = 1 ∧
    (0x02200000 : Word).toNat % 2 ^ 21 = 0 ∧ lane.cur = .flight 0 [⟨1, 0⟩] false := by decide +kernel

theorem witness_NumberMaxMin :
    nan32 0x7F800001 ∧ ¬nan32 0xFF800000 ∧ order32 0x80000000 ≤ order32 0 ∧ order32 0x7F7FFFFF ≤ order32 0x7F800000 := by
  unfold nan32; decide +kernel

theorem witness_NodeRegister :
    noded.team? 1 = some { teamA with node := some 0 } ∧ noded.crew? ⟨1, 0⟩ = some crewA ∧ noded.grid? 2 = some gridA ∧
    base.team? 1 = some teamA ∧ teamA.node = none := by decide +kernel

/-- A grid with a team to place, and a swapped-out team that comes back. -/
theorem witness_ResidentBound :
    (State.placeNext { base with grids := [gridB] } 2).isSome = true ∧ (crowded.placeNext 2).isNone = true ∧
    (crowded.teams.map Team.id).Nodup ∧ (∀ x ∈ crowded.teams, x.grid = 2 → x.ctx = gridB.ctx) ∧
    (outS.teams.map Team.id).Nodup ∧ outS.grid? 2 = some gridB ∧ (∀ x ∈ outS.teams, x.grid = 2 → x.ctx = gridB.ctx) ∧
    (outS.bringBack outTeam).isSome = true := by decide +kernel

theorem witness_PhaseMargin : HostMay base 0x1010 true ∧ OneCrew uni crewA ∧ crewA.guard g7 = true :=
  ⟨by unfold HostMay; decide +kernel, one_uni, by decide +kernel⟩

/-! ### Small steps, with the specification's own numbers -/

/-- The focus is a thread with the given v registers and the crew's k registers; the others are zero. -/
def with_ (vs ks : List (Nat × Word)) : State :=
  { lane with
    threads := [{ tA with v := vs.foldl (fun l x => l.set x.1 x.2) (List.replicate 64 0) }]
    crews := [{ crewA with k := ks.foldl (fun l x => l.set x.1 x.2) (List.replicate 63 0) }] }

/-- Registers of the thread after one instruction. -/
def regsAfter (i : Instr) (s : State) (ns : List Nat) : List Word :=
  match exec i s with
  | .next t => ns.flatMap (fun n => ((t.thread? ⟨1, 0⟩).map (fun x => [x.reg n])).getD [])
  | _ => []

/-- The worked numbers of R361 and R383: pair(2) = 0x1_FFFF_FFF0. -/
theorem test_iaddw : regsAfter (.iaddw { g := g7, d := 4, a := 2, b := .v 6 }) (with_ [(2, 0xFFFFFFF0), (3, 1), (6, 0x20)] []) [4, 5] =
      [0x10, 2] ∧
    regsAfter (.iaddw { g := g7, d := 4, a := 2, b := .v 6 }) (with_ [(2, 0xFFFFFFF0), (3, 1), (6, 0xFFFFFFE0)] []) [4, 5] =
      [0xFFFFFFD0, 1] := by decide +kernel

theorem test_lea_x8 : regsAfter (.lea { g := g7, s := 2, d := 4, a := 2, b := .v 6 })
    (with_ [(2, 0xFFFFFFF8), (3, 1), (6, 0xFFFFFFFF)] []) [4, 5] = [0xFFFFFFF0, 9] := by decide +kernel

/-- R364: products with v2 = 2^32 − 1 and v3 = 2. -/
theorem test_imul : [Instr.imul, .imulhS32, .imulhN32].map (fun f =>
    regsAfter (f { g := g7, d := 8, a := 2, b := .v 3 }) (with_ [(2, 0xFFFFFFFF), (3, 2)] []) [8]) = [[0xFFFFFFFE], [0xFFFFFFFF], [1]] ∧
    regsAfter (.imad { g := g7, d := 8, a := 2, b := .v 3 }) (with_ [(2, 0xFFFFFFFF), (3, 2), (8, 5)] []) [8] = [3] := by decide +kernel

theorem test_imin_families : [Instr.iminS, .iminN].map (fun f =>
    regsAfter (f { g := g7, d := 8, a := 2, b := .v 3 }) (with_ [(2, 0xFFFFFFFF), (3, 1)] []) [8]) = [[0xFFFFFFFF], [1]] := by decide +kernel

/-- R335: v4 = 0xF50, pos = 4, len = 8; and a field clipped at bit 31. -/
theorem test_bfx : regsAfter (.bfxS { g := g7, d := 3, a := 4, b := .k 1 }) (with_ [(4, 0xF50)] [(1, 0x804)]) [3] = [0xFFFFFFF5] ∧
    regsAfter (.bfxN { g := g7, d := 3, a := 4, b := .k 1 }) (with_ [(4, 0xF50)] [(1, 0x804)]) [3] = [0xF5] ∧
    regsAfter (.bfxN { g := g7, d := 3, a := 4, b := .k 1 }) (with_ [(4, 0xA0000F50)] [(1, 0x81C)]) [3] = [0xA] := by decide +kernel

/-- R407: an arithmetic and a logical shift, and an amount of 37, which shifts by 5. -/
theorem test_shifts : regsAfter (.sraImm { g := g7, d := 3, a := 3, s := 4 }) (with_ [(3, 0x80000010)] []) [3] = [0xF8000001] ∧
    regsAfter (.shrImm { g := g7, d := 3, a := 3, s := 4 }) (with_ [(3, 0x80000010)] []) [3] = [0x08000001] ∧
    regsAfter (.shl { g := g7, d := 3, a := 3, b := .k 5 }) (with_ [(3, 1)] [(5, 37)]) [3] = [32] := by decide +kernel

/-- R363: the natural compare holds where the signed one does not. -/
theorem test_icmp_families : Cond.holds .geN 0xFFFFFFFF 1 = true ∧ Cond.holds .geS 0xFFFFFFFF 1 = false := by decide +kernel

/-- R347: conversions of −2.5, 3.0e9 and 70,000.0; only the second marks `%sat`. -/
theorem test_cvt : cvtValue .s32F32 .rm 0xC0200000 0 = ([0xFFFFFFFD], false) ∧ cvtValue .s32F32 .rn 0xC0200000 0 = ([0xFFFFFFFE], false) ∧
    cvtValue .s32F32 .rn 0x4F32D05E 0 = ([0x7FFFFFFF], true) ∧ cvtValue .f16F32 .rn 0x4788B800 0 = ([0x7C00], false) ∧
    cvtValue .f16F32 .rz 0x4788B800 0 = ([0x7BFF], false) := by decide +kernel

/-- R218: the four products 2, 200, 600 and −0.002. -/
theorem test_qscl : regsAfter (.qscl { g := g7, e5m2 := false, d := 9, a := 4, b := .k 2 })
    (with_ [(4, 0x3F800000), (5, 0x42C80000), (6, 0x43960000), (7, 0xBA83126F)] [(2, 0x40000000)]) [9] = [0x817E7440] := by decide +kernel

/-- R353: NaN and zeros in compares. -/
theorem test_fcmp : FCond.holds .lt 0x7FC00000 0 = false ∧ FCond.holds .ne 0x7FC00000 0 = true ∧ FCond.holds .nan 0x7FC00000 0 = true ∧
    FCond.holds .lt 0x80000000 0 = false ∧ FCond.holds .le 0x80000000 0 = true := by decide +kernel

/-- R418: lanes 0 to 3 with p1 = true, false, true, true, lane 3's guard false. -/
theorem test_vote :
    let t := fun (n : Nat) (p q : Bool) => { tA with id := ⟨1, n⟩, p := (tA.p.set 1 p).set 0 q }
    let s := { lane with threads := [t 0 true true, t 1 false true, t 2 true true, t 3 true false],
                         cur := .flight 0 [⟨1, 0⟩, ⟨1, 1⟩, ⟨1, 2⟩, ⟨1, 3⟩] true }
    nextIs (exec (.voteBallot { g := ⟨0, false⟩, d := 6, pa := 1 }) s)
      (fun s => s.threads.map (fun t => t.reg 6) == [5, 5, 5, s.threads.getD 3 tA |>.reg 6] && (s.threads.getD 3 tA).reg 6 == 1008) = true ∧
    nextIs (exec (.vote { g := ⟨0, false⟩, any := false, pd := 2, pa := 1 }) s) (fun s => s.threads.all (fun t => !t.pred 2)) = true := by
  decide +kernel

/-- R336: the worked call from 0x2C to 0x80, with link 0x30. -/
theorem test_call : nextIs (exec (.call { g := g7, d := 20, off := 21 }) (laneT (fun t => { t with pc := 0x2C }))) (fun s =>
    (s.thread? ⟨1, 0⟩).map (fun t => (t.pc, t.reg 20)) == some (0x80, 0x30)) = true := by decide +kernel

/-- R272, R414: `TRAP 42` at 0x40, and the return to it. -/
theorem test_trap_and_return : nextIs (exec (.trap { g := g7, n := 42 }) (laneT (fun t => { t with pc := 0x40 }))) (fun s =>
      (s.thread? ⟨1, 0⟩).map (fun t => (t.pc, t.inh, t.cause)) == some (0x100, true, 0x20D) &&
      (s.thread? ⟨1, 0⟩).map (fun t => (t.trapv, t.trapc)) == some (42, 0x40) &&
      nextIs (exec (.tret g7) { s with cur := .flight 0 [⟨1, 0⟩] false }) (fun s =>
        (s.thread? ⟨1, 0⟩).map (fun t => (t.pc, t.inh)) == some (0x40, false))) = true := by decide +kernel

/-- R154: the token of the worked example: barrier 0 of the team in phase 0. -/
theorem test_bara_token : regsAfter (.bara { g := g7, level := .team, id := 0, d := 8, b := .k 1 }) (with_ [] [(1, 32)]) [8] = [0x20] := by
  decide +kernel

/-- R159: the report of the worked example: thread 63 of core 5, by its exit. -/
theorem test_straggler : stragId 63 5 true = 0xC000143F := by decide +kernel

/-- R305: a signed byte and a halfword of the scratchpad. -/
theorem test_lds_extends :
    let s := { with_ [(1, 2)] [] with teams := [{ teamA with spad := Memory.writeBytes [] 2 [0x34, 0x92] }] }
    regsAfter (.lds { g := g7, d := 4, a := 1, sz := 6, off := 0 }) s [4] = [0xFFFF9234] ∧
    regsAfter (.lds { g := g7, d := 4, a := 1, sz := 1, off := 0 }) s [4] = [0x9234] := by decide +kernel

/-- R106, R107: a stored word is read back from the crew's buffer, and memory does not have it. -/
theorem test_store_then_load : nextIs (exec (.st { g := g7, d := 3, a := 0, sz := 2, off := 1 }) lane) (fun s =>
    s.mem == [] && nextIs (exec (.ld { g := g7, d := 9, a := 0, sz := 2, off := 1 }) { s with cur := .flight 0 [⟨1, 0⟩] false })
      (fun s => (s.thread? ⟨1, 0⟩).map (fun t => t.reg 9) == some 0xFFFFFFFF)) = true := by decide +kernel

/-- R341: a failing compare leaves memory alone and gives the old value. -/
theorem test_cas_fails :
    let s := { with_ [(4, 7), (5, 9)] [] with teams := [{ teamA with spad := Memory.writeBytes [] 0 [8] }] }
    nextIs (exec (.cas { g := g7, d := 4, a := 0, sc := .team, w := false }) s) (fun s =>
      (s.thread? ⟨1, 0⟩).map (fun t => t.reg 4) == some 8 && (s.team? 1).map (fun t => t.spad.read 0) == some 8) = true := by decide +kernel

/-- R366 to R368 and R308: uniform shifts, and a write to k63. -/
theorem test_uniform :
    let s := { uni with crews := [{ crewA with k := (crewA.k.set 4 3).set 5 37 }] }
    nextIs (exec (.kshl { g := g7, d := 3, a := 4, b := 5 }) s) (fun s => (s.crew? ⟨1, 0⟩).map (fun c => c.reg 3) == some 96) = true ∧
    nextIs (exec (.kmovImm { g := g7, d := 63, imm := 5 }) s) (fun t => t.crews == s.crews) = true := by decide +kernel

/-- R292: PHMARGIN takes a write of 4,000. -/
theorem test_phmargin : nextIs (exec (.registerWrite 0x1010 4000) base) (fun s => s.phmargin == 4000) = true := by decide +kernel

/-- R257: the record of a query that hits nothing. -/
theorem test_query_none : hitRecord none = [0x7F800000, 0xFFFFFFFF, 0, 0] := by decide +kernel

end Sys2Proof.Tests
end

section
/-!
PROOFS. A run of bytes written to a memory reads back byte by byte, and every other byte reads as before (R4, R76).
-/

namespace Sys2Proof.Proofs
open Sys2Proof Sys2Proof.Machine Sys2Proof.Laws

/-- A byte below the address of a run that is written reads as before. -/
theorem read_writeBytes_of_lt (m : Memory) (a : Nat) (bs : List Byte) (x : Nat) (h : x < a) : (m.writeBytes a bs).read x = m.read x := by
  induction bs generalizing m a with
  | nil => rfl
  | cons b bs ih =>
    calc ((m.write a b).writeBytes (a + 1) bs).read x
        = (m.write a b).read x := ih _ _ (by omega)
      _ = m.read x := read_write_of_ne m b (by omega)

/-- The read-after-write law of a run, by induction on its bytes: the first byte stands below the rest of the run, which leaves it alone. -/
theorem read_writeBytes (m : Memory) (a : Nat) (bs : List Byte) (x : Nat) :
    (m.writeBytes a bs).read x = if a ≤ x ∧ x < a + bs.length then bs.getD (x - a) 0 else m.read x := by
  induction bs generalizing m a with
  | nil => rw [if_neg (by simp)]; rfl
  | cons b bs ih =>
    change ((m.write a b).writeBytes (a + 1) bs).read x = _
    rcases Nat.lt_trichotomy x a with hx | rfl | hx
    · rw [read_writeBytes_of_lt _ _ _ _ (by omega), read_write_of_ne m b (by omega), if_neg (by omega)]
    · rw [read_writeBytes_of_lt _ _ _ _ (by omega), read_write_self, if_pos (by simp)]
      simp
    · obtain ⟨i, rfl⟩ : ∃ i, x = a + 1 + i := ⟨x - (a + 1), by omega⟩
      have hi : a + 1 + i - a = i + 1 := by omega
      rw [ih, read_write_of_ne m b (by omega), hi, List.getD_cons_succ, Nat.add_sub_cancel_left, List.length_cons]
      exact if_congr (by omega) rfl rfl

/-- Settles O12: the law of a run of bytes holds of every memory, canonical or not. -/
theorem memoryReadAfterWrite : Obligations.MemoryReadAfterWrite := read_writeBytes

end Sys2Proof.Proofs
end

section
/-!
PROOFS. The clocks and the focus of the device under the operations that settle a core before its next cycle (R9, R60): the end of a thread with
its record and its grants, traps, walks and completed rendezvous leave them alone.
-/

namespace Sys2Proof.Proofs
open Sys2Proof Sys2Proof.Machine Sys2Proof.Laws

/-- What FLIGHT_ISSUE's clock depends on, and the focus (R9, R60). -/
def clock (s : State) : Focus × List Core × List Nat × Nat × Nat := (s.cur, s.cores, s.speeds, s.gate, s.time)

/-- Turns that each leave the clock alone leave it alone together. -/
theorem clock_foldl {α : Type} (f : State → α → State) (h : ∀ s x, clock (f s x) = clock s) (l : List α) :
    ∀ s : State, clock (l.foldl f s) = clock s := by
  induction l with
  | nil => exact fun _ => rfl
  | cons x l ih => exact fun s => (ih _).trans (h s x)

/-! ### Changes of one unit -/

@[simp] theorem clock_modThread (s : State) (i : ThreadId) (f : Thread → Thread) : clock (s.modThread i f) = clock s := rfl
@[simp] theorem clock_modCrew (s : State) (i : CrewId) (f : Crew → Crew) : clock (s.modCrew i f) = clock s := rfl
@[simp] theorem clock_modTeam (s : State) (n : Nat) (f : Team → Team) : clock (s.modTeam n f) = clock s := rfl
@[simp] theorem clock_modCtx (s : State) (n : Nat) (f : Ctx → Ctx) : clock (s.modCtx n f) = clock s := rfl
@[simp] theorem clock_modCmd (s : State) (n : Nat) (f : EngCmd → EngCmd) : clock (s.modCmd n f) = clock s := rfl
@[simp] theorem clock_modFill (s : State) (n : Nat) (f : Fill → Fill) : clock (s.modFill n f) = clock s := rfl
@[simp] theorem clock_noteWake (s : State) (ids : List ThreadId) : clock (s.noteWake ids) = clock s := rfl
@[simp] theorem clock_leaveQueues (s : State) (i : ThreadId) : clock (s.leaveQueues i) = clock s := rfl

/-! ### Traps and escalations -/

@[simp] theorem clock_escRecord (s : State) (ctx : Nat) (r : EscRecord) : clock (s.escRecord ctx r) = clock s := by
  obtain ⟨m, d, cs, is, e, -⟩ := escRecord_eq s ctx r
  rw [e]; rfl

@[simp] theorem clock_escalate (s : State) (t : Thread) (cause trapv trapc : Word) (reason first : Nat) :
    clock (s.escalate t cause trapv trapc reason first) = clock s := by
  obtain ⟨m, d, cs, is, gs, e, -⟩ := escalate_eq s t cause trapv trapc reason first
  rw [e]; rfl

@[simp] theorem clock_enterHandler (s : State) (t : Thread) (r : TrapRegs) (resume : Word) : clock (s.enterHandler t r resume) = clock s := by
  obtain ⟨th, ts, us, gs, ws, cs, ms, ov, ps, fs, mo, qs, co, re, e⟩ := enterHandler_eq s t r resume
  rw [e]; rfl

@[simp] theorem clock_takeTrap (s : State) (t : Thread) (own : Bool) (r : TrapRegs) (resume : Word) :
    clock (s.takeTrap t own r resume) = clock s := by
  rw [takeTrap_eq]
  split_ifs <;> simp

@[simp] theorem clock_threadTrap (s : State) (t : Thread) (c : Cause) (trapv : Word) (aux : Nat) :
    clock (s.threadTrap t c trapv aux) = clock s := clock_takeTrap ..

@[simp] theorem clock_lateTrap (s : State) (t : Thread) (c : Cause) (trapv : Word) (aux : Nat) :
    clock (s.lateTrap t c trapv aux) = clock s := by
  unfold State.lateTrap
  split <;> simp

@[simp] theorem clock_crewTrap (s : State) (i : CrewId) (c : Cause) (own : ThreadId → Bool) (trapv : ThreadId → Word) (aux : Nat) :
    clock (s.crewTrap i c own trapv aux) = clock s := by
  refine (clock_foldl _ (fun _ _ => clock_takeTrap ..) _ _).trans ?_
  split <;> rfl

@[simp] theorem clock_uniformTrap (s : State) (i : CrewId) (c : Cause) (trapv : Word) (aux : Nat) :
    clock (s.uniformTrap i c trapv aux) = clock s := clock_crewTrap ..

/-! ### Implied commits and the end of waits -/

@[simp] theorem clock_wakeCluster (s : State) (n : Nat) (sec : Loc) : clock (s.wakeCluster n sec) = clock s := by
  unfold State.wakeCluster
  extract_lets local_ woken r
  by_cases h : local_ = true
  · rw [if_neg (by simp [h])]; rfl
  · rw [if_pos (by simp [h])]

theorem clock_l1Updates (core : Nat) (l : List BufByte) (s : State) :
    clock (l.foldl (fun s b => s.l1Update core b.loc b.val) s) = clock s :=
  clock_foldl (fun s b => s.l1Update core b.loc b.val) (fun _ _ => rfl) l s

@[simp] theorem clock_moveCommit (s : State) (c : CrewId) (moved : List Moved) (lvl implied : Nat) :
    clock (s.moveCommit c moved lvl implied) = clock s := by
  unfold State.moveCommit
  extract_lets core cl bytes lands moves counted updated sent
  have same : clock updated = clock s := clock_l1Updates core bytes counted
  split
  · rfl
  · split
    · exact (clock_foldl _ (fun _ _ => clock_wakeCluster ..) _ sent).trans same
    · exact same

@[simp] theorem clock_impliedCrew (s : State) (c : CrewId) : clock (s.impliedCrew c) = clock s := by
  unfold State.impliedCrew
  split
  · rfl
  · split
    · rfl
    · refine clock_foldl _ (fun r sec => ?_) _ _
      dsimp only
      split
      · rfl
      · simp

@[simp] theorem clock_freeLocks (s : State) (i : Nat) : clock (s.freeLocks i) = clock s := by
  unfold State.freeLocks
  split <;> rfl

@[simp] theorem clock_sendAck (s : State) (l : Landing) : clock (s.sendAck l) = clock s := by
  unfold State.sendAck
  split
  · simp
  · split <;> rfl

@[simp] theorem clock_dropLanding (s : State) (l : Landing) (c : Cause) (va code : Nat) :
    clock (s.dropLanding l c va code) = clock s := by
  unfold State.dropLanding
  dsimp only
  rw [clock_sendAck]
  split
  · split <;> rfl
  · split
    · rfl
    · split
      · rfl
      · simp

@[simp] theorem clock_dropRed (s : State) (r : Machine.RedOp) (c : Cause) (trapv : Word) : clock (dropRed s r c trapv) = clock s :=
  (clock_foldl _ (fun _ _ => clock_crewTrap ..) _ _).trans rfl

@[simp] theorem clock_dropSector (s : State) (team crew va : Nat) : clock (s.dropSector team crew va) = clock s := by
  unfold State.dropSector
  dsimp only
  rw [clock_crewTrap]
  rfl

@[simp] theorem clock_failWaiter (s : State) (ctx : Nat) (j : Joined) (w : State.Why) : clock (s.failWaiter ctx j w) = clock s := by
  unfold State.failWaiter
  cases j.who with
  | thread t =>
    dsimp only
    split
    · rfl
    · split <;> simp
  | cmd i => simp
  | query i =>
    dsimp only
    split
    · rfl
    · exact (clock_threadTrap ..).trans rfl
  | landing l => simp
  | red r => simp
  | image i => rfl
  | batch g => simp
  | done g => simp
  | sector t c va => simp
  | issue c => simp
  | prefetch t n => rfl

/-! ### Records, bins and fills -/

@[simp] theorem clock_formBatch (s : State) (ctx node part k : Nat) : clock (s.formBatch ctx node part k) = clock s := by
  unfold State.formBatch
  split
  · rfl
  · split <;> rfl

@[simp] theorem clock_trigger (s : State) (ctx node part : Nat) : clock (s.trigger ctx node part) = clock s := by
  unfold State.trigger
  split
  · rfl
  · split
    · rfl
    · split <;> simp

@[simp] theorem clock_enterBin (s : State) (ctx node part : Nat) (r : Record) : clock (s.enterBin ctx node part r) = clock s := by
  unfold State.enterBin
  cases r.pfid <;> simp

@[simp] theorem clock_drainBins (s : State) (ctx : Nat) : clock (s.drainBins ctx) = clock s := by
  unfold State.drainBins
  split
  · rfl
  · refine clock_foldl _ (fun r x => ?_) _ _
    split
    · rfl
    · refine clock_foldl _ (fun q part => ?_) _ _
      split
      · rfl
      · split <;> simp

@[simp] theorem clock_allocate (s : State) (ctx node part : Nat) (r : Record) (who : AllocFor) :
    clock (s.allocate ctx node part r who) = clock s := by
  unfold State.allocate
  split
  · rfl
  · split <;> simp

@[simp] theorem clock_restoreEnv (s : State) (ctx n : Nat) : clock (s.restoreEnv ctx n) = clock s := by
  obtain ⟨ev, e⟩ := restoreEnv_eq s ctx n
  rw [e]; rfl

@[simp] theorem clock_makeRoom (s : State) (ctx n : Nat) : clock (s.makeRoom ctx n).1 = clock s := by
  obtain ⟨ev, th, ts, mo, f, cs, is, e⟩ := makeRoom_eq s ctx n
  rw [e]; rfl

@[simp] theorem clock_raiseClasses (s : State) : clock s.raiseClasses = clock s := rfl

@[simp] theorem clock_queueReplay (s : State) (j : Joined) : clock (s.queueReplay j) = clock s := by
  unfold State.queueReplay
  split <;> rfl

/-- Room for a HELD line of a miss, or none needed. -/
theorem clock_missRoom (s : State) (held : Bool) (ctx n : Nat) : clock (if held then s.makeRoom ctx n else (s, true)).1 = clock s := by
  split
  · simp
  · rfl

@[simp] theorem clock_missAt (s : State) (m : Miss) : clock (s.missAt m) = clock s := by
  unfold State.missAt
  cases m.loc with
  | pa a => simp
  | env ctx n =>
    dsimp only
    have room := clock_missRoom s (((s.envLine? ctx n).map EnvLine.held).getD false) ctx n
    revert room
    generalize (if ((s.envLine? ctx n).map EnvLine.held).getD false = true then s.makeRoom ctx n else (s, true)) = q
    intro room
    split
    · exact room
    · rw [← room, ← clock_restoreEnv q.1 ctx n]
      generalize q.1.restoreEnv ctx n = r
      split
      · simp
      · split
        · simp
        · split
          · simp
          · split
            · simp
            · split
              · simp
              · split
                · exact (clock_raiseClasses _).trans rfl
                · split
                  · rfl
                  · split
                    · exact (clock_raiseClasses _).trans ((clock_allocate ..).trans rfl)
                    · simp

@[simp] theorem clock_drainOverflow (n : Nat) (s : State) : clock (State.drainOverflow n s) = clock s := by
  induction n generalizing s with
  | zero => rfl
  | succ n ih =>
    unfold State.drainOverflow
    split
    · rfl
    · split
      · rfl
      · rw [ih, clock_missAt]; rfl

@[simp] theorem clock_failFill (s : State) (pfid code : Nat) : clock (s.failFill pfid code) = clock s := by
  unfold State.failFill
  split
  · rfl
  · rw [clock_drainOverflow]
    exact clock_foldl _ (fun _ _ => clock_failWaiter ..) _ _

/-! ### The end of a thread -/

@[simp] theorem clock_leaveBarriers (s : State) (t : ThreadId) (last : Bool) : clock (s.leaveBarriers t last) = clock s := by
  unfold State.leaveBarriers
  split
  · rfl
  · split
    · rfl
    · split <;> rfl

@[simp] theorem clock_freeRecord (s : State) (t : Thread) : clock (s.freeRecord t) = clock s := by
  unfold State.freeRecord
  split
  · dsimp only
    split
    · rfl
    · split <;> simp
  · rfl

@[simp] theorem clock_settleRetained (s : State) : clock s.settleRetained = clock s := by
  refine clock_foldl _ (fun r t => ?_) _ _
  split
  · split <;> rfl
  · rfl

@[simp] theorem clock_retireCrew (s : State) (c : CrewId) : clock (s.retireCrew c) = clock s := by
  unfold State.retireCrew
  dsimp only
  split <;> simp

@[simp] theorem clock_endThread (s : State) (i : ThreadId) : clock (s.endThread i) = clock s := by
  unfold State.endThread
  split
  · rfl
  · dsimp only
    split
    · rfl
    · split <;> simp

@[simp] theorem clock_grant (s : State) (ctx : Nat) (a : Alloc) : clock (s.grant ctx a) = clock s := by
  unfold State.grant
  cases a.who with
  | spawn t => simp
  | cont t => dsimp only; split <;> simp
  | fill p => simp
  | pairs c => dsimp only; split <;> simp

@[simp] theorem clock_grantsOf (ctx n : Nat) (s : State) : clock (State.grantsOf ctx n s) = clock s := by
  induction n generalizing s with
  | zero => rfl
  | succ n ih =>
    unfold State.grantsOf
    split
    · rfl
    · split
      · rfl
      · rw [ih, clock_grant]

@[simp] theorem clock_exitThread (s : State) (i : ThreadId) : clock (s.exitThread i) = clock s := by
  simp [State.exitThread, State.grants]

/-! ### Arrivals and completed rendezvous of a core -/

@[simp] theorem clock_joinWalk (s : State) (ctx core va : Nat) (kind : Kind) (write : Bool) (who : Waiter) :
    clock (s.joinWalk ctx core va kind write who) = clock s := by
  obtain ⟨ws, e⟩ := joinWalk_eq s ctx core va kind write who
  rw [e]; rfl

@[simp] theorem clock_satTrap (s : State) (c : Crew) (own : ThreadId → Bool) : clock (s.satTrap c own) = clock s :=
  (clock_crewTrap ..).trans rfl

@[simp] theorem clock_completeCrewBar (s : State) (c : Crew) (all : List Thread) : clock (s.completeCrewBar c all) = clock s := by
  unfold State.completeCrewBar
  split <;> simp

@[simp] theorem clock_noteCrew (s : State) (core : Nat) (c : Crew) : clock (s.noteCrew core c) = clock s := by
  unfold State.noteCrew
  split
  · split
    · simp
    · split <;> simp
  · split
    · rfl
    · dsimp only
      split <;> simp

@[simp] theorem clock_fetchWalk (s : State) (ids : List ThreadId) (pc : Word) : clock (fetchWalk s ids pc) = clock s :=
  clock_foldl _ (fun _ _ => by simp) _ _

@[simp] theorem clock_fetchAhead (s : State) (t : Thread) : clock (fetchAhead s t) = clock s := by
  unfold fetchAhead
  split
  · simp
  · split <;> simp
  · rfl

/-- Arrivals, ends and completed rendezvous of a core leave the clocks and the focus alone. -/
@[simp] theorem clock_settleCore (s : State) (core : Nat) : clock (s.settleCore core) = clock s := by
  have ended : clock (s.endGranted core) = clock s := clock_foldl _ (fun _ _ => clock_exitThread ..) _ _
  have marked : clock ((s.endGranted core).markArrivals core) = clock (s.endGranted core) :=
    clock_foldl fetchAhead clock_fetchAhead _ _
  exact (clock_foldl _ (fun r c => clock_noteCrew r core c) _ _).trans (marked.trans ended)

end Sys2Proof.Proofs
end

section
/-!
PROOFS. A cycle of a core: what settling a calm core can change, the clock of the next cycle (R9, R60), and what else FLIGHT_ISSUE changes.
-/

namespace Sys2Proof.Proofs
open Sys2Proof Sys2Proof.Machine Sys2Proof.Laws Sys2Proof.Stmt

/-! ### Settling a core where no trap is due and no thread is to end -/

/-- No granted thread ends where none is about to (R68, R175). -/
theorem endGranted_of_none_ending {s : State} (core : Nat) (h : ∀ t ∈ s.threads, t.park ≠ .ending) : s.endGranted core = s := by
  unfold State.endGranted
  rw [List.filter_eq_nil_iff.mpr (fun t ht => by simp [h t ht])]
  rfl

/-- The wait of some fetches for walks changes threads and walks (R92). -/
theorem fetchWalk_eq (s : State) (ids : List ThreadId) (pc : Word) :
    ∃ th ws, fetchWalk s ids pc = { s with threads := th, walks := ws } := by
  unfold fetchWalk
  induction ids generalizing s with
  | nil => exact ⟨s.threads, s.walks, rfl⟩
  | cons i ids ih =>
    obtain ⟨ws, e⟩ := joinWalk_eq s (s.ctxId i.team) (s.coreOf i.team) (codeVa s i.team pc) .fetch false (.thread i)
    obtain ⟨th, ws', e'⟩ := ih ((s.joinWalk (s.ctxId i.team) (s.coreOf i.team) (codeVa s i.team pc) .fetch false (.thread i)).modThread i
      (fun x => { x with stall := .walk }))
    exact ⟨th, ws', by rw [List.foldl_cons, e', e]; rfl⟩

theorem fetchAhead_eq (s : State) (t : Thread) : ∃ th ws, fetchAhead s t = { s with threads := th, walks := ws } := by
  unfold fetchAhead
  split
  · exact fetchWalk_eq ..
  · split
    · exact fetchWalk_eq ..
    · exact ⟨s.threads, s.walks, rfl⟩
  · exact ⟨s.threads, s.walks, rfl⟩

theorem foldl_fetchAhead_eq (l : List Thread) (s : State) : ∃ th ws, l.foldl fetchAhead s = { s with threads := th, walks := ws } := by
  induction l generalizing s with
  | nil => exact ⟨s.threads, s.walks, rfl⟩
  | cons t l ih =>
    obtain ⟨th, ws, e⟩ := fetchAhead_eq s t
    obtain ⟨th', ws', e'⟩ := ih (fetchAhead s t)
    exact ⟨th', ws', by rw [List.foldl_cons, e', e]⟩

/-- Arrivals change threads, and walks for the fetches that wait (R25, R92). -/
theorem markArrivals_eq (s : State) (core : Nat) : ∃ th ws, s.markArrivals core = { s with threads := th, walks := ws } := by
  obtain ⟨th, ws, e⟩ := foldl_fetchAhead_eq (s.threads.filter (s.arriving core)) s
  exact ⟨_, ws, by unfold State.markArrivals; rw [e]⟩

/-- What a completed rendezvous changes of its crew: its name and what it waits for stay, and a completed one stays completed. -/
structure Notes (f : Crew → Crew) : Prop where
  id : ∀ x, (f x).id = x.id
  slot : ∀ x, (f x).slot = x.slot
  stalled : ∀ x, (f x).stalled = x.stalled
  absent : ∀ x, (f x).absent = x.absent
  issuing : ∀ x, (f x).issuing = x.issuing
  begun : ∀ x, (f x).begun = x.begun
  unack : ∀ x, (f x).unack = x.unack
  complete : ∀ x, x.complete = true → (f x).complete = true

/-- Without SAT_TRAP, the completion of `BAR.CREW` leaves a report in its crew (R150, R159, R160). -/
theorem completeCrewBar_calm (s : State) (c : Crew) (all : List Thread) (h : c.satArm = false ∨ c.sat = 0) :
    ∃ i w, s.completeCrewBar c all = s.modCrew c.id (fun x => { x with stragId := i, stragWait := w }) := by
  unfold State.completeCrewBar
  rw [if_neg (by rcases h with h | h <;> simp [h])]
  exact ⟨_, _, rfl⟩

/-- Two changes of one crew are one. -/
theorem modCrew_modCrew (s : State) (i : CrewId) (f g : Crew → Crew) (hf : ∀ x, (f x).id = x.id) :
    (s.modCrew i f).modCrew i g = s.modCrew i (fun x => g (f x)) := by
  have crews : updWhere (fun c => c.id == i) g (updWhere (fun c => c.id == i) f s.crews) =
      updWhere (fun c => c.id == i) (fun x => g (f x)) s.crews := by
    simp only [updWhere, List.map_map]
    refine List.map_congr_left (fun x _ => ?_)
    by_cases h : x.id = i <;> simp [h, hf]
  simp only [State.modCrew, crews]

/-- A crew that completes its rendezvous in a cycle of its core (R26, R28). -/
def notedCrew (s : State) (core : Nat) (x : Crew) : Crew :=
  { x with complete := true, rdvFrom := some (s.cycleOf core), fence := some (x.fence.getD s.lastId) }

/-- What a crew's turn in noting completed rendezvous can be (R25, R26, R150): nothing, where the crew waits, has noted it, is due to overrun or stands
at none; its release, where a thread has left; or its completion in this cycle. No SAT_TRAP comes where the crew has no saturation mark or stands at
no rendezvous. -/
theorem noteCrew_cases (s : State) (core : Nat) (c : Crew) (h : (c.satArm = false ∨ c.sat = 0) ∨ s.rendezvousAt c.id = none) :
    (s.noteCrew core c = s ∧
      (c.stalled = true ∨ c.rdvFrom.isSome = true ∨ State.overrun c = true ∨ s.rendezvousAt c.id = none)) ∨
    (s.noteCrew core c = s.modCrew c.id Crew.released ∧ ∃ t ∈ s.liveOf c.id, t.arrived.isSome = false) ∨
    ∃ f, Notes f ∧ (∀ x, (f x).rdvFrom = some (s.cycleOf core)) ∧ s.noteCrew core c = s.modCrew c.id f := by
  unfold State.noteCrew
  dsimp only
  split_ifs with hc ha hw ho hb
  · exact .inr (.inl ⟨rfl, by simpa using ha⟩)
  · refine .inl ⟨rfl, ?_⟩
    rcases Bool.or_eq_true_iff.mp hw with hw | hw <;> simp [hw]
  · exact .inr (.inr ⟨_, by constructor <;> simp, fun _ => rfl, rfl⟩)
  · refine .inl ⟨rfl, ?_⟩
    rcases Bool.or_eq_true_iff.mp ho with ho | ho
    · simp [ho]
    · exact .inr (.inr (.inr (by simpa using ho)))
  · have calm : c.satArm = false ∨ c.sat = 0 := h.resolve_right (fun e => ho (by simp [e]))
    obtain ⟨i, w, e⟩ := completeCrewBar_calm (s.modCrew c.id (notedCrew s core)) c (s.liveOf c.id) calm
    rw [modCrew_modCrew s c.id (notedCrew s core) _ (fun _ => rfl)] at e
    exact .inr (.inr ⟨_, by constructor <;> simp [notedCrew], fun _ => rfl, e⟩)
  · exact .inr (.inr ⟨_, by constructor <;> simp, fun _ => rfl, rfl⟩)

/-- A change of one crew keeps the names of all, where it keeps that crew's. -/
theorem modCrew_names (s : State) (i : CrewId) (f : Crew → Crew) (hf : ∀ x, (f x).id = x.id) :
    (s.modCrew i f).crews.map Crew.id = s.crews.map Crew.id := by
  simp only [modCrew_crews, updWhere, List.map_map]
  refine List.map_congr_left (fun x _ => ?_)
  by_cases h : x.id = i <;> simp [h, hf]

/-- A crew's turn changes crews only, and none's name, where no SAT_TRAP is due (R26). -/
theorem noteCrew_calm (s : State) (core : Nat) (c : Crew) (h : c.satArm = false ∨ c.sat = 0) :
    ∃ cr, s.noteCrew core c = { s with crews := cr } ∧ cr.map Crew.id = s.crews.map Crew.id := by
  rcases noteCrew_cases s core c (.inl h) with ⟨e, -⟩ | ⟨e, -⟩ | ⟨f, hf, -, e⟩
  · exact ⟨s.crews, e, rfl⟩
  · exact ⟨_, e, modCrew_names s c.id _ (fun _ => rfl)⟩
  · exact ⟨_, e, modCrew_names s c.id f hf.id⟩

/-- Noting completed rendezvous changes crews only, and none's name, where no SAT_TRAP is due. -/
theorem foldl_noteCrew_calm (core : Nat) (l : List Crew) (h : ∀ c ∈ l, c.satArm = false ∨ c.sat = 0) (s : State) :
    ∃ cr, l.foldl (fun s c => s.noteCrew core c) s = { s with crews := cr } ∧ cr.map Crew.id = s.crews.map Crew.id := by
  induction l generalizing s with
  | nil => exact ⟨s.crews, rfl, rfl⟩
  | cons c l ih =>
    obtain ⟨cr, e, names⟩ := noteCrew_calm s core c (h c (by simp))
    obtain ⟨cr', e', names'⟩ := ih (fun c hc => h c (by simp [hc])) (s.noteCrew core c)
    exact ⟨cr', by rw [List.foldl_cons, e', e], names'.trans (by rw [e, names])⟩

/-- Settling a calm core changes threads, walks and crews only, and no crew's name. -/
theorem settleCore_calm (s : State) (core : Nat) (h : Calm s) :
    ∃ th ws cr, s.settleCore core = { s with threads := th, walks := ws, crews := cr } ∧ cr.map Crew.id = s.crews.map Crew.id := by
  obtain ⟨sat, ending⟩ := h
  obtain ⟨th, ws, e⟩ := markArrivals_eq s core
  unfold State.settleCore State.noteRendezvous
  rw [endGranted_of_none_ending core ending, e]
  obtain ⟨cr, e', names⟩ := foldl_noteCrew_calm core _ (fun c hc => sat c (List.mem_of_mem_filter hc)) { s with threads := th, walks := ws }
  exact ⟨th, ws, cr, e', names⟩

/-! ### The next cycle -/

/-- With no offers due, what comes after them comes at once (R65). -/
theorem afterOffers_of_not_offering (s : State) (f : State → State) (h : s.offering = false) : s.afterOffers f = f s := by
  have resume : s.resumeOffers = s := by simp [State.resumeOffers, h]
  simp [State.afterOffers, resume, h]

/-- FLIGHT_ISSUE on an idle core of a running device is the scheduler's work of one cycle. -/
theorem execFlightIssue_of_runs {s : State} {n : Nat} {k : Core} (h : Runs s) (hk : s.cores[n]? = some k) :
    exec (.flightIssue n) s = .next (issueCycle s n) := by
  obtain ⟨active, recovery, idle, offers⟩ := h
  have hn : n < s.cores.length := (List.getElem?_eq_some_iff.mp hk).1
  change execFlightIssue n s = _
  unfold execFlightIssue
  rw [if_pos ⟨active, recovery, idle, hn⟩, afterOffers_of_not_offering s _ offers]

/-- The clock of a core one cycle on (R9, R60). -/
def nextCycle (s : State) (n : Nat) (k : Core) : Core :=
  let den := s.speedOf n * k.f * s.gate
  { k with cycle := k.cycle + 1, time := k.time + (10 ^ 9 * 4096 + k.rem) / den, rem := (10 ^ 9 * 4096 + k.rem) % den }

theorem tick_eq {s : State} {n : Nat} {k : Core} (hk : s.cores[n]? = some k) :
    s.tick n = { s with cores := s.cores.set n (nextCycle s n k), time := max s.time (nextCycle s n k).time } := by
  unfold State.tick
  rw [hk]
  simp only [setAt_eq_set]
  rfl

/-- The state in which the flight of a cycle is chosen: what the last cycle brought is settled, and the cycle has passed. -/
def cycled (s : State) (n : Nat) : State := (((s.settleCore n).tick n).newCycle n).countWaits n

/-- The work of a cycle, with the state in which its flight is chosen named. -/
theorem issueCycle_def (s : State) (n : Nat) : issueCycle s n =
    match firstCand ((cycled s n).candidates n) with
    | none => (cycled s n).freeReleased n
    | some c => { ((cycled s n).freeReleased n).issued c.threads with cur := .flight n c.threads c.rdv, flightNo := (cycled s n).flightNo + 1 } :=
  rfl

/-- What a new cycle brings to a core's units changes threads, crews and teams. -/
theorem newCycle_countWaits_eq (s : State) (n : Nat) :
    ∃ th cr ts, (s.newCycle n).countWaits n = { s with threads := th, crews := cr, teams := ts } :=
  ⟨((s.newCycle n).countWaits n).threads, (s.newCycle n).crews, (s.newCycle n).teams, rfl⟩

/-- What a cycle changes after its core's clock: threads, crews, teams and the flight. -/
theorem issueCycle_eq (s : State) (n : Nat) :
    ∃ th cr ts cu no, issueCycle s n =
        { (s.settleCore n).tick n with threads := th, crews := cr, teams := ts, cur := cu, flightNo := no } ∧
      (cu = ((s.settleCore n).tick n).cur ∨ ∃ ids rdv, cu = .flight n ids rdv) := by
  obtain ⟨th, cr, ts, e⟩ := newCycle_countWaits_eq ((s.settleCore n).tick n) n
  rw [issueCycle_def, show cycled s n = _ from e]
  generalize (s.settleCore n).tick n = r
  cases firstCand (State.candidates { r with threads := th, crews := cr, teams := ts } n) with
  | none => exact ⟨(State.freeReleased { r with threads := th, crews := cr, teams := ts } n).threads, cr, ts, r.cur, r.flightNo, rfl, .inl rfl⟩
  | some c =>
    exact ⟨((State.freeReleased { r with threads := th, crews := cr, teams := ts } n).issued c.threads).threads, cr, ts,
      .flight n c.threads c.rdv, r.flightNo + 1, rfl, .inr ⟨_, _, rfl⟩⟩

/-- One cycle of the core's clock, the other clocks as they were, and memory and buffers as they were where no trap is due and no thread is to end
(R9, R60). -/
theorem flightIssue_clock (s : State) (n : Nat) (k : Core) (h : Runs s) (hk : s.cores[n]? = some k) :
    let den := s.speedOf n * k.f * s.gate
    ∃ s', exec (.flightIssue n) s = .next s' ∧ (Calm s → s'.mem = s.mem ∧ s'.buffers = s.buffers) ∧
      (s'.cores[n]?).map (fun x => (x.cycle, x.time, x.rem)) =
        some (k.cycle + 1, k.time + (10 ^ 9 * 4096 + k.rem) / den, (10 ^ 9 * 4096 + k.rem) % den) ∧
      (∀ m, m ≠ n → s'.cores[m]? = s.cores[m]?) ∧ s.time ≤ s'.time ∧
      (s'.cur = .idle ∨ ∃ ids rdv, s'.cur = .flight n ids rdv) := by
  intro den
  have ⟨_, _, idle, _⟩ := h
  have same := clock_settleCore s n
  have calm := settleCore_calm s n
  obtain ⟨th, cr, ts, cu, no, e, focus⟩ := issueCycle_eq s n
  refine ⟨_, execFlightIssue_of_runs h hk, ?_⟩
  revert e focus same calm
  generalize s.settleCore n = r
  intro same calm e focus
  simp only [clock, Prod.mk.injEq] at same
  obtain ⟨hcur, hcores, hspeeds, hgate, htime⟩ := same
  have hn : n < r.cores.length := by rw [hcores]; exact (List.getElem?_eq_some_iff.mp hk).1
  rw [← hcores] at hk
  rw [tick_eq hk] at e focus
  have hden : r.speedOf n * k.f * r.gate = den := by simp only [State.speedOf, hspeeds, hgate]; rfl
  rw [e]
  refine ⟨fun c => ?_, ?_, fun m hm => ?_, ?_, ?_⟩
  · obtain ⟨_, _, _, rfl, -⟩ := calm c
    exact ⟨rfl, rfl⟩
  · simp only [List.getElem?_set_self hn, Option.map_some, nextCycle, hden]
  · simp only [List.getElem?_set_ne (Ne.symm hm), hcores]
  · exact htime ▸ Nat.le_max_left ..
  · exact focus.imp_left (fun c => c.trans (hcur.trans idle))

end Sys2Proof.Proofs
end

section
/-!
PROOFS. RENDEZVOUS_COMPLETION: a crew that stands complete at a rendezvous still does once its core is settled, has noted it then, and runs its
uniform instruction where it is its turn (R22, R25, R26).
-/

namespace Sys2Proof.Proofs
open Sys2Proof Sys2Proof.Machine Sys2Proof.Laws Sys2Proof.Stmt

/-! ### What a rendezvous depends on -/

/-- A thread that may issue at all (R279, R280, R289). -/
theorem runnable_iff (s : State) (core : Nat) (t : Thread) : s.runnable core t = true ↔
    t.live = true ∧ ∃ tm, s.team? t.id.team = some tm ∧ tm.core? = some core ∧ tm.blocked = 0 ∧ s.scheduled tm.ctx = true ∧
      ((s.held tm = false ∧ ∃ g, s.grid? tm.grid = some g ∧ g.stopped = false) ∨
        ∃ c, s.crew? t.id.crewId = some c ∧ s.executing c = true) := by
  unfold State.runnable
  cases s.team? t.id.team with
  | none => simp
  | some tm =>
    dsimp only
    cases hg : s.grid? tm.grid <;> cases s.crew? t.id.crewId <;> simp [hg, and_assoc]

/-- A crew stands complete at a rendezvous (R26). -/
theorem rendezvousAt_iff (s : State) (i : CrewId) (core : Nat) (pc : Word) : s.rendezvousAt i = some (core, pc) ↔
    (s.team? i.team).bind Team.core? = some core ∧ s.liveOf i ≠ [] ∧
      ∀ t ∈ s.liveOf i, t.pc = pc ∧ t.arrived.isSome = true ∧ t.conv.isSome = true ∧ t.park = .none ∧ t.stall = .none ∧
        s.runnable core t = true := by
  unfold State.rendezvousAt
  cases s.liveOf i with
  | nil => simp
  | cons t ts =>
    cases (s.team? i.team).bind Team.core? with
    | none => simp
    | some n =>
      dsimp only
      split_ifs with h
      · simp only [Option.some.injEq, Prod.mk.injEq]
        rw [List.all_eq_true] at h
        constructor
        · rintro ⟨rfl, rfl⟩
          exact ⟨rfl, by simp, fun x hx => by simpa [and_assoc] using h x hx⟩
        · rintro ⟨rfl, -, hall⟩
          exact ⟨rfl, (hall t (by simp)).1⟩
      · simp only [Option.some.injEq, false_iff]
        rintro ⟨rfl, -, hall⟩
        refine h (List.all_eq_true.mpr fun x hx => ?_)
        have ht := (hall t (by simp)).1
        simpa [ht, and_assoc] using hall x hx

/-- What a crew's rendezvous depends on is the same in two states, or still lets its threads run: the teams, the contexts, the grids, the crew's live
threads, the teams that a pre-emption holds, and whether the crew executes. -/
structure Keeps (s r : State) (i : CrewId) : Prop where
  teams : r.teams = s.teams
  ctxs : r.ctxs = s.ctxs
  grids : r.grids = s.grids
  live : r.liveOf i = s.liveOf i
  held : ∀ tm, s.held tm = false → r.held tm = false
  executing : ∀ c, s.crew? i = some c → s.executing c = true → ∃ d, r.crew? i = some d ∧ r.executing d = true

theorem Keeps.runnable {s r : State} {i : CrewId} (h : Keeps s r i) {core : Nat} {t : Thread} (ht : t.id.crewId = i)
    (ok : s.runnable core t = true) : r.runnable core t = true := by
  rw [runnable_iff] at ok ⊢
  obtain ⟨live, tm, hteam, hcore, blocked, sched, may⟩ := ok
  refine ⟨live, tm, by simpa only [State.team?, h.teams] using hteam, hcore, blocked,
    by simpa only [State.scheduled, State.ctx?, h.ctxs] using sched, ?_⟩
  rcases may with ⟨held, grid⟩ | ⟨c, hc, ex⟩
  · exact .inl ⟨h.held tm held, by simpa only [State.grid?, h.grids] using grid⟩
  · subst ht
    exact .inr (h.executing c hc ex)

/-- A live thread of a crew is one of its threads. -/
theorem crewId_of_mem_liveOf {s : State} {i : CrewId} {t : Thread} (h : t ∈ s.liveOf i) : t.id.crewId = i := by
  have := (List.mem_filter.mp h).2
  simp only [Bool.and_eq_true, beq_iff_eq] at this
  exact this.1

theorem Keeps.rendezvousAt {s r : State} {i : CrewId} (h : Keeps s r i) {v : Nat × Word} (hv : s.rendezvousAt i = some v) :
    r.rendezvousAt i = some v := by
  rw [rendezvousAt_iff] at hv ⊢
  obtain ⟨core, some_live, all⟩ := hv
  rw [h.live]
  refine ⟨by simpa only [State.team?, h.teams] using core, some_live, fun t ht => ?_⟩
  obtain ⟨pc, arrived, conv, park, stall, run⟩ := all t ht
  exact ⟨pc, arrived, conv, park, stall, h.runnable (crewId_of_mem_liveOf ht) run⟩

/-- Whether a crew executes depends on its record, its live threads, and its context (R280). -/
theorem executing_congr {s r : State} {c d : Crew} (hteams : r.teams = s.teams) (hctxs : r.ctxs = s.ctxs)
    (hlive : r.liveOf c.id = s.liveOf c.id) (hid : d.id = c.id) (habsent : d.absent = c.absent) (hissuing : d.issuing = c.issuing)
    (hcomplete : c.complete = true → d.complete = true) (ex : s.executing c = true) : r.executing d = true := by
  have conv : r.convOf c.id = s.convOf c.id := by unfold State.convOf; rw [hlive]
  have instr : r.convInstr c.id = s.convInstr c.id := by unfold State.convInstr; rw [conv]
  have bar : r.atCrewBar c.id = s.atCrewBar c.id := by unfold State.atCrewBar; rw [instr]
  have uni : r.atUniform c.id = s.atUniform c.id := by unfold State.atUniform; rw [conv]
  have must : r.mustEnd c.id = s.mustEnd c.id := by unfold State.mustEnd; rw [instr]
  have sched : r.scheduled (r.ctxId c.id.team) = s.scheduled (s.ctxId c.id.team) := by
    simp only [State.scheduled, State.ctx?, State.ctxId, State.team?, hteams, hctxs]
  unfold State.executing at ex ⊢
  rw [hid, sched, bar, uni, must, habsent, hissuing]
  simp only [Bool.and_eq_true] at ex ⊢
  obtain ⟨⟨complete, sched⟩, rest⟩ := ex
  exact ⟨⟨hcomplete complete, sched⟩, rest⟩

/-- No context stops, so no team is held by a pre-emption (R280). -/
theorem held_of_none_stopping {s : State} (h : ∀ x ∈ s.ctxs, x.stopping = false) (tm : Team) : s.held tm = false := by
  unfold State.held
  cases e : s.ctx? tm.ctx with
  | none => rfl
  | some x => simp [h x (ctx_mem e)]

/-- Where every wait that kept a team from being held is still there, no more teams are held. -/
theorem held_of_awaited {s r : State} (hctxs : r.ctxs = s.ctxs) {tm : Team} (aw : s.awaited tm = true → r.awaited tm = true)
    (h : s.held tm = false) : r.held tm = false := by
  unfold State.held at h ⊢
  rw [show r.ctx? tm.ctx = s.ctx? tm.ctx by simp only [State.ctx?, hctxs]]
  simp only [Bool.and_eq_false_iff, Bool.not_eq_false'] at h ⊢
  exact h.imp_right aw

/-- The waits of crews that keep a team from being held, when each crew's record lives on in another that waits for as much. -/
theorem awaited_mono {s r : State} (hteams : r.teams = s.teams) (tm : Team)
    (h : ∀ c ∈ s.crews, ∃ d ∈ r.crews, d.id = c.id ∧ d.begun = c.begun ∧ d.unack = c.unack ∧
      (s.executing c = true → r.executing d = true))
    (aw : s.awaited tm = true) : r.awaited tm = true := by
  unfold State.awaited at aw ⊢
  simp only [List.any_eq_true, Bool.and_eq_true, Bool.or_eq_true] at aw ⊢
  obtain ⟨c, hc, ⟨ctx, here⟩, waits⟩ := aw
  obtain ⟨d, hd, id, begun, unack, ex⟩ := h c hc
  refine ⟨d, hd, ⟨?_, ?_⟩, ?_⟩
  · rw [id]; simpa only [State.ctxId, State.team?, hteams] using ctx
  · rw [id]; simpa only [State.outside, State.team?, hteams] using here
  · rw [begun, unack]
    exact waits.imp_left (fun w => ⟨w.1, ex w.2⟩)

/-! ### What settling keeps of a rendezvous -/

/-- Noting a completed rendezvous, of this crew or of another, keeps a crew at its own. -/
theorem keeps_of_notes (s : State) (j i : CrewId) {f : Crew → Crew} (hf : Notes f) : Keeps s (s.modCrew j f) i where
  teams := rfl
  ctxs := rfl
  grids := rfl
  live := rfl
  held tm := held_of_awaited (s := s) (r := s.modCrew j f) rfl <| awaited_mono (s := s) (r := s.modCrew j f) rfl tm fun c hc => by
    refine ⟨_, (mem_updWhere _ _ _ _).mpr ⟨c, hc, rfl⟩, ?_⟩
    split
    · exact ⟨hf.id c, hf.begun c, hf.unack c, executing_congr rfl rfl rfl (hf.id c) (hf.absent c) (hf.issuing c) (hf.complete c)⟩
    · exact ⟨rfl, rfl, rfl, id⟩
  executing c hc ex := by
    by_cases hij : i = j
    · subst hij
      refine ⟨f c, ?_, executing_congr rfl rfl rfl (hf.id c) (hf.absent c) (hf.issuing c) (hf.complete c) ex⟩
      rw [crew_modCrew_self s i f (fun x hx => (hf.id x).trans hx), hc]
      rfl
    · exact ⟨c, by rw [crew_modCrew_of_ne s j i f (fun x hx => (hf.id x).trans hx) hij, hc], ex⟩

/-- A change of another crew keeps a crew at its rendezvous, where no context stops. -/
theorem keeps_of_other (s : State) {j i : CrewId} (hij : i ≠ j) {f : Crew → Crew} (hf : ∀ x, (f x).id = x.id)
    (hs : ∀ x ∈ s.ctxs, x.stopping = false) : Keeps s (s.modCrew j f) i where
  teams := rfl
  ctxs := rfl
  grids := rfl
  live := rfl
  held tm _ := held_of_none_stopping (s := s.modCrew j f) hs tm
  executing c hc ex := ⟨c, by rw [crew_modCrew_of_ne s j i f (fun x hx => (hf x).trans hx) hij, hc], ex⟩

/-- No other crew can change how a crew runs: no context stops, or it is alone. -/
def Steady (s : State) (i : CrewId) : Prop := (∀ x ∈ s.ctxs, x.stopping = false) ∨ ∀ c ∈ s.crews, c.id = i

/-! ### Arrivals leave a crew that has arrived alone -/

/-- A change of threads that keeps names and lives. -/
structure Moves (g : Thread → Thread) : Prop where
  id : ∀ t, (g t).id = t.id
  live : ∀ t, (g t).live = t.live

/-- Threads that wait for a walk keep their names and lives, and the others stay as they are (R92). -/
theorem fetchAhead_threads (s : State) (t : Thread) :
    ∃ g, Moves g ∧ (∀ u, u.id ≠ t.id → g u = u) ∧ (fetchAhead s t).threads = s.threads.map g := by
  have walked : ∀ pc, ∃ g, Moves g ∧ (∀ u, u.id ≠ t.id → g u = u) ∧ (fetchWalk s [t.id] pc).threads = s.threads.map g := by
    intro pc
    obtain ⟨ws, e⟩ := joinWalk_eq s (s.ctxId t.id.team) (s.coreOf t.id.team) (codeVa s t.id.team pc) .fetch false (.thread t.id)
    refine ⟨fun u => if u.id == t.id then { u with stall := .walk } else u, ⟨fun u => ?_, fun u => ?_⟩, fun u hu => ?_, ?_⟩
    · split <;> rfl
    · split <;> rfl
    · simp [hu]
    · simp only [fetchWalk, List.foldl_cons, List.foldl_nil, e]
      rfl
  have still : ∃ g, Moves g ∧ (∀ u, u.id ≠ t.id → g u = u) ∧ s.threads = s.threads.map g :=
    ⟨id, ⟨fun _ => rfl, fun _ => rfl⟩, fun _ _ => rfl, (List.map_id _).symm⟩
  unfold fetchAhead
  split
  · exact walked _
  · split
    · exact walked _
    · exact still
  · exact still

theorem foldl_fetchAhead_threads (l : List Thread) (s : State) :
    ∃ g, Moves g ∧ (∀ u, (∀ t ∈ l, u.id ≠ t.id) → g u = u) ∧ (l.foldl fetchAhead s).threads = s.threads.map g := by
  induction l generalizing s with
  | nil => exact ⟨id, ⟨fun _ => rfl, fun _ => rfl⟩, fun _ _ => rfl, (List.map_id _).symm⟩
  | cons t l ih =>
    obtain ⟨g, hg, fixed, e⟩ := fetchAhead_threads s t
    obtain ⟨g', hg', fixed', e'⟩ := ih (fetchAhead s t)
    refine ⟨g' ∘ g, ⟨fun u => (hg'.id _).trans (hg.id u), fun u => (hg'.live _).trans (hg.live u)⟩, fun u hu => ?_, ?_⟩
    · rw [Function.comp, fixed u (hu t (by simp)), fixed' u (fun v hv => hu v (by simp [hv]))]
    · rw [List.foldl_cons, e', e, List.map_map]

/-- An arrival changes when and where a thread has arrived, and its wait (R25). -/
theorem arrivalOf_eq (s : State) (core : Nat) (t : Thread) : ∃ a c w, s.arrivalOf core t = { t with arrived := a, conv := c, wait := w } := by
  unfold State.arrivalOf
  split
  · exact ⟨t.arrived, t.conv, t.wait, rfl⟩
  · exact ⟨none, t.conv, t.wait, rfl⟩
  · split
    · exact ⟨_, _, _, rfl⟩
    · exact ⟨none, t.conv, t.wait, rfl⟩

theorem arrivalOf_moves (s : State) (core : Nat) : Moves (s.arrivalOf core) := by
  constructor <;> intro t <;> obtain ⟨a, c, w, e⟩ := arrivalOf_eq s core t <;> rw [e]

/-- A thread that has arrived at a known word is not arriving (R25). -/
theorem not_arriving {s : State} {core : Nat} {t : Thread} (ha : t.arrived.isSome = true) (hc : t.conv.isSome = true) :
    s.arriving core t = false := by
  obtain ⟨a, ha⟩ := Option.isSome_iff_exists.mp ha
  obtain ⟨c, hc⟩ := Option.isSome_iff_exists.mp hc
  simp [State.arriving, ha, hc]

/-- The live threads of a crew are the same when the threads are changed, but for those of the crew that are live. -/
theorem filter_map_liveOf {l : List Thread} {i : CrewId} {g : Thread → Thread} (hg : Moves g)
    (fixed : ∀ t ∈ l, t.id.crewId = i → t.live = true → g t = t) :
    (l.map g).filter (fun t => t.id.crewId == i && t.live) = l.filter (fun t => t.id.crewId == i && t.live) := by
  rw [List.filter_map]
  have same : ((fun t : Thread => t.id.crewId == i && t.live) ∘ g) = fun t => t.id.crewId == i && t.live := by
    funext t
    simp only [Function.comp, hg.id, hg.live]
  rw [same]
  refine (List.map_congr_left fun t ht => ?_).trans (List.map_id _)
  obtain ⟨mem, ok⟩ := List.mem_filter.mp ht
  simp only [Bool.and_eq_true, beq_iff_eq] at ok
  exact fixed t mem ok.1 ok.2

/-- A crew whose live threads have all arrived has the same live threads after the arrivals of its core. -/
theorem liveOf_markArrivals {s : State} {i : CrewId} (core : Nat)
    (h : ∀ t ∈ s.liveOf i, t.arrived.isSome = true ∧ t.conv.isSome = true) : (s.markArrivals core).liveOf i = s.liveOf i := by
  have stands : ∀ t ∈ s.threads, t.id.crewId = i → t.live = true → t.arrived.isSome = true ∧ t.conv.isSome = true :=
    fun t ht hi hl => h t (List.mem_filter.mpr ⟨ht, by simp [hi, hl]⟩)
  obtain ⟨g, hg, fixed, e⟩ := foldl_fetchAhead_threads (s.threads.filter (s.arriving core)) s
  have ahead : ∀ t ∈ s.threads, t.id.crewId = i → t.live = true → g t = t := by
    refine fun t _ hi hl => fixed t fun u hu same => ?_
    obtain ⟨mem, arriving⟩ := List.mem_filter.mp hu
    have hu' : u.live = true := by
      simp only [State.arriving, State.runnable, Bool.and_eq_true] at arriving
      exact arriving.1.1.1.1
    obtain ⟨ha, hc⟩ := stands u mem (same ▸ hi) hu'
    rw [not_arriving ha hc] at arriving
    cases arriving
  unfold State.markArrivals State.liveOf
  dsimp only
  rw [e, updWhere_eq_map, List.map_map]
  refine filter_map_liveOf ⟨fun t => ?_, fun t => ?_⟩ fun t ht hi hl => ?_
  · dsimp only [Function.comp]
    split
    · exact ((arrivalOf_moves _ core).id _).trans (hg.id t)
    · exact hg.id t
  · dsimp only [Function.comp]
    split
    · exact ((arrivalOf_moves _ core).live _).trans (hg.live t)
    · exact hg.live t
  · obtain ⟨ha, hc⟩ := stands t ht hi hl
    simp only [Function.comp, ahead t ht hi hl, not_arriving ha hc, Bool.false_eq_true, if_false]

/-- The arrivals of a core keep a crew at its rendezvous. -/
theorem keeps_markArrivals {s : State} {i : CrewId} (core : Nat) (st : Steady s i)
    (h : ∀ t ∈ s.liveOf i, t.arrived.isSome = true ∧ t.conv.isSome = true) : Keeps s (s.markArrivals core) i := by
  have live := liveOf_markArrivals core h
  obtain ⟨th, ws, e⟩ := markArrivals_eq s core
  have teams : (s.markArrivals core).teams = s.teams := by rw [e]
  have ctxs : (s.markArrivals core).ctxs = s.ctxs := by rw [e]
  have crews : (s.markArrivals core).crews = s.crews := by rw [e]
  have ex : ∀ c : Crew, c.id = i → s.executing c = true → (s.markArrivals core).executing c = true :=
    fun c hc => executing_congr teams ctxs (hc ▸ live) rfl rfl rfl id
  refine ⟨teams, ctxs, by rw [e], live, fun tm held => ?_, fun c hc hx => ⟨c, ?_, ex c (crew_name hc) hx⟩⟩
  · rcases st with none_stops | alone
    · exact held_of_none_stopping (ctxs ▸ none_stops) tm
    · exact held_of_awaited ctxs (awaited_mono teams tm fun c hc => ⟨c, crews ▸ hc, rfl, rfl, rfl, ex c (alone c hc)⟩) held
  · rw [State.crew?, crews]
    exact hc

/-! ### Noting the completed rendezvous -/

/-- While the crews of a core note their rendezvous in a cycle, the crew `i` stands complete at its own and does not wait, and the cycle in which it
completed is as `noted` says. -/
structure Stands (s : State) (i : CrewId) (core : Nat) (pc : Word) (cycle : Nat) (noted : Option Nat → Prop) : Prop where
  rdv : s.rendezvousAt i = some (core, pc)
  cycle : s.cycleOf core = cycle
  crew : ∃ x, s.crew? i = some x ∧ x.stalled = false ∧ noted x.rdvFrom

theorem Stands.imp {s : State} {i : CrewId} {core : Nat} {pc : Word} {cycle : Nat} {noted noted' : Option Nat → Prop}
    (h : Stands s i core pc cycle noted) (hn : ∀ v, noted v → noted' v) : Stands s i core pc cycle noted' := by
  obtain ⟨x, hx, stalled, n⟩ := h.crew
  exact ⟨h.rdv, h.cycle, x, hx, stalled, hn _ n⟩

/-- All threads of a crew that stands complete have arrived. -/
theorem Stands.arrived {s : State} {i : CrewId} {core : Nat} {pc : Word} {cycle : Nat} {noted : Option Nat → Prop}
    (h : Stands s i core pc cycle noted) {t : Thread} (ht : t ∈ s.liveOf i) : t.arrived.isSome = true := by
  obtain ⟨-, -, all⟩ := (rendezvousAt_iff s i core pc).mp h.rdv
  exact (all t ht).2.1

/-- A change that notes the completion in the cycle that runs, of this crew or of another. -/
theorem Stands.notes {s : State} {i j : CrewId} {core : Nat} {pc : Word} {cycle : Nat} {noted : Option Nat → Prop}
    (h : Stands s i core pc cycle noted) {f : Crew → Crew} (hf : Notes f) (from_ : ∀ x, (f x).rdvFrom = some (s.cycleOf core)) :
    Stands (s.modCrew j f) i core pc cycle (fun v => if i = j then v = some cycle else noted v) := by
  refine ⟨(keeps_of_notes s j i hf).rendezvousAt h.rdv, h.cycle, ?_⟩
  obtain ⟨x, hx, stalled, n⟩ := h.crew
  by_cases hij : i = j
  · subst hij
    refine ⟨f x, ?_, (hf.stalled x).trans stalled, ?_⟩
    · rw [crew_modCrew_self s i f (fun x hx => (hf.id x).trans hx), hx]
      rfl
    · rw [if_pos rfl, from_, h.cycle]
  · refine ⟨x, ?_, stalled, by rwa [if_neg hij]⟩
    rw [crew_modCrew_of_ne s j i f (fun x hx => (hf.id x).trans hx) hij, hx]

/-- A crew's turn keeps another at its rendezvous, and what is noted of it, or it notes the cycle that runs. -/
theorem Stands.noteCrew {s : State} {i : CrewId} {core : Nat} {pc : Word} {cycle : Nat} {noted : Option Nat → Prop}
    (h : Stands s i core pc cycle noted) (hn : noted (some cycle)) {c : Crew} (calm : c.satArm = false ∨ c.sat = 0)
    (st : (∀ x ∈ s.ctxs, x.stopping = false) ∨ c.id = i) : Stands (s.noteCrew core c) i core pc cycle noted := by
  rcases noteCrew_cases s core c (.inl calm) with ⟨e, -⟩ | ⟨e, t, ht, away⟩ | ⟨f, hf, from_, e⟩
  · rw [e]; exact h
  · have hij : i ≠ c.id := by
      rintro rfl
      rw [h.arrived ht] at away
      cases away
    have none_stops := st.resolve_right (Ne.symm hij)
    rw [e]
    obtain ⟨x, hx, rest⟩ := h.crew
    exact ⟨(keeps_of_other s hij (f := Crew.released) (fun _ => rfl) none_stops).rendezvousAt h.rdv, h.cycle, x,
      by rw [crew_modCrew_of_ne s c.id i Crew.released (fun _ hx => hx) hij, hx], rest⟩
  · rw [e]
    refine (h.notes hf from_).imp fun v hv => ?_
    split at hv
    · exact hv ▸ hn
    · exact hv

/-- A crew's own turn: it has noted its completion before, or it notes the cycle that runs (R26). -/
theorem Stands.noteCrew_self {s : State} {core : Nat} {pc : Word} {cycle : Nat} {noted : Option Nat → Prop} {c : Crew}
    (h : Stands s c.id core pc cycle noted) (calm : c.satArm = false ∨ c.sat = 0) (stalled : c.stalled = false)
    (overrun : State.overrun c = false) :
    Stands (s.noteCrew core c) c.id core pc cycle (fun v => (noted v ∧ c.rdvFrom.isSome = true) ∨ v = some cycle) := by
  rcases noteCrew_cases s core c (.inl calm) with ⟨e, why⟩ | ⟨e, t, ht, away⟩ | ⟨f, hf, from_, e⟩
  · have before : c.rdvFrom.isSome = true := by simpa [stalled, overrun, h.rdv] using why
    rw [e]
    exact h.imp fun v hv => .inl ⟨hv, before⟩
  · rw [h.arrived ht] at away
    cases away
  · rw [e]
    exact (h.notes hf from_).imp fun v hv => .inr (by simpa using hv)

/-- The turns of some crews keep a crew at its rendezvous, and what is noted of it, or it notes the cycle that runs. -/
theorem foldl_noteCrew_stands {i : CrewId} {core : Nat} {pc : Word} {cycle : Nat} {noted : Option Nat → Prop} (hn : noted (some cycle))
    (l : List Crew) (calm : ∀ c ∈ l, c.satArm = false ∨ c.sat = 0) (s : State)
    (st : (∀ x ∈ s.ctxs, x.stopping = false) ∨ ∀ c ∈ l, c.id = i) (h : Stands s i core pc cycle noted) :
    Stands (l.foldl (fun s c => s.noteCrew core c) s) i core pc cycle noted := by
  induction l generalizing s with
  | nil => exact h
  | cons c l ih =>
    have turn := h.noteCrew hn (calm c (by simp)) (st.imp_right fun all => all c (by simp))
    obtain ⟨cr, e, -⟩ := noteCrew_calm s core c (calm c (by simp))
    refine ih (fun d hd => calm d (by simp [hd])) (s.noteCrew core c) (st.imp (fun none_stops => ?_) fun all d hd => all d (by simp [hd])) turn
    rw [e]
    exact none_stops

/-- Once its own turn has come among those of some crews, a crew that stands complete has noted its completion, in this cycle where it had not
before (R26). -/
theorem foldl_noteCrew_self {s : State} {core : Nat} {pc : Word} {cycle : Nat} {c : Crew} {l : List Crew} (listed : c ∈ l)
    (calm : ∀ c ∈ l, c.satArm = false ∨ c.sat = 0) (st : (∀ x ∈ s.ctxs, x.stopping = false) ∨ ∀ d ∈ l, d.id = c.id)
    (stalled : c.stalled = false) (overrun : State.overrun c = false) (h : Stands s c.id core pc cycle (· = c.rdvFrom)) :
    Stands (l.foldl (fun s c => s.noteCrew core c) s) c.id core pc cycle (fun v => v.isSome = true ∧ (c.rdvFrom = none → v = some cycle)) := by
  obtain ⟨before, after, rfl⟩ := List.append_of_mem listed
  obtain ⟨cr, e, -⟩ := foldl_noteCrew_calm core before (fun d hd => calm d (by simp [hd])) s
  have reached := foldl_noteCrew_stands (.inr rfl) before (fun d hd => calm d (by simp [hd])) s
    (st.imp_right fun all d hd => all d (by simp [hd])) (h.imp fun v hv => (.inl hv : v = c.rdvFrom ∨ v = some cycle))
  rw [List.foldl_append, List.foldl_cons]
  rw [e] at reached ⊢
  obtain ⟨cr', e', -⟩ := noteCrew_calm { s with crews := cr } core c (calm c (by simp))
  have own := reached.noteCrew_self (calm c (by simp)) stalled overrun
  rw [e'] at own ⊢
  refine (foldl_noteCrew_stands (.inr rfl) after (fun d hd => calm d (by simp [hd])) { s with crews := cr' }
    (st.imp_right fun all d hd => all d (by simp [hd])) own).imp ?_
  rintro v (⟨rfl | rfl, was⟩ | rfl)
  · exact ⟨was, fun no => by rw [no] at was; cases was⟩
  · exact ⟨rfl, fun _ => rfl⟩
  · exact ⟨rfl, fun _ => rfl⟩

/-- A crew that stands complete at a rendezvous, waits for nothing and is not due to overrun stands there after its core is settled, with its live
threads as they were; it has noted its completion, in this cycle where it had not before (R25, R26). -/
theorem settleCore_stands {s : State} {c : Crew} {core : Nat} {pc : Word} (calm : Calm s) (st : Steady s c.id) (hc : s.crew? c.id = some c)
    (retired : c.retired = false) (stalled : c.stalled = false) (overrun : State.overrun c = false)
    (rdv : s.rendezvousAt c.id = some (core, pc)) :
    Stands (s.settleCore core) c.id core pc (s.cycleOf core) (fun v => v.isSome = true ∧ (c.rdvFrom = none → v = some (s.cycleOf core))) ∧
      (s.settleCore core).liveOf c.id = s.liveOf c.id := by
  obtain ⟨sat, ending⟩ := calm
  obtain ⟨resident, -, all⟩ := (rendezvousAt_iff s c.id core pc).mp rdv
  have keeps := keeps_markArrivals core st fun t ht => ⟨(all t ht).2.1, (all t ht).2.2.1⟩
  obtain ⟨th, ws, marked⟩ := markArrivals_eq s core
  unfold State.settleCore State.noteRendezvous
  rw [endGranted_of_none_ending core ending]
  rw [marked] at keeps ⊢
  generalize hl : List.filter _ _ = l
  have sub : ∀ d ∈ l, d ∈ s.crews := fun d hd => List.mem_of_mem_filter (hl ▸ hd)
  have lcalm : ∀ d ∈ l, d.satArm = false ∨ d.sat = 0 := fun d hd => sat d (sub d hd)
  have listed : c ∈ l := by
    rw [← hl]
    exact List.mem_filter.mpr ⟨crew_mem hc, by simpa [State.residentOn, State.team?, retired] using resident⟩
  constructor
  · exact foldl_noteCrew_self listed lcalm (st.imp_right fun alone d hd => alone d (sub d hd)) stalled overrun
      ⟨keeps.rendezvousAt rdv, rfl, c, hc, stalled, rfl⟩
  · obtain ⟨cr, e, -⟩ := foldl_noteCrew_calm core l lcalm { s with threads := th, walks := ws }
    rw [e]
    exact keeps.live

/-! ### RENDEZVOUS_COMPLETION -/

/-- RENDEZVOUS_COMPLETION of a crew that stands complete on a core of a running device: the core is settled, and the crew runs where it is its turn. -/
theorem execRendezvousCompletion_of_runs {s : State} {i : CrewId} {core : Nat} {pc : Word} (h : Runs s)
    (rdv : s.rendezvousAt i = some (core, pc)) :
    exec (.rendezvousCompletion i) s = .next (runUniform (s.settleCore core) i core) := by
  obtain ⟨active, recovery, idle, -⟩ := h
  change execRendezvousCompletion i s = _
  unfold execRendezvousCompletion
  rw [((rendezvousAt_iff s i core pc).mp rdv).1]
  simp only [idle, recovery, active, and_self, if_true]

/-- A crew's turn in the uniform pipe changes threads, cores and the focus, where no offers are due (R22, R65). -/
theorem runUniform_eq (s : State) (i : CrewId) (core : Nat) (h : s.offering = false) :
    ∃ th cs cu, runUniform s i core = { s with threads := th, cores := cs, cur := cu } := by
  unfold runUniform
  dsimp only
  split
  · exact ⟨s.threads, s.cores, s.cur, rfl⟩
  · split
    · rw [afterOffers_of_not_offering s _ h]
      unfold State.modCore
      split
      · exact ⟨_, s.cores, _, rfl⟩
      · exact ⟨_, _, _, rfl⟩
    · exact ⟨s.threads, s.cores, s.cur, rfl⟩

/-- A crew that stands complete at a rendezvous notes the cycle in which it does (R26). -/
theorem rendezvousCompletion_notes (s : State) (c : Crew) (core : Nat) (pc : Word) (h : Runs s) (calm : Calm s)
    (none_stops : ∀ x ∈ s.ctxs, x.stopping = false) (hc : s.crew? c.id = some c) (retired : c.retired = false) (stalled : c.stalled = false)
    (in_time : ¬(c.phArm = true ∧ c.phLimit < c.phCount)) (fresh : c.rdvFrom = none) (rdv : s.rendezvousAt c.id = some (core, pc)) :
    ∃ s', exec (.rendezvousCompletion c.id) s = .next s' ∧ s'.mem = s.mem ∧ s'.teams = s.teams ∧
      (s'.crew? c.id).map Crew.rdvFrom = some (some (s.cycleOf core)) := by
  have overrun : State.overrun c = false := by simpa [State.overrun] using in_time
  obtain ⟨stands, -⟩ := settleCore_stands calm (.inl none_stops) hc retired stalled overrun rdv
  obtain ⟨x, hx, -, -, noted⟩ := stands.crew
  have ⟨_, _, _, offering⟩ := h
  obtain ⟨th, ws, cr, settled, -⟩ := settleCore_calm s core calm
  refine ⟨_, execRendezvousCompletion_of_runs h rdv, ?_⟩
  rw [settled] at hx ⊢
  obtain ⟨th', cs, cu, e⟩ := runUniform_eq { s with threads := th, walks := ws, crews := cr } c.id core offering
  rw [e]
  refine ⟨rfl, rfl, ?_⟩
  rw [show State.crew? { s with threads := th', walks := ws, crews := cr, cores := cs, cur := cu } c.id = some x from hx,
    Option.map_some, noted fresh]

/-- A thread without outstanding loads has its operands (R20). -/
theorem operandsReady_of_no_loads (s : State) {t : Thread} (h : t.loads = []) : operandsReady s t = true := by
  simp [operandsReady, h]

/-- A crew that has noted its completed rendezvous at a uniform word, and is alone, is the one whose instruction can run. -/
theorem completed_alone {s : State} {c : Crew} {core : Nat} {pc w : Word} {t : Thread} {ts : List Thread} (alone : s.crews = [c])
    (noted : c.rdvFrom.isSome = true) (stalled : c.stalled = false) (live : s.liveOf c.id = t :: ts)
    (rdv : s.rendezvousAt c.id = some (core, pc)) (conv : t.conv = some w) (uniform : 0x80000000 ≤ w.toNat)
    (loads : ∀ u ∈ t :: ts, u.loads = []) : s.completed core true = [(c, pc)] := by
  have at_ : s.atUniform c.id = true := by simp [State.atUniform, State.convOf, live, conv, uniform]
  have ready : (s.liveOf c.id).all (operandsReady s) = true := by
    rw [live, List.all_eq_true]
    exact fun u hu => operandsReady_of_no_loads s (loads u hu)
  unfold State.completed
  rw [alone, List.filterMap_cons, List.filterMap_nil]
  simp only [noted, stalled, at_, ready, rdv, Bool.not_false, beq_self_eq_true, Bool.and_self, if_true]

/-- The uniform pipe runs the crew that is alone with a completed rendezvous, when it is free in this cycle (R22). -/
theorem runUniform_alone {s : State} {c : Crew} {core : Nat} {pc : Word} {k : Core} {t : Thread} {ts : List Thread} (offers : s.offering = false)
    (only : s.completed core true = [(c, pc)]) (live : s.liveOf c.id = t :: ts) (hk : s.cores[core]? = some k) (free : k.pipe ≠ some k.cycle) :
    (runUniform s c.id core).cur = .uniform c.id ∧
      ((runUniform s c.id core).cores[core]?).map Core.pipe = some (some k.cycle) := by
  have cyc : s.cycleOf core = k.cycle := by simp [State.cycleOf, hk]
  have mine : t.id.crewId = c.id := crewId_of_mem_liveOf (s := s) (by rw [live]; simp)
  have hn : core < s.cores.length := (List.getElem?_eq_some_iff.mp hk).1
  have run : runUniform s c.id core =
      { (s.issued (s.crewCand core pc c).threads) with
        cores := s.cores.set core { k with pipe := some k.cycle }, cur := .uniform c.id } := by
    unfold runUniform
    simp only [only, List.map_cons, List.map_nil, firstCand, List.foldl_nil, hk, cyc]
    rw [if_pos (by simp [State.crewCand, State.candOf, live, mine, free]), afterOffers_of_not_offering s _ offers]
    simp [State.modCore, State.issued, hk]
  rw [run]
  refine ⟨rfl, ?_⟩
  simp [List.getElem?_set_self hn]

/-- A crew alone on its core, complete at a rendezvous with a uniform word, runs its instruction next, when the uniform pipe is free (R22, R26). -/
theorem rendezvousCompletion_runs (s : State) (c : Crew) (core : Nat) (pc w : Word) (k : Core) (t : Thread) (ts : List Thread) (h : Runs s)
    (calm : Calm s) (alone : s.crews = [c]) (retired : c.retired = false) (stalled : c.stalled = false)
    (in_time : ¬(c.phArm = true ∧ c.phLimit < c.phCount)) (live : s.liveOf c.id = t :: ts) (rdv : s.rendezvousAt c.id = some (core, pc))
    (hk : s.cores[core]? = some k) (free : k.pipe ≠ some k.cycle) (conv : t.conv = some w) (uniform : 0x80000000 ≤ w.toNat)
    (loads : ∀ u ∈ t :: ts, u.loads = []) :
    ∃ s', exec (.rendezvousCompletion c.id) s = .next s' ∧ s'.cur = .uniform c.id ∧
      (s'.cores[core]?).map Core.pipe = some (some k.cycle) := by
  have overrun : State.overrun c = false := by simpa [State.overrun] using in_time
  have hc : s.crew? c.id = some c := by simp [State.crew?, alone]
  obtain ⟨stands, live'⟩ := settleCore_stands calm (.inr fun d hd => by
    rw [alone, List.mem_singleton] at hd
    exact congrArg Crew.id hd) hc retired stalled overrun rdv
  obtain ⟨x, hx, still, noted, -⟩ := stands.crew
  have ⟨_, _, _, offering⟩ := h
  obtain ⟨th, ws, cr, settled, names⟩ := settleCore_calm s core calm
  refine ⟨_, execRendezvousCompletion_of_runs h rdv, ?_⟩
  have offers : (s.settleCore core).offering = false := by rw [settled]; exact offering
  have cores : (s.settleCore core).cores[core]? = some k := by rw [settled]; exact hk
  have crews : (s.settleCore core).crews = [x] := by
    have one : (s.settleCore core).crews.length = 1 := by
      rw [settled]
      simpa [alone] using congrArg List.length names
    obtain ⟨y, hy⟩ := List.length_eq_one_iff.mp one
    have mem := crew_mem hx
    rw [hy, List.mem_singleton] at mem
    rw [hy, mem]
  have hid := crew_name hx
  rw [← hid] at live' ⊢
  have only := completed_alone crews noted still (live'.trans (hid ▸ live)) (hid ▸ stands.rdv) conv uniform loads
  exact runUniform_alone offers only (live'.trans (hid ▸ live)) cores free

/-- RENDEZVOUS_COMPLETION, as the statement gives it. -/
theorem rendezvousCompletion : Sys2Proof.Stmt.RendezvousCompletion :=
  ⟨rendezvousCompletion_notes, rendezvousCompletion_runs⟩

end Sys2Proof.Proofs
end

section
/-!
PROOFS. FLIGHT_ISSUE's choice where every thread may issue: the cycle lets every wait grow, each entry of the PC table is a candidate, the entry that
ranks first is the one that issues, and its flight takes the longest waiter of each lane (R19 to R21, R33 to R35).
-/

namespace Sys2Proof.Proofs
open Sys2Proof Sys2Proof.Machine Sys2Proof.Laws Sys2Proof.Stmt

/-! ### The first of the candidates -/

/-- Ranks are strict: of two candidates at most one ranks before the other (R33). -/
theorem before_asymm {a b : Cand} (h : a.before b = true) : b.before a = false := by
  unfold Cand.before at *
  grind

/-- The candidate that ranks before all others stays first, once it has been met. -/
theorem foldl_before_first {c : Cand} (l : List Cand) (a : Cand) (ha : a = c ∨ c.before a = true)
    (h : ∀ x ∈ l, x = c ∨ c.before x = true) (met : a = c ∨ c ∈ l) : l.foldl (fun a b => if b.before a then b else a) a = c := by
  induction l generalizing a with
  | nil => simpa using met
  | cons x l ih =>
    have hx := h x (by simp)
    have hl : ∀ y ∈ l, y = c ∨ c.before y = true := fun y hy => h y (by simp [hy])
    rw [List.foldl_cons]
    rcases eq_or_ne a c with rfl | hne
    · rcases hx with rfl | hx
      · rw [ite_self]
        exact ih _ (.inl rfl) hl (.inl rfl)
      · rw [before_asymm hx]
        exact ih _ (.inl rfl) hl (.inl rfl)
    · have ca := ha.resolve_left hne
      rcases eq_or_ne x c with rfl | hxc
      · rw [if_pos ca]
        exact ih _ (.inl rfl) hl (.inl rfl)
      · have met' : c ∈ l := by
          rcases met with e | e
          · exact absurd e hne
          · exact (List.mem_cons.mp e).resolve_left (Ne.symm hxc)
        split
        · exact ih _ hx hl (.inr met')
        · exact ih _ ha hl (.inr met')

/-- The candidate that ranks before all others is the first. -/
theorem firstCand_eq {c : Cand} {l : List Cand} (hc : c ∈ l) (h : ∀ x ∈ l, x = c ∨ c.before x = true) : firstCand l = some c := by
  cases l with
  | nil => cases hc
  | cons a l =>
    refine congrArg some (foldl_before_first l a (h a (by simp)) (fun x hx => h x (by simp [hx])) ?_)
    exact (List.mem_cons.mp hc).imp Eq.symm id

/-! ### The flight of an entry -/

/-- Which of two threads of a lane goes first: the longer wait, and on a tie the lower crew slot (R21). -/
def firstOfTwo (s : State) (b : Option Thread) (t : Thread) : Option Thread :=
  match b with
  | none => some t
  | some u => if u.wait < t.wait || (u.wait == t.wait && decide (s.slotOf t.id < s.slotOf u.id)) then some t else some u

theorem flightOf_def (s : State) (ts : List Thread) : s.flightOf ts =
    (List.range 32).filterMap (fun l => ((ts.filter (fun t => t.id.lane == l)).foldl (firstOfTwo s) none).map Thread.id) := rfl

/-- A thread goes no later than another of its lane (R21). -/
def NoLater (s : State) (t u : Thread) : Prop := u.wait < t.wait ∨ (u.wait = t.wait ∧ s.slotOf t.id ≤ s.slotOf u.id)

theorem NoLater.refl (s : State) (t : Thread) : NoLater s t t := .inr ⟨rfl, Nat.le_refl _⟩

theorem NoLater.trans {s : State} {t u v : Thread} (h : NoLater s t u) (h' : NoLater s u v) : NoLater s t v := by
  unfold NoLater at *
  omega

theorem firstOfTwo_some (s : State) (u t : Thread) :
    ∃ x, firstOfTwo s (some u) t = some x ∧ (x = u ∨ x = t) ∧ NoLater s x u ∧ NoLater s x t := by
  unfold firstOfTwo NoLater
  dsimp only
  split_ifs with h
  · simp only [Bool.or_eq_true, decide_eq_true_eq, Bool.and_eq_true, beq_iff_eq] at h
    exact ⟨t, rfl, .inr rfl, by omega, by omega⟩
  · simp only [Bool.or_eq_true, decide_eq_true_eq, Bool.and_eq_true, beq_iff_eq] at h
    exact ⟨u, rfl, .inl rfl, by omega, by omega⟩

/-- Of several threads of a lane, one that goes no later than any other is taken. -/
theorem foldl_firstOfTwo (s : State) (l : List Thread) (b : Thread) :
    ∃ x, l.foldl (firstOfTwo s) (some b) = some x ∧ x ∈ b :: l ∧ ∀ u ∈ b :: l, NoLater s x u := by
  induction l generalizing b with
  | nil => exact ⟨b, rfl, by simp, by simpa using NoLater.refl s b⟩
  | cons t l ih =>
    obtain ⟨y, hy, which, yb, yt⟩ := firstOfTwo_some s b t
    obtain ⟨x, hx, mem, first⟩ := ih y
    refine ⟨x, by rw [List.foldl_cons, hy, hx], ?_, fun u hu => ?_⟩
    · rcases List.mem_cons.mp mem with rfl | mem
      · rcases which with rfl | rfl <;> simp
      · simp [mem]
    · have xy := first y (by simp)
      rcases List.mem_cons.mp hu with rfl | hu
      · exact xy.trans yb
      · rcases List.mem_cons.mp hu with rfl | hu
        · exact xy.trans yt
        · exact first u (by simp [hu])

/-- The thread of a flight on a lane is taken exactly where the entry has threads there. -/
theorem laneFirst_cases (s : State) (l : List Thread) :
    (l = [] ∧ l.foldl (firstOfTwo s) none = none) ∨ ∃ x ∈ l, l.foldl (firstOfTwo s) none = some x ∧ ∀ u ∈ l, NoLater s x u := by
  cases l with
  | nil => exact .inl ⟨rfl, rfl⟩
  | cons t l =>
    obtain ⟨x, hx, mem, first⟩ := foldl_firstOfTwo s l t
    exact .inr ⟨x, mem, hx, first⟩

/-- A choice of one element for each key, when each element's key is the one it is chosen for, has its keys in the order of the list. -/
theorem map_filterMap_sublist {α β : Type} (key : β → α) (f : α → Option β) (h : ∀ a b, f a = some b → key b = a) (l : List α) :
    ((l.filterMap f).map key).Sublist l := by
  induction l with
  | nil => simp
  | cons a l ih =>
    cases e : f a with
    | none => rw [List.filterMap_cons_none e]; exact ih.cons a
    | some b =>
      rw [List.filterMap_cons_some e, List.map_cons, h a b e]
      exact ih.cons_cons a

/-- The flight of an entry is one, where names tell threads apart (R21). -/
theorem flightOf_flight (s : State) (e : List Thread) (names : (e.map Thread.id).Nodup) : FlightOf s e (s.flightOf e) := by
  have lane : ∀ l i, ((e.filter (fun t => t.id.lane == l)).foldl (firstOfTwo s) none).map Thread.id = some i →
      ∃ x ∈ e, x.id = i ∧ x.id.lane = l ∧ ∀ u ∈ e, u.id.lane = l → NoLater s x u := by
    intro l i h
    rcases laneFirst_cases s (e.filter (fun t => t.id.lane == l)) with ⟨-, none_⟩ | ⟨x, mem, some_, first⟩
    · rw [none_] at h
      cases h
    · rw [some_] at h
      obtain ⟨mem, on⟩ := List.mem_filter.mp mem
      exact ⟨x, mem, Option.some.inj h, by simpa using on, fun u hu hl => first u (List.mem_filter.mpr ⟨hu, by simp [hl]⟩)⟩
  rw [flightOf_def]
  refine ⟨?_, fun i hi => ?_, fun t ht => ?_, fun t ht hi u hu hl => ?_⟩
  · refine List.Nodup.sublist (map_filterMap_sublist _ _ (fun l i h => ?_) _) List.nodup_range
    obtain ⟨x, -, rfl, on, -⟩ := lane l i h
    exact on
  · obtain ⟨l, -, h⟩ := List.mem_filterMap.mp hi
    obtain ⟨x, mem, id, -⟩ := lane l i h
    exact ⟨x, mem, id⟩
  · have ht' : t ∈ e.filter (fun u => u.id.lane == t.id.lane) := List.mem_filter.mpr ⟨ht, by simp⟩
    rcases laneFirst_cases s (e.filter (fun u => u.id.lane == t.id.lane)) with ⟨empty, -⟩ | ⟨x, mem, some_, -⟩
    · rw [empty] at ht'
      cases ht'
    · refine ⟨x.id, List.mem_filterMap.mpr ⟨t.id.lane, List.mem_range.mpr (Nat.mod_lt _ (by decide)), by rw [some_]; rfl⟩, ?_⟩
      simpa using (List.mem_filter.mp mem).2
  · obtain ⟨l, -, h⟩ := List.mem_filterMap.mp hi
    obtain ⟨x, mem, id, on, first⟩ := lane l t.id h
    obtain rfl : x = t := List.inj_on_of_nodup_map names mem ht id
    exact first u hu (hl.trans on)

/-! ### A core whose threads may all issue, before its next cycle -/

theorem peekWord_eq_some {s : State} {i : ThreadId} {pc w : Word} (h : peekWord? s i pc = some w) :
    (fetchWord s i.team (gridId s i) pc).2 = .ok w := by
  unfold peekWord? at h
  split at h
  · simp_all
  · cases h

/-- A thread that may issue has not arrived, waits for nothing, and has its operands. -/
theorem issuable_waits {s : State} {n : Nat} {t : Thread} (h : Issuable s n t) :
    t.park = .none ∧ t.stall = .none ∧ t.arrived = none ∧ t.loads = [] := by
  obtain ⟨-, -, -, -, -, -, -, -, -, -, -, -, -, -, -, park, stall, arrived, loads, -, -, -⟩ := h
  exact ⟨park, stall, arrived, loads⟩

theorem arrived_of_issuable {s : State} {n : Nat} {t : Thread} (h : Issuable s n t) : t.arrived = none := by
  obtain ⟨-, -, arrived, -⟩ := issuable_waits h
  exact arrived

theorem stall_of_issuable {s : State} {n : Nat} {t : Thread} (h : Issuable s n t) : t.stall = .none := by
  obtain ⟨-, stall, -⟩ := issuable_waits h
  exact stall

/-- A thread that may issue has its words at hand, and stands at no convergent one. -/
theorem issuable_word {s : State} {n : Nat} {t : Thread} (h : Issuable s n t) :
    ∃ w, peekWord? s t.id t.pc = some w ∧ (needsExt w = true → (peekWord? s t.id (t.pc + 4)).isSome = true) ∧ atConvergent s t = false := by
  obtain ⟨-, -, -, w, -, -, -, -, -, -, -, -, -, -, -, -, -, -, -, peek, ext, conv⟩ := h
  exact ⟨w, peek, ext, conv⟩

/-- A thread whose words are at hand waits for no walk (R92). -/
theorem fetchAhead_of_issuable {s : State} {n : Nat} {t : Thread} (h : Issuable s n t) : fetchAhead s t = s := by
  obtain ⟨w, peek, ext, -⟩ := issuable_word h
  unfold fetchAhead
  rw [peekWord_eq_some peek]
  dsimp only
  cases e : needsExt w with
  | false => simp
  | true =>
    obtain ⟨x, hx⟩ := Option.isSome_iff_exists.mp (ext e)
    have next := peekWord_eq_some hx
    simp only [next, Bool.true_and]
    rfl

/-- A thread that may issue arrives at no rendezvous (R25). -/
theorem arrivalOf_of_issuable {s : State} {n : Nat} {t : Thread} (h : Issuable s n t) : s.arrivalOf n t = t := by
  obtain ⟨w, peek, -, conv⟩ := issuable_word h
  have arrived := arrived_of_issuable h
  unfold State.arrivalOf
  rw [peekWord_eq_some peek]
  simp only [conv, Bool.false_eq_true, if_false]
  rw [← arrived]

theorem foldl_fetchAhead_of_issuable {s : State} {n : Nat} (l : List Thread) (h : ∀ t ∈ l, Issuable s n t) : l.foldl fetchAhead s = s := by
  induction l with
  | nil => rfl
  | cons t l ih => rw [List.foldl_cons, fetchAhead_of_issuable (h t (by simp)), ih fun u hu => h u (by simp [hu])]

theorem markArrivals_of_issuable {s : State} {n : Nat} (h : ∀ t ∈ s.threads, Issuable s n t) : s.markArrivals n = s := by
  unfold State.markArrivals
  rw [foldl_fetchAhead_of_issuable _ fun t ht => h t (List.mem_of_mem_filter ht)]
  dsimp only
  rw [updWhere_eq_self _ _ _ fun t ht _ => arrivalOf_of_issuable (h t ht)]

/-- Where no thread has arrived, no crew stands complete at a rendezvous (R26). -/
theorem rendezvousAt_of_none_arrived {s : State} (h : ∀ t ∈ s.threads, t.arrived = none) (i : CrewId) : s.rendezvousAt i = none := by
  rw [Option.eq_none_iff_forall_ne_some]
  rintro ⟨core, pc⟩ e
  obtain ⟨-, some_live, all⟩ := (rendezvousAt_iff s i core pc).mp e
  obtain ⟨t, ht⟩ := List.exists_mem_of_ne_nil _ some_live
  have arrived := (all t ht).2.1
  rw [h t (List.mem_of_mem_filter ht)] at arrived
  cases arrived

/-- A change of a table's records that keeps their keys and a field keeps that field of a lookup. -/
theorem find?_updWhere_field {α κ β : Type} [BEq κ] (key : α → κ) (i : κ) (g : α → β) (p : α → Bool) (f : α → α)
    (hk : ∀ x, key (f x) = key x) (hg : ∀ x, g (f x) = g x) (l : List α) :
    ((updWhere p f l).find? (fun x => key x == i)).map g = (l.find? (fun x => key x == i)).map g := by
  have same : ((fun x => key x == i) ∘ fun x => if p x then f x else x) = fun x => key x == i := by
    funext x
    dsimp only [Function.comp]
    split
    · rw [hk]
    · rfl
  rw [updWhere_eq_map, List.find?_map, same, Option.map_map]
  congr 1
  funext x
  dsimp only [Function.comp]
  split
  · exact hg x
  · rfl

/-- Where no thread has arrived, a crew's turn changes no crew's slot, and nothing else than crews. -/
theorem noteCrew_of_none_arrived {s : State} (h : ∀ t ∈ s.threads, t.arrived = none) (core : Nat) (c : Crew) :
    ∃ cr, s.noteCrew core c = { s with crews := cr } ∧
      ∀ j, (cr.find? (fun x => x.id == j)).map Crew.slot = (s.crew? j).map Crew.slot := by
  rcases noteCrew_cases s core c (.inr (rendezvousAt_of_none_arrived h c.id)) with ⟨e, -⟩ | ⟨e, -⟩ | ⟨f, hf, -, e⟩
  · exact ⟨s.crews, e, fun _ => rfl⟩
  · exact ⟨_, e, fun j => find?_updWhere_field Crew.id j Crew.slot _ Crew.released (fun _ => rfl) (fun _ => rfl) _⟩
  · exact ⟨_, e, fun j => find?_updWhere_field Crew.id j Crew.slot _ _ hf.id hf.slot _⟩

theorem foldl_noteCrew_of_none_arrived (core : Nat) (l : List Crew) (s : State) (h : ∀ t ∈ s.threads, t.arrived = none) :
    ∃ cr, l.foldl (fun s c => s.noteCrew core c) s = { s with crews := cr } ∧
      ∀ j, (cr.find? (fun x => x.id == j)).map Crew.slot = (s.crew? j).map Crew.slot := by
  induction l generalizing s with
  | nil => exact ⟨s.crews, rfl, fun _ => rfl⟩
  | cons c l ih =>
    obtain ⟨cr, e, slots⟩ := noteCrew_of_none_arrived h core c
    obtain ⟨cr', e', slots'⟩ := ih (s.noteCrew core c) (by rw [e]; exact h)
    rw [e] at slots'
    exact ⟨cr', by rw [List.foldl_cons, e', e], fun j => (slots' j).trans (slots j)⟩

/-- Settling a core whose threads may all issue changes crews only, and none's slot. -/
theorem settleCore_of_issuable {s : State} {n : Nat} (h : ∀ t ∈ s.threads, Issuable s n t) :
    ∃ cr, s.settleCore n = { s with crews := cr } ∧
      ∀ j, (cr.find? (fun x => x.id == j)).map Crew.slot = (s.crew? j).map Crew.slot := by
  unfold State.settleCore State.noteRendezvous
  rw [endGranted_of_none_ending n fun t ht => by simp [(issuable_waits (h t ht)).1], markArrivals_of_issuable h]
  exact foldl_noteCrew_of_none_arrived n _ s fun t ht => arrived_of_issuable (h t ht)

/-! ### The cycle passes -/

/-- What a cycle keeps of a team: its place, what it waits for, its grid and its context. -/
def placing (t : Team) : Place × Nat × Nat × Nat := (t.place, t.blocked, t.grid, t.ctx)

/-- The state one cycle of core `n` on, but for its threads: what ranks and readiness depend on is as before. -/
structure Turned (s r : State) (n : Nat) (k : Core) : Prop where
  ctxs : r.ctxs = s.ctxs
  grids : r.grids = s.grids
  fills : r.fills = s.fills
  pcTable : r.pcTable = s.pcTable
  team : ∀ m, (r.team? m).map placing = (s.team? m).map placing
  slot : ∀ j, (r.crew? j).map Crew.slot = (s.crew? j).map Crew.slot
  cycle : r.cycleOf n = k.cycle + 1

theorem Turned.ctxId {s r : State} {n : Nat} {k : Core} (h : Turned s r n k) (m : Nat) : r.ctxId m = s.ctxId m := by
  have via : ∀ x : State, x.ctxId m = (((x.team? m).map placing).map fun p => p.2.2.2).getD 0 := fun x => by
    simp only [Option.map_map]; rfl
  rw [via, via, h.team]

theorem Turned.gridOf {s r : State} {n : Nat} {k : Core} (h : Turned s r n k) (m : Nat) : r.gridOf m = s.gridOf m := by
  have via : ∀ x : State, x.gridOf m = ((x.team? m).map placing).bind fun p => x.grid? p.2.2.1 := fun x => by
    simp only [State.gridOf, Option.bind_map]; rfl
  simp only [via, h.team, State.grid?, h.grids]

theorem Turned.slotOf {s r : State} {n : Nat} {k : Core} (h : Turned s r n k) (i : ThreadId) : r.slotOf i = s.slotOf i := by
  unfold State.slotOf
  rw [h.slot]

/-- A thread that may issue is resident on its core and may run there, in the next cycle too (R20, R31). -/
theorem Turned.runnable {s r : State} {n : Nat} {k : Core} (h : Turned s r n k) {t u : Thread} (ht : Issuable s n t) (id : u.id = t.id)
    (live : u.live = t.live) : r.residentOn u.id.team n = true ∧ r.runnable n u = true := by
  obtain ⟨tm, g, x, w, hlive, hteam, place, blocked, hgrid, going, hctx, root, preempted, lost, stopping, -⟩ := ht
  have same := h.team t.id.team
  rw [hteam, Option.map_some, Option.map_eq_some_iff] at same
  obtain ⟨tm', hteam', same⟩ := same
  simp only [placing, Prod.mk.injEq] at same
  obtain ⟨place', blocked', grid', ctx'⟩ := same
  have core : tm'.core? = some n := by simp [Team.core?, place', place]
  rw [← id] at hteam'
  refine ⟨by simp [State.residentOn, hteam', core],
    (runnable_iff r n u).mpr ⟨live.trans hlive, tm', hteam', core, blocked'.trans blocked, ?_, ?_⟩⟩
  · have hx : r.ctx? tm'.ctx = some x := by rw [ctx', State.ctx?, h.ctxs]; exact hctx
    simp [State.scheduled, hx, root, preempted, lost]
  · refine .inl ⟨?_, g, by rw [grid', State.grid?, h.grids]; exact hgrid, going⟩
    have hx : r.ctx? tm'.ctx = some x := by rw [ctx', State.ctx?, h.ctxs]; exact hctx
    simp [State.held, hx, stopping]

/-- A thread that may issue is ready in the next cycle (R20). -/
theorem Turned.ready {s r : State} {n : Nat} {k : Core} (h : Turned s r n k) {t u : Thread} (ht : Issuable s n t) (id : u.id = t.id)
    (live : u.live = t.live) (park : u.park = t.park) (stall : u.stall = t.stall) (arrived : u.arrived = t.arrived) (loads : u.loads = t.loads) :
    r.ready n u = true := by
  obtain ⟨p, st, a, l⟩ := issuable_waits ht
  simp [State.ready, (h.runnable ht id live).2, park.trans p, stall.trans st, arrived.trans a, operandsReady_of_no_loads r (loads.trans l)]

/-- A thread that has waited one cycle more. -/
def waited (t : Thread) : Thread := { t with wait := t.wait + 1 }

/-- A new cycle keeps every crew's slot, and every team's place, grid and context. -/
theorem newCycle_slot (s : State) (n : Nat) (j : CrewId) : ((s.newCycle n).crew? j).map Crew.slot = (s.crew? j).map Crew.slot := by
  refine find?_updWhere_field Crew.id j Crew.slot _ _ (fun c => ?_) (fun c => ?_) _ <;> rfl

theorem newCycle_team (s : State) (n m : Nat) : ((s.newCycle n).team? m).map placing = (s.team? m).map placing := by
  refine find?_updWhere_field Team.id m placing _ _ (fun t => ?_) (fun t => ?_) _ <;> split <;> rfl

/-- In the cycle that chooses, every thread of a core whose threads may all issue has waited one cycle more (R20). -/
theorem cycled_of_issuable {s : State} {n : Nat} {k : Core} (hk : s.cores[n]? = some k) (h : ∀ t ∈ s.threads, Issuable s n t) :
    Turned s (cycled s n) n k ∧ (cycled s n).threads = s.threads.map waited := by
  obtain ⟨cr, settled, slots⟩ := settleCore_of_issuable h
  have hn : n < s.cores.length := (List.getElem?_eq_some_iff.mp hk).1
  have still : ∀ (r : State), r.threads = s.threads → (r.newCycle n).threads = s.threads := fun r hr => by
    refine (updWhere_eq_self _ _ _ fun t ht busy => ?_).trans hr
    rw [hr] at ht
    simp [stall_of_issuable (h t ht)] at busy
  have turned : ∀ th, Turned s { ((s.settleCore n).tick n).newCycle n with threads := th } n k := by
    intro th
    rw [settled, tick_eq (s := { s with crews := cr }) hk]
    refine ⟨rfl, rfl, rfl, rfl, newCycle_team _ n, fun j => (newCycle_slot _ n j).trans (slots j), ?_⟩
    simp only [State.cycleOf, State.newCycle, List.getElem?_set_self hn]
    rfl
  have threads : (((s.settleCore n).tick n).newCycle n).threads = s.threads := still _ (by
    rw [settled, tick_eq (s := { s with crews := cr }) hk])
  refine ⟨turned _, ?_⟩
  change updWhere _ _ (((s.settleCore n).tick n).newCycle n).threads = _
  have now : Turned s (((s.settleCore n).tick n).newCycle n) n k := turned (((s.settleCore n).tick n).newCycle n).threads
  rw [threads, updWhere_eq_map]
  refine List.map_congr_left fun t ht => ?_
  rw [if_pos (now.runnable (h t ht) rfl rfl).1, if_pos (now.ready (h t ht) rfl rfl rfl rfl rfl rfl)]
  rfl

/-! ### Ranks (R33 to R35) -/

/-- The candidate of a thread's entry. -/
def entryCand (s : State) (n : Nat) (t : Thread) : Cand :=
  s.candOf n (s.ctxId t.id.team) t.pc (entryOf s t) Thread.wait 0 false (s.flightOf (entryOf s t))

/-- Where every thread is ready and none has arrived, the candidates are the entries of the threads (R19, R21). -/
theorem mem_candidates {s : State} {n : Nat} (ready : ∀ t ∈ s.threads, s.ready n t = true) (here : ∀ t ∈ s.threads, t.arrived = none)
    (c : Cand) : c ∈ s.candidates n ↔ ∃ t ∈ s.threads, entryCand s n t = c := by
  have all : s.threads.filter (s.ready n) = s.threads := List.filter_eq_self.mpr ready
  have none_done : s.completed n false = [] := by
    unfold State.completed
    rw [List.filterMap_eq_nil_iff]
    intro x _
    rw [rendezvousAt_of_none_arrived here]
    simp
  unfold State.candidates
  simp only [all, none_done, List.map_nil, List.append_nil, List.mem_map, List.mem_eraseDups]
  constructor
  · rintro ⟨_, ⟨t, ht, rfl⟩, rfl⟩
    exact ⟨t, ht, rfl⟩
  · rintro ⟨t, ht, rfl⟩
    exact ⟨_, ⟨t, ht, rfl⟩, rfl⟩

/-- The greatest of some numbers that are all one more. -/
theorem foldl_max_succ (l : List Nat) (a : Nat) : (l.map (· + 1)).foldl max (a + 1) = l.foldl max a + 1 := by
  induction l generalizing a with
  | nil => rfl
  | cons x l ih => rw [List.map_cons, List.foldl_cons, List.foldl_cons, Nat.succ_max_succ, ih]

theorem foldl_max_succ_zero {l : List Nat} (h : l ≠ []) : (l.map (· + 1)).foldl max 0 = l.foldl max 0 + 1 := by
  cases l with
  | nil => exact absurd rfl h
  | cons x l =>
    rw [List.map_cons, List.foldl_cons, List.foldl_cons, Nat.zero_max, Nat.zero_max, foldl_max_succ]

/-! The keys of an entry in the cycle that chooses, in which each of its threads has waited one cycle more. -/

def agedEntry (s : State) (x : Thread) : Bool := (entryOf s x).any (fun y => y.aged || decide (2048 ≤ y.wait + 1))

def longestWait (s : State) (x : Thread) : Nat := ((entryOf s x).map Thread.wait).foldl max 0

def demotedIn (cycle : Nat) (y : Thread) : Bool := (y.demoted.map (fun m => decide (cycle < m))).getD false

def lowEntry (s : State) (cycle : Nat) (x : Thread) : Bool := (entryOf s x).all (demotedIn cycle)

def entryClass (s : State) (cycle : Nat) (x : Thread) : Nat :=
  (((entryOf s x).filter (fun y => !demotedIn cycle y)).map (fun y => s.effClass y.id.team)).foldl max 0

def createdIn (s : State) (n cycle : Nat) (x : Thread) : Nat :=
  ((s.pcTable.find? (fun e => e.core == n && e.ctx == s.ctxId x.id.team && e.pc == x.pc)).map PcEntry.created).getD cycle

/-- An entry whose threads are all demoted has no class (R35). -/
theorem entryClass_of_low {s : State} {cycle : Nat} {x : Thread} (low : lowEntry s cycle x = true) : entryClass s cycle x = 0 := by
  unfold entryClass
  rw [List.filter_eq_nil_iff.mpr fun y hy => by simpa using List.all_eq_true.mp low y hy]
  rfl

/-- The order of entries is that of their keys (R33 to R35). -/
theorem ranksBefore_iff (s : State) (n cycle : Nat) (t u : Thread) : RanksBefore s n cycle t u ↔
    if agedEntry s t ≠ agedEntry s u then agedEntry s t = true
    else if agedEntry s t = true ∧ longestWait s t ≠ longestWait s u then longestWait s u < longestWait s t
    else if lowEntry s cycle t ≠ lowEntry s cycle u then lowEntry s cycle u = true
    else if entryClass s cycle t ≠ entryClass s cycle u then entryClass s cycle u < entryClass s cycle t
    else if createdIn s n cycle t ≠ createdIn s n cycle u then createdIn s n cycle t < createdIn s n cycle u
    else if t.pc ≠ u.pc then t.pc.toNat < u.pc.toNat
    else s.ctxId t.id.team < s.ctxId u.id.team := Iff.rfl

/-- A thread's demotion (R35). -/
theorem isDemoted_eq (t : Thread) (cycle : Nat) : State.isDemoted t cycle = demotedIn cycle t := by
  unfold State.isDemoted demotedIn
  cases t.demoted <;> rfl

theorem Turned.entryCand_created {s q : State} {n : Nat} {k : Core} (turned : Turned s q n k) (x : Thread) :
    (entryCand q n (waited x)).created = createdIn s n (k.cycle + 1) x := by
  simp only [entryCand, State.candOf, turned.pcTable, turned.ctxId, turned.cycle, waited]
  rfl

theorem Turned.entryCand_ctx {s q : State} {n : Nat} {k : Core} (turned : Turned s q n k) (x : Thread) :
    (entryCand q n (waited x)).ctx = s.ctxId x.id.team := turned.ctxId _

/-- The order of the keys of R33 on two candidates of entries. -/
theorem before_of_keys {a b : Cand} (h : if a.aged ≠ b.aged then a.aged = true else if a.aged = true ∧ a.wait ≠ b.wait then b.wait < a.wait
    else if a.cls ≠ b.cls then b.cls < a.cls else if a.created ≠ b.created then a.created < b.created
    else if a.pc ≠ b.pc then a.pc < b.pc else a.ctx < b.ctx) : a.before b = true := by
  unfold Cand.before
  grind

section
variable {s q : State} {n : Nat} {k : Core} (turned : Turned s q n k) (threads : q.threads = s.threads.map waited)
include turned threads

/-- An entry has the same threads one cycle on, each of which has waited one cycle more. -/
theorem entryOf_turned (t : Thread) : entryOf q (waited t) = (entryOf s t).map waited := by
  unfold entryOf
  rw [threads, List.filter_map]
  congr 1
  refine List.filter_congr fun u _ => ?_
  simp only [Function.comp, waited, turned.ctxId]

/-- The effective class of a team is the same one cycle on (R32, R199). -/
theorem effClass_turned (m : Nat) : q.effClass m = s.effClass m := by
  unfold State.effClass
  rw [turned.gridOf, turned.fills, threads, List.filterMap_map]
  rfl

/-- Threads of one entry have one candidate. -/
theorem entryCand_of_mem {t u : Thread} (h : u ∈ entryOf s t) : entryCand q n (waited u) = entryCand q n (waited t) := by
  have key := (List.mem_filter.mp h).2
  simp only [Bool.and_eq_true, beq_iff_eq] at key
  obtain ⟨ctx, pc⟩ := key
  have same : entryOf s u = entryOf s t := by simp only [entryOf, ctx, pc]
  unfold entryCand
  rw [entryOf_turned turned threads, entryOf_turned turned threads, same]
  simp only [waited, turned.ctxId, ctx, pc]

theorem entryCand_aged (x : Thread) : (entryCand q n (waited x)).aged = agedEntry s x := by
  simp only [entryCand, State.candOf, entryOf_turned turned threads, List.any_map]
  rfl

theorem entryCand_wait {x : Thread} (hx : x ∈ s.threads) : (entryCand q n (waited x)).wait = longestWait s x + 1 := by
  have own : (entryOf s x).map Thread.wait ≠ [] :=
    List.ne_nil_of_mem (List.mem_map_of_mem (List.mem_filter.mpr ⟨hx, by simp⟩ : x ∈ entryOf s x))
  unfold longestWait
  rw [← foldl_max_succ_zero own]
  simp only [entryCand, State.candOf, entryOf_turned turned threads, List.map_map]
  rfl

theorem entryCand_cls (x : Thread) : (entryCand q n (waited x)).cls =
    if lowEntry s (k.cycle + 1) x = true then 0 else entryClass s (k.cycle + 1) x + 1 := by
  have list : (entryCand q n (waited x)).cls =
      ((((entryOf s x).filter (fun y => !demotedIn (k.cycle + 1) y)).map (fun y => s.effClass y.id.team)).map (· + 1)).foldl max 0 := by
    simp only [entryCand, State.candOf, entryOf_turned turned threads, List.filter_map, List.map_map, effClass_turned turned threads,
      turned.cycle, isDemoted_eq]
    rfl
  rw [list]
  split_ifs with low
  · rw [List.filter_eq_nil_iff.mpr fun y hy => by simpa using List.all_eq_true.mp low y hy]
    rfl
  · refine foldl_max_succ_zero fun e => low (List.all_eq_true.mpr fun y hy => ?_)
    simpa using List.filter_eq_nil_iff.mp (List.map_eq_nil_iff.mp e) y hy

/-- An entry that ranks before another does so as the scheduler ranks them (R33 to R35). -/
theorem before_of_ranksBefore {t u : Thread} (ht : t ∈ s.threads) (hu : u ∈ s.threads) (h : RanksBefore s n (k.cycle + 1) t u) :
    (entryCand q n (waited t)).before (entryCand q n (waited u)) = true := by
  have pc : ∀ x, (entryCand q n (waited x)).pc = x.pc.toNat := fun _ => rfl
  rw [ranksBefore_iff] at h
  refine before_of_keys ?_
  simp only [entryCand_aged turned threads, entryCand_wait turned threads ht, entryCand_wait turned threads hu, entryCand_cls turned threads,
    turned.entryCand_created, turned.entryCand_ctx, pc]
  have low_t := entryClass_of_low (s := s) (cycle := k.cycle + 1) (x := t)
  have low_u := entryClass_of_low (s := s) (cycle := k.cycle + 1) (x := u)
  grind [BitVec.toNat_inj]

end

/-- A flight of an entry one cycle on is one of the entry. -/
theorem flightOf_turned {s q : State} {n : Nat} {k : Core} (turned : Turned s q n k) {e : List Thread} {ids : List ThreadId}
    (h : FlightOf q (e.map waited) ids) : FlightOf s e ids := by
  obtain ⟨lanes, mine, every, first⟩ := h
  refine ⟨lanes, fun i hi => ?_, fun t ht => every (waited t) (List.mem_map_of_mem ht), fun t ht hi u hu hl => ?_⟩
  · obtain ⟨_, moved, id⟩ := mine i hi
    obtain ⟨t, ht, rfl⟩ := List.mem_map.mp moved
    exact ⟨t, ht, id⟩
  · have before := first (waited t) (List.mem_map_of_mem ht) hi (waited u) (List.mem_map_of_mem hu) hl
    rw [turned.slotOf, turned.slotOf] at before
    simpa only [waited, Nat.add_lt_add_iff_right, Nat.add_right_cancel_iff] using before

/-- A thread that issues waits from zero, and is aged no more (R20, R34). -/
theorem thread_issued {s : State} {ids : List ThreadId} {i : ThreadId} (hi : i ∈ ids) (here : ∃ t ∈ s.threads, t.id = i) :
    ((s.issued ids).thread? i).map (fun x => (x.wait, x.aged)) = some (0, false) := by
  have same : ((fun t : Thread => t.id == i) ∘ fun t => if ids.contains t.id then { t with wait := 0, aged := false } else t) =
      fun t => t.id == i := by
    funext t
    dsimp only [Function.comp]
    split <;> rfl
  obtain ⟨t, ht⟩ : ∃ t, s.thread? i = some t := by
    obtain ⟨t, ht, id⟩ := here
    exact Option.isSome_iff_exists.mp (List.find?_isSome.mpr ⟨t, ht, by simp [id]⟩)
  unfold State.thread? State.issued
  dsimp only
  rw [updWhere_eq_map, List.find?_map, same, show s.threads.find? _ = some t from ht, Option.map_some, Option.map_some,
    if_pos (by simpa [thread_name ht] using hi)]

/-- Where no thread stalls, a barrier has none to set free (R157). -/
theorem freeReleased_of_none_stalled {s : State} (n : Nat) (h : ∀ t ∈ s.threads, t.stall = .none) : s.freeReleased n = s := by
  unfold State.freeReleased
  rw [updWhere_eq_self _ _ _ fun t ht released => by simp [h t ht] at released]

/-- Of several entries with ready threads, the one that ranks first issues a flight of its own, whose threads then wait from zero (R19 to R21, R33 to
R35). -/
theorem flightIssue_ranks (s : State) (n : Nat) (k : Core) (t : Thread) (h : Runs s) (hk : s.cores[n]? = some k)
    (names : (s.threads.map Thread.id).Nodup) (all : ∀ u ∈ s.threads, Issuable s n u) (ht : t ∈ s.threads)
    (first : ∀ u ∈ s.threads, u ∈ entryOf s t ∨ RanksBefore s n (k.cycle + 1) t u) :
    ∃ s' ids, exec (.flightIssue n) s = .next s' ∧ s'.cur = .flight n ids false ∧ FlightOf s (entryOf s t) ids ∧
      ∀ i ∈ ids, (s'.thread? i).map (fun x => (x.wait, x.aged)) = some (0, false) := by
  obtain ⟨turned, threads⟩ := cycled_of_issuable hk all
  have ready : ∀ u ∈ (cycled s n).threads, (cycled s n).ready n u = true := by
    rw [threads, List.forall_mem_map]
    exact fun u hu => turned.ready (all u hu) rfl rfl rfl rfl rfl rfl
  have here : ∀ u ∈ (cycled s n).threads, u.arrived = none := by
    rw [threads, List.forall_mem_map]
    exact fun u hu => arrived_of_issuable (all u hu)
  have chosen : firstCand ((cycled s n).candidates n) = some (entryCand (cycled s n) n (waited t)) := by
    refine firstCand_eq ((mem_candidates ready here _).mpr ⟨waited t, threads ▸ List.mem_map_of_mem ht, rfl⟩) fun c hc => ?_
    obtain ⟨_, hu, rfl⟩ := (mem_candidates ready here c).mp hc
    rw [threads] at hu
    obtain ⟨u, mem, rfl⟩ := List.mem_map.mp hu
    exact (first u mem).imp (entryCand_of_mem turned threads) (before_of_ranksBefore turned threads ht mem)
  have freed : (cycled s n).freeReleased n = cycled s n := by
    refine freeReleased_of_none_stalled n ?_
    rw [threads, List.forall_mem_map]
    exact fun u hu => stall_of_issuable (all u hu)
  have flight : FlightOf s (entryOf s t) (entryCand (cycled s n) n (waited t)).threads := by
    have sub : ((entryOf s t).map Thread.id).Sublist (s.threads.map Thread.id) := List.filter_sublist.map _
    refine flightOf_turned turned ?_
    change FlightOf _ _ ((cycled s n).flightOf (entryOf (cycled s n) (waited t)))
    rw [entryOf_turned turned threads]
    exact flightOf_flight _ _ (by rw [List.map_map]; exact names.sublist sub)
  refine ⟨_, _, execFlightIssue_of_runs h hk, by rw [issueCycle_def, chosen]; rfl, flight, fun i hi => ?_⟩
  rw [issueCycle_def, chosen]
  refine thread_issued (s := (cycled s n).freeReleased n) hi ?_
  obtain ⟨u, hu, id⟩ := flight.2.1 i hi
  rw [freed, threads]
  exact ⟨waited u, List.mem_map_of_mem (List.mem_of_mem_filter hu), id⟩

/-- A ready thread that is alone on its core is the flight that issues. -/
theorem flightIssue_alone (s : State) (n : Nat) (k : Core) (t : Thread) (h : Runs s) (hk : s.cores[n]? = some k) (alone : s.threads = [t])
    (ht : Issuable s n t) : ∃ s', exec (.flightIssue n) s = .next s' ∧ s'.cur = .flight n [t.id] false := by
  have own : entryOf s t = [t] := by simp [entryOf, alone]
  obtain ⟨s', ids, next, cur, ⟨lanes, mine, every, -⟩, -⟩ := flightIssue_ranks s n k t h hk (by simp [alone])
    (by simpa [alone] using ht) (by simp [alone]) (by simp [alone, own])
  rw [own] at mine every
  have only : ∀ i ∈ ids, i = t.id := by simpa [eq_comm] using mine
  have one : ids = [t.id] := by
    obtain ⟨i, hi, -⟩ := every t (by simp)
    rw [List.eq_replicate_of_mem only] at lanes hi ⊢
    have few := List.nodup_replicate.mp (List.Nodup.of_map _ lanes)
    have some_ := (List.mem_replicate.mp hi).1
    rw [show ids.length = 1 by omega]
    rfl
  exact ⟨s', next, by rw [cur, one]⟩

/-- FLIGHT_ISSUE, as the statement gives it. -/
theorem flightIssue : Sys2Proof.Stmt.FlightIssue :=
  ⟨flightIssue_clock, fun s n k t h hk alone ht _ => flightIssue_alone s n k t h hk alone ht,
    fun s n k t h hk names all _ ht first => flightIssue_ranks s n k t h hk names all ht first⟩

/-- Settles O51: both events of the scheduler, each by its own part. -/
theorem scheduling : Obligations.Scheduling := ⟨flightIssue, rendezvousCompletion⟩

end Sys2Proof.Proofs
end

section
/-!
PROOFS. A step on a focus whose rendezvous has completed at an instruction that no longer convenes the crew (R102): the threads stand at no
rendezvous any more when the instruction runs.
-/

namespace Sys2Proof.Proofs
open Sys2Proof Sys2Proof.Machine

/-- The thread that stands at a rendezvous whose word has become a `NOP`. -/
def staleArrival : Thread := probeThread ⟨1, 0⟩ true

/-- A device whose focus is a completed rendezvous, where the instruction cache now holds a `NOP` (R102). -/
def staleRendezvous : State :=
  { withProbe State.reset true with cur := .flight 0 [⟨1, 0⟩] true, icache := [⟨0, 2, 0, 0x03C00000⟩] }

/-- The outcome is a state in which some thread has arrived at a rendezvous. -/
def someoneArrived : Out → Bool
  | .next s => s.threads.any (·.arrived.isSome)
  | _ => false

/-- The step disperses the rendezvous before its `NOP` runs. -/
theorem step_staleRendezvous : someoneArrived (step staleRendezvous) = false := by decide +kernel

/-- The `NOP` alone leaves the arrival of its thread standing. -/
theorem nop_staleRendezvous : someoneArrived (swept (afterRun [⟨1, 0⟩] (exec (.nop ⟨7, false⟩)
    { staleRendezvous with cur := .flight 0 [⟨1, 0⟩] true }))) = true := by decide +kernel

/-- Refutes O4: a flight in focus whose rendezvous has completed, and whose word is a `NOP` since the code changed (R102), stands at no rendezvous
after its step, where the meaning of `NOP` on the state after the fetch leaves its thread's arrival as it was. -/
theorem not_stepRunsDecoded : ¬ Obligations.StepRunsDecoded := by
  rintro ⟨runs, -⟩
  have fetched : fetchPair staleRendezvous [⟨1, 0⟩] ⟨1, 0⟩ staleArrival.pc = (staleRendezvous, some (0x03C00000, 0)) := by decide +kernel
  have decoded : decode 0x03C00000 0 = .ok (.nop ⟨7, false⟩) := by decide +kernel
  have stepped := runs staleRendezvous staleRendezvous 0 [⟨1, 0⟩] true ⟨1, 0⟩ staleArrival 0x03C00000 0 (.nop ⟨7, false⟩)
    rfl (by decide +kernel) (by decide +kernel) fetched decoded (by decide +kernel) (fun h => absurd h (by decide))
  have arrived := (congrArg someoneArrived stepped).trans nop_staleRendezvous
  exact absurd (step_staleRendezvous.symm.trans arrived) Bool.false_ne_true

end Sys2Proof.Proofs
end

section
/-!
PROOFS. The crew collectives `SHFL`, `VOTE`, `ELECT` and `CREDUCE` (R27, R345, R346, R348, R405, R406, R418): one law says what a collective makes of
every thread and crew; each instruction then has only its own value to account for.
-/

namespace Sys2Proof.Proofs
open Sys2Proof Sys2Proof.Machine Sys2Proof.Laws Sys2Proof.Stmt

/-! ### Changes of several threads -/

/-- A thread after the threads that a test of names picks were changed by a function that keeps names. -/
theorem thread_updWhere (s : State) (p : ThreadId → Bool) (f : Thread → Thread) (hf : ∀ t, (f t).id = t.id) (u : ThreadId) :
    State.thread? { s with threads := updWhere (fun t => p t.id) f s.threads } u =
      (s.thread? u).map (fun t => if p u then f t else t) := by
  have names : (fun t => ((if p t.id then f t else t : Thread)).id == u) = fun t => t.id == u := by
    funext t
    split <;> simp [hf]
  simp only [State.thread?, updWhere, List.find?_map, Function.comp_def, names]
  refine Option.map_congr fun t ht => ?_
  obtain rfl : t.id = u := by simpa using List.find?_some ht
  rfl

/-- Threads that each become `f` of what they are in the state `s`, from a state `x` in which the others are as they are. -/
theorem thread_foldl_modThread (s : State) (f : Thread → Thread) (hf : ∀ t, (f t).id = t.id) (set : List Thread)
    (hs : ∀ t ∈ set, s.thread? t.id = some t) (x : State) (hx : ∀ t ∈ set, (x.thread? t.id).isSome = true) (u : ThreadId) :
    (set.foldl (fun x t => x.modThread t.id (fun _ => f t)) x).thread? u =
      if u ∈ set.map Thread.id then (s.thread? u).map f else x.thread? u := by
  induction set generalizing x with
  | nil => simp
  | cons t set ih =>
    have one : ∀ v, (x.modThread t.id (fun _ => f t)).thread? v = if v = t.id then (s.thread? v).map f else x.thread? v := by
      intro v
      split_ifs with h
      · subst h
        obtain ⟨y, hy⟩ := Option.isSome_iff_exists.mp (hx t (by simp))
        rw [thread_modThread_self x t.id _ (fun _ _ => hf t), hy, hs t (by simp)]
        rfl
      · exact thread_modThread_of_ne x t.id v _ (fun _ _ => hf t) h
    have kept : ∀ w ∈ set, ((x.modThread t.id (fun _ => f t)).thread? w.id).isSome = true := by
      intro w hw
      rw [one]
      split_ifs
      · simp [hs w (by simp [hw])]
      · exact hx w (by simp [hw])
    rw [List.foldl_cons, ih (fun w hw => hs w (by simp [hw])) _ kept, one]
    by_cases hu : u ∈ set.map Thread.id
    · simp [hu]
    · by_cases h : u = t.id <;> simp [hu, h]

/-- Changing threads one by one changes threads only. -/
theorem foldl_modThread_eq (f : Thread → Thread) (set : List Thread) (x : State) :
    ∃ th, set.foldl (fun x t => x.modThread t.id (fun _ => f t)) x = { x with threads := th } := by
  induction set generalizing x with
  | nil => exact ⟨x.threads, rfl⟩
  | cons t set ih =>
    obtain ⟨th, e⟩ := ih (x.modThread t.id (fun _ => f t))
    exact ⟨th, by rw [List.foldl_cons, e]; rfl⟩

/-! ### What a collective makes of its crew -/

/-- The state in which a collective acts: its crew has left its rendezvous (R26). -/
def rendezvousOver (s : State) (ids : List ThreadId) : State := { s with cur := .idle, crews := leftCrews s ids }

/-- The guard-true threads of a flight are threads of the state with a name of the flight, and their guard is true. -/
theorem mem_guardSet {s : State} {ids : List ThreadId} {g : Guard} {t : Thread} :
    t ∈ guardSet s ids g ↔ t.id ∈ ids ∧ s.thread? t.id = some t ∧ t.guard g = true := by
  simp only [guardSet, List.mem_filter, List.mem_filterMap]
  constructor
  · rintro ⟨⟨i, hi, ht⟩, hg⟩
    obtain rfl := thread_name ht
    exact ⟨hi, ht, hg⟩
  · rintro ⟨hi, ht, hg⟩
    exact ⟨⟨t.id, hi, ht⟩, hg⟩

/-- The names of the guard-true threads of a flight. -/
theorem guardSet_names {s : State} {ids : List ThreadId} {g : Guard} {t : Thread} (ht : s.thread? t.id = some t) :
    t.id ∈ (guardSet s ids g).map Thread.id ↔ t.id ∈ ids ∧ t.guard g = true := by
  simp only [List.mem_map, mem_guardSet]
  constructor
  · rintro ⟨x, ⟨hi, hx, hg⟩, e⟩
    rw [e, ht] at hx
    cases hx
    exact ⟨e ▸ hi, hg⟩
  · exact fun ⟨hi, hg⟩ => ⟨t, ⟨hi, ht, hg⟩, rfl⟩

/-- A thread that there is is one of a flight's threads where its name is of the flight. -/
theorem flight_any {s : State} {ids : List ThreadId} {t : Thread} (ht : s.thread? t.id = some t) :
    (ids.filterMap s.thread?).any (fun x => x.id == t.id) = decide (t.id ∈ ids) := by
  rw [Bool.eq_iff_iff]
  simp only [List.any_eq_true, List.mem_filterMap, beq_iff_eq, decide_eq_true_eq]
  exact ⟨fun ⟨x, ⟨i, hi, hx⟩, e⟩ => e ▸ thread_name hx ▸ hi, fun hi => ⟨t, ⟨t.id, hi, ht⟩, rfl⟩⟩

/-- A collective of no live thread has nothing to do; one of a crew acts on the state in which the rendezvous of that crew is over. -/
theorem laneCrew_eq (g : Guard) (f : State → CrewId → List Thread → List Thread → State) (s : State) (core : Nat) (ids : List ThreadId)
    (rdv : Bool) (h : s.cur = .flight core ids rdv) :
    (ids.filterMap s.thread? = [] ∧ laneCrew g f s = rendezvousOver s ids) ∨
      ∃ c, laneCrew g f s = f (rendezvousOver s ids) c (ids.filterMap s.thread?) (guardSet s ids g) := by
  cases hts : ids.filterMap s.thread? with
  | nil => exact .inl ⟨rfl, by simp [laneCrew, h, Focus.ids, hts, rendezvousOver, leftCrews]⟩
  | cons t ts =>
    refine .inr ⟨t.id.crewId, ?_⟩
    have crews : (({ s with cur := .idle } : State).modCrew t.id.crewId Crew.released) = rendezvousOver s ids := by
      simp only [State.modCrew, rendezvousOver, leftCrews, updWhere, hts, List.head?_cons, Option.map_some, Option.some.injEq, beq_iff_eq,
        eq_comm (a := t.id.crewId)]
      rfl
    rw [laneCrew_flight g f s core ids rdv t ts h hts, crews, guardSet, hts]

/-- What a collective that changes registers and predicates does: the crew leaves its rendezvous, each guard-true thread becomes `f` of itself,
and every thread of the flight continues (R26, R27). -/
theorem crewReg_flight (g : Guard) (f : State → List Thread → Thread → Thread) (hf : ∀ s set t, (f s set t).id = t.id) (s : State)
    (core : Nat) (ids : List ThreadId) (rdv : Bool) (h : s.cur = .flight core ids rdv) :
    (∃ th, crewReg g f s = { rendezvousOver s ids with threads := th }) ∧
      ∀ u, (crewReg g f s).thread? u = (s.thread? u).map (fun t =>
        if u ∈ ids then (if t.guard g then f (rendezvousOver s ids) (guardSet s ids g) t else t).leave 4 else t) := by
  obtain ⟨none, e⟩ | ⟨c, e⟩ := laneCrew_eq g (fun s _ all set =>
    (set.foldl (fun x t => x.modThread t.id (fun _ => f s set t)) s).leaveAll all 4) s core ids rdv h
  · rw [show crewReg g f s = _ from e]
    refine ⟨⟨s.threads, rfl⟩, fun u => ?_⟩
    change s.thread? u = _
    by_cases hu : u ∈ ids
    · rw [List.filterMap_eq_nil_iff.mp none u hu]
      rfl
    · simp [hu]
  · rw [show crewReg g f s = _ from e]
    have inSet : ∀ t ∈ guardSet s ids g, s.thread? t.id = some t := fun t ht => (mem_guardSet.mp ht).2.1
    obtain ⟨th, frame⟩ := foldl_modThread_eq (f (rendezvousOver s ids) (guardSet s ids g)) (guardSet s ids g) (rendezvousOver s ids)
    refine ⟨⟨_, by rw [State.leaveAll, frame]⟩, fun u => ?_⟩
    refine (thread_updWhere _ (fun i => (ids.filterMap s.thread?).any (fun t => t.id == i)) (·.leave 4) (fun _ => rfl) u).trans ?_
    rw [thread_foldl_modThread s (f (rendezvousOver s ids) (guardSet s ids g)) (hf _ _) (guardSet s ids g) inSet (rendezvousOver s ids)
      (fun t ht => Option.isSome_of_eq_some (inSet t ht)) u, show (rendezvousOver s ids).thread? u = s.thread? u from rfl]
    cases hu : s.thread? u with
    | none => simp
    | some t =>
      obtain rfl := thread_name hu
      by_cases hi : t.id ∈ ids <;> by_cases hg : t.guard g = true <;> simp [flight_any hu, guardSet_names hu, hi, hg]

/-- A collective exchanges `f'` where its `f` agrees with it on the guard-true threads, once the rendezvous is over. -/
theorem exchanges_of_crewReg {i : Instr} {g : Guard} {f f' : State → List Thread → Thread → Thread}
    (run : ∀ s, exec i s = .next (crewReg g f s)) (names : ∀ s set t, (f s set t).id = t.id)
    (agree : ∀ s ids t, t ∈ guardSet s ids g → f (rendezvousOver s ids) (guardSet s ids g) t = f' s (guardSet s ids g) t)
    (pcs : ∀ s set t, (f' s set t).pc = t.pc) : Exchanges i g f' := by
  intro s core ids rdv h
  obtain ⟨⟨th, frame⟩, threads⟩ := crewReg_flight g f names s core ids rdv h
  refine ⟨_, run s, by rw [frame]; rfl, fun u => ?_⟩
  rw [threads]
  refine Option.map_congr fun t ht => ?_
  obtain rfl := thread_name ht
  by_cases hi : t.id ∈ ids
  · by_cases hg : t.guard g = true
    · simp only [hi, hg, if_true, agree s ids t (mem_guardSet.mpr ⟨hi, ht, hg⟩), Thread.leave, pcs]
      rfl
    · simp only [hi, hg, if_true, Thread.leave]
      rfl
  · simp only [hi, if_false]

/-! ### SHFL -/

/-- The k registers are as before once the rendezvous is over, so a B source is (R304). -/
theorem opb_rendezvousOver (s : State) (ids : List ThreadId) (t : Thread) (b : Src) : opb (rendezvousOver s ids) t b = opb s t b := by
  cases b with
  | v n => rfl
  | k n =>
    have names : (fun x : Crew => (if (ids.filterMap s.thread?).head?.map (fun t => t.id.crewId) = some x.id then left x else x).id ==
        t.id.crewId) = fun x => x.id == t.id.crewId := by
      funext x
      split <;> rfl
    simp only [opb, State.crew?, rendezvousOver, leftCrews, List.find?_map, Function.comp_def, names, Option.map_map]
    congr 2
    funext x
    split <;> rfl

theorem shuffle : Sys2Proof.Stmt.Shuffle := fun o =>
  exchanges_of_crewReg (fun _ => rfl) (fun _ _ _ => rfl)
    (fun s ids t _ => by simp only [Thread.setReg, setAt_eq_set, opb_rendezvousOver]; rfl)
    (fun _ _ _ => rfl)

/-! ### VOTE and ELECT -/

/-- A predicate that a collective writes; p7 takes no write (R308). -/
theorem setPred_eq_ite (t : Thread) (pd : Fin 8) (b : Bool) :
    t.setPred pd.val b = if pd = 7 then t else { t with p := t.p.set pd.val b } := by
  by_cases h : pd = 7
  · subst h
    rfl
  · have : pd.val ≠ 7 := fun e => h (Fin.ext e)
    simp [Thread.setPred, h, this]

/-- A predicate write leaves the program counter alone. -/
theorem ite_setPred_pc (t : Thread) (pd : Fin 8) (b : Bool) : (if pd = 7 then t else { t with p := t.p.set pd.val b }).pc = t.pc := by
  split <;> rfl

/-- A bit of a word that the bits of a list are set in where a test holds. -/
theorem getLsbD_foldl_setBits (p : Nat → Bool) (ls : List Nat) (w : Word) (k : Nat) (hk : k < 32) :
    (ls.foldl (fun w l => if p l then w ||| (1#32 <<< l) else w) w).getLsbD k = (w.getLsbD k || (decide (k ∈ ls) && p k)) := by
  induction ls generalizing w with
  | nil => simp
  | cons l ls ih =>
    have bit : (1#32 <<< l).getLsbD k = decide (k = l) := by
      rw [BitVec.getLsbD_shiftLeft, BitVec.getLsbD_one, Bool.eq_iff_iff]
      simp
      omega
    rw [List.foldl_cons, ih]
    by_cases h : k = l
    · subst h
      cases hp : p k <;> simp [bit]
    · cases hp : p l <;> simp [bit, h]

/-- Bit l of the ballot is the vote of the thread on lane l (R418). -/
theorem getLsbD_ballot (pa : Nat) (set : List Thread) (l : Nat) (hl : l < 32) :
    (ballot pa set).getLsbD l = set.any (fun u => decide (u.id.lane = l) && u.pred pa) := by
  rw [ballot, getLsbD_foldl_setBits _ _ _ _ hl]
  simp [hl, beq_eq_decide]

/-- No thread's lane is below the least, which is below 32 or the lane of a thread (R348). -/
theorem le_leastLane_iff (set : List Thread) (n : Nat) : n ≤ leastLane set ↔ n ≤ 32 ∧ ∀ u ∈ set, n ≤ u.id.lane := by
  have fold : ∀ m, n ≤ set.foldl (fun n t => min n t.id.lane) m ↔ n ≤ m ∧ ∀ u ∈ set, n ≤ u.id.lane := by
    induction set with
    | nil => simp
    | cons t set ih => intro m; simp [ih, and_assoc]
  exact fold 32

/-- A thread of the set is the elected one where no thread of the set is on a lower lane (R348). -/
theorem lane_eq_leastLane {set : List Thread} {t : Thread} (ht : t ∈ set) :
    (t.id.lane == leastLane set) = set.all (fun u => decide (t.id.lane ≤ u.id.lane)) := by
  have least : leastLane set ≤ t.id.lane := ((le_leastLane_iff set _).mp le_rfl).2 t ht
  have lane : t.id.lane ≤ 32 := (Nat.mod_lt _ (by decide)).le
  rw [Bool.eq_iff_iff, beq_iff_eq, List.all_eq_true]
  simp only [decide_eq_true_eq]
  exact ⟨fun e => ((le_leastLane_iff set _).mp e.le).2, fun h => le_antisymm ((le_leastLane_iff set _).mpr ⟨lane, h⟩) least⟩

theorem votesAndElection : Sys2Proof.Stmt.VotesAndElection :=
  ⟨fun o => exchanges_of_crewReg (fun _ => rfl) (fun _ _ _ => thread_setPred_id _ _ _) (fun _ _ _ _ => setPred_eq_ite _ _ _)
      (fun _ _ _ => ite_setPred_pc _ _ _),
    fun o => ⟨ballot o.pa.val, getLsbD_ballot o.pa.val,
      exchanges_of_crewReg (fun _ => rfl) (fun _ _ _ => rfl) (fun _ _ _ _ => by simp only [Thread.setReg, setAt_eq_set]) (fun _ _ _ => rfl)⟩,
    fun o => exchanges_of_crewReg (fun _ => rfl) (fun _ _ _ => thread_setPred_id _ _ _)
      (fun _ _ _ ht => by rw [lane_eq_leastLane ht, setPred_eq_ite]) (fun _ _ _ => ite_setPred_pc _ _ _)⟩

/-! ### CREDUCE -/

theorem sint_eq_toInt (x : Word) : sint x = x.toInt := by
  have := x.isLt
  simp only [sint, sintOf, BitVec.toInt_eq_toNat_cond]
  split <;> split <;> omega

theorem crewReduction : Sys2Proof.Stmt.CrewReduction := by
  refine ⟨fun o => exchanges_of_crewReg (fun _ => rfl) (fun _ _ _ => rfl)
      (fun _ _ _ _ => by simp only [Thread.setReg, setAt_eq_set]; rfl) (fun _ _ _ => rfl),
    fun _ => rfl, fun _ _ _ => rfl, rfl, rfl, rfl, rfl, rfl, rfl, rfl, rfl, rfl, rfl, rfl, fun r x => ?_⟩
  refine ⟨rfl, rfl, rfl, rfl, ?_, ?_, rfl, rfl, rfl, rfl, rfl⟩
  · simp only [RedOp.combine, minS, sint_eq_toInt]
  · simp only [RedOp.combine, maxS, sint_eq_toInt]

/-- Settles O40: each collective by its own part. -/
theorem crewCollectives : Obligations.CrewCollectives := ⟨shuffle, votesAndElection, crewReduction⟩

end Sys2Proof.Proofs
end

section
/-!
PROOFS. What draining bins and granting allocations can change (R166, R170), and that nodes with timers are left alone.
-/

namespace Sys2Proof.Proofs
open Sys2Proof Sys2Proof.Machine Sys2Proof.Laws

/-- Only contexts and the counter of names differ, and no name is given twice. -/
def BinsOnly (s r : State) : Prop := ∃ cs n, r = { s with ctxs := cs, lastId := n } ∧ s.lastId ≤ n

theorem BinsOnly.refl (s : State) : BinsOnly s s := ⟨s.ctxs, s.lastId, rfl, le_rfl⟩

theorem BinsOnly.trans {s r q : State} (h : BinsOnly s r) (h' : BinsOnly r q) : BinsOnly s q := by
  obtain ⟨cs, n, rfl, up⟩ := h
  obtain ⟨cs', n', rfl, up'⟩ := h'
  exact ⟨cs', n', rfl, up.trans up'⟩

theorem BinsOnly.foldl {α : Type} (f : State → α → State) (h : ∀ s x, BinsOnly s (f s x)) (l : List α) (s : State) :
    BinsOnly s (l.foldl f s) := by
  induction l generalizing s with
  | nil => exact .refl s
  | cons x l ih => exact (h s x).trans (ih _)

/-- A batch that forms changes its context and takes a name (R170). -/
theorem formBatch_binsOnly (s : State) (ctx node part k : Nat) : BinsOnly s (s.formBatch ctx node part k) := by
  unfold State.formBatch
  split
  · exact .refl s
  · split
    · exact .refl s
    · exact ⟨_, _, rfl, Nat.le_succ _⟩

/-- Bins that drain change their context and take names (R170). -/
theorem drainBins_binsOnly (s : State) (ctx : Nat) : BinsOnly s (s.drainBins ctx) := by
  unfold State.drainBins
  split
  · exact .refl s
  · refine .foldl _ (fun r x => ?_) _ s
    split
    · exact .refl r
    · refine .foldl _ (fun q part => ?_) _ r
      split
      · exact .refl q
      · split
        · exact formBatch_binsOnly ..
        · exact .refl q

/-- With no allocation that waits, a free grants nothing (R166); bins may drain. -/
theorem grants_of_no_allocs (s : State) (ctx : Nat) (h : ∀ c, s.ctx? ctx = some c → c.allocs = []) : s.grants ctx = s.drainBins ctx := by
  have none : ∀ n, State.grantsOf ctx n s = s := by
    intro n
    cases n with
    | zero => rfl
    | succ n =>
      unfold State.grantsOf
      split
      · rfl
      · rename_i c hc
        simp [h c hc]
  rw [State.grants, none]

/-- Bins of nodes with timers do not drain (R170). -/
theorem drainBins_of_timers {s : State} {ctx : Nat} (h : ∀ c, s.ctx? ctx = some c → ∀ d ∈ c.nodes, d.t ≠ 0xFFFF) : s.drainBins ctx = s := by
  unfold State.drainBins
  split
  · rfl
  · rename_i c hc
    refine List.foldlRecOn (motive := fun r => r = s) _ _ rfl fun r hr x hx => ?_
    rw [if_pos (h c hc x.1 (List.fst_mem_of_mem_zipIdx hx))]
    exact hr

end Sys2Proof.Proofs
end

section
/-!
PROOFS. The end of a thread that leaves live threads of its crew behind (R26, R44, R147, R350), and `YIELD` with the events of waiting (R34, R35).
-/

namespace Sys2Proof.Proofs
open Sys2Proof Sys2Proof.Machine Sys2Proof.Laws Sys2Proof.Stmt

/-! ### The end of a thread (R44) -/

/-- What the end of a thread makes of it: it is no longer live and waits for nothing. -/
def endedThread (t : Thread) : Thread := { t with live := false, park := .none, stall := .none, arrived := none, loads := [] }

/-- The state in which an ended thread leaves its barriers: it waits in no queue and is no longer live. -/
def afterEnd (s : State) (id : ThreadId) : State := (s.leaveQueues id).modThread id endedThread

/-- The end of a live thread: it leaves its barriers, its crew notes when it left, its record is freed, and its crew retires with its last. -/
theorem endThread_eq {s : State} {t : Thread} (ht : s.thread? t.id = some t) (live : t.live = true) :
    ∃ f, s.endThread t.id =
      let last := ((afterEnd s t.id).liveOf t.id.crewId).isEmpty
      let r := (((afterEnd s t.id).leaveBarriers t.id last).modCrew t.id.crewId f).freeRecord t
      if last then r.retireCrew t.id.crewId else r := by
  unfold State.endThread
  rw [ht]
  simp only [live, Bool.not_true, Bool.false_eq_true, if_false]
  exact ⟨_, rfl⟩

/-- The end of a thread with no record, of whose crew another thread lives on: it leaves its barriers, and its crew notes when it left. -/
theorem endThread_of_survivor {s : State} {t u : Thread} (ht : s.thread? t.id = some t) (live : t.live = true) (record : t.record = none)
    (hu : u ∈ s.threads) (ulive : u.live = true) (ne : u.id ≠ t.id) (crew : u.id.crewId = t.id.crewId) :
    ∃ f, s.endThread t.id = ((afterEnd s t.id).leaveBarriers t.id false).modCrew t.id.crewId f := by
  have survivor : u ∈ (afterEnd s t.id).liveOf t.id.crewId := by
    simp only [State.liveOf, List.mem_filter, afterEnd, modThread_threads, mem_updWhere]
    exact ⟨⟨u, hu, by simp [ne]⟩, by simp [crew, ulive]⟩
  have others : ((afterEnd s t.id).liveOf t.id.crewId).isEmpty = false := by
    rw [List.isEmpty_eq_false_iff]
    exact List.ne_nil_of_mem survivor
  obtain ⟨f, e⟩ := endThread_eq ht live
  simp only [others, Bool.false_eq_true, if_false, State.freeRecord, record] at e
  exact ⟨f, e⟩

/-- An exit changes barriers: those of teams, units and grids (R147). -/
theorem leaveBarriers_eq (s : State) (i : ThreadId) (last : Bool) :
    ∃ ts us gs, s.leaveBarriers i last = { s with teams := ts, units := us, grids := gs } := by
  unfold State.leaveBarriers
  split
  · exact ⟨_, _, _, rfl⟩
  · split
    · exact ⟨_, _, _, rfl⟩
    · split <;> exact ⟨_, _, _, rfl⟩

/-- The team barriers after an exit that is not the crew's last: E is one less where barriers count threads (R147). -/
theorem leaveBarriers_bars {s : State} {i : ThreadId} {tm : Team} {g : Grid} (htm : s.team? i.team = some tm)
    (hg : s.grid? tm.grid = some g) :
    ((s.leaveBarriers i false).team? tm.id).map Team.bars =
      some (if g.elected then tm.bars else tm.bars.map (fun b => b.leave i.tid tm.coreD)) := by
  have own : s.team? tm.id = some tm := by rw [team_name htm]; exact htm
  unfold State.leaveBarriers
  rw [htm]
  dsimp only
  rw [hg]
  simp only [Bool.not_false, Bool.and_true]
  cases g.elected with
  | true => simp only [if_true, own, Option.map_some]
  | false =>
    simp only [Bool.false_eq_true, if_false]
    have changed := team_modTeam_self s tm.id (fun x => { x with bars := x.bars.map (fun b => b.leave i.tid tm.coreD) }) (fun _ h => h)
    rw [own] at changed
    exact congrArg (Option.map Team.bars) changed

/-- `EXIT` of a thread with no record, of whose crew another thread lives on. -/
theorem threadExit : Sys2Proof.Stmt.ThreadExit := by
  intro g s core t u rdv tm gr c ⟨hcur, ht, live⟩ guard record hu ulive ne crew htm hgr hc allocs
  have run : exec (.exit g) s = .next (State.exitThread { s with cur := .idle } t.id) := by
    change Host.Outcome.next (laneEach 4 g (fun s t => s.exitThread t.id) s) = _
    rw [laneEach_one 4 g _ s core t rdv hcur ht live, if_pos guard]
  refine ⟨_, run, ?_⟩
  obtain ⟨f, ended⟩ := endThread_of_survivor (s := { s with cur := .idle }) ht live record hu ulive ne crew
  obtain ⟨ts, us, gs, left⟩ := leaveBarriers_eq (afterEnd { s with cur := .idle } t.id) t.id false
  have bars := leaveBarriers_bars (s := afterEnd { s with cur := .idle } t.id) htm hgr
  have ctx : State.ctxId { s with cur := .idle } t.id.team = tm.ctx := by
    change ((s.team? t.id.team).map Team.ctx).getD 0 = _
    rw [htm]
    rfl
  have idle : ∀ d, (State.endThread { s with cur := .idle } t.id).ctx? tm.ctx = some d → d.allocs = [] := by
    intro d hd
    rw [ended, left] at hd
    have found : (s.ctxs.map (fun c => { c with
        faults := c.faults.map (fun f => { f with joined := f.joined.filter (fun x => !x.who.isThread t.id) })
        allocs := c.allocs.filter (fun a => a.who != .spawn t.id && a.who != .cont t.id) })).find? (fun x => x.id == tm.ctx) = some d := hd
    rw [List.find?_map] at found
    obtain ⟨x, hx, rfl⟩ := Option.map_eq_some_iff.mp found
    obtain rfl := Option.some.inj (hx.symm.trans hc)
    simp [allocs]
  rw [State.exitThread, ctx, grants_of_no_allocs _ _ idle, ended]
  obtain ⟨cs, n, drained, -⟩ := drainBins_binsOnly (((afterEnd { s with cur := .idle } t.id).leaveBarriers t.id false).modCrew t.id.crewId f) tm.ctx
  rw [drained]
  refine ⟨?_, fun v hv => ?_, ?_, ?_, bars⟩
  · rw [left]
    exact (thread_modThread_self (State.leaveQueues { s with cur := .idle } t.id) t.id endedThread (fun _ h => h)).trans (congrArg _ ht)
  · rw [left]
    exact thread_modThread_of_ne (State.leaveQueues { s with cur := .idle } t.id) t.id v endedThread (fun _ h => h) hv
  · rw [left]; rfl
  · rw [left]; rfl

/-! ### YIELD, THREAD_AGEING, DEMOTION_EXPIRY -/

/-- A lane instruction that changes only the threads of its flight, with what it makes of each (R23). -/
theorem laneReg_eq_laneNext (n : Nat) (g : Guard) (f : State → Thread → Thread) (s : State) (core : Nat) (ids : List ThreadId) (rdv : Bool)
    (h : s.cur = .flight core ids rdv) (pc : ∀ t, (f s t).pc = t.pc) : laneReg n g f s = laneNext s ids (laneStep n g (f s)) := by
  have one : regStep n g f s = laneStep n g (f s) := by
    funext t
    unfold regStep laneStep
    split
    · simp only [Thread.advance, pc]
    · rfl
  rw [laneReg_flight n g f s core ids rdv h, one]
  rfl

/-- An event that changes one thread. -/
theorem modThread_only (s : State) (t : Thread) (f : Thread → Thread) (names : ∀ x, (f x).id = x.id) (ht : s.thread? t.id = some t) :
    s.modThread t.id f = { s with threads := (s.modThread t.id f).threads } ∧ (s.modThread t.id f).thread? t.id = some (f t) ∧
      ∀ u, u ≠ t.id → (s.modThread t.id f).thread? u = s.thread? u :=
  ⟨rfl, by rw [thread_modThread_self s t.id f (fun x h => (names x).trans h), ht]; rfl,
    fun u hu => thread_modThread_of_ne s t.id u f (fun x h => (names x).trans h) hu⟩

theorem yieldAndAge : Sys2Proof.Stmt.YieldAndAge := by
  refine ⟨fun g s core ids rdv h => ?_, fun s t ht wait => ⟨_, rfl, ?_⟩, fun s t n ht demoted past => ⟨_, rfl, ?_⟩⟩
  · exact congrArg Host.Outcome.next (laneReg_eq_laneNext 4 g yieldThread s core ids rdv h (fun _ => rfl))
  · have aged := modThread_only s t (fun x => if Config.ageCycles ≤ x.wait then { x with aged := true } else x)
      (fun x => by split <;> rfl) ht
    rwa [if_pos (show Config.ageCycles ≤ t.wait from wait)] at aged
  · have ended : State.isDemoted t (s.cycleOf (s.coreOf t.id.team)) = false := by
      simp only [State.isDemoted, demoted]
      exact decide_eq_false (Nat.not_lt.mpr past)
    have expired := modThread_only s t
      (fun x => if State.isDemoted x (s.cycleOf (s.coreOf t.id.team)) then x else { x with demoted := none })
      (fun x => by split <;> rfl) ht
    rwa [if_neg (by rw [ended]; exact Bool.false_ne_true)] at expired

/-- Settles O46: `EXIT`, and `YIELD` with the events of waiting, each by its own part. -/
theorem threadExitAndYield : Obligations.ThreadExitAndYield := ⟨threadExit, yieldAndAge⟩

end Sys2Proof.Proofs
end

section
/-!
PROOFS. What a write at device reach makes of threads and teams: monitors wake (R277), and no thread or team changes its name, nor a thread its loads.
-/

namespace Sys2Proof.Proofs
open Sys2Proof Sys2Proof.Machine Sys2Proof.Laws

/-- The threads and teams of `r` are those of `s`, with their names, and the threads with their loads. -/
structure Wakes (s r : State) : Prop where
  threads : ∃ f : Thread → Thread, r.threads = s.threads.map f ∧ ∀ t, (f t).id = t.id ∧ (f t).loads = t.loads
  teams : ∃ g : Team → Team, r.teams = s.teams.map g ∧ ∀ t, (g t).id = t.id

theorem Wakes.of_eq {s r : State} (threads : r.threads = s.threads) (teams : r.teams = s.teams) : Wakes s r :=
  ⟨⟨id, by simpa using threads, fun _ => ⟨rfl, rfl⟩⟩, ⟨id, by simpa using teams, fun _ => rfl⟩⟩

theorem Wakes.refl (s : State) : Wakes s s := .of_eq rfl rfl

theorem Wakes.trans {s r q : State} (h : Wakes s r) (h' : Wakes r q) : Wakes s q := by
  obtain ⟨⟨f, ef, hf⟩, ⟨g, eg, hg⟩⟩ := h
  obtain ⟨⟨f', ef', hf'⟩, ⟨g', eg', hg'⟩⟩ := h'
  exact ⟨⟨f' ∘ f, by rw [ef', ef, List.map_map], fun t => ⟨(hf' _).1.trans (hf t).1, (hf' _).2.trans (hf t).2⟩⟩,
    ⟨g' ∘ g, by rw [eg', eg, List.map_map], fun t => (hg' _).trans (hg t)⟩⟩

theorem Wakes.foldl {α : Type} (f : State → α → State) (h : ∀ s x, Wakes s (f s x)) (l : List α) (s : State) : Wakes s (l.foldl f s) := by
  induction l generalizing s with
  | nil => exact .refl s
  | cons x l ih => exact (h s x).trans (ih _)

/-- Names of threads stay. -/
theorem Wakes.thread_names {s r : State} (h : Wakes s r) : r.threads.map Thread.id = s.threads.map Thread.id := by
  obtain ⟨⟨f, e, hf⟩, -⟩ := h
  simp [e, hf]

/-- Names of teams stay. -/
theorem Wakes.team_names {s r : State} (h : Wakes s r) : r.teams.map Team.id = s.teams.map Team.id := by
  obtain ⟨-, ⟨g, e, hg⟩⟩ := h
  simp [e, hg]

theorem wakeMonitors_wakes (s : State) (p : Loc → Bool) : Wakes s (s.wakeMonitors p) := by
  have noted : Wakes s (s.noteWake ((s.monitors.filter (fun m => p m.sector)).map Monitor.thread)) :=
    ⟨⟨_, updWhere_eq_map _ _ _, fun t => by split <;> exact ⟨rfl, rfl⟩⟩, ⟨_, updWhere_eq_map _ _ _, fun t => by split <;> rfl⟩⟩
  exact noted.trans ⟨⟨_, updWhere_eq_map _ _ _, fun t => by split <;> exact ⟨rfl, rfl⟩⟩, ⟨id, (List.map_id _).symm, fun _ => rfl⟩⟩

theorem evictLine_wakes (s : State) (l : EnvLine) : Wakes s (s.evictLine l) := by
  refine (wakeMonitors_wakes s (fun x => x.line == .env l.ctx l.name)).trans ?_
  unfold State.evictLine
  dsimp only
  split <;> exact .of_eq rfl rfl

theorem makeRoom_wakes (s : State) (ctx n : Nat) : Wakes s (s.makeRoom ctx n).1 := by
  unfold State.makeRoom
  dsimp only
  split
  · exact .refl s
  · split
    · exact (evictLine_wakes s _).trans (.of_eq rfl rfl)
    · refine .foldl _ (fun r c => ?_) _ s
      obtain ⟨cs, is, e⟩ := setCstat_eq r c 1
      rw [e]
      exact .of_eq rfl rfl

theorem roomFor_wakes (s : State) (sec : Loc) (bs : List (Nat × Byte)) : Wakes s (s.roomFor sec bs).1 := by
  unfold State.roomFor
  split
  · exact .refl s
  · exact makeRoom_wakes ..

theorem landWord_wakes (s : State) (ctx gen base : Nat) (bs : List (Nat × Byte)) : Wakes s (State.landWord s ctx gen base bs).1 := by
  obtain ⟨ev, e⟩ := landWord_eq s ctx gen base bs
  rw [e]
  exact .of_eq rfl rfl

theorem landBytes_wakes (s : State) (ctx : Nat) (tr : Translation) (sec : Loc) (bs : List (Nat × Byte)) :
    Wakes s (s.landBytes ctx tr sec bs).1 := by
  unfold State.landBytes
  cases sec with
  | pa a =>
    dsimp only
    generalize hw : (if tr.c = true then State.packStore _ ctx a else _) = w
    have written : Wakes s w := by
      rw [← hw]
      split
      · obtain ⟨m, d, e, -⟩ := packStore_eq { s with mem := s.mem.writeAll (bs.map (fun b => (a + b.1, b.2))) } ctx a
        rw [e]
        exact .of_eq rfl rfl
      · exact .of_eq rfl rfl
    split
    · exact written.trans (wakeMonitors_wakes ..)
    · exact written
  | env k n =>
    dsimp only
    refine Wakes.trans ?_ (wakeMonitors_wakes _ _)
    exact List.foldlRecOn (motive := fun (r : State × List (Nat × Byte)) => Wakes s r.1) _ _ (.refl s)
      fun r h i _ => h.trans (landWord_wakes ..)

/-- A write of the device wakes monitors where it lands (R277). -/
theorem devWrite_wakes (s : State) (ctx va : Nat) (tr : Translation) (l : Loc) (bs : List Byte) : Wakes s (s.devWrite ctx va tr l bs) := by
  unfold State.devWrite
  dsimp only
  have room := roomFor_wakes s l.sector (bs.zipIdx.map (fun b => (l.num % 32 + b.2, b.1)))
  split
  · exact room.trans (landBytes_wakes ..)
  · exact room.trans (.of_eq rfl rfl)

theorem landL1_wakes (s : State) (l : Landing) (bs : List (Nat × Byte)) : Wakes s (s.landL1 l bs) := by
  unfold State.landL1
  split
  · exact .refl s
  · refine .foldl _ (fun r b => ?_) bs s
    dsimp only
    split <;> exact .of_eq rfl rfl

theorem sendAck_wakes (s : State) (l : Landing) : Wakes s (s.sendAck l) := by
  unfold State.sendAck
  split
  · unfold State.freeLocks
    split
    · exact .refl s
    · exact .of_eq rfl rfl
  · split
    · exact .refl s
    · exact .of_eq rfl rfl

theorem escRecord_wakes (s : State) (ctx : Nat) (r : EscRecord) : Wakes s (s.escRecord ctx r) := by
  obtain ⟨m, d, cs, is, e, -⟩ := escRecord_eq s ctx r
  rw [e]
  exact .of_eq rfl rfl

theorem dropLanding_wakes (s : State) (l : Landing) (c : Cause) (va code : Nat) : Wakes s (s.dropLanding l c va code) := by
  unfold State.dropLanding
  dsimp only
  refine Wakes.trans ?_ (sendAck_wakes _ l)
  split
  · split <;> exact .of_eq rfl rfl
  · rename_i d _
    split
    · exact .of_eq rfl rfl
    · split
      · exact .refl s
      · have noted : Wakes s (s.modCrew d (fun (x : Crew) => { x with drops := x.drops ++ [l.implied] })) := .of_eq rfl rfl
        exact noted.trans (escRecord_wakes ..)

theorem logDenial_wakes (s : State) (l : Loc) (c : ReqClass) (w : Bool) : Wakes s (s.logDenial l c w) := by
  obtain ⟨d, e⟩ := logDenial_eq s l c w
  rw [e]
  exact .of_eq rfl rfl

theorem land_wakes (s : State) (l : Landing) : Wakes s (s.land l) := by
  unfold State.land
  split
  · exact (logDenial_wakes ..).trans (dropLanding_wakes ..)
  · have room := roomFor_wakes s l.loc l.bytes
    dsimp only
    split
    · exact room.trans (.of_eq rfl rfl)
    · have landed := room.trans ((landBytes_wakes _ l.ctx l.tr l.loc l.bytes).trans (landL1_wakes _ l
        (l.bytes.filter (fun b => !((s.roomFor l.loc l.bytes).1.landBytes l.ctx l.tr l.loc l.bytes).2.contains b))))
      split
      · exact landed.trans (sendAck_wakes ..)
      · split
        · exact landed.trans (dropLanding_wakes ..)
        · exact landed.trans (.of_eq rfl rfl)

theorem mergeParked_wakes (s : State) (due : Landing → Bool) : Wakes s (s.mergeParked due) := by
  unfold State.mergeParked
  dsimp only
  split
  · exact .refl s
  · refine Wakes.trans (.of_eq ?_ ?_) (.foldl _ (fun r l => ?_) _ _)
    · rfl
    · rfl
    · have landed : Wakes r ((r.landBytes l.ctx l.tr l.loc (s.mergeable l)).1.landL1 l (s.mergeable l)) :=
        (landBytes_wakes ..).trans (landL1_wakes ..)
      split
      · exact landed.trans (sendAck_wakes ..)
      · exact landed

/-- Landings that settle before an access wake monitors (R130, R137, R277). -/
theorem settleDue_wakes (s : State) (due : Landing → Bool) : Wakes s (s.settleDue due) := by
  have taken : Wakes s { s with landings := s.landings.filter (fun l => !due l) } := .of_eq rfl rfl
  exact (taken.trans (.foldl State.land land_wakes (s.landings.filter due) _)).trans (mergeParked_wakes _ due)

theorem settleLandings_wakes (s : State) (core : Nat) (c : CrewId) (sec : Loc) : Wakes s (s.settleLandings core c sec) :=
  settleDue_wakes ..

end Sys2Proof.Proofs
end

section
/-!
PROOFS. The threads of a flight act one after another, in ascending lane order (R23): the first thread's turn is a flight of its own, and the turns of
the others are a flight from the state that it leaves. Before `ATOM` and `CAS` the loads of the whole flight perform (R331): what a thread's loads do
then makes no load of another thread due.
-/

namespace Sys2Proof.Proofs
open Sys2Proof Sys2Proof.Machine Sys2Proof.Laws Sys2Proof.Stmt

/-! ### Loads that have still to perform -/

/-- Every load of a thread that has still to perform in `r` was one of that thread in `s`. -/
structure NoNewLoads (s r : State) : Prop where
  due : ∀ i u, r.thread? i = some u → ∃ t, s.thread? i = some t ∧ ∀ l ∈ u.loads, l.done = false → l ∈ t.loads

theorem NoNewLoads.refl (s : State) : NoNewLoads s s := ⟨fun _ u hu => ⟨u, hu, fun _ hl _ => hl⟩⟩

theorem NoNewLoads.trans {s r q : State} (h : NoNewLoads s r) (h' : NoNewLoads r q) : NoNewLoads s q := by
  refine ⟨fun i u hu => ?_⟩
  obtain ⟨t, ht, due⟩ := h'.due i u hu
  obtain ⟨t', ht', due'⟩ := h.due i t ht
  exact ⟨t', ht', fun l hl hd => due' l (due l hl hd) hd⟩

theorem NoNewLoads.of_threads {s r : State} (h : r.threads = s.threads) : NoNewLoads s r := by
  refine ⟨fun i u hu => ?_⟩
  rw [State.thread?, h] at hu
  exact ⟨u, hu, fun _ hl _ => hl⟩

/-- A change of some threads that keeps their names and brings them no load. -/
theorem NoNewLoads.of_updWhere {s r : State} (p : Thread → Bool) (f : Thread → Thread) (h : r.threads = updWhere p f s.threads)
    (names : ∀ t, (f t).id = t.id) (loads : ∀ t, ∀ l ∈ (f t).loads, l.done = false → l ∈ t.loads) : NoNewLoads s r := by
  refine ⟨fun i u hu => ?_⟩
  have same : (fun t => (if p t then f t else t).id == i) = fun t => t.id == i := by
    funext t
    split <;> simp [names]
  rw [State.thread?, h, updWhere_eq_map, List.find?_map, Function.comp_def, same] at hu
  obtain ⟨t, ht, rfl⟩ := Option.map_eq_some_iff.mp hu
  refine ⟨t, ht, fun l hl hd => ?_⟩
  split at hl
  · exact loads t l hl hd
  · exact hl

theorem NoNewLoads.modThread (s : State) (i : ThreadId) (f : Thread → Thread) (names : ∀ t, (f t).id = t.id)
    (loads : ∀ t, ∀ l ∈ (f t).loads, l.done = false → l ∈ t.loads) : NoNewLoads s (s.modThread i f) :=
  .of_updWhere _ f rfl names loads

theorem NoNewLoads.foldl {α : Type} (f : State → α → State) (h : ∀ s x, NoNewLoads s (f s x)) (l : List α) (s : State) :
    NoNewLoads s (l.foldl f s) := by
  induction l generalizing s with
  | nil => exact .refl s
  | cons x l ih => exact (h s x).trans (ih _)

/-- Landings and wakes bring a thread no load. -/
theorem NoNewLoads.of_wakes {s r : State} (h : Wakes s r) : NoNewLoads s r := by
  obtain ⟨⟨f, e, hf⟩, -⟩ := h
  refine .of_updWhere (fun _ => true) f (by simp [e, updWhere_eq_map]) (fun t => (hf t).1) fun t l hl _ => ?_
  rwa [(hf t).2] at hl

/-! ### Traps -/

theorem escalate_threads (s : State) (t : Thread) (cause trapv trapc : Word) (reason first : Nat) :
    (s.escalate t cause trapv trapc reason first).threads = s.threads := by
  obtain ⟨m, d, cs, is, gs, e, -⟩ := escalate_eq s t cause trapv trapc reason first
  rw [e]

theorem enterHandler_noNewLoads (s : State) (t : Thread) (r : TrapRegs) (resume : Word) : NoNewLoads s (s.enterHandler t r resume) := by
  obtain ⟨ts, us, gs, e⟩ := withdrawArrival_eq s t
  have left : NoNewLoads s ((s.withdrawArrival t).leaveQueues t.id) := .of_threads (by rw [e]; rfl)
  have noted := left.trans (r := (s.withdrawArrival t).leaveQueues t.id)
    (q := ((s.withdrawArrival t).leaveQueues t.id).noteWake [t.id]) (.of_updWhere _ _ rfl (fun _ => rfl) (fun _ _ hl _ => hl))
  exact noted.trans (.modThread _ _ _ (fun _ => rfl) (fun _ _ hl _ => List.mem_of_mem_filter hl))

theorem threadTrap_noNewLoads (s : State) (t : Thread) (c : Cause) (trapv : Word) (aux : Nat) :
    NoNewLoads s (s.threadTrap t c trapv aux) := by
  unfold State.threadTrap
  rw [takeTrap_eq]
  split
  · split
    · exact .of_threads (escalate_threads ..)
    · exact .modThread _ _ _ (fun _ => rfl) (fun _ _ hl _ => hl)
  · split
    · exact .of_threads (escalate_threads ..)
    · exact enterHandler_noNewLoads ..

/-! ### Loads that perform -/

/-- Writes of registers bring a thread no load. -/
theorem setRegs_modThread_noNewLoads (s : State) (i : ThreadId) (n : Nat) (ws : List Word) :
    NoNewLoads s (s.modThread i (fun x => x.setRegs n ws)) :=
  .modThread _ _ _ (fun _ => thread_setRegs_id _ _ _) (fun _ _ hl _ => by rwa [thread_setRegs_loads] at hl)

theorem returnRemote_noNewLoads (s : State) (t : ThreadId) (l : Load) : NoNewLoads s (s.returnRemote t l) := by
  unfold State.returnRemote
  dsimp only
  have taken : NoNewLoads s ((s.settleLandings (s.coreOf t.team) t.crewId l.loc.sector).modThread t (fun x =>
      { x with stall := .none, loads := x.loads.filter (fun y => y.slot != l.slot) })) :=
    (NoNewLoads.of_wakes (settleLandings_wakes ..)).trans (.modThread _ _ _ (fun _ => rfl) (fun _ _ hl _ => List.mem_of_mem_filter hl))
  split
  · split
    · exact taken.trans ((NoNewLoads.of_wakes (logDenial_wakes ..)).trans (threadTrap_noNewLoads ..))
    · refine taken.trans (NoNewLoads.trans (.of_threads ?_) (.modThread _ _ _ (fun _ => ?_) (fun _ _ hl _ => ?_)))
      · unfold State.installLoad
        split
        · rfl
        · obtain ⟨l1, n, e⟩ := l1Install_eq _ _ _ _
          rw [e]
      · rw [thread_advance_id, thread_setRegs_id]
      · rwa [thread_advance_loads, thread_setRegs_loads] at hl
  · exact taken

theorem performLoad_noNewLoads (s : State) (t : ThreadId) (l : Load) : NoNewLoads s (s.performLoad t l) := by
  unfold State.performLoad
  split
  · exact returnRemote_noNewLoads ..
  · dsimp only
    split
    · exact .of_wakes (settleLandings_wakes ..)
    · split
      · exact .of_wakes (settleLandings_wakes ..)
      · exact (NoNewLoads.of_wakes (settleLandings_wakes ..)).trans (setRegs_modThread_noNewLoads ..)

theorem settleFlight_noNewLoads (s : State) (core at_ : Nat) (sec : Loc) : NoNewLoads s (s.settleFlight core at_ sec) := by
  refine .foldl _ (fun r x => ?_) _ s
  refine (performLoad_noNewLoads r x.1 x.2).trans (.modThread _ _ _ (fun _ => rfl) (fun t l hl hd => ?_))
  obtain ⟨y, hy, rfl⟩ := List.mem_map.mp hl
  split at hd
  · cases hd
  · rw [if_neg ‹_›]
    exact hy

/-- The loads of a thread that perform before its access make no load due (R130). -/
theorem settleLoads_noNewLoads (s : State) (t : ThreadId) (sec : Loc) : NoNewLoads s (s.settleLoads t sec) := by
  unfold State.settleLoads
  split
  · exact .refl s
  · exact .foldl _ (fun r l => settleFlight_noNewLoads ..) _ s

/-- Nothing performs before the access of a thread all of whose loads have performed. -/
theorem settleLoads_of_done {s : State} {t : ThreadId} (sec : Loc) (h : ∀ u, s.thread? t = some u → ∀ l ∈ u.loads, l.done = true) :
    s.settleLoads t sec = s := by
  unfold State.settleLoads
  split
  · rfl
  · rename_i x hx
    rw [List.filter_eq_nil_iff.mpr (fun l hl => by simp [h x hx l hl])]
    rfl

/-! ### Lane instructions, thread by thread -/

/-- The turns of a flight are the turn of its first thread, then the turns of the others. -/
theorem laneFrom_cons (n : Nat) (g : Guard) (f : State → Thread → State) (s x : State) (core : Nat) (a : ThreadId) (ids : List ThreadId)
    (rdv : Bool) : laneFrom n g f { s with cur := .flight core (a :: ids) rdv } x =
      laneFrom n g f { s with cur := .flight core ids rdv } (laneFrom n g f { s with cur := .flight core [a] rdv } x) := rfl

/-- The turns of a flight depend on the state before the flight only in which of its threads were in their handlers (R23). -/
theorem laneFrom_congr (n : Nat) (g : Guard) (f : State → Thread → State) {s s' : State} (x : State) (core : Nat) (ids : List ThreadId)
    (rdv : Bool) (h : ∀ b ∈ ids, (s'.thread? b).map Thread.inh = (s.thread? b).map Thread.inh) :
    laneFrom n g f { s with cur := .flight core ids rdv } x = laneFrom n g f { s' with cur := .flight core ids rdv } x := by
  refine List.foldl_ext _ _ x fun y b hb => ?_
  change (match y.thread? b, s.thread? b with | some t, some t0 => _ | _, _ => _) =
    (match y.thread? b, s'.thread? b with | some t, some t0 => _ | _, _ => _)
  have same := h b hb
  cases hy : y.thread? b with
  | none => rfl
  | some t =>
    cases hs : s.thread? b with
    | none =>
      cases hs' : s'.thread? b with
      | none => rfl
      | some t' => simp [hs, hs'] at same
    | some t0 =>
      cases hs' : s'.thread? b with
      | none => simp [hs, hs'] at same
      | some t' =>
        have inh : t'.inh = t0.inh := by simpa [hs, hs'] using same
        simp only [inh]

/-! ### Atomics: the loads of the flight perform first (R331) -/

/-- The turn of a thread before the atomics of a flight: its loads from its word's sector perform. -/
def settleTurn (g : Guard) (a : Nat) (wide : Bool) (sc : Scope) (s x : State) (id : ThreadId) : State :=
  match s.thread? id with
  | none => x
  | some t =>
    if !t.guard g || sc == .team then x
    else match s.access id.team (atomAddr t a sc) (atomSize wide) true with
      | .ok _ loc => x.settleLoads id loc.sector
      | _ => x

theorem settleRun_eq_foldl (g : Guard) (a : Nat) (wide : Bool) (sc : Scope) (s : State) :
    settleRun g a wide sc s = s.cur.ids.foldl (settleTurn g a wide sc s) { s with cur := .idle } := rfl

theorem settleTurn_cases (g : Guard) (a : Nat) (wide : Bool) (sc : Scope) (s x : State) (id : ThreadId) :
    settleTurn g a wide sc s x id = x ∨ ∃ sec, settleTurn g a wide sc s x id = x.settleLoads id sec := by
  unfold settleTurn
  split
  · exact .inl rfl
  · split
    · exact .inl rfl
    · split
      · exact .inr ⟨_, rfl⟩
      · exact .inl rfl

/-- Threads whose loads have performed have nothing to do before their atomics. -/
theorem foldl_settleTurn_of_done (g : Guard) (a : Nat) (wide : Bool) (sc : Scope) (s x : State) (ids : List ThreadId)
    (h : ∀ b ∈ ids, ∀ u, x.thread? b = some u → ∀ l ∈ u.loads, l.done = true) : ids.foldl (settleTurn g a wide sc s) x = x := by
  induction ids with
  | nil => rfl
  | cons b ids ih =>
    have done : settleTurn g a wide sc s x b = x := by
      rcases settleTurn_cases g a wide sc s x b with e | ⟨sec, e⟩
      · exact e
      · exact e.trans (settleLoads_of_done sec (h b (by simp)))
    rw [List.foldl_cons, done, ih (fun c hc => h c (by simp [hc]))]

/-- Before the atomics of a flight the loads of its first thread perform, and nothing more where the loads of the others have performed. -/
theorem settleRun_cons (g : Guard) (a : Nat) (wide : Bool) (sc : Scope) (s : State) (core : Nat) (i : ThreadId) (ids : List ThreadId)
    (rdv : Bool) (h : ∀ b ∈ ids, ∀ u, s.thread? b = some u → ∀ l ∈ u.loads, l.done = true) :
    settleRun g a wide sc { s with cur := .flight core (i :: ids) rdv } =
      settleRun g a wide sc { s with cur := .flight core [i] rdv } := by
  have unfocused : NoNewLoads s { s with cur := .idle } := .of_threads rfl
  have first : NoNewLoads s (settleTurn g a wide sc s { s with cur := .idle } i) := by
    rcases settleTurn_cases g a wide sc s { s with cur := .idle } i with e | ⟨sec, e⟩
    · rwa [e]
    · rw [e]; exact unfocused.trans (settleLoads_noNewLoads ..)
  refine foldl_settleTurn_of_done g a wide sc s (settleTurn g a wide sc s { s with cur := .idle } i) ids fun b hb u hu l hl => ?_
  obtain ⟨t, ht, due⟩ := first.due b u hu
  cases hd : l.done with
  | true => rfl
  | false => exact hd.symm.trans (h b hb t ht l (due l hl hd))

/-! ### The instructions whose threads act one after another -/

/-- The two forms of a lane instruction whose threads act one after another, with the guard it carries: its threads take their turns from the state
at issue, or from that in which the loads of the flight have performed (R23, R331). -/
theorem exec_oneByOne (i : Instr) (g : Guard) (h : oneByOne i = some g) :
    (∃ f, ∀ s, exec i s = .next (laneEach (instrBytes i) g f s)) ∨
      (((∃ o, i = .atom o) ∨ ∃ o, i = .cas o) ∧
        ∃ f a wide sc, ∀ s, exec i s = .next (laneFrom (instrBytes i) g f s (settleRun g a wide sc s))) := by
  cases i
  case atom o => cases h; exact .inr ⟨.inl ⟨o, rfl⟩, _, _, _, _, fun _ => rfl⟩
  case cas o => cases h; exact .inr ⟨.inr ⟨o, rfl⟩, _, _, _, _, fun _ => rfl⟩
  all_goals cases h
  all_goals exact .inl ⟨_, fun _ => rfl⟩

/-- The threads of a flight act one after another (R23): the turns of the others compare their handler flags with those before the first turn, which
leaves them as they are. -/
theorem flightIsSequential : Sys2Proof.Stmt.FlightIsSequential := by
  intro i s s1 core a ids rdv lane first idle handlers loads
  obtain ⟨g, hg⟩ := Option.isSome_iff_exists.mp lane
  have rest : ({ s1 with cur := .idle } : State) = s1 := by rw [← idle]
  obtain ⟨f, run⟩ | ⟨atomic, f, r, wide, sc, run⟩ := exec_oneByOne i g hg
  · have turn : laneEach (instrBytes i) g f { s with cur := .flight core [a] rdv } = s1 := Host.Outcome.next.inj ((run _).symm.trans first)
    rw [run, run]
    change Host.Outcome.next (laneFrom _ g f { s with cur := .flight core (a :: ids) rdv } { s with cur := .idle }) =
      .next (laneFrom _ g f { s1 with cur := .flight core ids rdv } { s1 with cur := .idle })
    rw [laneFrom_cons, show laneFrom _ g f { s with cur := .flight core [a] rdv } { s with cur := .idle } = s1 from turn, rest,
      laneFrom_congr _ g f s1 core ids rdv handlers]
  · have turn : laneFrom (instrBytes i) g f { s with cur := .flight core [a] rdv } (settleRun g r wide sc { s with cur := .flight core [a] rdv }) =
        s1 := Host.Outcome.next.inj ((run _).symm.trans first)
    have settled : settleRun g r wide sc { s1 with cur := .flight core ids rdv } = s1 :=
      (foldl_settleTurn_of_done g r wide sc _ { s1 with cur := .idle } ids (loads atomic s1 (.inr rfl))).trans rest
    rw [run, run, settleRun_cons g r wide sc s core a ids rdv (loads atomic s (.inl rfl)), laneFrom_cons, turn, settled,
      laneFrom_congr _ g f s1 core ids rdv handlers]

/-- A thread whose guard is false only continues (R23, R303). -/
theorem guardFalseContinues : Sys2Proof.Stmt.GuardFalseContinues := by
  refine ⟨fun i g s core t rdv hg ⟨hcur, ht, live⟩ guard => ?_, fun t neg => by cases neg <;> rfl⟩
  have skip : ({ s with cur := .idle } : State).modThread t.id (·.advance (instrBytes i)) = runsOn s t.id (instrBytes i) id := by
    simp only [State.modThread, runsOn, laneNext, updWhere_eq_map, beq_iff_eq, List.mem_singleton]
    rfl
  obtain ⟨f, run⟩ | ⟨-, f, r, wide, sc, run⟩ := exec_oneByOne i g hg
  · rw [run, laneEach_one _ g f s core t rdv hcur ht live, guard, ← skip]
    rfl
  · have settled : settleRun g r wide sc s = { s with cur := .idle } := by
      simp [settleRun_eq_foldl, hcur, Focus.ids, settleTurn, ht, guard]
    rw [run, settled, laneFrom_one _ g f s { s with cur := .idle } core t t rdv hcur ht ht live rfl, guard, ← skip]
    rfl

/-- Settles O39: the turns of a flight, and the thread whose guard is false. -/
theorem flightOrder : Obligations.FlightOrder := ⟨flightIsSequential, guardFalseContinues⟩

end Sys2Proof.Proofs
end

section
/-!
PROOFS. Notify registers (R69, R70): a register that is stored reads back, the others stay, and what a write to PROD and a read of NSTAT make of one.
-/

namespace Sys2Proof.Proofs
open Sys2Proof Sys2Proof.Machine Sys2Proof.Laws Sys2Proof.Stmt

/-! ### Storing a register -/

/-- A notify register stands at its own place. -/
theorem notifyReg_place (s : State) (page reg : Nat) : (s.notifyReg page reg).page = page ∧ (s.notifyReg page reg).reg = reg := by
  unfold State.notifyReg
  cases h : s.notify.find? (fun r => r.page == page && r.reg == reg) with
  | none => exact ⟨rfl, rfl⟩
  | some r => simpa using List.find?_some h

@[simp] theorem notifyReg_setNotify_self (s : State) (r : NotifyReg) : (s.setNotify r).notifyReg r.page r.reg = r := by
  have gone : (s.notify.filter (fun x => !(x.page == r.page && x.reg == r.reg))).find? (fun x => x.page == r.page && x.reg == r.reg) = none := by
    rw [List.find?_eq_none]
    intro x hx
    simpa [imp_iff_not_or] using (List.mem_filter.1 hx).2
  simp only [State.notifyReg, State.setNotify, List.find?_append, gone]
  simp

theorem notifyReg_setNotify_of_ne (s : State) (r : NotifyReg) (p q : Nat) (h : (p, q) ≠ (r.page, r.reg)) :
    (s.setNotify r).notifyReg p q = s.notifyReg p q := by
  have other : (r.page == p && r.reg == q) = false := by
    rw [Bool.eq_false_iff]
    simp only [ne_eq, Prod.mk.injEq, Bool.and_eq_true, beq_iff_eq] at h ⊢
    exact fun e => h ⟨e.1.symm, e.2.symm⟩
  simp only [State.notifyReg, State.setNotify, List.find?_append, List.find?_filter, List.find?_cons, other, List.find?_nil, Option.or_none]
  congr 2
  funext x
  by_cases hx : (x.page == p && x.reg == q) = true
  · have : ¬(x.page == r.page && x.reg == r.reg) = true := by
      simp only [Bool.and_eq_true, beq_iff_eq] at hx ⊢
      exact fun e => h (by rw [← hx.1, ← hx.2, e.1, e.2])
    simp [hx, this]
  · simp [hx]

/-- What storing a register does, with a reply and with bins that drain: the register is the one stored, the others stay, and nothing else changes but
that bins may drain. -/
theorem setNotify_drained {s q : State} {r : NotifyReg} {page reg : Nat} (rs : List Reply) (hr : r.page = page ∧ r.reg = reg)
    (bins : BinsOnly (State.setNotify { s with replies := rs } r) q)
    (timers : (∀ c ∈ s.ctxs, ∀ d ∈ c.nodes, d.t ≠ 0xFFFF) → q = State.setNotify { s with replies := rs } r) :
    q = { s with notify := q.notify, replies := q.replies, ctxs := q.ctxs, lastId := q.lastId } ∧
      q.notifyReg page reg = r ∧ (∀ p k, (p, k) ≠ (page, reg) → q.notifyReg p k = s.notifyReg p k) ∧
      ((∀ c ∈ s.ctxs, ∀ d ∈ c.nodes, d.t ≠ 0xFFFF) → q.ctxs = s.ctxs ∧ q.lastId = s.lastId) := by
  obtain ⟨rfl, rfl⟩ := hr
  have still : (∀ c ∈ s.ctxs, ∀ d ∈ c.nodes, d.t ≠ 0xFFFF) → q.ctxs = s.ctxs ∧ q.lastId = s.lastId := fun h => by
    rw [timers h]
    exact ⟨rfl, rfl⟩
  obtain ⟨cs, n, rfl, -⟩ := bins
  exact ⟨rfl, notifyReg_setNotify_self { s with replies := rs } r,
    fun p k h => notifyReg_setNotify_of_ne { s with replies := rs } r p k h, still⟩

/-! ### PROD and NSTAT -/

/-- A register that a Fomor core may write is written (R288, R297). -/
theorem hostWrite_of_may {s : State} {off : Nat} (f : State → State) (h : HostMay s off true) : s.hostWrite off f = f s := by
  obtain ⟨active, answers, allowed⟩ := h
  have pa : s.deniedAt (.pa (State.registerPa off)) .fomor true = none := allowed
  simp [State.hostWrite, State.hostAccess, State.registersAnswer, active, answers, pa]

/-- A register that a Fomor core may read is read (R288, R297). -/
theorem hostAccess_of_may {s : State} {off : Nat} (f : State → Bool → State) (h : HostMay s off false) :
    s.hostAccess off false f = f s false := by
  obtain ⟨active, answers, allowed⟩ := h
  have pa : s.deniedAt (.pa (State.registerPa off)) .fomor false = none := allowed
  simp [State.hostAccess, State.registersAnswer, active, answers, pa]

/-- A write to PROD stores a register, and bins may drain (R70, R170). -/
theorem writeProd_stores (s : State) (page reg : Nat) (value : Word) (hp : page < 4096) (hk : reg < 64) :
    let r := s.notifyReg page reg
    let stored := s.setNotify (if r.base = 0 then { r with nstat := 2 }
      else if (value.toNat + 2 ^ 32 - r.cons) % 2 ^ 32 ≤ 2 ^ r.log2n then { r with prod := value.toNat } else { r with nstat := 1 })
    s.writeProd page reg value = stored ∨ s.writeProd page reg value = stored.drainBins (s.pageContext page) := by
  intro r stored
  have range : ¬(page ≥ 4096 ∨ reg ≥ 64) := by omega
  simp only [stored, State.writeProd, if_neg range]
  split
  · exact .inl rfl
  · split
    · exact .inr rfl
    · exact .inl rfl

theorem notifyRegisters : Sys2Proof.Stmt.NotifyRegisters := by
  intro s page reg value hp hk r off becomes
  have place := notifyReg_place s page reg
  constructor
  · intro may
    refine ⟨_, congrArg Host.Outcome.next (hostWrite_of_may (fun x => x.writeProd page reg value) may), ?_⟩
    set r' := if r.base = 0 then { r with nstat := 2 }
      else if (value.toNat + 2 ^ 32 - r.cons) % 2 ^ 32 ≤ 2 ^ r.log2n then { r with prod := value.toNat } else { r with nstat := 1 } with hr'
    have place' : r'.page = page ∧ r'.reg = reg := by
      rw [hr']
      split_ifs <;> exact place
    rcases writeProd_stores s page reg value hp hk with e | e
    · rw [show s.writeProd page reg value = s.setNotify r' from e]
      exact ⟨rfl, setNotify_drained s.replies place' (.refl _) (fun _ => rfl)⟩
    · rw [show s.writeProd page reg value = (s.setNotify r').drainBins (s.pageContext page) from e]
      have bins := drainBins_binsOnly (s.setNotify r') (s.pageContext page)
      have replies : ((s.setNotify r').drainBins (s.pageContext page)).replies = s.replies := by
        obtain ⟨cs, n, e, -⟩ := bins
        rw [e]
        rfl
      refine ⟨replies, setNotify_drained s.replies place' bins fun h => drainBins_of_timers fun c hc => h c ?_⟩
      exact ctx_mem hc
  · intro may
    refine ⟨_, congrArg Host.Outcome.next ((if_pos ⟨hp, hk⟩).trans (hostAccess_of_may _ may)), ?_⟩
    have place' : ({ r with nstat := 0 } : NotifyReg).page = page ∧ ({ r with nstat := 0 } : NotifyReg).reg = reg := place
    by_cases clear : r.nstat = 0
    · have same : ({ r with nstat := 0 } : NotifyReg) = r := by rw [← clear]
      simp only [Bool.false_eq_true, if_false, Bool.false_or, decide_eq_true_eq, r] at clear ⊢
      rw [if_pos clear]
      exact ⟨rfl, rfl, same.symm, fun _ _ _ => rfl, fun _ => ⟨rfl, rfl⟩⟩
    · simp only [Bool.false_eq_true, if_false, Bool.false_or, decide_eq_true_eq, r] at clear ⊢
      rw [if_neg clear]
      exact ⟨rfl, setNotify_drained _ place' (.refl _) (fun _ => rfl)⟩

end Sys2Proof.Proofs
end

section
/-!
PROOFS. What an access of a unit other than a thread can change (R92 to R94, R187, R297).
-/

namespace Sys2Proof.Proofs
open Sys2Proof Sys2Proof.Machine Sys2Proof.Laws

/-- Memory, the denial log, TLBs, walks, misses, contexts, interrupts and the count of free values may differ, and nothing else. -/
structure AccessOnly (s r : State) : Prop where
  same : ∃ m d l n ws ms cs is,
    r = { s with mem := m, denials := d, tlb := l, freeCtr := n, walks := ws, misses := ms, ctxs := cs, irqs := is }

theorem AccessOnly.refl (s : State) : AccessOnly s s := ⟨⟨_, _, _, _, _, _, _, _, rfl⟩⟩

theorem AccessOnly.trans {s r q : State} (h : AccessOnly s r) (h' : AccessOnly r q) : AccessOnly s q := by
  obtain ⟨m, d, l, n, ws, ms, cs, is, rfl⟩ := h.same
  obtain ⟨m', d', l', n', ws', ms', cs', is', rfl⟩ := h'.same
  exact ⟨⟨_, _, _, _, _, _, _, _, rfl⟩⟩

theorem AccessOnly.logDenial (s : State) (l : Loc) (c : ReqClass) (w : Bool) : AccessOnly s (s.logDenial l c w) := by
  obtain ⟨d, e⟩ := logDenial_eq s l c w
  exact ⟨⟨_, _, _, _, _, _, _, _, e⟩⟩

theorem AccessOnly.walk (s : State) (core : Nat) (w : WalkFor) : AccessOnly s (s.walk core w).1 := by
  obtain ⟨m, d, l, n, e, -⟩ := walk_eq s core w
  exact ⟨⟨_, _, _, _, _, _, _, _, e⟩⟩

theorem AccessOnly.joinWalk (s : State) (ctx core va : Nat) (kind : Kind) (write : Bool) (who : Waiter) :
    AccessOnly s (s.joinWalk ctx core va kind write who) := by
  obtain ⟨ws, e⟩ := joinWalk_eq s ctx core va kind write who
  exact ⟨⟨_, _, _, _, _, _, _, _, e⟩⟩

/-- A failure that no thread waits for parks none (R93, R94). -/
theorem AccessOnly.raiseFault (s : State) (ctx core va : Nat) (kind : Kind) {who : Waiter} (h : ∀ t, who ≠ .thread t) :
    AccessOnly s (s.raiseFault ctx core va kind [⟨who, va, kind⟩]) := by
  have quiet : ∀ {r : State}, RecordOnly { s with
      threads := updWhere (fun t => ([] : List ThreadId).contains t.id) (fun t => { t with park := .fault, stall := .none }) s.threads } r →
      AccessOnly s r := by
    intro r e
    have parked : updWhere (fun t : Thread => ([] : List ThreadId).contains t.id) (fun t => { t with park := .fault, stall := .none }) s.threads =
        s.threads := by simp [updWhere]
    rw [parked] at e
    obtain ⟨m, d, cs, is, e, -⟩ := e
    exact ⟨⟨_, _, _, _, _, _, _, _, e⟩⟩
  cases who with
  | thread t => exact absurd rfl (h t)
  | _ => exact quiet (raiseFault_recordOnly s ctx core va kind _)

/-- An access of a unit other than a thread (R92 to R94). -/
theorem reach_accessOnly (s : State) (core ctx va : Nat) (write : Bool) (kind : Kind) {who : Waiter} (h : ∀ t, who ≠ .thread t) :
    AccessOnly s (s.reach core ctx va write kind who).1 := by
  have found : ∀ (r : State) (tr : Translation),
      AccessOnly r (if r.reachable (tr.loc ctx va) write then (r, Reach.ok tr (tr.loc ctx va)) else (r.logDenial (tr.loc ctx va) .device write, .refused)).1 := by
    intro r tr
    split
    · exact .refl r
    · exact .logDenial ..
  have walked :
      let r := s.walk core ⟨ctx, va, write, false⟩
      AccessOnly s (if s.walking ctx core va || !s.enabled ctx then (s.joinWalk ctx core va kind write who, Reach.wait .walk)
        else match r.2 with
          | .ok tr =>
            if r.1.reachable (tr.loc ctx va) write then (r.1, Reach.ok tr (tr.loc ctx va)) else (r.1.logDenial (tr.loc ctx va) .device write, .refused)
          | .error .fatal => (r.1, .refused)
          | .error _ => (r.1.raiseFault ctx core va kind [⟨who, va, kind⟩], .wait .fault)).1 := by
    intro r
    split
    · exact .joinWalk ..
    · refine (AccessOnly.walk s core ⟨ctx, va, write, false⟩).trans ?_
      split
      · exact found _ _
      · exact .refl _
      · exact .raiseFault _ ctx core va kind h
  unfold State.reach
  dsimp only
  split
  · exact .refl s
  · split
    · exact walked
    · split
      · exact walked
      · exact found s _

/-- A read of a unit other than a thread (R92 to R94, R187). -/
theorem reachRead_accessOnly (s : State) (core ctx va n depth cls : Nat) (kind : Kind) {who : Waiter} (h : ∀ t, who ≠ .thread t) :
    AccessOnly s (s.reachRead core ctx va n depth cls kind who).1 := by
  have reached := reach_accessOnly s core ctx va false kind h
  unfold State.reachRead State.reachSome
  split
  · rename_i e
    rwa [e] at reached
  · rename_i e
    rwa [e] at reached
  · rename_i e
    rw [e] at reached
    refine reached.trans ?_
    split
    · exact ⟨⟨_, _, _, _, _, _, _, _, rfl⟩⟩
    · split
      · exact .refl _
      · exact ⟨⟨_, _, _, _, _, _, _, _, rfl⟩⟩

theorem AccessOnly.of_read {s s1 : State} {core ctx va n depth cls : Nat} {kind : Kind} {who : Waiter} {b : ReachBytes}
    (e : s.reachRead core ctx va n depth cls kind who = (s1, b)) (h : ∀ t, who ≠ .thread t) : AccessOnly s s1 := by
  have read := reachRead_accessOnly s core ctx va n depth cls kind h
  rwa [e] at read

end Sys2Proof.Proofs
end

section
/-!
PROOFS. Bytes that the device writes to memory: what a small number reads back, and where they land (R4, R136).
-/

namespace Sys2Proof.Proofs
open Sys2Proof Sys2Proof.Machine Sys2Proof.Laws

@[simp] theorem leBytes_length (n x : Nat) : (leBytes n x).length = n := by
  induction n generalizing x with
  | zero => rfl
  | succ n ih => simp [leBytes, ih]

/-- A number survives its bytes, as far as they reach (R4). -/
theorem leNat_leBytes (n x : Nat) : leNat (leBytes n x) = x % 2 ^ (8 * n) := by
  induction n generalizing x with
  | zero => simp [leBytes, leNat, Nat.mod_one]
  | succ n ih =>
    have split : 2 ^ (8 * (n + 1)) = 0x100 * 2 ^ (8 * n) := by rw [Nat.mul_add, pow_add, Nat.mul_comm]; rfl
    simp only [leBytes, leNat, ih, BitVec.toNat_ofNat, split, Nat.mod_mul]

/-- A run that was written is the run that is read. -/
theorem readBytes_writeBytes (m : Memory) (a : Nat) (bs : List Byte) : (m.writeBytes a bs).readBytes a bs.length = bs := by
  induction bs generalizing m a with
  | nil => rfl
  | cons b bs ih =>
    have first : (Memory.writeBytes (m.write a b) (a + 1) bs).read a = b := by
      rw [read_writeBytes_of_lt _ _ _ _ (by omega), read_write_self]
    simp only [Memory.writeBytes, List.length_cons, Memory.readBytes, first, ih]

theorem readNat_writeBytes (m : Memory) (a n x : Nat) : (m.writeBytes a (leBytes n x)).readNat a n = x % 2 ^ (8 * n) := by
  have run := readBytes_writeBytes m a (leBytes n x)
  rw [leBytes_length] at run
  rw [Memory.readNat, run, leNat_leBytes]

/-- Numbered bytes written one by one are a run. -/
theorem writeAll_zipIdx (m : Memory) (a k : Nat) (bs : List Byte) :
    m.writeAll ((bs.zipIdx k).map (fun b => (a + b.2, b.1))) = m.writeBytes (a + k) bs := by
  induction bs generalizing m k with
  | nil => rfl
  | cons b bs ih => exact ih (m.write (a + k) b) (k + 1)

/-- A write of the device to memory, whose link is up and whose page holds no compressed data, puts the bytes there; monitors may wake (R136, R277). -/
theorem devWrite_pa (s : State) (ctx va a : Nat) {tr : Translation} (bs : List Byte) (plain : tr.c = false) (up : s.delayed (.pa a) = false) :
    ∃ th ts mo, s.devWrite ctx va tr (.pa a) bs = { s with mem := s.mem.writeBytes a bs, threads := th, teams := ts, monitors := mo } := by
  have place : ∀ b : Byte × Nat, a - a % 32 + (a % 32 + b.2) = a + b.2 := fun b => by omega
  have bytes : s.mem.writeAll ((bs.zipIdx.map (fun b => (a % 32 + b.2, b.1))).map (fun b => (a - a % 32 + b.1, b.2))) = s.mem.writeBytes a bs := by
    simp only [List.map_map, Function.comp_def, place]
    exact writeAll_zipIdx s.mem a 0 bs
  have room : s.roomFor (Loc.pa a).sector (bs.zipIdx.map (fun b => ((Loc.pa a).num % 32 + b.2, b.1))) = (s, true) := rfl
  simp only [State.devWrite, room, up, Bool.not_false, Bool.and_self, if_true]
  simp only [State.landBytes, Loc.sector, Loc.down, Loc.num, plain, Bool.false_eq_true, if_false, bytes]
  split
  · exact ⟨_, _, _, (wakeMonitors_eq _ _).choose_spec.choose_spec.choose_spec⟩
  · exact ⟨_, _, _, rfl⟩

end Sys2Proof.Proofs
end
section
/-!
PROOFS. Ring entries (R71): the head entry of a launch ring is decided, its code is written at STATUS and CONS passes it, or it stays for want of room;
the head entry of a record ring becomes a record of its node's bin.
-/

namespace Sys2Proof.Proofs
open Sys2Proof Sys2Proof.Machine Sys2Proof.Laws Sys2Proof.Stmt

/-- The image read of a ring's head entry when it is new. -/
def newEntryImage (s : State) (page reg : Nat) : ImageRead :=
  ⟨s.lastId + 1, s.pageContext page, none, page, reg, [], .none, false, false⟩

/-- When every image read is a crew's, a ring's head entry has a new one. -/
theorem openImage_new {s : State} (page reg : Nat) (h : ∀ m ∈ s.images, m.crew.isSome) :
    s.openImage page reg =
      ({ s with lastId := s.lastId + 1, images := s.images ++ [newEntryImage s page reg] }, newEntryImage s page reg) := by
  have none : s.ringImage page reg = none := by
    rw [State.ringImage, List.find?_eq_none]
    intro m hm
    simp [Option.isNone_eq_false_iff.2 (h m hm)]
  rw [State.openImage, none]
  rfl

/-! ### CONS passes an entry -/

/-- Passing an entry stores its register, and bins may drain (R70, R170). -/
theorem passEntry_binsOnly (s : State) (r : NotifyReg) (nstat : Nat) :
    BinsOnly (s.setNotify { r with cons := (r.cons + 1) % 2 ^ 32, nstat := nstat }) (s.passEntry r nstat) := drainBins_binsOnly _ _

theorem notifyReg_passEntry (s : State) (r : NotifyReg) (nstat : Nat) :
    (s.passEntry r nstat).notifyReg r.page r.reg = { r with cons := (r.cons + 1) % 2 ^ 32, nstat := nstat } := by
  have stored := notifyReg_setNotify_self s { r with cons := (r.cons + 1) % 2 ^ 32, nstat := nstat }
  obtain ⟨cs, n, e, -⟩ := passEntry_binsOnly s r nstat
  rw [e]
  exact stored

theorem passEntry_mem (s : State) (r : NotifyReg) (nstat : Nat) : (s.passEntry r nstat).mem = s.mem := by
  obtain ⟨cs, n, e, -⟩ := passEntry_binsOnly s r nstat
  rw [e]
  rfl

theorem passEntry_grids (s : State) (r : NotifyReg) (nstat : Nat) : (s.passEntry r nstat).grids = s.grids := by
  obtain ⟨cs, n, e, -⟩ := passEntry_binsOnly s r nstat
  rw [e]
  rfl

/-- With timers on every node of the ring's context, no bin drains when an entry is passed (R170). -/
theorem passEntry_of_timers {s : State} {r : NotifyReg} (nstat : Nat)
    (h : ∀ c, s.ctx? (s.pageContext r.page) = some c → ∀ d ∈ c.nodes, d.t ≠ 0xFFFF) :
    s.passEntry r nstat = s.setNotify { r with cons := (r.cons + 1) % 2 ^ 32, nstat := nstat } := drainBins_of_timers h

/-- An entry that has been passed is another state than one in which it stands at the head. -/
theorem passEntry_ne {s t : State} {page reg : Nat} (nstat : Nat) (h : t.notifyReg page reg = s.notifyReg page reg) (q : State) :
    q.passEntry (s.notifyReg page reg) nstat ≠ t := by
  intro e
  have passed := notifyReg_passEntry q (s.notifyReg page reg) nstat
  rw [(notifyReg_place s page reg).1, (notifyReg_place s page reg).2, e, h] at passed
  have := congrArg NotifyReg.cons passed
  dsimp only at this
  omega

/-! ### Launch rings -/

/-- A well-formed entry without an argument image, whose STATUS is found and whose launch is decided, is passed with its code at STATUS, or stays (R52, R71). -/
theorem entryBlock_decided {s s2 s3 : State} {m : ImageRead} {r : NotifyReg} {bs : List Byte} {tr : Translation} {loc : Loc} {code : Nat}
    (well : (LaunchBlock.of (State.wordsOf bs 32)).badField (State.wordsOf bs 32) = none) (plain : (LaunchBlock.of (State.wordsOf bs 32)).args = 0)
    (loud : m.mute = false)
    (status : s.reach Config.noCore m.ctx (r.entryVa + 0x3C) true .devWrite (.image m.id) = (s2, .ok tr loc))
    (decision : (s2.dropImage m.id).decideLaunch (LaunchBlock.of (State.wordsOf bs 32)) m.ctx 0 none (List.replicate 16 0) = (s3, code)) :
    entryBlock s m r bs = if code = 1 then s else (s3.devWrite m.ctx (r.entryVa + 0x3C) tr loc (leBytes 4 code)).passEntry r r.nstat := by
  simp only [entryBlock, well, Option.isSome_none, Bool.false_eq_true, if_false, plain, if_true, entryLaunch, decideEntry, loud, status, decision]

/-- What a launch ring's head entry comes to once its block is read (R71). -/
theorem execLaunchRingEntry_read {s s1 : State} {page reg : Nat} {bs : List Byte} (offers : s.offering = false)
    (launch : (s.notifyReg page reg).record = false) (base : (s.notifyReg page reg).base ≠ 0)
    (entry : (s.notifyReg page reg).prod ≠ (s.notifyReg page reg).cons) (runs : s.scheduled (s.pageContext page) = true)
    (crews : ∀ m ∈ s.images, m.crew.isSome)
    (read : State.reachRead { s with lastId := s.lastId + 1, images := s.images ++ [newEntryImage s page reg] } Config.noCore (s.pageContext page)
      (s.notifyReg page reg).entryVa 128 0 0 .devRead (.image (s.lastId + 1)) = (s1, .ok bs)) :
    let t := s1.unpin (.image (s.lastId + 1))
    let q := entryBlock t (newEntryImage s page reg) (s.notifyReg page reg) bs
    execLaunchRingEntry page reg s = .next (if q == t then { s with pins := t.pins } else q) := by
  have waits : ¬((newEntryImage s page reg).wait ≠ .none) := fun h => h rfl
  simp only [execLaunchRingEntry, afterOffers_of_not_offering _ _ offers, launch, runs, beq_eq_false_iff_ne.2 base, beq_eq_false_iff_ne.2 entry,
    Bool.not_true, Bool.or_false, Bool.false_eq_true, if_false, openImage_new page reg crews, if_neg waits]
  simp only [newEntryImage, List.isEmpty_nil, Bool.not_true, Bool.false_eq_true, if_false] at read ⊢
  rw [read]
  rfl

/-- A read for an image changes no notify register. -/
theorem notifyReg_of_accessOnly {s r : State} (h : AccessOnly s r) (page reg : Nat) : r.notifyReg page reg = s.notifyReg page reg := by
  obtain ⟨m, d, l, n, ws, ms, cs, is, rfl⟩ := h.same
  rfl

/-- A read for an image leaves the binding of notify pages. -/
theorem pageContext_of_accessOnly {s r : State} (h : AccessOnly s r) (page : Nat) : r.pageContext page = s.pageContext page := by
  obtain ⟨m, d, l, n, ws, ms, cs, is, rfl⟩ := h.same
  rfl

/-- A context with one more record in a bin part has one more in that part (R169). -/
theorem binPart_enters_length (c : Ctx) (n part : Nat) (r : Record) (now : Nat) :
    ((enters c n part r now).binPart n part).length = (c.binPart n part).length + 1 := by
  simp [enters, Ctx.binPart]

/-- A record that makes no batch enters its bin, and nothing else happens (R169, R170). -/
theorem enterBin_of_noTrigger {s : State} {ctx n part : Nat} {c : Ctx} {d : NodeDesc} {r : Record} (fill : r.pfid = none)
    (hc : s.ctx? ctx = some c) (hd : c.nodes[n]? = some d) (quiet : NoTrigger c n part d) :
    s.enterBin ctx n part r = s.modCtx ctx (fun c => enters c n part r s.time) ∧
      (s.enterBin ctx n part r).ctx? ctx = some (enters c n part r s.time) := by
  have entered : (s.modCtx ctx (fun c => enters c n part r s.time)).ctx? ctx = some (enters c n part r s.time) := by
    rw [ctx_modCtx_self s ctx (fun c => enters c n part r s.time) (fun _ h => h), hc]
    rfl
  have few : ¬((enters c n part r s.time).binPart n part).length ≥ d.c := by
    rw [binPart_enters_length]
    have := quiet.2
    omega
  have same : s.enterBin ctx n part r = s.modCtx ctx (fun c => enters c n part r s.time) := by
    simp only [State.enterBin, fill]
    change State.trigger (s.modCtx ctx (fun c => enters c n part r s.time)) ctx n part = _
    simp only [State.trigger, entered]
    rw [show (enters c n part r s.time).nodes = c.nodes from rfl, hd]
    exact if_neg few
  exact ⟨same, same ▸ entered⟩

/-- What a record ring's head entry comes to once its block is read (R71). -/
theorem execRecordRingEntry_read {s s1 : State} {page reg : Nat} {d : NodeDesc} {bs : List Byte}
    (record : (s.notifyReg page reg).record = true) (base : (s.notifyReg page reg).base ≠ 0)
    (entry : (s.notifyReg page reg).prod ≠ (s.notifyReg page reg).cons) (runs : s.scheduled (s.pageContext page) = true)
    (node : s.node? (s.pageContext page) (s.notifyReg page reg).node = some d)
    (room : s.canAlloc (s.pageContext page) (s.notifyReg page reg).node = true) (crews : ∀ m ∈ s.images, m.crew.isSome)
    (read : State.reachRead { s with lastId := s.lastId + 1, images := s.images ++ [newEntryImage s page reg] } Config.noCore (s.pageContext page)
      (s.notifyReg page reg).entryVa (4 * d.rsize) 0 0 .devRead (.image (s.lastId + 1)) = (s1, .ok bs)) :
    execRecordRingEntry page reg s = .next (((s1.dropImage (s.lastId + 1)).enterBin (s.pageContext page) (s.notifyReg page reg).node (d.partOf 0)
      ⟨State.wordsOf bs d.rsize, none, none, none⟩).passEntry (s.notifyReg page reg) (s.notifyReg page reg).nstat) := by
  have waits : ¬((newEntryImage s page reg).wait ≠ .none) := fun h => h rfl
  simp only [execRecordRingEntry, record, runs, beq_eq_false_iff_ne.2 base, beq_eq_false_iff_ne.2 entry, Bool.not_true, Bool.or_false,
    Bool.false_eq_true, if_false, node, room, openImage_new page reg crews, if_neg waits]
  simp only [newEntryImage, Bool.false_eq_true, if_false] at read ⊢
  rw [read]

theorem ringEntries : Sys2Proof.Stmt.RingEntries := by
  constructor
  · intro s s1 s2 s3 page reg a code bs tr r ctx id b offers launch base entry runs crews read well plain free status compressed decision up
    have event := execLaunchRingEntry_read offers launch base entry runs crews read
    have decided := entryBlock_decided (m := newEntryImage s page reg) (r := r) well plain rfl status decision
    dsimp only at event
    rw [decided] at event
    have kept : free.notifyReg page reg = s.notifyReg page reg :=
      notifyReg_of_accessOnly (AccessOnly.of_read read (fun _ => nofun)) page reg
    obtain ⟨th, ts, mo, written⟩ := devWrite_pa s3 ctx (r.entryVa + 0x3C) a (leBytes 4 code) compressed up
    constructor
    · intro refused
      rw [if_neg refused, if_neg (by rw [beq_iff_eq]; exact passEntry_ne r.nstat kept _)] at event
      refine ⟨_, event, ?_, ?_, ?_, ?_⟩
      · have passed := notifyReg_passEntry (s3.devWrite ctx (r.entryVa + 0x3C) tr (.pa a) (leBytes 4 code)) r r.nstat
        rw [(notifyReg_place s page reg).1, (notifyReg_place s page reg).2] at passed
        exact congrArg NotifyReg.cons passed
      · rw [passEntry_mem]
        exact (congrArg (fun x : State => x.mem.readNat a 4) written).trans (readNat_writeBytes s3.mem a 4 code)
      · intro x hx
        rw [passEntry_mem]
        refine (congrArg (fun q : State => q.mem.read x) written).trans ?_
        dsimp only
        rw [read_writeBytes, leBytes_length, if_neg (by omega)]
      · rw [passEntry_grids]
        exact (congrArg (fun x : State => x.grids.map Grid.id) written).trans rfl
    · intro full
      rw [if_pos full, if_pos (by rw [beq_iff_eq])] at event
      exact event
  · intro s s1 page reg d bs c r ctx id record base entry runs node room crews read hc hd quiet
    have access : AccessOnly _ s1 := .of_read read (fun _ => nofun)
    have page' : s1.pageContext r.page = ctx := by
      rw [pageContext_of_accessOnly access, (notifyReg_place s page reg).1]
      rfl
    obtain ⟨enters, there⟩ := enterBin_of_noTrigger (s := s1.dropImage id) (r := ⟨State.wordsOf bs d.rsize, none, none, none⟩) rfl hc hd quiet
    set q := (s1.dropImage id).enterBin ctx r.node (d.partOf 0) ⟨State.wordsOf bs d.rsize, none, none, none⟩ with hq
    have bound : q.pageContext r.page = ctx := by
      rw [enters]
      exact page'
    have timers : ∀ x, q.ctx? (q.pageContext r.page) = some x → ∀ y ∈ x.nodes, y.t ≠ 0xFFFF := by
      intro x hx
      rw [bound, there] at hx
      cases hx
      exact quiet.1
    have event : exec (.recordRingEntry page reg) s = .next (q.passEntry r r.nstat) :=
      execRecordRingEntry_read record base entry runs node room crews read
    refine ⟨_, event, ?_, ?_⟩
    · have passed := notifyReg_passEntry q r r.nstat
      rw [(notifyReg_place s page reg).1, (notifyReg_place s page reg).2] at passed
      exact congrArg NotifyReg.cons passed
    · rw [passEntry_of_timers r.nstat timers]
      exact there

end Sys2Proof.Proofs
end

section
/-!
PROOFS. What placements can change (R54, R58 to R65): teams, threads and crews with new names come to those that stand.
-/

namespace Sys2Proof.Proofs
open Sys2Proof Sys2Proof.Machine Sys2Proof.Laws

/-- Names and retirements of some grids, in order. -/
def gridMarks (gs : List Grid) : List (Nat × Bool) := gs.map (fun g => (g.id, g.retired))

/-- Teams, threads and crews have come to those of `s`, in teams with later names; units, fills and counts of grids may differ, and nothing else. -/
structure Places (s r : State) : Prop where
  same : ∃ ts th cs us gs fs n, r = { s with
    teams := ts, threads := th, crews := cs, units := us, grids := gs, fills := fs, lastId := n }
  later : s.lastId ≤ r.lastId
  teams : ∀ x ∈ r.teams, x ∈ s.teams ∨ s.lastId < x.id
  threads : ∀ x ∈ r.threads, x ∈ s.threads ∨ s.lastId < x.id.team
  crews : ∀ x ∈ r.crews, x ∈ s.crews ∨ s.lastId < x.id.team
  grids : gridMarks r.grids = gridMarks s.grids

theorem Places.refl (s : State) : Places s s :=
  ⟨⟨_, _, _, _, _, _, _, rfl⟩, le_rfl, fun _ => .inl, fun _ => .inl, fun _ => .inl, rfl⟩

theorem Places.trans {s r q : State} (h : Places s r) (h' : Places r q) : Places s q := by
  refine ⟨?_, h.later.trans h'.later, fun x hx => ?_, fun x hx => ?_, fun x hx => ?_, h'.grids.trans h.grids⟩
  · obtain ⟨ts, th, cs, us, gs, fs, n, rfl⟩ := h.same
    obtain ⟨ts', th', cs', us', gs', fs', n', rfl⟩ := h'.same
    exact ⟨_, _, _, _, _, _, _, rfl⟩
  · exact (h'.teams x hx).elim (h.teams x) fun new => .inr (h.later.trans_lt new)
  · exact (h'.threads x hx).elim (h.threads x) fun new => .inr (h.later.trans_lt new)
  · exact (h'.crews x hx).elim (h.crews x) fun new => .inr (h.later.trans_lt new)

/-- Changes of units, and of a grid's counts, place nothing. -/
theorem Places.units (s : State) (us : List Machine.PUnit) : Places s { s with units := us } :=
  ⟨⟨_, _, _, _, _, _, _, rfl⟩, le_rfl, fun _ => .inl, fun _ => .inl, fun _ => .inl, rfl⟩

/-- A grid that keeps its name and its retirement keeps its mark. -/
theorem gridMarks_modGrid (s : State) (gid : Nat) (f : Grid → Grid) (h : ∀ g, (f g).id = g.id ∧ (f g).retired = g.retired) :
    gridMarks (s.modGrid gid f).grids = gridMarks s.grids := by
  simp only [gridMarks, State.modGrid, updWhere, List.map_map]
  refine List.map_congr_left fun g _ => ?_
  simp only [Function.comp_apply]
  split
  · rw [(h g).1, (h g).2]
  · rfl

theorem Places.modGrid (s : State) (gid : Nat) (f : Grid → Grid) (h : ∀ g, (f g).id = g.id ∧ (f g).retired = g.retired) :
    Places s (s.modGrid gid f) :=
  ⟨⟨_, _, _, _, _, _, _, rfl⟩, le_rfl, fun _ => .inl, fun _ => .inl, fun _ => .inl,
    gridMarks_modGrid s gid f h⟩

theorem Places.countUp (s : State) (gid key : Nat) : Places s (s.countUp gid key) := .modGrid s gid _ fun _ => ⟨rfl, rfl⟩

theorem Places.ite {s a b : State} {c : Prop} {_ : Decidable c} (ha : Places s a) (hb : Places s b) : Places s (if c then a else b) := by
  split
  · exact ha
  · exact hb

/-! ### A team is created -/

/-- The team that a placement creates (R54, R76, R145, R146). -/
def newTeam (s : State) (g : Grid) (role index unit core k : Nat) : Team :=
  let r := g.role role
  { id := s.lastId + 1, grid := g.id, ctx := g.ctx, role := role, index := index, unit := unit, place := .resident core, capacity := k,
    threads := r.threads, regs := r.regs, nbar := r.nbar, spadLines := r.spad, spad := [], absent := [],
    gslots := List.replicate 8 .unresolved, bars := List.replicate r.nbar (.start (members g.elected r.threads)),
    fdepth := g.fdepth, node := g.node.map Prod.fst, parkedSince := none, parkExpired := false, wake := false,
    heldReport := none, blocked := if g.node.isSome then 1 else 0 }

/-- Its threads (R54, R171, R173). -/
def newThreads (s : State) (g : Grid) (role : Nat) : List Thread :=
  (List.range (g.role role).threads).map (fun i => Thread.start ⟨s.lastId + 1, i⟩ (g.role role).entry
    (startRegs (g.node.bind (fun n => s.node? g.ctx n.1)) g.records[i]?) g.records[i]?)

/-- Crews of one team come to those that stand. -/
theorem startCrews_eq (args : List Word) (team core k : Nat) (l : List Nat) (s : State) :
    ∃ cs, l.foldl (fun s c => { s with crews := s.crews ++ [Crew.start ⟨team, c⟩ args (s.freeCrewSlot core k)] }) s =
      { s with crews := s.crews ++ cs } ∧ ∀ c ∈ cs, c.id.team = team := by
  induction l generalizing s with
  | nil => exact ⟨[], by simp only [List.foldl_nil, List.append_nil], fun _ h => absurd h List.not_mem_nil⟩
  | cons x l ih =>
    obtain ⟨cs, e, h⟩ := ih { s with crews := s.crews ++ [Crew.start ⟨team, x⟩ args (s.freeCrewSlot core k)] }
    refine ⟨Crew.start ⟨team, x⟩ args (s.freeCrewSlot core k) :: cs, ?_, ?_⟩
    · rw [List.foldl_cons, e]
      simp only [List.append_assoc, List.singleton_append]
    · exact List.forall_mem_cons.2 ⟨rfl, h⟩

/-- What creating a team does: the team, its threads and its crews come, under a new name; fills may run (R54, R186). -/
theorem createTeam_eq (s : State) (g : Grid) (role index unit core k : Nat) :
    ∃ cs fs, s.createTeam g role index unit core k = { s with
        lastId := s.lastId + 1, teams := s.teams ++ [newTeam s g role index unit core k], threads := s.threads ++ newThreads s g role,
        crews := s.crews ++ cs, fills := fs } ∧ ∀ c ∈ cs, c.id.team = s.lastId + 1 := by
  obtain ⟨cs, e, h⟩ := startCrews_eq g.args (s.lastId + 1) core k (List.range (ceilDiv (g.role role).threads 32))
    { s with lastId := s.lastId + 1, teams := s.teams ++ [newTeam s g role index unit core k], threads := s.threads ++ newThreads s g role }
  refine ⟨cs, updWhere (fun f => (g.records.filterMap Record.pfid).contains f.pfid) (fun f => { f with state := .running }) s.fills, ?_, h⟩
  exact congrArg (fun q : State => { q with
    fills := updWhere (fun f => (g.records.filterMap Record.pfid).contains f.pfid) (fun f => { f with state := .running }) q.fills }) e

theorem Places.createTeam (s : State) (g : Grid) (role index unit core k : Nat) : Places s (s.createTeam g role index unit core k) := by
  obtain ⟨cs, fs, e, hc⟩ := createTeam_eq s g role index unit core k
  rw [e]
  refine ⟨⟨_, _, _, _, _, _, _, rfl⟩, Nat.le_succ _, fun x hx => ?_, fun x hx => ?_, fun x hx => ?_, rfl⟩
  · refine (List.mem_append.1 hx).imp_right fun new => ?_
    rw [List.mem_singleton.1 new]
    exact Nat.lt_succ_self _
  · refine (List.mem_append.1 hx).imp_right fun new => ?_
    obtain ⟨i, -, rfl⟩ := List.mem_map.1 new
    exact Nat.lt_succ_self _
  · exact (List.mem_append.1 hx).imp_right fun new => (hc x new).symm ▸ Nat.lt_succ_self _

/-! ### Units are placed -/

theorem placeOn_places {s : State} {gid role ptr : Nat} {l : List Nat} {f : State → Grid → Nat → State} {r : State × Nat}
    (hf : ∀ s g c, Places s (f s g c)) (h : s.placeOn gid role ptr l f = some r) : Places s r.1 := by
  unfold State.placeOn at h
  split at h
  · cases h
  · obtain ⟨c, -, rfl⟩ := Option.map_eq_some_iff.1 h
    exact hf ..

theorem placeTeams_places {gid : Nat} {cores : List Nat} {f : State → Grid → Nat × Nat → Nat → State} (hf : ∀ s g t c, Places s (f s g t c))
    (ts : List (Nat × Nat)) : ∀ {s r : State} {ptr : Nat}, State.placeTeams gid cores f ts s ptr = some r → Places s r := by
  induction ts with
  | nil =>
    intro s r ptr h
    cases h
    exact .refl s
  | cons t ts ih =>
    intro s r ptr h
    unfold State.placeTeams at h
    split at h
    · cases h
    · rename_i g _
      obtain ⟨c, -, found⟩ := List.exists_of_findSome?_eq_some h
      exact ((hf s g t c).trans (.ite (.countUp _ gid c) (.refl _))).trans (ih found)

theorem placeUnitOn_places {s r : State} {gid u cluster : Nat} {f : State → Grid → Nat × Nat → Nat → State}
    (hf : ∀ s g t c, Places s (f s g t c)) (h : s.placeUnitOn gid u cluster f = some r) : Places s r := by
  unfold State.placeUnitOn at h
  split at h
  · cases h
  · dsimp only at h
    split at h
    · cases h
    · exact placeTeams_places hf _ h

theorem placeNext_places {s r : State} {gid : Nat} (h : s.placeNext gid = some r) : Places s r := by
  unfold State.placeNext at h
  split at h
  · cases h
  · rename_i g _
    dsimp only at h
    split at h
    · cases h
    · split at h
      · obtain ⟨x, found, rfl⟩ := Option.map_eq_some_iff.1 h
        obtain ⟨n, -, picked⟩ := Option.bind_eq_some_iff.1 found
        obtain ⟨cl, -, unit⟩ := List.mem_filterMap.1 (List.mem_of_find?_eq_some picked)
        obtain ⟨y, placed, rfl⟩ := Option.map_eq_some_iff.1 unit
        refine (placeUnitOn_places (fun _ _ _ _ => .createTeam ..) placed).trans ?_
        exact ((Places.units y _).trans (.ite (.countUp _ gid _) (.refl _))).trans (.modGrid _ gid _ fun _ => ⟨rfl, rfl⟩)
      · obtain ⟨x, placed, rfl⟩ := Option.map_eq_some_iff.1 h
        refine (placeOn_places (fun _ _ _ => .createTeam ..) placed).trans ?_
        exact (Places.ite (.countUp _ gid _) (.refl _)).trans (.modGrid _ gid _ fun _ => ⟨rfl, rfl⟩)

theorem placeGrid_places (gid n : Nat) (s : State) : Places s (State.placeGrid gid n s) := by
  induction n generalizing s with
  | zero => exact .refl s
  | succ n ih =>
    unfold State.placeGrid
    split
    · exact .refl s
    · rename_i r h
      exact (placeNext_places h).trans (ih r)

/-- A round of offers places units, and is over or stands (R65). -/
theorem offers_places (s : State) : ∃ b, Places { s with offering := b } s.offers := by
  unfold State.offers
  dsimp only
  generalize hr : s.offerOrder.foldl _ (s, false) = r
  have placed : Places s r.1 := by
    rw [← hr]
    refine List.foldlRecOn (motive := fun r : State × Bool => Places s r.1) _ _ (.refl s) fun r h x _ => ?_
    split
    · exact h
    · split
      · dsimp only
        split
        · exact h
        · exact h.trans (placeGrid_places ..)
      · exact h
  obtain ⟨⟨ts, th, cs, us, gs, fs, n, e⟩, later, teams, threads, crews, grids⟩ := placed
  exact ⟨r.2, ⟨⟨ts, th, cs, us, gs, fs, n, by rw [e]⟩, later, teams, threads, crews, grids⟩⟩

/-- A round of offers that is due, and may stand, places units (R65). -/
theorem resumeOffers_places (s : State) : ∃ b, Places { s with offering := b } s.resumeOffers := by
  unfold State.resumeOffers
  split
  · exact offers_places s
  · exact ⟨s.offering, .refl s⟩

end Sys2Proof.Proofs
end

section
/-!
PROOFS. Argument images (R467, R378): a launch takes its decision with the sixteen words of its image, or raises BAD_LAUNCH.
-/

namespace Sys2Proof.Proofs
open Sys2Proof Sys2Proof.Machine Sys2Proof.Laws Sys2Proof.Stmt

theorem Places.images {s r : State} (h : Places s r) : r.images = s.images := by
  obtain ⟨ts, th, cs, us, gs, fs, n, e⟩ := h.same
  rw [e]

/-- A launch's decision admits a grid at most, and places its units (R52, R63). -/
theorem decideLaunch_places (s : State) (b : LaunchBlock) (ctx depth : Nat) (parent : Option Nat) (args : List Word) :
    (s.decideLaunch b ctx depth parent args).1 = s ∨
      Places { s.fresh with grids := s.grids ++ [s.gridOfBlock b ctx depth parent args] } (s.decideLaunch b ctx depth parent args).1 := by
  unfold State.decideLaunch
  dsimp only
  split
  · exact .inl rfl
  · split
    · exact .inl rfl
    · split
      · exact .inl rfl
      · rename_i t placed
        exact .inr ((placeNext_places placed).trans (placeGrid_places ..))

/-- The end of a launch leaves the image reads (R378). -/
theorem finishLaunch_images (s : State) (c : CrewId) (addr : Nat) (b : LaunchBlock) (args : List Word) :
    (s.finishLaunch c addr b args).images = s.images := by
  simp only [State.finishLaunch, finishUniform_images]
  change (s.decideLaunch _ _ _ _ _).1.images = _
  rcases decideLaunch_places s b (s.ctxId c.team) (((s.gridOf c.team).map Grid.depth).getD 0 + 1) (some c.team) args with same | placed
  · exact congrArg State.images same
  · exact placed.images

/-- A launch that ends is another state than one in which its image is still to be read. -/
theorem finishLaunch_ne {t : State} {m : ImageRead} (h : m ∈ t.images) (c : CrewId) (addr : Nat) (b : LaunchBlock) (args : List Word) :
    (t.dropImage m.id).finishLaunch c addr b args ≠ t := by
  intro e
  rw [← e, finishLaunch_images] at h
  exact bne_self_eq_false m.id ▸ (List.mem_filter.1 h).2 |> Bool.false_ne_true

theorem argumentImages : Sys2Proof.Stmt.ArgumentImages := by
  intro s s1 i m cr bs found crew ready offers block runs b
  have filled : m.block.isEmpty = false := by rw [Bool.eq_false_iff]; simpa using block
  have go : ¬((m.wait ≠ .none : Bool) || m.block.isEmpty || !s.scheduled m.ctx) = true := by simp [ready, filled, runs]
  constructor
  · intro bad
    change execArgumentImageRead i s = _
    simp only [execArgumentImageRead, afterOffers_of_not_offering _ _ offers, found, if_neg go, bad, if_true, finishImage, crew]
    rfl
  · intro good read kept
    have stands : m ∈ (s1.unpin (.image m.id)).images := kept.symm ▸ List.mem_of_getElem? found
    have other := finishLaunch_ne stands cr m.reg b (State.wordsOf bs 16)
    change execArgumentImageRead i s = _
    simp only [execArgumentImageRead, afterOffers_of_not_offering _ _ offers, found, if_neg go, good, Bool.false_eq_true, if_false, crew,
      Option.map_some, Option.getD_some]
    simp only [b] at read
    simp only [read, finishImage, crew]
    rw [if_neg (by rw [beq_iff_eq]; exact other)]
    rfl

end Sys2Proof.Proofs
end

section
/-!
PROOFS. Batches (R170, R171, R173): a bin part forms a batch of its oldest records when its timer ends, and a formed batch becomes a grid of one team.
-/

namespace Sys2Proof.Proofs
open Sys2Proof Sys2Proof.Machine Sys2Proof.Laws Sys2Proof.Stmt

/-! ### The oldest records of a bin part leave it -/

/-- One turn of the walk over a bin that takes the `k` oldest entries of a part out. -/
def takeOldest (p : BinEntry → Bool) (k : Nat) (r : List BinEntry × Nat) (e : BinEntry) : List BinEntry × Nat :=
  if p e && decide (r.2 < k) then (r.1, r.2 + 1) else (r.1 ++ [e], r.2)

/-- Of the part, the `k` oldest are gone. -/
theorem filter_takeOldest_same (p : BinEntry → Bool) (k : Nat) (l : List BinEntry) (r : List BinEntry × Nat) :
    (l.foldl (takeOldest p k) r).1.filter p = r.1.filter p ++ (l.filter p).drop (k - r.2) := by
  induction l generalizing r with
  | nil => simp
  | cons e l ih =>
    rw [List.foldl_cons, ih, takeOldest]
    by_cases part : p e = true
    · by_cases more : r.2 < k
      · have step : k - r.2 = k - (r.2 + 1) + 1 := by omega
        simp [part, more, step]
      · have done : k - r.2 = 0 := by omega
        simp [part, more, done]
    · simp [part]

/-- Entries of other parts stay. -/
theorem filter_takeOldest_other {p q : BinEntry → Bool} (h : ∀ e, q e = true → p e = false) (k : Nat) (l : List BinEntry) (r : List BinEntry × Nat) :
    (l.foldl (takeOldest p k) r).1.filter q = r.1.filter q ++ l.filter q := by
  induction l generalizing r with
  | nil => simp
  | cons e l ih =>
    rw [List.foldl_cons, ih, takeOldest]
    by_cases other : q e = true
    · simp [h e other, other]
    · by_cases gone : (p e && decide (r.2 < k)) = true
      · simp [gone, other]
      · simp [gone, other]

/-- What a context becomes when a part that holds a record forms a batch (R170). -/
theorem ctx_formBatch {c : Ctx} {n part k : Nat} (stamp : Nat) (h : (c.binPart n part).take k ≠ []) :
    c.formBatch n part k stamp = { c with
      bins := (c.bins.foldl (takeOldest (fun e => e.node == n && e.part == part) k) ([], 0)).1
      batches := c.batches ++ [⟨n, part, ((c.binPart n part).take k).map BinEntry.record, stamp⟩] } := by
  unfold Ctx.formBatch
  rw [if_neg (by simpa using h)]
  rfl

@[simp] theorem formBatch_id (c : Ctx) (n part k stamp : Nat) : (c.formBatch n part k stamp).id = c.id := by
  unfold Ctx.formBatch
  dsimp only
  split <;> rfl

theorem binPart_formBatch_same {c : Ctx} {n part k : Nat} (stamp : Nat) (h : (c.binPart n part).take k ≠ []) :
    (c.formBatch n part k stamp).binPart n part = (c.binPart n part).drop k := by
  rw [ctx_formBatch stamp h]
  exact filter_takeOldest_same (fun e => e.node == n && e.part == part) k c.bins ([], 0)

theorem binPart_formBatch_other {c : Ctx} {n part k : Nat} (stamp : Nat) (h : (c.binPart n part).take k ≠ []) {m p : Nat} (other : (m, p) ≠ (n, part)) :
    (c.formBatch n part k stamp).binPart m p = c.binPart m p := by
  rw [ctx_formBatch stamp h]
  refine filter_takeOldest_other (fun e he => ?_) k c.bins ([], 0)
  simp only [Bool.and_eq_true, beq_iff_eq] at he
  rw [Bool.eq_false_iff]
  simp only [Bool.and_eq_true, beq_iff_eq, ne_eq]
  exact fun same => other (by rw [← he.1, ← he.2, same.1, same.2])

/-- A part whose oldest record has waited long enough forms a batch (R170). -/
theorem binTimer_batches {s : State} {c : Ctx} {n part : Nat} {d : NodeDesc} {e : BinEntry} {es : List BinEntry} (hc : s.ctx? c.id = some c)
    (hd : c.nodes[n]? = some d) (bin : c.binPart n part = e :: es) (on : s.power = .active) (timer : d.t ≠ 0xFFFF)
    (due : e.entered + d.t * 100 * 10 ^ 6 ≤ s.time) :
    exec (.binTimer c.id n part) s = .next (s.fresh.modCtx c.id (fun c => c.formBatch n part d.c (s.lastId + 1))) := by
  have node : s.node? c.id n = some d := by rw [State.node?, hc, Option.bind_some, hd]
  have due' : e.entered + d.t * 100000000 ≤ s.time := by
    have unit : 100 * 10 ^ 6 = 100000000 := by norm_num
    rwa [Nat.mul_assoc, unit] at due
  change execBinTimer c.id n part s = _
  simp only [execBinTimer, hc, node, bin, List.head?_cons, on, timer, due', ne_eq, not_false_eq_true, and_self, if_true, State.formBatch,
    List.isEmpty_cons, Bool.false_eq_true, if_false]

/-! ### A batch becomes a grid -/

/-- The arguments of a team on a core go to its crews, and the team may issue (R171). -/
theorem giveArgs_resident {s : State} {g : Grid} {tm : Team} {core : Nat} (args : List Word) (first : s.teams.find? (fun t => t.grid == g.id) = some tm)
    (named : s.team? tm.id = some tm) (on : tm.place = .resident core) :
    s.giveArgs g args = { s with
      grids := updWhere (fun x => x.id == g.id) (fun x => { x with args := args }) s.grids
      teams := updWhere (fun t => t.id == tm.id) (fun t => { t with blocked := t.blocked - 1 }) s.teams
      crews := updWhere (fun c => c.id.team == tm.id) (fun c => { c with k := args ++ c.k.drop 16 }) s.crews } := by
  have lowered : State.team? { s with
      grids := updWhere (fun x => x.id == g.id) (fun x => { x with args := args }) s.grids
      teams := updWhere (fun t => t.id == tm.id) (fun t => { t with blocked := t.blocked - 1 }) s.teams
      crews := updWhere (fun c => c.id.team == tm.id) (fun c => { c with k := args ++ c.k.drop 16 }) s.crews } tm.id =
      some { tm with blocked := tm.blocked - 1 } := by
    refine (team_modTeam_self s tm.id (fun t => { t with blocked := t.blocked - 1 }) fun _ h => h).trans ?_
    rw [named, Option.map_some]
  simp only [State.giveArgs, first, Option.map_some, Option.getD_some, State.modGrid, State.modTeam, lowered, Option.bind_some, State.imageBase?, on]

/-- The first of some units with a mark that none before it has is the one that was put at the end. -/
theorem find?_append_new {α : Type} (l : List α) (x : α) (p : α → Bool) (old : ∀ y ∈ l, p y = false) (new : p x = true) :
    (l ++ [x]).find? p = some x := by
  have none : l.find? p = none := List.find?_eq_none.2 fun y hy => by simp [old y hy]
  simp [none, new]

theorem resumeOffers_of_not_offering {s : State} (h : s.offering = false) : s.resumeOffers = s := by simp [State.resumeOffers, h]

/-- The state in which a batch's grid has been admitted and the batch has left its context (R171). -/
def admitBatch (s : State) (c : Ctx) (i core : Nat) (b : Batch) (d : NodeDesc) : State :=
  { s.fresh.modCtx c.id (fun c => { c with
      batches := c.batches.take i ++ c.batches.drop (i + 1), counts := countBatch b.node core c.counts }) with
    grids := s.grids ++ [batchGrid (s.lastId + 1) c.id d b] }

/-- The admitted grid has a name of its own. -/
theorem admitBatch_grid {s : State} (c : Ctx) (i core : Nat) (b : Batch) (d : NodeDesc) (old : ∀ g ∈ s.grids, g.id ≤ s.lastId) :
    (admitBatch s c i core b d).grid? (s.lastId + 1) = some (batchGrid (s.lastId + 1) c.id d b) :=
  find?_append_new s.grids (batchGrid (s.lastId + 1) c.id d b) (fun g => g.id == s.lastId + 1)
    (fun y hy => beq_false_of_ne (by have := old y hy; omega)) (beq_self_eq_true _)

/-- The batch has left its context. -/
theorem admitBatch_batches {s : State} {c : Ctx} (i core : Nat) (b : Batch) (d : NodeDesc) (hc : s.ctx? c.id = some c) :
    ((admitBatch s c i core b d).ctx? c.id).map Ctx.batches = some (without c.batches i) := by
  have left := ctx_modCtx_self s.fresh c.id (fun c => { c with
    batches := c.batches.take i ++ c.batches.drop (i + 1), counts := countBatch b.node core c.counts }) fun _ h => h
  rw [show s.fresh.ctx? c.id = some c from hc] at left
  exact congrArg (Option.map Ctx.batches) left

/-- The team that a batch starts. -/
def batchTeam (s : State) (c : Ctx) (i core k : Nat) (b : Batch) (d : NodeDesc) : Team :=
  newTeam (admitBatch s c i core b d) (batchGrid (s.lastId + 1) c.id d b) 0 0 0 core k

/-- BATCH_LAUNCH of a batch that has its turn and takes no argument image (R171): its grid is admitted, its team created, and the team may issue. -/
theorem batchLaunch_admits {s : State} {c : Ctx} {i core k : Nat} {b : Batch} {d : NodeDesc} (hc : s.ctx? c.id = some c)
    (hb : c.batches[i]? = some b) (hd : c.nodes[b.node]? = some d) (place : batchPlace s c.id b = some (core, k))
    (turn : batchTurn s c.id i = true) (args : d.args = 0) (offers : s.offering = false) :
    exec (.batchLaunch c.id i) s = .next (State.resumeOffers
      ((((admitBatch s c i core b d).createTeam (batchGrid (s.lastId + 1) c.id d b) 0 0 0 core k).modGrid (s.lastId + 1)
        (fun g => { g with records := [] })).giveArgs (batchGrid (s.lastId + 1) c.id d b) (List.replicate 16 0))) := by
  have node : s.node? c.id b.node = some d := by rw [State.node?, hc, Option.bind_some, hd]
  change execBatchLaunch c.id i s = _
  simp only [execBatchLaunch, resumeOffers_of_not_offering offers, hc, Option.bind_some, hb, node, place, turn, Bool.not_true, Bool.false_eq_true,
    if_false, State.readBatchArgs, args, if_true]
  rfl

/-- Where every name in use is at most the last one given, a batch's team is the only one of its grid, and it may issue at once (R171). -/
theorem batchLaunch_runs {s : State} {c : Ctx} {i core k : Nat} {b : Batch} {d : NodeDesc} (hc : s.ctx? c.id = some c)
    (hb : c.batches[i]? = some b) (hd : c.nodes[b.node]? = some d) (place : batchPlace s c.id b = some (core, k))
    (turn : batchTurn s c.id i = true) (args : d.args = 0) (offers : s.offering = false) (old : ∀ t ∈ s.teams, t.grid ≤ s.lastId ∧ t.id ≤ s.lastId) :
    ∃ q : State, exec (.batchLaunch c.id i) s = .next q ∧
      q.team? (s.lastId + 2) = some { batchTeam s c i core k b d with blocked := 0 } ∧
      q.grids = ((((admitBatch s c i core b d).modGrid (s.lastId + 1) (fun g => { g with records := [] })).modGrid (s.lastId + 1)
        (fun g => { g with args := List.replicate 16 0 }))).grids ∧
      q.ctxs = (admitBatch s c i core b d).ctxs ∧
      q.threads = s.threads ++ newThreads (admitBatch s c i core b d) (batchGrid (s.lastId + 1) c.id d b) 0 := by
  have alone := find?_append_new s.teams (batchTeam s c i core k b d) (fun t => t.grid == s.lastId + 1)
    (fun y hy => beq_false_of_ne (by have := (old y hy).1; omega)) (beq_self_eq_true _)
  have named := find?_append_new s.teams (batchTeam s c i core k b d) (fun t => t.id == s.lastId + 2)
    (fun y hy => beq_false_of_ne (by have := (old y hy).2; omega)) (beq_self_eq_true _)
  have event := batchLaunch_admits hc hb hd place turn args offers
  obtain ⟨cs, fs, created, -⟩ := createTeam_eq (admitBatch s c i core b d) (batchGrid (s.lastId + 1) c.id d b) 0 0 0 core k
  have given := fun (q : State) (teams : q.teams = s.teams ++ [batchTeam s c i core k b d]) =>
    giveArgs_resident (s := q) (g := batchGrid (s.lastId + 1) c.id d b) (tm := batchTeam s c i core k b d) (core := core) (List.replicate 16 0)
      (by rw [teams]; exact alone) (by rw [State.team?, teams]; exact named) rfl
  rw [created, given, resumeOffers_of_not_offering] at event
  · refine ⟨_, event, ?_, rfl, rfl, rfl⟩
    refine (team_modTeam_self _ (s.lastId + 2) (fun t => { t with blocked := t.blocked - 1 }) fun _ h => h).trans ?_
    exact congrArg (Option.map _) named
  · exact offers
  · rfl

theorem batches : Sys2Proof.Stmt.Batches := by
  constructor
  · intro s c n part d e es hc hd bin on timer due least
    have some_ : (c.binPart n part).take d.c ≠ [] := by
      obtain ⟨m, hm⟩ : ∃ m, d.c = m + 1 := ⟨d.c - 1, by omega⟩
      simp [bin, hm]
    have formed := ctx_formBatch (s.lastId + 1) some_
    refine ⟨_, c.formBatch n part d.c (s.lastId + 1), binTimer_batches hc hd bin on timer due, rfl, ⟨?_, fun j hj => ?_⟩, ?_, ?_, fun m p other => ?_⟩
    · rw [ctx_modCtx_self s.fresh c.id (fun c => c.formBatch n part d.c (s.lastId + 1)) fun x hx => (formBatch_id ..).trans hx]
      exact (congrArg (Option.map _) hc).trans rfl
    · exact ctx_modCtx_of_ne s.fresh c.id j (fun c => c.formBatch n part d.c (s.lastId + 1)) (fun x hx => (formBatch_id ..).trans hx) hj
    · rw [formed, bin]
    · rw [binPart_formBatch_same _ some_, bin]
    · exact binPart_formBatch_other _ some_ other
  · intro s c i core k b d hc hb hd place turn args offers old grids
    obtain ⟨q, event, team, grids', ctxs, threads⟩ := batchLaunch_runs hc hb hd place turn args offers old
    refine ⟨q, _, event, team, rfl, rfl, rfl, rfl, rfl, rfl, rfl, rfl, ?_, ?_, fun j r hj => ?_⟩
    · rw [State.grid?, grids']
      refine (congrArg (Option.map Grid.prio) (grid_modGrid_self _ (s.lastId + 1) (fun g => { g with args := List.replicate 16 0 }) fun _ h => h)).trans ?_
      rw [grid_modGrid_self _ (s.lastId + 1) (fun g => { g with records := [] }) fun _ h => h, admitBatch_grid c i core b d grids]
      rfl
    · rw [State.ctx?, ctxs]
      exact admitBatch_batches i core b d hc
    · have short : j < b.records.length := (List.getElem?_eq_some_iff.1 hj).1
      refine ⟨_, threads ▸ List.mem_append_right _ (List.mem_map.2 ⟨j, List.mem_range.2 short, rfl⟩), rfl, rfl, hj, rfl⟩

end Sys2Proof.Proofs
end

section
/-!
PROOFS. TEAM_RETIRE (R41): a team's structures go and do not come back, and its grid retires with its last team.
-/

namespace Sys2Proof.Proofs
open Sys2Proof Sys2Proof.Machine Sys2Proof.Laws Sys2Proof.Stmt

/-! ### What keeps every name -/

/-- Teams and threads keep their names, crews and banks stay, grids keep their names and retirements, and no name is given twice. -/
structure NamesKept (s r : State) : Prop where
  teams : r.teams.map Team.id = s.teams.map Team.id
  threads : r.threads.map Thread.id = s.threads.map Thread.id
  crews : r.crews = s.crews
  banks : r.banks = s.banks
  grids : gridMarks r.grids = gridMarks s.grids
  later : s.lastId ≤ r.lastId

theorem NamesKept.refl (s : State) : NamesKept s s := ⟨rfl, rfl, rfl, rfl, rfl, le_rfl⟩

theorem NamesKept.trans {s r q : State} (h : NamesKept s r) (h' : NamesKept r q) : NamesKept s q :=
  ⟨h'.teams.trans h.teams, h'.threads.trans h.threads, h'.crews.trans h.crews, h'.banks.trans h.banks, h'.grids.trans h.grids, h.later.trans h'.later⟩

theorem BinsOnly.namesKept {s r : State} (h : BinsOnly s r) : NamesKept s r := by
  obtain ⟨cs, n, rfl, up⟩ := h
  exact ⟨rfl, rfl, rfl, rfl, rfl, up⟩

theorem AccessOnly.namesKept {s r : State} (h : AccessOnly s r) : NamesKept s r := by
  obtain ⟨m, d, l, n, ws, ms, cs, is, rfl⟩ := h.same
  exact ⟨rfl, rfl, rfl, rfl, rfl, le_rfl⟩

theorem devWrite_namesKept (s : State) (ctx va : Nat) (tr : Translation) (l : Loc) (bs : List Byte) : NamesKept s (s.devWrite ctx va tr l bs) := by
  have wakes := devWrite_wakes s ctx va tr l bs
  obtain ⟨m, d, ev, th, ts, mo, f, cs, is, ls, e, -⟩ := devWrite_eq s ctx va tr l bs
  exact ⟨wakes.team_names, wakes.thread_names, by rw [e], by rw [e], by rw [e], by rw [e]⟩

theorem escRecord_namesKept (s : State) (ctx : Nat) (r : EscRecord) : NamesKept s (s.escRecord ctx r) := by
  obtain ⟨m, d, cs, is, e, -⟩ := escRecord_eq s ctx r
  rw [e]
  exact ⟨rfl, rfl, rfl, rfl, rfl, le_rfl⟩

/-- The DONE store is a write, a wait or an escalation record (R55). -/
theorem storeDone_namesKept (s : State) (g : Grid) : NamesKept s (s.storeDone g) := by
  have reached := (reach_accessOnly s Config.noCore g.ctx g.done true .devWrite (who := .done g.id) fun _ => nofun).namesKept
  unfold State.storeDone
  split
  · exact .refl s
  · split
    · rename_i e
      rw [e] at reached
      exact reached.trans (devWrite_namesKept ..)
    · rename_i e
      rwa [e] at reached
    · rename_i e
      rw [e] at reached
      exact reached.trans (escRecord_namesKept ..)

/-! ### Teams that keep only their record -/

/-- Only the places of teams differ. -/
structure PlacesOnly (s r : State) : Prop where
  same : ∃ ts, r = { s with teams := ts } ∧ ts.map (fun t => (t.id, t.grid)) = s.teams.map (fun t => (t.id, t.grid))

theorem PlacesOnly.refl (s : State) : PlacesOnly s s := ⟨⟨_, rfl, rfl⟩⟩

theorem PlacesOnly.trans {s r q : State} (h : PlacesOnly s r) (h' : PlacesOnly r q) : PlacesOnly s q := by
  obtain ⟨ts, rfl, e⟩ := h.same
  obtain ⟨ts', rfl, e'⟩ := h'.same
  exact ⟨⟨ts', rfl, e'.trans e⟩⟩

theorem PlacesOnly.modTeam (s : State) (n : Nat) (f : Team → Team) (h : ∀ t, (f t).id = t.id ∧ (f t).grid = t.grid) : PlacesOnly s (s.modTeam n f) := by
  refine ⟨⟨_, rfl, ?_⟩⟩
  simp only [updWhere, List.map_map]
  refine List.map_congr_left fun t _ => ?_
  simp only [Function.comp_apply]
  split
  · rw [(h t).1, (h t).2]
  · rfl

/-- Teams that wait for their child grids alone move to the table of records (R40). -/
theorem settleRetained_placesOnly (s : State) : PlacesOnly s s.settleRetained := by
  unfold State.settleRetained
  refine List.foldlRecOn (motive := fun r => PlacesOnly s r) _ _ (.refl s) fun r h t _ => ?_
  split
  · split
    · exact h.trans (.modTeam r t.id _ fun _ => ⟨rfl, rfl⟩)
    · exact h
  · exact h

theorem PlacesOnly.namesKept {s r : State} (h : PlacesOnly s r) : NamesKept s r := by
  obtain ⟨ts, rfl, e⟩ := h.same
  have names := congrArg (List.map Prod.fst) e
  simp only [List.map_map, Function.comp_def] at names
  exact ⟨names, rfl, rfl, rfl, rfl, le_rfl⟩

/-- A grid without teams stays without. -/
theorem PlacesOnly.no_team {s r : State} (h : PlacesOnly s r) {g : Nat} (none : ∀ x ∈ s.teams, x.grid ≠ g) : ∀ x ∈ r.teams, x.grid ≠ g := by
  obtain ⟨ts, rfl, e⟩ := h.same
  intro x hx
  have pair : (x.id, x.grid) ∈ s.teams.map (fun t => (t.id, t.grid)) := e ▸ List.mem_map_of_mem hx
  obtain ⟨y, hy, same⟩ := List.mem_map.1 pair
  have := none y hy
  rwa [(Prod.mk.inj same).2] at this

/-! ### A team that is gone stays gone -/

/-- No team of the name is left, no thread and no crew of it, and no bank that it holds; the name has been given. -/
structure TeamGone (n : Nat) (s : State) : Prop where
  teams : ∀ x ∈ s.teams, x.id ≠ n
  threads : ∀ t ∈ s.threads, t.id.team ≠ n
  crews : ∀ c ∈ s.crews, c.id.team ≠ n
  banks : ∀ b ∈ s.banks, b.team ≠ some n
  given : n ≤ s.lastId

theorem TeamGone.of_namesKept {n : Nat} {s r : State} (h : TeamGone n s) (kept : NamesKept s r) : TeamGone n r := by
  refine ⟨fun x hx => ?_, fun t ht => ?_, kept.crews.symm ▸ h.crews, kept.banks.symm ▸ h.banks, h.given.trans kept.later⟩
  · obtain ⟨y, hy, same⟩ := List.mem_map.1 (kept.teams ▸ List.mem_map_of_mem hx : x.id ∈ s.teams.map Team.id)
    exact same ▸ h.teams y hy
  · obtain ⟨y, hy, same⟩ := List.mem_map.1 (kept.threads ▸ List.mem_map_of_mem ht : t.id ∈ s.threads.map Thread.id)
    exact same ▸ h.threads y hy

/-- Placements give later names. -/
theorem TeamGone.of_places {n : Nat} {s r : State} (h : TeamGone n s) (placed : Places s r) : TeamGone n r := by
  have later : ∀ m, s.lastId < m → m ≠ n := fun m hm => (h.given.trans_lt hm).ne'
  refine ⟨fun x hx => (placed.teams x hx).elim (h.teams x) (later _), fun x hx => (placed.threads x hx).elim (h.threads x) (later _),
    fun x hx => (placed.crews x hx).elim (h.crews x) (later _), ?_, h.given.trans placed.later⟩
  obtain ⟨ts, th, cs, us, gs, fs, m, e⟩ := placed.same
  rw [e]
  exact h.banks

/-- A team that is removed is gone (R41, R231). -/
theorem removeTeam_gone {s : State} (tm : Team) (given : tm.id ≤ s.lastId) : TeamGone tm.id (s.removeTeam tm) := by
  have gone : TeamGone tm.id { s with
      teams := s.teams.filter (fun x => x.id != tm.id), threads := s.threads.filter (fun x => x.id.team != tm.id)
      crews := s.crews.filter (fun x => x.id.team != tm.id), commits := s.commits.filter (fun w => w.crew.team != tm.id)
      banks := State.freeBanks (fun n => n == tm.id) s.banks } := by
    refine ⟨fun x hx => by simpa using (List.mem_filter.1 hx).2, fun x hx => by simpa using (List.mem_filter.1 hx).2,
      fun x hx => by simpa using (List.mem_filter.1 hx).2, fun b hb => ?_, given⟩
    obtain ⟨y, -, rfl⟩ := List.mem_map.1 hb
    cases y.team with
    | none => simp
    | some m =>
      by_cases own : m = tm.id
      · simp [own]
      · simp [own]
  unfold State.removeTeam
  dsimp only
  split
  · exact gone
  · exact ⟨gone.teams, gone.threads, gone.crews, gone.banks, given⟩

theorem removeTeam_grids (s : State) (tm : Team) : (s.removeTeam tm).grids = s.grids := by
  unfold State.removeTeam
  dsimp only
  split <;> rfl

theorem removeTeam_teams (s : State) (tm : Team) : (s.removeTeam tm).teams = s.teams.filter (fun x => x.id != tm.id) := by
  unfold State.removeTeam
  dsimp only
  split <;> rfl

/-! ### The grid retires with its last team -/

/-- Retirement is a matter of the grids' marks. -/
theorem grid_retired_of_marks {s r : State} (h : gridMarks r.grids = gridMarks s.grids) (i : Nat) :
    (r.grid? i).map Grid.retired = (s.grid? i).map Grid.retired := by
  have marked : ∀ q : State, (q.grid? i).map Grid.retired = ((gridMarks q.grids).find? (fun m => m.1 == i)).map Prod.snd := fun q => by
    simp only [State.grid?, gridMarks, List.find?_map, Option.map_map, Function.comp_def]
  rw [marked, marked, h]

/-- A grid that has retired (R41). -/
def retiredGrid (g : Grid) : Grid := { g with retired := true, bars := [], records := [] }

/-- A grid that retires has retired; nothing else loses its name (R41). -/
theorem retireGrid_namesKept (s : State) (g : Grid) :
    NamesKept (s.modGrid g.id retiredGrid) (s.retireGrid g) := by
  unfold State.retireGrid
  refine NamesKept.trans ?_ ((storeDone_namesKept _ g).trans (settleRetained_placesOnly _).namesKept)
  exact ⟨rfl, rfl, rfl, rfl, rfl, le_rfl⟩

/-- The grid of a team that has gone retires, where no team is left and no unit is to come (R41). -/
def retireIfDone (s : State) (gid : Nat) : State :=
  match s.grid? gid with
  | none => s
  | some g => if s.gridDone g && !g.retired then s.retireGrid g else s

theorem retireIfDone_gone {s : State} {n : Nat} (gid : Nat) (h : TeamGone n s) : TeamGone n (retireIfDone s gid) := by
  unfold retireIfDone
  split
  · exact h
  · rename_i g _
    split
    · exact TeamGone.of_namesKept (s := s.modGrid g.id retiredGrid) ⟨h.teams, h.threads, h.crews, h.banks, h.given⟩ (retireGrid_namesKept s g)
    · exact h

theorem retireIfDone_retired {s : State} {gid : Nat} {g : Grid} (found : s.grid? gid = some g) (done : s.gridDone g = true) :
    ((retireIfDone s gid).grid? gid).map Grid.retired = some true := by
  have name := grid_name found
  simp only [retireIfDone, found, done, Bool.true_and]
  by_cases already : g.retired = true
  · simp [already, found]
  · rw [if_pos (by simpa using already), grid_retired_of_marks (retireGrid_namesKept s g).grids, name,
      grid_modGrid_self s gid retiredGrid fun _ h => h, found]
    rfl

/-- A team that holds no byte below device reach goes, its grid with it where that is done, and bins may drain (R41, R170). -/
theorem retireTeam_eq {s : State} {tm : Team} (clean : s.holdsBytes tm.id = false) :
    s.retireTeam tm = { (retireIfDone (s.removeTeam tm).settleRetained tm.grid).drainBins tm.ctx with offering := true } := by
  simp only [State.retireTeam, clean, Bool.false_eq_true, if_false]
  rfl

/-- What follows the end of a team leaves names and retirements: bins that drain, and a round of offers (R65, R170). -/
theorem afterRetirement {s : State} {n ctx gid : Nat} (gone : TeamGone n s) :
    TeamGone n (State.resumeOffers { s.drainBins ctx with offering := true }) ∧
      ((State.resumeOffers { s.drainBins ctx with offering := true }).grid? gid).map Grid.retired = (s.grid? gid).map Grid.retired := by
  obtain ⟨b, placed⟩ := resumeOffers_places { s.drainBins ctx with offering := true }
  have kept := (drainBins_binsOnly s ctx).namesKept
  have drained : NamesKept s { s.drainBins ctx with offering := b } := ⟨kept.teams, kept.threads, kept.crews, kept.banks, kept.grids, kept.later⟩
  exact ⟨(gone.of_namesKept drained).of_places placed, grid_retired_of_marks (placed.grids.trans drained.grids) gid⟩

/-- A team without live threads, engine commands, unacknowledged operations and live child grids can retire (R41). -/
theorem canRetire_of {s : State} {tm : Team} {core : Nat} (place : tm.place = .draining core) (free : tm.blocked = 0)
    (queues : ∀ c ∈ s.cmds, c.team ≠ tm.id) (acks : ∀ c ∈ s.crews, c.id.team = tm.id → c.unack = 0)
    (children : ∀ g ∈ s.grids, g.parent = some tm.id → g.retired = true) : s.canRetire tm = true := by
  have exited : s.allExited tm = true := by rw [State.allExited, place]
  have drained : s.queuesDrained tm.id = true := by simpa [State.queuesDrained] using queues
  have acked : (s.crewsOf tm.id).all (fun c => c.unack == 0) = true := by simpa [State.crewsOf, imp_iff_not_or] using acks
  have childless : s.hasChildren tm.id = false := by simpa [State.hasChildren] using children
  simp [State.canRetire, exited, free, drained, acked, childless]

/-- No crew of the team authors a byte below device reach (R41). -/
theorem holdsBytes_of {s : State} {n : Nat} (h : ∀ b ∈ s.buffers, ∀ c, b.author = .crew c → c.team ≠ n) : s.holdsBytes n = false := by
  rw [State.holdsBytes, List.any_eq_false]
  intro b hb
  cases author : b.author with
  | crew c => simpa [author] using h b hb c author
  | unit => simp

theorem retirement : Sys2Proof.Stmt.Retirement := by
  intro s tm core team place free on queues acks children bytes given
  have event : exec (.teamRetire tm.id) s = .next (s.retireTeam tm).resumeOffers := by
    change execTeamRetire tm.id s = _
    simp only [execTeamRetire, whenOn, on, if_true, team, canRetire_of place free queues acks children]
  rw [retireTeam_eq (holdsBytes_of bytes)] at event
  have settled := settleRetained_placesOnly (s.removeTeam tm)
  have gone := retireIfDone_gone tm.grid ((removeTeam_gone tm given).of_namesKept settled.namesKept)
  obtain ⟨⟨teams, threads, crews, banks, -⟩, -⟩ := afterRetirement (ctx := tm.ctx) (gid := tm.grid) gone
  refine ⟨_, event, teams, threads, crews, banks, fun g hg placed last => ?_⟩
  have none : ∀ x ∈ (s.removeTeam tm).teams, x.grid ≠ tm.grid := by
    rw [removeTeam_teams]
    intro x hx same
    obtain ⟨there, other⟩ := List.mem_filter.1 hx
    simp [last x there same] at other
  have found : (s.removeTeam tm).settleRetained.grid? tm.grid = some g := by
    obtain ⟨ts, e, -⟩ := settled.same
    rw [e]
    exact (congrArg (List.find? _) (removeTeam_grids s tm)).trans hg
  have done : (s.removeTeam tm).settleRetained.gridDone g = true := by
    have left := settled.no_team none
    simpa [State.gridDone, placed, grid_name hg] using left
  rw [(afterRetirement gone).2, grid_name hg]
  exact retireIfDone_retired found done

/-- Settles O54: notify registers, ring entries, argument images, batches and retirement, each of its own. -/
theorem workDistribution : Obligations.WorkDistribution := ⟨notifyRegisters, ringEntries, argumentImages, batches, retirement⟩

end Sys2Proof.Proofs
end

section
/-!
PROOFS. A launch by a crew (R49 to R54, R378): its checks pass, its decision falls, and the code of the decision stands at STATUS.
-/

namespace Sys2Proof.Proofs
open Sys2Proof Sys2Proof.Machine Sys2Proof.Laws Sys2Proof.Stmt

/-- A uniform instruction that ends with nothing in focus leaves the crew where the statements say it is next (R26). -/
theorem finishUniform_eq_uniNext (s : State) (c : CrewId) (n : Nat) (idle : s.cur = .idle) :
    s.finishUniform c n = uniNext s c (after n) id := by
  unfold State.finishUniform uniNext
  simp only [updWhere_eq_map, Bool.and_eq_true, beq_iff_eq, ← idle]
  rfl

/-- A byte of a number, the first the least significant (R4). -/
theorem leBytes_getD (n x i : Nat) (h : i < n) : (leBytes n x).getD i 0 = BitVec.ofNat 8 (x / 2 ^ (8 * i)) := by
  induction n generalizing x i with
  | zero => omega
  | succ n ih =>
    cases i with
    | zero => simp [leBytes]
    | succ i =>
      have shift : 2 ^ (8 * (i + 1)) = 0x100 * 2 ^ (8 * i) := by rw [Nat.mul_succ, Nat.add_comm, Nat.pow_add]
      rw [leBytes, List.getD_cons_succ, ih _ _ (by omega), Nat.div_div_eq_div_mul, shift]

/-- A write to a team's scratchpad changes its bytes there, if the team is on the device, and no other byte. -/
theorem spadByte_spadWrite (s : State) (i a : Nat) (bs : List Byte) (team off : Nat) :
    spadByte (s.spadWrite i a bs) team off =
      if team = i ∧ a ≤ off ∧ off < a + bs.length then (if (s.team? team).isSome then bs.getD (off - a) 0 else 0)
      else spadByte s team off := by
  unfold spadByte State.spadWrite
  by_cases same : team = i
  · subst same
    rw [team_modTeam_self s team _ (by exact fun _ h => h)]
    cases s.team? team with
    | none => simp
    | some t => simp [read_writeBytes]
  · rw [team_modTeam_of_ne s i team _ (by exact fun _ h => h) same, if_neg (fun h => same h.1)]

/-- A run of bytes that is present has no absent line (R78). -/
theorem absentLine?_of_spadPresent {s : State} {team off n : Nat} (h : s.spadPresent team off n = true) :
    s.absentLine? team off n = none := by
  unfold State.spadPresent at h
  unfold State.absentLine?
  cases found : s.team? team with
  | none => rfl
  | some t => simpa [found] using h

/-- With no reduction of the crew outstanding, its scratchpad access is not held up (R132). -/
theorem withReds_of_noSpadReds {s : State} {c : CrewId} (h : NoSpadReds s c) (f : State → State) : withReds s c f = f s := by
  have free : ∀ r ∈ s.reds, (r.scope == .team && r.crews.contains c) = false := fun r hr => by
    simpa using h r hr
  have empty : spadReds s c = [] := List.filter_eq_nil_iff.2 fun r hr => by rw [free r hr]; exact Bool.false_ne_true
  have all : s.reds.filter (fun r => !(r.scope == .team && r.crews.contains c)) = s.reds :=
    List.filter_eq_self.2 fun r hr => by rw [free r hr]; rfl
  have stays : performSpadReds s c = s := by rw [performSpadReds, empty, all]; rfl
  simp [withReds, empty, stays]

/-- A launch whose checks pass and that names no argument image takes its decision at once (R378). -/
theorem launchCrew_eq {s : State} {c : Crew} {tm : Team} {g : Grid} {addr : Nat} (first : c.id.crew = 0)
    (team : s.team? c.id.team = some tm) (grid : s.grid? tm.grid = some g) (depth : g.depth < 10) (aligned : addr % 64 = 0)
    (inside : addr + 128 ≤ tm.spadSize) (present : s.spadPresent tm.id addr 128 = true) (reds : NoSpadReds s c.id)
    (images : ∀ m ∈ s.images, m.crew ≠ some c.id) (well : (LaunchBlock.of (blockAt s tm addr 128)).badField (blockAt s tm addr 128) = none)
    (plain : (LaunchBlock.of (blockAt s tm addr 128)).args = 0) :
    State.launchCrew c addr s = s.finishLaunch c.id addr (LaunchBlock.of (blockAt s tm addr 128)) (List.replicate 16 0) := by
  have name := team_name team
  have shallow : ¬((s.gridOf tm.id).map Grid.depth).getD 0 ≥ 10 := by simp [State.gridOf, name, team, grid, depth]
  have reading : ¬s.images.any (fun m => m.crew == some c.id) = true := by simpa using images
  simp only [blockAt] at well plain
  simp only [State.launchCrew, team, first, ne_eq, not_true_eq_false, if_false, if_neg shallow, aligned, if_neg (Nat.not_lt.2 inside),
    if_neg reading, absentLine?_of_spadPresent present, withReds_of_noSpadReds reds, well, plain, if_true, blockAt]

/-- The end of a launch: its decision, with the code at STATUS and the crew at its next instruction (R49, R378). -/
theorem finishLaunch_eq {s s1 : State} {c : CrewId} {tm : Team} {g : Grid} {addr code : Nat} {b : LaunchBlock} {args : List Word}
    (team : s.team? c.team = some tm) (grid : s.grid? tm.grid = some g)
    (decision : s.decideLaunch b tm.ctx (g.depth + 1) (some tm.id) args = (s1, code)) :
    s.finishLaunch c addr b args = (s1.spadWrite tm.id (addr + 0x3C) (leBytes 4 code)).finishUniform c 4 := by
  rw [team_name team] at decision ⊢
  simp [State.finishLaunch, State.gridOf, State.ctxId, team, grid, decision]

/-- The decision of a launch, in the order of its checks (R49, R52). -/
theorem decideLaunch_code (s : State) (b : LaunchBlock) (ctx depth : Nat) (parent : Option Nat) (args : List Word) :
    let g := s.gridOfBlock b ctx depth parent args
    let r := s.decideLaunch b ctx depth parent args
    (s.fitsEmpty g = false → r = (s, 2)) ∧
    (s.fitsEmpty g = true → s.noSwap g = true → r = (s, 3)) ∧
    (s.fitsEmpty g = true → s.noSwap g = false →
      State.placeNext { s.fresh with grids := s.grids ++ [g] } g.id = none → r = (s, 1)) ∧
    (s.fitsEmpty g = true → s.noSwap g = false →
      (State.placeNext { s.fresh with grids := s.grids ++ [g] } g.id).isSome = true →
      r.2 = 0 ∧ Places { s.fresh with grids := s.grids ++ [g] } r.1) := by
  unfold State.decideLaunch
  dsimp only
  generalize s.gridOfBlock b ctx depth parent args = g
  generalize placed : State.placeNext { s.fresh with grids := s.grids ++ [g] } g.id = t
  refine ⟨fun unfit => by simp [unfit], fun fits swap => by simp [fits, swap], fun fits swap full => by simp [fits, swap, full],
    fun fits swap room => ?_⟩
  obtain ⟨t, rfl⟩ := Option.isSome_iff_exists.1 room
  simp only [fits, swap, Bool.not_true, Bool.false_eq_true, if_false, true_and]
  exact (placeNext_places placed).trans (placeGrid_places ..)

/-- Placing units keeps the names of the grids. -/
theorem Places.gridNames {s r : State} (h : Places s r) : r.grids.map Grid.id = s.grids.map Grid.id := by
  simpa [gridMarks, Function.comp_def] using congrArg (List.map Prod.fst) h.grids

/-- Settles O27: the checks of R378 pass, so the decision falls at once and only STATUS is written after it. -/
theorem launch : Obligations.Launch := by
  refine ⟨?_, fun s b ctx depth parent args => ?_⟩
  · intro o s s1 c tm g code ⟨focus, found⟩ guard first team grid depth addr aligned inside present reds images ws b well plain decision idle
    have runs : exec (.launch o) s = .next ((s1.spadWrite tm.id (addr + 0x3C) (leBytes 4 code)).finishUniform c.id 4) := by
      have checked := launchCrew_eq (s := { s with cur := .idle }) first team grid depth aligned inside present reds images well plain
      have decided := finishLaunch_eq (s := { s with cur := .idle }) (c := c.id) (addr := addr) team grid decision
      change Host.Outcome.next (uniformRun 4 o.g _ s) = _
      rw [uniformRun_crew 4 o.g _ s c focus found, if_pos guard]
      exact congrArg Host.Outcome.next (checked.trans decided)
    have idle' : (s1.spadWrite tm.id (addr + 0x3C) (leBytes 4 code)).cur = .idle := idle
    refine ⟨_, runs, ?_, fun team off => ?_⟩
    · rw [finishUniform_eq_uniNext _ _ _ idle']
      rfl
    · change spadByte (s1.spadWrite tm.id (addr + 0x3C) (leBytes 4 code)) team off = _
      rw [spadByte_spadWrite, leBytes_length]
      have bytes : off < addr + 0x3C + 4 ↔ off < addr + 0x40 := Iff.rfl
      simp only [bytes]
      split
      · rename_i at_
        rw [leBytes_getD _ _ _ (by omega)]
      · rfl
  · obtain ⟨unfit, swap, full, admits⟩ := decideLaunch_code s b ctx depth parent args
    refine ⟨unfit, swap, full, fun fits slots room => ?_⟩
    obtain ⟨code, placed⟩ := admits fits slots room
    exact ⟨code, by rw [placed.gridNames, List.map_append]; rfl⟩

end Sys2Proof.Proofs
end

section
/-!
PROOFS. The return of a peer's load (R295, R380) where the list of threads holds one thread twice: the state is no device's, as names are then not
unique, but the statement allows it.
-/

namespace Sys2Proof.Proofs
open Sys2Proof Sys2Proof.Machine Sys2Proof.Laws Sys2Proof.Stmt

/-- A load of four bytes of system memory that completes at its return (log entry 105). -/
def remoteLoad : Load :=
  { slot := 0, dst := 0, regs := 1, size := 4, sext := false, ctx := 0, va := 0, loc := .pa 0x80000000000, done := false, install := none,
    at_ := 0, remote := true }

/-- The thread that stands at the load. -/
def remoteReader : Thread := { probeThread ⟨1, 0⟩ false with stall := .remote, loads := [remoteLoad] }

/-- The device at reset, but that its list of threads holds the one reader twice. -/
def readerTwice : State := { State.reset with threads := [remoteReader, remoteReader] }

/-- The program counter of the reader after an event. -/
def readerPc : Out → Option Word
  | .next s => (s.thread? remoteReader.id).map Thread.pc
  | _ => none

/-- The load's place is outside every window, can be reached and reads as zeros. -/
theorem readerTwice_reads :
    readerTwice.loadBytes? remoteReader.id.crewId (readerTwice.coreOf remoteReader.id.team) remoteLoad.loc remoteLoad.size = some [0, 0, 0, 0] ∧
      readerTwice.delayed remoteLoad.loc = false ∧ readerTwice.reachable remoteLoad.loc false = true := by decide +kernel

/-- Both entries of the list are due in the load's flight, so the load completes twice and its thread skips an instruction. -/
theorem readerTwice_returns : readerPc (exec (.loadReturn remoteReader.id 0) readerTwice) = some 8 := by decide +kernel

/-- Refutes O52: the clause on an `LD` of a peer's memory does not ask that names of threads be unique. Where the list of threads holds the reader
twice, its load returns twice, and the thread stands 8 bytes after the `LD`, not 4. -/
theorem not_timersAndErrors : ¬ Obligations.TimersAndErrors := by
  rintro ⟨⟨-, -, -, remote, -⟩, -⟩
  obtain ⟨bytes, up, reach⟩ := readerTwice_reads
  have noneLanding : NoneLanding readerTwice remoteLoad.loc := fun l hl =>
    absurd (show l ∈ [] from hl) List.not_mem_nil
  have alone : ∀ u ∈ readerTwice.threads, ∀ y ∈ u.loads, u.id = remoteReader.id ∨ y.at_ ≠ remoteLoad.at_ := fun u hu _ _ =>
    .inl (by rw [show u = remoteReader by simpa [readerTwice] using hu])
  obtain ⟨returns, -⟩ := remote readerTwice remoteReader remoteLoad _ rfl rfl rfl rfl rfl rfl noneLanding up alone bytes
  obtain ⟨s', next, ⟨there, -⟩, -⟩ := returns reach
  have pc := readerTwice_returns
  rw [show exec (.loadReturn remoteReader.id 0) readerTwice = _ from next] at pc
  simp only [readerPc, there] at pc
  exact absurd pc (by decide)

end Sys2Proof.Proofs
end

section
/-!
PROOFS. The fetch (R72, R102, R306): a word that stands in the code window is fetched, and only the instruction cache may take up a word.
-/

namespace Sys2Proof.Proofs
open Sys2Proof Sys2Proof.Machine Sys2Proof.Laws Sys2Proof.Stmt

/-- A word survives its four bytes (R4). -/
theorem ofNat_leNat_leBytes (w : Word) : (BitVec.ofNat 32 (leNat (leBytes 4 w.toNat)) : Word) = w := by
  rw [leNat_leBytes, show w.toNat % 2 ^ (8 * 4) = w.toNat from Nat.mod_eq_of_lt w.isLt, BitVec.ofNat_toNat, BitVec.setWidth_eq]

/-- The state after a word of an address was fetched: the instruction cache has taken up at most that word. -/
def Took (s r : State) (va : Nat) : Prop :=
  r = s ∨ ∃ e : CodeWord, e.va = va ∧ r = { s with icache := s.icache ++ [e] }

/-- A word that a fetch can read is fetched. -/
theorem fetchWord_of_codeAt {s : State} {team grid : Nat} {pc w : Word} (h : CodeAt s team grid pc w) :
    ∃ r, fetchWord s team grid pc = (r, .ok w) ∧ Took s r (codeVa s team pc) := by
  rcases h with ⟨e, hit, rfl⟩ | ⟨miss, tr, found, exec, reach, bytes⟩
  · exact ⟨s, by simp only [fetchWord, hit], .inl rfl⟩
  · refine ⟨_, ?_, .inr ⟨⟨s.coreOf team, grid, codeVa s team pc, w⟩, rfl, rfl⟩⟩
    simp only [fetchWord, miss, found, exec, reach, bytes, ofNat_leNat_leBytes, Bool.not_true, Bool.false_eq_true, if_false]

/-- What the instruction cache takes up from another address does not stand in a word's way. -/
theorem codeAt_of_took {s r : State} {team grid va : Nat} {pc w : Word} (h : CodeAt s team grid pc w) (took : Took s r va)
    (other : va ≠ codeVa s team pc) : CodeAt r team grid pc w := by
  rcases took with rfl | ⟨e, rfl, rfl⟩
  · exact h
  · have passes : (s.icache ++ [e]).find? (fun e => e.core == s.coreOf team && e.grid == grid && e.va == codeVa s team pc) =
        s.icache.find? (fun e => e.core == s.coreOf team && e.grid == grid && e.va == codeVa s team pc) := by
      simp [List.find?_append, other]
    rcases h with ⟨x, hit, word⟩ | ⟨miss, rest⟩
    · exact .inl ⟨x, passes.trans hit, word⟩
    · exact .inr ⟨passes.trans miss, rest⟩

/-- The next word of the code window has another address, also where the window wraps (R72). -/
theorem codeVa_next_ne (s : State) (team : Nat) (pc : Word) : codeVa s team pc ≠ codeVa s team (pc + 4) := by
  unfold codeVa
  bv_omega

theorem Took.icache {s r : State} {va : Nat} (h : Took s r va) : ∃ ic, r = { s with icache := ic } := by
  rcases h with rfl | ⟨e, -, rfl⟩
  · exact ⟨r.icache, rfl⟩
  · exact ⟨_, rfl⟩

/-- Settles O5: each of the two words is fetched, and the first one, which the cache may take up, has another address than the second. -/
theorem fetchReadsCode : Obligations.FetchReadsCode := by
  refine ⟨fun s ids lead pc w code short => ?_, fun s ids lead pc w x code long next => ?_⟩
  · obtain ⟨r, first, took⟩ := fetchWord_of_codeAt code
    obtain ⟨ic, rfl⟩ := took.icache
    exact ⟨ic, by simp only [fetchPair, first, short, Bool.not_false, if_true]⟩
  · obtain ⟨r, first, took⟩ := fetchWord_of_codeAt code
    obtain ⟨q, second, took'⟩ := fetchWord_of_codeAt (codeAt_of_took next took (codeVa_next_ne s lead.team pc))
    obtain ⟨ic, rfl⟩ := took.icache
    obtain ⟨ic', rfl⟩ := took'.icache
    exact ⟨ic', by simp only [fetchPair, first, long, second, Bool.not_true, Bool.false_eq_true, if_false]⟩

end Sys2Proof.Proofs
end

section
/-!
PROOFS. A lane instruction on a flight of one live thread: what the thread becomes (R23).
-/

namespace Sys2Proof.Proofs
open Sys2Proof Sys2Proof.Machine Sys2Proof.Laws Sys2Proof.Stmt

/-- A thread that changes alone, with the focus done. -/
theorem modThread_eq_laneNext (s : State) (i : ThreadId) (f : Thread → Thread) :
    ({ s with cur := .idle } : State).modThread i f = laneNext s [i] f := by
  simp only [State.modThread, laneNext, updWhere_eq_map, beq_iff_eq, List.mem_singleton]

/-- A thread that writes registers and continues. -/
theorem modThread_setRegs_eq_runsOn (s : State) (i : ThreadId) (d n : Nat) (ws : List Word) :
    ({ s with cur := .idle } : State).modThread i (fun x => (x.setRegs d ws).advance n) = runsOn s i n (fun u => u.setRegs d ws) := by
  simp only [modThread_eq_laneNext, runsOn, Thread.advance, thread_setRegs_pc]

/-- A thread that only continues. -/
theorem modThread_advance_eq_runsOn (s : State) (i : ThreadId) (n : Nat) :
    ({ s with cur := .idle } : State).modThread i (·.advance n) = runsOn s i n id := modThread_eq_laneNext s i _

/-- A lane instruction whose guard is true, on a flight of one live thread. -/
theorem laneEach_oneThread {n : Nat} {g : Guard} {f : State → Thread → State} {s : State} {core : Nat} {t : Thread} {rdv : Bool}
    (one : OneThread s core t rdv) (guard : t.guard g = true) : laneEach n g f s = f { s with cur := .idle } t := by
  obtain ⟨focus, found, live⟩ := one
  rw [laneEach_one n g f s core t rdv focus found live, if_pos guard]

end Sys2Proof.Proofs
end

section
/-!
PROOFS. Loaded and stored bytes (R4, R305): what registers a run of bytes gives, and which bytes of its registers a store takes.
-/

namespace Sys2Proof.Proofs
open Sys2Proof Sys2Proof.Machine Sys2Proof.Laws

/-- A byte below higher bits (R4). -/
theorem toNat_append_byte {w : Nat} (x : BitVec w) (b : Byte) : (x ++ b).toNat = b.toNat + 0x100 * x.toNat := by
  rw [BitVec.toNat_append, ← Nat.shiftLeft_add_eq_or_of_lt b.isLt, Nat.shiftLeft_eq]
  omega

/-- The model's sign extension is that of bit vectors (R324). -/
theorem sextW_toNat_eq_signExtend {w : Nat} (x : BitVec w) (hw : w ≤ 32) : sextW w x.toNat = x.signExtend 32 := by
  have small : x.toNat < 2 ^ 32 := x.isLt.trans_le (Nat.pow_le_pow_right (by omega) hw)
  apply BitVec.eq_of_toNat_eq
  rw [sextW_toNat w _ hw, BitVec.toNat_signExtend, BitVec.msb_eq_decide, BitVec.toNat_setWidth, Nat.mod_eq_of_lt x.isLt,
    Nat.mod_eq_of_lt small]
  by_cases sign : x.toNat < 2 ^ (w - 1)
  · simp [sign, Nat.not_le.2 sign]
  · simp [sign, Nat.not_lt.1 sign]

theorem loadedRegs_byte (b : Byte) : loadedRegs 0 [b] = [b.zeroExtend 32] ∧ loadedRegs 5 [b] = [b.signExtend 32] := by
  have value : leNat [b] = b.toNat := rfl
  simp [loadedRegs, value, sextW_toNat_eq_signExtend b (by omega), BitVec.ofNat_toNat]

theorem loadedRegs_half (b c : Byte) :
    loadedRegs 1 [b, c] = [(c ++ b).zeroExtend 32] ∧ loadedRegs 6 [b, c] = [(c ++ b).signExtend 32] := by
  have value : leNat [b, c] = (c ++ b).toNat := by rw [toNat_append_byte]; rfl
  simp [loadedRegs, value, sextW_toNat_eq_signExtend (c ++ b) (by omega), BitVec.ofNat_toNat]

theorem loadedRegs_word (b c d e : Byte) : loadedRegs 2 [b, c, d, e] = [e ++ d ++ c ++ b] := by
  have value : leNat [b, c, d, e] = (e ++ d ++ c ++ b).toNat := by simp only [toNat_append_byte]; rfl
  simp only [loadedRegs, value, BitVec.ofNat_toNat, BitVec.setWidth_eq]

/-- A pair is the registers of its two words, in rising address order. -/
theorem loadedRegs_pair (x y : List Byte) (hx : x.length = 4) : loadedRegs 3 (x ++ y) = loadedRegs 2 x ++ loadedRegs 2 y := by
  simp [loadedRegs, ← hx]

/-- A quad is the registers of its four words, in rising address order. -/
theorem loadedRegs_quad (x y z w : List Byte) (hx : x.length = 4) (hy : y.length = 4) (hz : z.length = 4) :
    loadedRegs 4 (x ++ y ++ z ++ w) = loadedRegs 2 x ++ loadedRegs 2 y ++ loadedRegs 2 z ++ loadedRegs 2 w := by
  have second : (x ++ (y ++ (z ++ w))).drop 4 = y ++ (z ++ w) := List.drop_left' hx
  have third : (x ++ (y ++ (z ++ w))).drop 8 = z ++ w := by
    rw [← List.append_assoc]; exact List.drop_left' (by simp [hx, hy])
  have fourth : (x ++ (y ++ (z ++ w))).drop 12 = w := by
    rw [← List.append_assoc, ← List.append_assoc]; exact List.drop_left' (by simp [hx, hy, hz])
  simp only [loadedRegs, List.append_assoc, second, third, fourth, List.take_left' hx, List.take_left' hy, List.take_left' hz]
  rfl

/-- Bytes of a store (R305). -/
theorem storedBytes_length (t : Thread) (d sz : Nat) (h : sz ≤ 4) : (storedBytes t d sz).length = szBytes sz := by
  interval_cases sz <;> simp [storedBytes, szBytes]

/-- The bytes of consecutive words, the first word the lowest (R4). -/
theorem wordBytes_getD (w : Nat → Word) (k i : Nat) (h : i < 4 * k) :
    ((List.range k).flatMap (fun j => leBytes 4 (w j).toNat)).getD i 0 = BitVec.ofNat 8 ((w (i / 4)).toNat / 2 ^ (8 * (i % 4))) := by
  induction k generalizing w i with
  | zero => omega
  | succ k ih =>
    rw [List.range_succ_eq_map, List.flatMap_cons, List.flatMap_map]
    by_cases first : i < 4
    · rw [List.getD_append _ _ _ _ (by simpa using first), leBytes_getD _ _ _ first, Nat.div_eq_of_lt first, Nat.mod_eq_of_lt first]
    · obtain ⟨j, rfl⟩ : ∃ j, i = j + 4 := ⟨i - 4, by omega⟩
      rw [List.getD_append_right _ _ _ _ (by simp), leBytes_length, Nat.add_sub_cancel, ih (fun j => w (j + 1)) j (by omega),
        Nat.add_div_right _ (by omega), Nat.add_mod_right]

/-- A store takes the bytes of its data registers from the lowest upwards (R305, R410). -/
theorem storedBytes_getD (t : Thread) (d sz i : Nat) (h : sz ≤ 4) (hi : i < szBytes sz) :
    (storedBytes t d sz).getD i 0 = BitVec.ofNat 8 ((t.reg (d + i / 4)).toNat / 2 ^ (8 * (i % 4))) := by
  have within : ∀ n ≤ 4, i < n → (leBytes n (t.reg d).toNat).getD i 0 =
      BitVec.ofNat 8 ((t.reg (d + i / 4)).toNat / 2 ^ (8 * (i % 4))) := fun n hn low => by
    have short : i < 4 := by omega
    rw [leBytes_getD _ _ _ low, Nat.div_eq_of_lt short, Nat.mod_eq_of_lt short, Nat.add_zero]
  have words := fun k => wordBytes_getD (fun j => t.reg (d + j)) k i
  interval_cases sz
  · exact within 1 (by omega) hi
  · exact within 2 (by omega) hi
  · exact within 4 (by omega) hi
  · exact words 2 hi
  · simpa [storedBytes, List.range_succ] using words 4 hi

end Sys2Proof.Proofs
end

section
/-!
PROOFS. `LDS` and `STS` (R76 to R79, R96, R305, R381, R413): what they read and write, their traps and their wait.
-/

namespace Sys2Proof.Proofs
open Sys2Proof Sys2Proof.Machine Sys2Proof.Laws Sys2Proof.Stmt

/-- A scratchpad access that meets no trap and no absent line does `f` (R79, R96). -/
theorem withSpad_of_spadOk {s : State} {t : Thread} {off n : Nat} (ok : SpadOk s t.id.team off n) (f : State → State) :
    ({ s with cur := .idle } : State).withSpad t off n f = f { s with cur := .idle } := by
  obtain ⟨tm, team, aligned, inside, present⟩ := ok
  exact withSpad_ok _ t off n f tm team aligned inside (by simpa [Team.present] using present)

theorem withSpad_misaligned {s : State} {t : Thread} {off n : Nat} {tm : Team} (team : s.team? t.id.team = some tm) (h : off % n ≠ 0)
    (f : State → State) : s.withSpad t off n f = s.threadTrap t .misaligned (BitVec.ofNat 32 off) 0 := by
  simp [State.withSpad, team, h]

theorem withSpad_outside {s : State} {t : Thread} {off n : Nat} {tm : Team} (team : s.team? t.id.team = some tm) (aligned : off % n = 0)
    (h : tm.spadSize < off + n) (f : State → State) : s.withSpad t off n f = s.threadTrap t .access (BitVec.ofNat 32 off) 0 := by
  simp [State.withSpad, team, aligned, h]

theorem withSpad_absent {s : State} {t : Thread} {off n : Nat} {tm : Team} (team : s.team? t.id.team = some tm) (aligned : off % n = 0)
    (inside : off + n ≤ tm.spadSize) (h : off / 128 ∈ tm.absent) (f : State → State) :
    s.withSpad t off n f = s.modThread t.id (fun x => { x with park := .absent (off / 128) }) := by
  have absent : tm.present off = false := by simpa [Team.present] using h
  simp [State.withSpad, team, aligned, Nat.not_lt.2 inside, absent]

theorem scratchpadLoad : Sys2Proof.Stmt.ScratchpadLoad := by
  refine ⟨?_, loadedRegs_byte, loadedRegs_half, loadedRegs_word,
    fun x y hx _ => loadedRegs_pair x y hx, fun x y z w hx hy hz _ => loadedRegs_quad x y z w hx hy hz⟩
  intro o s core t rdv one guard ea ok
  refine congrArg Host.Outcome.next ((laneEach_oneThread one guard).trans ?_)
  exact (withSpad_of_spadOk ok _).trans (modThread_setRegs_eq_runsOn s t.id o.d.val 4 _)

/-- A write to a scratchpad changes the scratchpad of its team only. -/
theorem team_spadWrite (s : State) (i a : Nat) (bs : List Byte) (team : Nat) :
    (s.spadWrite i a bs).team? team =
      (s.team? team).map (fun x => { x with spad := (((s.spadWrite i a bs).team? team).map Team.spad).getD [] }) := by
  unfold State.spadWrite
  by_cases same : team = i
  · subst same
    rw [team_modTeam_self s team _ (by exact fun _ h => h)]
    cases s.team? team <;> rfl
  · rw [team_modTeam_of_ne s i team _ (by exact fun _ h => h) same]
    cases s.team? team <;> rfl

theorem scratchpadStore : Sys2Proof.Stmt.ScratchpadStore := by
  intro o s core t rdv one guard n ea ok size
  obtain ⟨tm, team, -⟩ := id ok
  have run : exec (.sts o) s = .next (({ s with cur := .idle } : State).spadWrite t.id.team ea (storedBytes t o.d.val o.sz.val)
      |>.modThread t.id (·.advance 4)) :=
    congrArg Host.Outcome.next ((laneEach_oneThread one guard).trans (withSpad_of_spadOk ok _))
  refine ⟨_, run, ?_, fun i off => ?_, fun i => team_spadWrite { s with cur := .idle } t.id.team ea _ i⟩
  · have continues := modThread_advance_eq_runsOn s t.id 4
    rw [← continues]
    rfl
  · change spadByte (({ s with cur := .idle } : State).spadWrite t.id.team ea (storedBytes t o.d.val o.sz.val)) i off = _
    rw [spadByte_spadWrite, storedBytes_length t _ _ size]
    by_cases inside : i = t.id.team ∧ ea ≤ off ∧ off < ea + szBytes o.sz.val
    · have there : (({ s with cur := .idle } : State).team? i).isSome = true := by
        rw [inside.1, show ({ s with cur := .idle } : State).team? t.id.team = some tm from team]; rfl
      rw [if_pos inside, if_pos inside, if_pos there, storedBytes_getD t _ _ _ size (by omega)]
    · rw [if_neg inside, if_neg inside]
      rfl

theorem scratchpadTraps : Sys2Proof.Stmt.ScratchpadTraps := by
  intro i o s core t rdv tm access one guard team n ea
  obtain ⟨f, run⟩ : ∃ f, exec i s = .next (State.withSpad { s with cur := .idle } t ea n f) := by
    rcases access with rfl | rfl
    all_goals exact ⟨_, congrArg Host.Outcome.next (laneEach_oneThread one guard)⟩
  rw [run]
  refine ⟨fun h => ?_, fun aligned h => ?_, fun aligned inside absent => ?_⟩
  · rw [withSpad_misaligned (s := { s with cur := .idle }) team h]
  · rw [withSpad_outside (s := { s with cur := .idle }) team aligned h]
  · rw [withSpad_absent (s := { s with cur := .idle }) team aligned inside absent, modThread_eq_laneNext]

/-- Settles O41: both instructions are one access to the team's scratchpad, whose checks come in the order of R96. -/
theorem scratchpadAccess : Obligations.ScratchpadAccess := ⟨scratchpadLoad, scratchpadStore, scratchpadTraps⟩

end Sys2Proof.Proofs
end

section
/-!
PROOFS. The entry to the handler of a thread that waits for nothing (R267, R268): it changes that thread and the queues only.
-/

namespace Sys2Proof.Proofs
open Sys2Proof Sys2Proof.Machine Sys2Proof.Laws Sys2Proof.Stmt

/-- A wake event of threads whose teams are on the device marks nothing (R62, R68). -/
theorem noteWake_of_inside {s : State} {ids : List ThreadId} (h : ∀ i ∈ ids, s.outside i.team = false) : s.noteWake ids = s := by
  have none : ids.filter (fun t => s.outside t.team) = [] := List.filter_eq_nil_iff.2 fun i hi => by simp [h i hi]
  simp [State.noteWake, none, updWhere]

/-- The entry to the handler of a thread that waits for nothing. -/
theorem enterHandler_eq_modThread {s : State} {t : Thread} (inside : s.outside t.id.team = false) (free : t.park = .none) (r : TrapRegs)
    (resume : Word) : s.enterHandler t r resume = (s.leaveQueues t.id).modThread t.id (fun x =>
      { x with pc := BitVec.ofNat 32 (s.traph t.id.team), inh := true, park := .none, stall := x.stall.trapped, arrived := none,
               loads := x.loads.filter (fun l => !l.remote), committed := false, late := none, run := none, cont := false,
               trapc := resume, cause := r.cause, trapv := r.trapv }) := by
  have noWithdrawal : s.withdrawArrival t = s := by simp only [State.withdrawArrival, free]
  have noWake : (s.leaveQueues t.id).noteWake [t.id] = s.leaveQueues t.id :=
    noteWake_of_inside fun i hi => by rw [List.mem_singleton.1 hi]; exact inside
  rw [State.enterHandler, noWithdrawal, noWake]

/-- A thread's own trap takes it to the handler, and changes nothing else that a program sees (R267, R268). -/
theorem threadTrap_onlyThread {s : State} {t : Thread} (found : s.thread? t.id = some t) (can : CanTrap s t) (c : Cause) (trapv : Word)
    (aux : Nat) : OnlyThread s (s.threadTrap t c trapv aux) t (inHandler s (causeWord c false true aux) trapv t.pc) := by
  obtain ⟨outside, handler, inside, free⟩ := can
  have enters : s.threadTrap t c trapv aux = s.enterHandler t ⟨causeWord c false true aux, trapv⟩ t.pc := by
    rw [State.threadTrap, takeTrap_eq, if_neg (by simp [outside]), if_neg handler]
  have found' : (s.leaveQueues t.id).thread? t.id = some t := found
  rw [enters, enterHandler_eq_modThread inside free]
  refine ⟨?_, fun u hu => ?_, rfl, rfl, rfl, rfl, rfl, rfl, rfl, rfl⟩
  · rw [thread_modThread_self _ _ _ (by exact fun _ h => h), found']
    rfl
  · rw [thread_modThread_of_ne _ _ _ _ (by exact fun _ h => h) hu]
    rfl

end Sys2Proof.Proofs
end

section
/-!
PROOFS. The checks of a global access (R92, R96, R98, R266, R297), in their order, and the trap of an `LD` or `ST` that fails one.
-/

namespace Sys2Proof.Proofs
open Sys2Proof Sys2Proof.Machine Sys2Proof.Laws Sys2Proof.Stmt

/-- The checks stand in the order of R96. -/
theorem access_checks (s : State) (team va n : Nat) (w : Bool) :
    (va % n ≠ 0 → s.access team va n w = .trap .misaligned) ∧
    (va % n = 0 → 2 ^ 52 < va + n → s.access team va n w = .trap .access) ∧
    (va % n = 0 → va + n ≤ 2 ^ 52 → s.lockedBy (s.coreOf team) (s.ctxId team) va n w = true → s.access team va n w = .trap .rangeLock) ∧
    (va % n = 0 → va + n ≤ 2 ^ 52 → s.lockedBy (s.coreOf team) (s.ctxId team) va n w = false →
      s.tlbFind (s.coreOf team) (s.ctxId team) va = none → s.access team va n w = .walk) ∧
    (va % n = 0 → va + n ≤ 2 ^ 52 → s.lockedBy (s.coreOf team) (s.ctxId team) va n w = false →
      ∀ tr, s.tlbFind (s.coreOf team) (s.ctxId team) va = some tr → w = true → tr.w = false ∨ tr.d = false →
        s.access team va n w = .walk) := by
  refine ⟨fun misaligned => ?_, fun aligned beyond => ?_, fun aligned inside locked => ?_, fun aligned inside free miss => ?_,
    fun aligned inside free tr hit write clean => ?_⟩
  · simp [State.access, misaligned]
  · simp only [State.access, aligned, gt_iff_lt, if_pos beyond, ne_eq, not_true_eq_false, if_false]
  · simp [State.access, aligned, gt_iff_lt, -Nat.reducePow, if_neg (Nat.not_lt.2 inside), locked]
  · simp [State.access, aligned, gt_iff_lt, -Nat.reducePow, if_neg (Nat.not_lt.2 inside), free, miss]
  · subst write
    rcases clean with h | h
    all_goals simp [State.access, aligned, gt_iff_lt, -Nat.reducePow, if_neg (Nat.not_lt.2 inside), free, hit, h]

/-- A failed check other than that of an access table is its trap. -/
theorem withAccess_trap {s : State} {t : Thread} {va n : Nat} {w : Bool} {c : Cause} (h : s.access t.id.team va n w = .trap c)
    (plain : c ≠ .access ∨ 2 ^ 52 < va + n) (kind : Kind) (f : State → Translation → Loc → State) :
    s.withAccess t va n w kind f = s.addrTrap t c va := by
  by_cases isAccess : c = .access
  · subst isAccess
    have beyond : 2 ^ 52 < va + n := plain.resolve_left (not_not.2 rfl)
    simp only [State.withAccess, h, gt_iff_lt, if_pos beyond]
  · rw [State.withAccess, h]
    split
    · rename_i e
      exact absurd (Access.trap.inj e) isAccess
    · rename_i e
      rw [Access.trap.inj e]
    · rename_i e
      cases e
    · rename_i e
      cases e

/-- A denial is counted at its target (R297). -/
theorem logDenial_eq_toList (s : State) (l : Loc) (c : ReqClass) (w : Bool) :
    s.logDenial l c w = { s with denials := s.denials ++ (s.deniedAt l c w).toList } := by
  unfold State.logDenial
  cases s.deniedAt l c w with
  | none => simp
  | some t => rfl

/-- An access that an access table denies is counted before its trap (R297). -/
theorem withAccess_denied {s : State} {t : Thread} {va n : Nat} {w : Bool} {tr : Translation}
    (h : s.access t.id.team va n w = .trap .access) (inside : va + n ≤ 2 ^ 52)
    (hit : s.tlbFind (s.coreOf t.id.team) (s.ctxId t.id.team) va = some tr) (kind : Kind) (f : State → Translation → Loc → State) :
    s.withAccess t va n w kind f =
      (s.logDenial (tr.loc (s.ctxId t.id.team) va) .device w).addrTrap t .access va := by
  simp only [State.withAccess, h, gt_iff_lt, if_neg (Nat.not_lt.2 inside), hit]

/-- An `LD` is its access (R380). -/
theorem exec_ld_oneThread {o : OpMem} {s : State} {core : Nat} {t : Thread} {rdv : Bool} (one : OneThread s core t rdv)
    (guard : t.guard o.g = true) : exec (.ld o) s = .next (State.withAccess { s with cur := .idle } t (memAddr t o) (szBytes o.sz.val) false
      .read (loadAt o t (memAddr t o))) :=
  congrArg Host.Outcome.next (laneEach_oneThread one guard)

/-- An `ST` whose check fails is its access (R411). -/
theorem exec_st_trap {o : OpMem} {s : State} {core : Nat} {t : Thread} {rdv : Bool} {c : Cause} (one : OneThread s core t rdv)
    (guard : t.guard o.g = true) (h : s.access t.id.team (memAddr t o) (szBytes o.sz.val) true = .trap c) :
    exec (.st o) s = .next (State.withAccess { s with cur := .idle } t (memAddr t o) (szBytes o.sz.val) true .write (fun s _ _ => s)) := by
  obtain ⟨focus, found, -⟩ := one
  have found' : ({ s with cur := .idle } : State).thread? t.id = some t := found
  have h' : ({ s with cur := .idle } : State).access t.id.team (memAddr t o) (szBytes o.sz.val) true = .trap c := h
  change execSt o s = _
  simp only [execSt, focus, Focus.ids, List.foldl_cons, List.foldl_nil, found', guard, if_true, storeThread, h']
  rfl

/-- An `LD` or `ST` whose check fails is its access. -/
theorem exec_access_trap {i : Instr} {w : Bool} {o : OpMem} {s : State} {core : Nat} {t : Thread} {rdv : Bool} {c : Cause}
    (access : (i = .ld o ∧ w = false) ∨ (i = .st o ∧ w = true)) (one : OneThread s core t rdv) (guard : t.guard o.g = true)
    (h : s.access t.id.team (memAddr t o) (szBytes o.sz.val) w = .trap c) :
    ∃ kind f, exec i s = .next (State.withAccess { s with cur := .idle } t (memAddr t o) (szBytes o.sz.val) w kind f) := by
  rcases access with ⟨rfl, rfl⟩ | ⟨rfl, rfl⟩
  · exact ⟨_, _, exec_ld_oneThread one guard⟩
  · exact ⟨_, _, exec_st_trap one guard h⟩

/-- Settles O13: the checks come in the order of R96; the trap of a failed one takes the thread to the handler, and a denial is counted first. -/
theorem addressChecks : Obligations.AddressChecks := by
  refine ⟨access_checks, ?_⟩
  intro i w o s core t rdv c access one guard n va trap h
  obtain ⟨kind, f, run⟩ := exec_access_trap access one guard h
  refine ⟨fun plain => ⟨?_, fun can => threadTrap_onlyThread (s := { s with cur := .idle }) one.2.1 can c _ _⟩, fun tr isAccess inside hit => ?_⟩
  · exact run.trans (congrArg Host.Outcome.next (withAccess_trap (s := { s with cur := .idle }) h plain kind f))
  · subst isAccess
    refine run.trans (congrArg Host.Outcome.next ((withAccess_denied (s := { s with cur := .idle }) h inside hit kind f).trans ?_))
    rw [logDenial_eq_toList]
    rfl

end Sys2Proof.Proofs
end

section
/-!
PROOFS. `LDT` (R99, R100, R382): the record comes from the cluster's cache, or from device reach into the cache.
-/

namespace Sys2Proof.Proofs
open Sys2Proof Sys2Proof.Machine Sys2Proof.Laws Sys2Proof.Stmt

/-- A record enters a cluster's cache, and of 512 records of the cluster one gives way (R100). -/
theorem layoutFill_cases (s : State) (cl ctx h : Nat) (bs : List Byte) :
    ∃ (gone : LayoutEntry → Bool) (n : Nat), s.layoutFill cl ctx h bs =
        { s with freeCtr := n, layouts := s.layouts.filter (fun l => !gone l) ++ [⟨cl, ctx, h, bs⟩] } ∧
      ((s.layouts.filter (fun l => l.cluster == cl)).length < 512 → ∀ l, gone l = false) ∧
      (512 ≤ (s.layouts.filter (fun l => l.cluster == cl)).length → ∃ v ∈ s.layouts, v.cluster = cl ∧ ∀ l, gone l = (l == v)) := by
  by_cases room : (s.layouts.filter (fun l => l.cluster == cl)).length < 512
  · refine ⟨fun _ => false, s.freeCtr, ?_, fun _ _ => rfl, fun full => absurd room (Nat.not_lt.2 full)⟩
    simp [State.layoutFill, Config.layoutRecords, room]
  · have there : Config.layoutVictim s.freeCtr % 512 < (s.layouts.filter (fun l => l.cluster == cl)).length :=
      (Nat.mod_lt _ (by omega)).trans_le (Nat.not_lt.1 room)
    obtain ⟨v, hv⟩ : ∃ v, (s.layouts.filter (fun l => l.cluster == cl))[Config.layoutVictim s.freeCtr % 512]? = some v :=
      ⟨_, List.getElem?_eq_getElem there⟩
    obtain ⟨listed, cluster⟩ := List.mem_filter.1 (List.mem_of_getElem? hv)
    refine ⟨fun l => l == v, s.freeCtr + 1, ?_, fun few => absurd few room, fun _ => ⟨v, listed, by simpa using cluster, fun _ => rfl⟩⟩
    simp only [State.layoutFill, Config.layoutRecords, if_neg room, hv]
    rfl

/-- The turn of a thread of `LDT`: BAD_HANDLE, the cached record, or the record at device reach, which enters the cache (R99, R100, R382). -/
theorem execLdt_turn (o : OpMem) : ∃ f, (∀ s, exec (.ldt o) s = .next (laneEach 4 o.g f s)) ∧
    ∀ (s : State) (t : Thread) (c : Ctx), s.ctxOf t.id.team = some c →
      let h := (t.reg o.a.val).toNat % 0x10000
      let cl := clusterOf (s.coreOf t.id.team)
      let va := c.regs.lrbase + 64 * h
      let give := fun (s : State) (bs : List Byte) => s.modThread t.id (fun x =>
        (x.setRegs o.d.val (loadedRegs o.sz.val ((bs.drop (o.off.val * szBytes o.sz.val)).take (szBytes o.sz.val)))).advance 4)
      (c.regs.lrcount ≤ h → f s t = s.threadTrap t .badHandle (BitVec.ofNat 32 h) 0) ∧
      (∀ bs, h < c.regs.lrcount → layoutCached s cl c.id h = some bs → f s t = give s bs) ∧
      (∀ bs tr, h < c.regs.lrcount → layoutCached s cl c.id h = none → s.tlbFind (s.coreOf t.id.team) c.id va = some tr →
        s.reachable (tr.loc c.id va) false = true → s.delayed (tr.loc c.id va) = false → s.devBytes? (tr.loc c.id va) 64 = some bs →
        f s t = give (s.layoutFill cl c.id h bs) bs) := by
  refine ⟨_, fun s => rfl, fun s t c ctx => ⟨fun beyond => ?_, fun bs valid cached => ?_,
    fun bs tr valid uncached hit reach up bytes => ?_⟩⟩
  · simp only [ctx, ge_iff_le, if_pos beyond]
  · simp only [ctx, ge_iff_le, if_neg (Nat.not_le.2 valid), cached]
  · simp only [ctx, ge_iff_le, if_neg (Nat.not_le.2 valid), uncached, hit, reach, up, bytes, Bool.not_true, Bool.false_eq_true, if_false]

/-- Settles O14: a cached record is given at once, another one is read and put in the cache first. -/
theorem layoutLoad : Obligations.LayoutLoad := by
  intro o s core t rdv c one guard ctx h n cl va give
  obtain ⟨f, run, turn⟩ := execLdt_turn o
  obtain ⟨trap, fromCache, fromMemory⟩ := turn { s with cur := .idle } t c ctx
  rw [run, laneEach_oneThread one guard]
  refine ⟨fun bs valid cached => ?_, fun bs tr valid uncached hit reach up bytes => ?_, fun beyond => congrArg Host.Outcome.next (trap beyond)⟩
  · exact congrArg Host.Outcome.next ((fromCache bs valid cached).trans (modThread_setRegs_eq_runsOn s t.id o.d.val 4 _))
  · obtain ⟨gone, k, filled, few, full⟩ := layoutFill_cases { s with cur := .idle } cl c.id h bs
    refine ⟨gone, k, congrArg Host.Outcome.next ((fromMemory bs tr valid uncached hit reach up bytes).trans ?_), few, full⟩
    have given := modThread_setRegs_eq_runsOn
      { s with freeCtr := k, layouts := s.layouts.filter (fun l => !gone l) ++ [⟨cl, c.id, h, bs⟩] } t.id o.d.val 4
      (loadedRegs o.sz.val ((bs.drop (o.off.val * szBytes o.sz.val)).take (szBytes o.sz.val)))
    exact (congrArg (fun (x : State) => x.modThread t.id _) filled).trans given

end Sys2Proof.Proofs
end

section
/-!
PROOFS. The context commands on tables and translations, and the completion of a command (R95, R102, R162, R182, R290).
-/

namespace Sys2Proof.Proofs
open Sys2Proof Sys2Proof.Machine Sys2Proof.Laws Sys2Proof.Stmt

section
variable {s : State} {c : Ctx}

/-- A context that carries out a command runs it. -/
theorem runsCommand_of_carries {n : Nat} (h : Carries s c n) : runsCommand s c.id n = some c := by
  obtain ⟨found, running, idle, active⟩ := h
  simp [runsCommand, found, running, idle, active]

/-- A command that is over with a result (R290). -/
theorem commandDone_eq (s : State) (ctx result : Nat) : s.commandDone ctx result = doneWith s ctx result id := by
  simp only [State.commandDone, State.modCtx, doneWith, updWhere_eq_map, beq_iff_eq, id]

/-- A command that changes its context and is over with a result (R290). -/
theorem modCtx_commandDone_eq (s : State) (ctx result : Nat) (f : Ctx → Ctx) (names : ∀ x, (f x).id = x.id) :
    (s.modCtx ctx f).commandDone ctx result = doneWith s ctx result f := by
  simp only [State.commandDone, State.modCtx, doneWith, updWhere_eq_map, beq_iff_eq, List.map_map]
  congr 2
  funext x
  by_cases h : x.id = ctx <;> simp [h, names]

/-- LOAD_NODE_TABLE of registers that name no table is refused (R162). -/
theorem loadNodeTable_refused (h : Carries s c 1) (bad : c.regs.nodecount = 0 ∨ 4096 < c.regs.nodecount ∨ c.regs.nodebase % 32 ≠ 0) :
    exec (.loadNodeTable c.id) s = .next (doneWith s c.id 1 id) := by
  have refused : c.regs.nodecount = 0 ∨ 4096 < c.regs.nodecount ∨ c.regs.nodebase % 32 ≠ 0 ∨ (!nodesFree s c) = true := by
    rcases bad with h | h | h
    · exact .inl h
    · exact .inr (.inl h)
    · exact .inr (.inr (.inl h))
  change execLoadNodeTable c.id s = _
  simp only [execLoadNodeTable, runsCommand_of_carries h, if_pos refused, commandDone_eq]

/-- LOAD_NODE_TABLE with no table in force takes every descriptor, if their floors fit the pool (R162). -/
theorem loadNodeTable_loads {s1 : State} {ds : List NodeDesc} (h : Carries s c 1) (some_ : 1 ≤ c.regs.nodecount)
    (few : c.regs.nodecount ≤ 4096) (aligned : c.regs.nodebase % 32 = 0) (new : c.nodes = [])
    (read : tableLoad c.id 32 nodeDesc? c.regs.nodecount c.regs.nodebase s = (s1, .ok ds))
    (floors : (ds.map NodeDesc.floor).sum ≤ c.regs.poolsize * 1024) :
    exec (.loadNodeTable c.id) s = .next (doneWith s1 c.id 0 (fun x => { x with nodes := ds, counts := [], used := [] })) := by
  have taken : ¬(c.regs.nodecount = 0 ∨ 4096 < c.regs.nodecount ∨ c.regs.nodebase % 32 ≠ 0 ∨ (!nodesFree s c) = true) := by
    simp [nodesFree, new, aligned, few]
    omega
  have fit : ¬c.poolSlots < (ds.map NodeDesc.floor).foldl (· + ·) 0 := by
    rw [← List.sum_eq_foldl]
    exact Nat.not_lt.2 floors
  change execLoadNodeTable c.id s = _
  simp only [execLoadNodeTable, runsCommand_of_carries h, if_neg taken, read, if_neg fit]
  exact congrArg Host.Outcome.next (modCtx_commandDone_eq _ _ _ _ (by exact fun _ => rfl))

/-- LOAD_GENERATOR_TABLE whose registers name a table, with no fill of the context under way, ends as the table is read (R182). -/
theorem loadGeneratorTable_eq {s1 : State} {r : TableRead (List GenDesc)} (h : Carries s c 2) (some_ : 1 ≤ c.regs.gencount)
    (few : c.regs.gencount ≤ 256) (aligned : c.regs.genbase % 64 = 0) (fills : ∀ f ∈ s.fills, f.ctx ≠ c.id)
    (read : tableLoad c.id 64 (genDesc? c.nodes) c.regs.gencount c.regs.genbase s = (s1, r)) :
    exec (.loadGeneratorTable c.id) s = .next (match r with
      | .bad => doneWith s1 c.id 1 id
      | .later => s1
      | .ok ds => doneWith s1 c.id 0 (fun x => { x with gens := ds })) := by
  have idle : ¬s.fills.any (fun f => f.ctx == c.id) = true := by simpa using fills
  have taken : ¬(c.regs.gencount = 0 ∨ 256 < c.regs.gencount ∨ c.regs.genbase % 64 ≠ 0 ∨ s.fills.any (fun f => f.ctx == c.id) = true) := by
    rintro (h | h | h | h)
    · omega
    · omega
    · exact h aligned
    · exact idle h
  change execLoadGeneratorTable c.id s = _
  simp only [execLoadGeneratorTable, runsCommand_of_carries h, if_neg taken, read]
  cases r with
  | bad => exact congrArg Host.Outcome.next (commandDone_eq s1 c.id 1)
  | later => rfl
  | ok ds => exact congrArg Host.Outcome.next (modCtx_commandDone_eq _ _ _ _ (by exact fun _ => rfl))

/-- INVALIDATE_TRANSLATIONS without a walk of the context in progress drops what the range covers (R95, R102). -/
theorem invalidateTranslations_drops (h : Carries s c 5) (walks : ∀ w ∈ s.walks, w.ctx ≠ c.id) :
    let lo := c.cmdArgs.1
    let hi := c.cmdArgs.1 + c.cmdArgs.2
    exec (.invalidateTranslations c.id) s = .next { doneWith s c.id 0 id with
      tlb := s.tlb.filter (fun e => !(e.ctx == c.id && decide (lo < e.tr.base + e.tr.size) && decide (e.tr.base < hi)))
      icache := s.icache.filter (fun w => !((s.grid? w.grid).map Grid.ctx == some c.id && decide (lo ≤ w.va) && decide (w.va < hi))) } := by
  intro lo hi
  have none : ¬s.walks.any (fun w => w.ctx == c.id && decide (c.cmdArgs.1 < (w.frame + 1) * 0x1000) &&
      decide (w.frame * 0x1000 < c.cmdArgs.1 + c.cmdArgs.2)) = true := by
    rw [List.any_eq_true]
    rintro ⟨w, hw, covered⟩
    simp only [Bool.and_eq_true, beq_iff_eq] at covered
    exact walks w hw covered.1.1
  change execInvalidateTranslations c.id s = _
  simp only [execInvalidateTranslations, runsCommand_of_carries h, if_neg none, commandDone_eq]
  rfl

/-- COMMAND_COMPLETION of another command than REMOVE_GRID (R290, R291). -/
theorem commandCompletion_completes {r : Nat} (active : s.power = .active) (found : s.ctx? c.id = some c) (outcome : c.outcome = some r)
    (plain : c.regs.cmd ≠ 6) : exec (.commandCompletion c.id) s = .next { s with
      irqs := s.irqs ++ [.command c.id],
      ctxs := s.ctxs.map (fun x => if x.id = c.id then { x with outcome := none, regs := { x.regs with cmdstat := 0x100 * r } } else x) } := by
  change execCommandCompletion c.id s = _
  simp only [execCommandCompletion, whenOn, active, if_true, found, outcome, plain, false_and, if_false, State.interrupt, State.modCtx,
    updWhere_eq_map, beq_iff_eq]

end

/-- Settles O59: each command by its own part; the generator table is loaded or refused as it reads. -/
theorem contextCommands : Obligations.ContextCommands :=
  ⟨fun _ _ h bad => loadNodeTable_refused h bad,
    fun _ _ _ _ h some_ few aligned new read floors => loadNodeTable_loads h some_ few aligned new read floors,
    fun _ _ _ _ h some_ few aligned fills read => loadGeneratorTable_eq h some_ few aligned fills read,
    fun _ _ _ h some_ few aligned read fills => loadGeneratorTable_eq h some_ few aligned fills read,
    fun _ _ h walks => invalidateTranslations_drops h walks,
    fun _ _ _ active found outcome plain => commandCompletion_completes active found outcome plain⟩

end Sys2Proof.Proofs
end

section
/-!
PROOFS. Walks of the page tables (R89, R90, R92): the levels that lead on to the next table, and the leaf.
-/

namespace Sys2Proof.Proofs
open Sys2Proof Sys2Proof.Machine Sys2Proof.Laws Sys2Proof.Stmt

/-- An aligned entry that the walker cannot reach reads as zero (R297): one that reads otherwise is reached. -/
theorem physBlocked_of_entry {s : State} {a : Nat} (aligned : a % 8 = 0) (h : s.readPhysNat a 8 ≠ 0) : s.physBlocked a 8 false = [] := by
  have oneLine : (a % 128 + 8 + 127) / 128 = 1 := by omega
  by_contra blocked
  refine h ?_
  have lines : s.physBlocked a 8 false = [a - a % 128] := by
    simp only [State.physBlocked, oneLine, List.range_one, List.map_cons, List.map_nil, Nat.mul_zero, Nat.add_zero] at blocked ⊢
    by_cases reach : s.reachable (.pa (a - a % 128)) false = true
    · simp [reach] at blocked
    · simp [reach]
  have inLine : ∀ i < 8, a + i - (a + i) % 128 = a - a % 128 := fun i hi => by omega
  simp only [State.readPhysNat, State.readPhys, lines]
  rw [List.map_congr_left (g := fun _ => 0) fun i hi => by simp [inLine i (List.mem_range.1 hi)]]
  decide

theorem pteFrame_aligned (e : Nat) : pteFrame e % 8 = 0 := by unfold pteFrame; omega

/-- An entry has its bit 0 only if it is not zero. -/
theorem ne_zero_of_bitAt {e n : Nat} (h : bitAt e n = true) : e ≠ 0 := by
  rintro rfl
  simp [bitAt] at h

/-- A valid entry of an aligned table is reached, and no denial is counted (R297). -/
theorem logLines_of_valid {s : State} {table level va e : Nat} (aligned : table % 8 = 0) (entry : e = tableEntry s table level va)
    (valid : bitAt e 0 = true) :
    s.logLines (s.physBlocked (table + 8 * levelIndex level va) 8 false) false = s := by
  rw [physBlocked_of_entry (by omega) fun h => ne_zero_of_bitAt valid (entry.trans h)]
  rfl

/-- An entry that points on leads to the next table (R89, R90). -/
theorem walkLevel_pointsOn {s : State} {w : WalkFor} {n table e : Nat} (aligned : table % 8 = 0) (entry : e = tableEntry s table (n + 1) w.va)
    (on : PointsOn e) : State.walkLevel w (n + 1) table s = State.walkLevel w n (pteFrame e) s := by
  obtain ⟨valid, next, accessed, limits⟩ := on
  have logged := logLines_of_valid aligned entry valid
  rw [State.walkLevel, logged, show s.readPhysNat (table + 8 * levelIndex (n + 1) w.va) 8 = e from entry.symm]
  simp only [valid, next, accessed, limits, Bool.not_true, Bool.false_eq_true, if_false, if_true]

/-- An entry that is not valid fails the walk replayably (R93). -/
theorem walkLevel_invalid {s : State} {w : WalkFor} {level table : Nat} (h : bitAt (tableEntry s table level w.va) 0 = false) :
    State.walkLevel w level table s =
      (s.logLines (s.physBlocked (table + 8 * levelIndex level w.va) 8 false) false, .error .replay) := by
  have invalid : bitAt (s.readPhysNat (table + 8 * levelIndex level w.va) 8) 0 = false := h
  cases level with
  | zero => rw [State.walkLevel, invalid]; rfl
  | succ n => rw [State.walkLevel, invalid]; rfl

theorem leafSize_eq_pageBytes {level : Nat} (h : level ≤ 2) : leafSize level = pageBytes level := by
  interval_cases level <;> rfl

/-- A plain leaf is not a run of 64 KiB (R91). -/
theorem pageBytes_ne_run {level : Nat} (h : level ≤ 2) : pageBytes level ≠ 0x10000 := by
  interval_cases level <;> simp [pageBytes]

/-- The limits of a leaf hold of a plain one (R90, R472). -/
theorem leafBad_of_plainLeaf {s : State} {level entry e : Nat} (h : level ≤ 2) (plain : PlainLeaf level e) :
    s.leafBad level entry e (pageBytes level) = false := by
  obtain ⟨-, -, -, -, run, compressed, env, gen, aligned, localMem⟩ := plain
  have below : pteFrame e < 0x1000000000 := by simpa [isLocal] using localMem
  have peer : peerOf (pteFrame e) = none := if_neg (by omega)
  have reserved : isReserved (pteFrame e) = false := decide_eq_false (by omega)
  have register : isRegister (pteFrame e) = false := decide_eq_false (by omega)
  simp [State.leafBad, run, compressed, env, gen, pageBytes_ne_run h, aligned, peer, reserved, register]

/-- The translation of a plain leaf (R90, R92). -/
def leafTranslation (level e va : Nat) (d : Bool) : Translation :=
  ⟨va - va % pageBytes level, pageBytes level, pteFrame e, bitAt e 2, bitAt e 3, false, false, d, 0⟩

/-- What a walk finds at a plain leaf that has been read before, and written before by a write: the page's translation, or that its W or X does not
allow the access (R90 to R93). -/
theorem walkLevel_plainLeaf {s : State} {w : WalkFor} {level table e : Nat} (h : level ≤ 2) (aligned : table % 8 = 0)
    (entry : e = tableEntry s table level w.va) (plain : PlainLeaf level e) :
    (((w.write && !bitAt e 2) || (w.fetch && !bitAt e 3)) = true →
      State.walkLevel w level table s = (s, .error (.denied (w.va - w.va % pageBytes level) (pageBytes level)))) ∧
    (((w.write && !bitAt e 2) || (w.fetch && !bitAt e 3)) = false → (w.write = true → bitAt e 9 = true) →
      State.walkLevel w level table s = (s, .ok (leafTranslation level e w.va (bitAt e 9)))) := by
  have logged := logLines_of_valid aligned entry plain.1
  have good := fun a => leafBad_of_plainLeaf (s := s) (entry := a) h plain
  have size := leafSize_eq_pageBytes h
  have notRun := pageBytes_ne_run h
  obtain ⟨valid, last, accessed, limits, run, compressed, env, gen, -, -⟩ := plain
  have read : s.readPhysNat (table + 8 * levelIndex level w.va) 8 = e := entry.symm
  have low : ¬3 ≤ level := by omega
  have leaf : State.walkLevel w level table s =
      (if ((w.write && !bitAt e 2) || (w.fetch && !bitAt e 3)) = true then
        (s, .error (.denied (w.va - w.va % pageBytes level) (pageBytes level)))
      else
        (if (w.write && !bitAt e 9) = true then
            s.writePhysNat (table + 8 * levelIndex level w.va + 1) 1 (bits (s.readPhysNat (table + 8 * levelIndex level w.va) 8) 15 8 + 2)
          else s,
          .ok (leafTranslation level e w.va (w.write || bitAt e 9)))) := by
    rw [State.walkLevel.eq_def]
    cases level
    all_goals simp only [logged, read, valid, last, accessed, limits, run, compressed, env, gen, good, size, notRun, low, leafTranslation,
      Bool.not_true, Bool.false_eq_true, and_false, if_false, if_true]
  refine ⟨fun denied => by rw [leaf, if_pos denied], fun allowed dirty => ?_⟩
  have clean : (w.write && !bitAt e 9) = false := by
    cases hw : w.write with
    | false => rfl
    | true => simp [dirty hw]
  have d : (w.write || bitAt e 9) = bitAt e 9 := by
    cases hw : w.write with
    | false => rfl
    | true => simp [dirty hw]
  rw [leaf, allowed, clean, d]
  rfl

/-- Where the tables lead to an entry, the walk comes to it unchanged. -/
theorem walkLevel_of_leadsTo {s : State} {w : WalkFor} {root level e : Nat} (aligned : root % 8 = 0) (leads : LeadsTo s root w.va level e) :
    level ≤ 2 ∧ ∃ table, table % 8 = 0 ∧ e = tableEntry s table level w.va ∧
      State.walkLevel w 4 root s = State.walkLevel w level table s := by
  obtain ⟨e4, e3, entry4, entry3, on4, on3, rest⟩ := leads
  have to2 : State.walkLevel w 4 root s = State.walkLevel w 2 (pteFrame e3) s :=
    (walkLevel_pointsOn aligned entry4 on4).trans (walkLevel_pointsOn (pteFrame_aligned e4) entry3 on3)
  rcases rest with ⟨rfl, entry⟩ | ⟨e2, entry2, on2, rest⟩
  · exact ⟨by omega, _, pteFrame_aligned e3, entry, to2⟩
  · have to1 := to2.trans (walkLevel_pointsOn (pteFrame_aligned e3) entry2 on2)
    rcases rest with ⟨rfl, entry⟩ | ⟨e1, entry1, on1, rfl, entry⟩
    · exact ⟨by omega, _, pteFrame_aligned e2, entry, to1⟩
    · exact ⟨by omega, _, pteFrame_aligned e1, entry, to1.trans (walkLevel_pointsOn (pteFrame_aligned e2) entry1 on1)⟩

end Sys2Proof.Proofs
end

section
/-!
PROOFS. The TLBs after a walk (R92), and the threads that wait for it (R92, R93).
-/

namespace Sys2Proof.Proofs
open Sys2Proof Sys2Proof.Machine Sys2Proof.Laws Sys2Proof.Stmt

/-- A translation put in a TLB is the one found there for its addresses: every earlier one of them gives way (R92). -/
theorem tlbIn_tlbPut (s : State) (u : TlbUnit) (room ctx va : Nat) (t : Translation) (low : t.base ≤ va) (high : va < t.base + t.size) :
    (s.tlbPut u room ctx t).tlbIn u ctx va = some t := by
  obtain ⟨kept, none, tlb⟩ : ∃ kept : List TlbEntry, (∀ e ∈ kept, (e.unit == u && e.ctx == ctx && decide (e.tr.base ≤ va) &&
      decide (va < e.tr.base + e.tr.size)) = false) ∧ (s.tlbPut u room ctx t).tlb = kept ++ [⟨u, ctx, t⟩] := by
    have clear : ∀ e ∈ s.tlb.filter (fun e => !(e.unit == u && e.ctx == ctx && decide (e.tr.base < t.base + t.size) &&
        decide (t.base < e.tr.base + e.tr.size))), (e.unit == u && e.ctx == ctx && decide (e.tr.base ≤ va) &&
          decide (va < e.tr.base + e.tr.size)) = false := fun e he => by
      have apart := (List.mem_filter.1 he).2
      by_contra covers
      simp only [Bool.not_eq_false, Bool.and_eq_true, beq_iff_eq, decide_eq_true_eq] at covers
      obtain ⟨⟨⟨unit, ctx⟩, below⟩, above⟩ := covers
      have starts : e.tr.base < t.base + t.size := below.trans_lt high
      have ends : t.base < e.tr.base + e.tr.size := low.trans_lt above
      simp [unit, ctx, starts, ends] at apart
    unfold State.tlbPut
    dsimp only
    split
    · exact ⟨_, clear, rfl⟩
    · split
      · exact ⟨_, clear, rfl⟩
      · exact ⟨_, fun e he => clear e (List.mem_of_mem_filter he), rfl⟩
  have missed : kept.find? (fun e => e.unit == u && e.ctx == ctx && decide (e.tr.base ≤ va) && decide (va < e.tr.base + e.tr.size)) = Option.none :=
    List.find?_eq_none.2 fun e he => by rw [none e he]; exact Bool.false_ne_true
  simp [State.tlbIn, tlb, List.find?_append, missed, low, high]

/-- After a walk the core's TLB serves its addresses (R92). -/
theorem tlbFind_tlbFill (s : State) (core ctx va : Nat) (t : Translation) (low : t.base ≤ va) (high : va < t.base + t.size) :
    (s.tlbFill core ctx t).tlbFind core ctx va = some t := by
  rw [State.tlbFind, State.tlbFill, tlbIn_tlbPut _ _ _ _ _ _ low high]

/-- Threads among waiting accesses. -/
theorem threadsIn_cons_thread (u : ThreadId) (va : Nat) (k : Kind) (l : List Joined) :
    threadsIn (⟨.thread u, va, k⟩ :: l) = u :: threadsIn l := rfl

/-- The threads that waited for a walk go on (R92). -/
theorem walkDone_threads (l : List Joined) (h : ∀ j ∈ l, ∃ u, j.who = .thread u) (s : State) : walkDone s l =
    { s with threads := s.threads.map (fun t => if t.id ∈ threadsIn l then { t with stall := .none } else t) } := by
  induction l generalizing s with
  | nil => simp [walkDone, threadsIn]
  | cons j l ih =>
    obtain ⟨who, va, k⟩ := j
    obtain ⟨u, rfl⟩ := h _ (List.mem_cons_self ..)
    have first : walkDone s (⟨.thread u, va, k⟩ :: l) = walkDone (s.modThread u (fun x => { x with stall := .none })) l := rfl
    rw [first, ih (fun j hj => h j (List.mem_cons_of_mem _ hj))]
    simp only [State.modThread, updWhere_eq_map, List.map_map, threadsIn_cons_thread, List.mem_cons, beq_iff_eq]
    congr 1
    refine List.map_congr_left fun t _ => ?_
    by_cases now : t.id = u <;> by_cases later : t.id ∈ threadsIn l <;> simp [now, later]

/-- Whether the address of a walk's frame is inside a leaf does not depend on how the leaf is named (R92). -/
theorem inLeaf_eq_insidePage (w : Walk) (level : Nat) : inLeaf w (w.va - w.va % pageBytes level) (pageBytes level) = insidePage w level := by
  funext o
  have positive : 0 < pageBytes level := by unfold pageBytes; positivity
  have page : w.va - w.va % pageBytes level = w.va / pageBytes level * pageBytes level := by
    have := Nat.div_add_mod' w.va (pageBytes level)
    omega
  have same : (decide (w.va - w.va % pageBytes level ≤ o.frame * 0x1000) &&
      decide (o.frame * 0x1000 < w.va - w.va % pageBytes level + pageBytes level)) =
      (o.frame * 4096 / pageBytes level == w.va / pageBytes level) := by
    rw [Bool.eq_iff_iff, page]
    simp only [Bool.and_eq_true, decide_eq_true_eq, beq_iff_eq]
    rw [Nat.div_eq_iff positive]
    omega
  rw [inLeaf, insidePage, Bool.and_assoc, same]

end Sys2Proof.Proofs
end

section
/-!
PROOFS. Fault records (R93, R94, R291): writing one keeps what every record's accesses are.
-/

namespace Sys2Proof.Proofs
open Sys2Proof Sys2Proof.Machine Sys2Proof.Laws Sys2Proof.Stmt

/-- The accesses of every fault record of a context, oldest first (R94). -/
def faultJoins (s : State) (ctx : Nat) : Option (List (List Joined)) := (s.ctx? ctx).map (fun x => x.faults.map Fault94.joined)

/-- A change of a context's other fields keeps them. -/
theorem faultJoins_modCtx (s : State) (n k : Nat) (f : Ctx → Ctx) (names : ∀ x, (f x).id = x.id)
    (h : ∀ c, s.ctx? n = some c → (f c).faults.map Fault94.joined = c.faults.map Fault94.joined) :
    faultJoins (s.modCtx n f) k = faultJoins s k := by
  unfold faultJoins
  by_cases same : k = n
  · subst same
    rw [ctx_modCtx_self s k f fun x hx => (names x).trans hx]
    cases found : s.ctx? k with
    | none => rfl
    | some c => exact congrArg some (h c found)
  · rw [ctx_modCtx_of_ne s n k f (fun x hx => (names x).trans hx) same]

theorem faultJoins_setCstat (s : State) (n bit k : Nat) : faultJoins (s.setCstat n bit) k = faultJoins s k := by
  unfold State.setCstat
  split
  · rfl
  · split
    · rfl
    · exact faultJoins_modCtx s n k _ (fun _ => rfl) (fun _ _ => rfl)

theorem faultJoins_faultRingCheck (s : State) (n k : Nat) : faultJoins (s.faultRingCheck n) k = faultJoins s k := by
  unfold State.faultRingCheck
  split
  · rfl
  · split
    · exact faultJoins_setCstat s n 2 k
    · rfl

theorem faultJoins_writePhys (s : State) (a : Nat) (bs : List Byte) (k : Nat) : faultJoins (s.writePhys a bs) k = faultJoins s k := by
  obtain ⟨m, d, e, -⟩ := writePhys_frame s a bs
  rw [e]
  rfl

/-- The number that a record receives leaves its accesses alone. -/
theorem map_setAt_findIdx {α β : Type} (g : α → β) (p : α → Bool) (l : List α) {a b : α} (found : l.find? p = some a) (same : g b = g a) :
    (setAt l (l.findIdx p) b).map g = l.map g := by
  rw [List.find?_eq_getElem?_findIdx] at found
  obtain ⟨inside, there⟩ := List.getElem?_eq_some_iff.1 found
  have mapped : (l.map g)[l.findIdx p]'(by simpa using inside) = g b := by rw [List.getElem_map, there, same]
  rw [setAt_eq_set, List.map_set, ← mapped, List.set_getElem_self]

/-- Writing a record gives a fault its number, and changes no record's accesses (R94, R291). -/
theorem faultJoins_writeFault (s : State) (n k : Nat) : faultJoins (s.writeFault n) k = faultJoins s k := by
  unfold State.writeFault
  split
  · rfl
  · rename_i c found
    split
    · rfl
    · rename_i f first
      split
      · exact faultJoins_setCstat s n 2 k
      · dsimp only
        rw [faultJoins_faultRingCheck]
        refine (faultJoins_modCtx _ n k _ (by exact fun _ => rfl) (fun x hx => ?_)).trans (faultJoins_writePhys ..)
        obtain ⟨m, d, e, -⟩ := writePhys_frame s (c.regs.frbase + 32 * (c.regs.frprod % 2 ^ c.regs.frlog2)) _
        rw [e] at hx
        obtain rfl : x = c := Option.some.inj (hx.symm.trans found)
        exact map_setAt_findIdx Fault94.joined _ _ first rfl

end Sys2Proof.Proofs
end

section
/-!
PROOFS. PAGE_WALK and FAULT_REPLY (R92 to R94): how a walk ends for the threads that wait for it, and what the host's reply does.
-/

namespace Sys2Proof.Proofs
open Sys2Proof Sys2Proof.Machine Sys2Proof.Laws Sys2Proof.Stmt

/-! ### Walks -/

/-- A replayable failure parks the threads that wait, and records their accesses together (R93, R94). -/
theorem raiseFault_threads {s : State} {ctx : Nat} {c : Ctx} {l : List Joined} (found : s.ctx? ctx = some c)
    (h : ∀ j ∈ l, ∃ u, j.who = .thread u) (core va : Nat) (kind : Kind) :
    (∃ m d cs is, s.raiseFault ctx core va kind l = { s with
      mem := m, denials := d, ctxs := cs, irqs := is,
      threads := s.threads.map (fun t => if t.id ∈ threadsIn l then { t with park := .fault, stall := .none } else t) }) ∧
    faultJoins (s.raiseFault ctx core va kind l) ctx = some (c.faults.map Fault94.joined ++ [l]) := by
  have kept : ∀ p : Joined → Bool, (∀ u va k, p ⟨.thread u, va, k⟩ = true) → l.filter p = l := fun p hp =>
    List.filter_eq_self.2 fun ⟨who, va, k⟩ hj => by obtain ⟨u, rfl⟩ := h _ hj; exact hp u va k
  constructor
  · obtain ⟨m, d, cs, is, e, -⟩ := raiseFault_recordOnly s ctx core va kind l
    refine ⟨m, d, cs, is, ?_⟩
    rw [e, kept]
    · simp only [updWhere_eq_map, List.contains_iff_mem]
      rfl
    · exact fun _ _ _ => rfl
  · unfold State.raiseFault
    dsimp only
    rw [faultJoins_writeFault, kept]
    · have faults : (s.modCtx ctx (fun c => { c with faults := c.faults ++ [⟨none, va, kind, core, l⟩] })).ctx? ctx =
          some { c with faults := c.faults ++ [⟨none, va, kind, core, l⟩] } := by
        rw [ctx_modCtx_self s ctx _ (by exact fun _ hx => hx), found]
        rfl
      refine (congrArg (Option.map fun x => x.faults.map Fault94.joined) faults).trans ?_
      simp
    · exact fun _ _ _ => rfl

/-! ### The end of a walk -/

section
variable {s r : State} {i : Nat} {w : Walk} {c : Ctx}

/-- The state in which a walk of the list completes: it is no longer in progress. -/
def offWalks (s : State) (i : Nat) : State := { s with walks := without s.walks i }

/-- What a walk is for. -/
def walkPurpose (w : Walk) : WalkFor := ⟨w.ctx, w.va, w.write, w.kind == .fetch⟩

/-- The walk of an enabled context is the way through its tables from the root (R89, R92). -/
theorem walk_offWalks (found : s.ctx? w.ctx = some c) (enabled : c.regs.ptroot ≠ 0) {x : Except WalkFail Translation}
    (way : State.walkLevel (walkPurpose w) 4 c.regs.ptroot (offWalks s i) = (r, x)) :
    State.walk (offWalks s i) w.core (walkPurpose w) = match x with
      | .ok t => (r.tlbFill w.core w.ctx t, .ok t)
      | .error e => (r, .error e) := by
  have found' : (offWalks s i).ctx? (walkPurpose w).ctx = some c := found
  simp only [State.walk, found', if_neg enabled, way]
  cases x <;> rfl

theorem enabled_of_root (found : s.ctx? w.ctx = some c) (enabled : c.regs.ptroot ≠ 0) : s.enabled w.ctx = true := by
  simp [State.enabled, found, enabled]

/-- A walk that finds a leaf lets its accesses, and those of the walks inside the leaf, go on (R92). -/
theorem execPageWalk_ok (at_ : s.walks[i]? = some w) (found : s.ctx? w.ctx = some c) (enabled : c.regs.ptroot ≠ 0) {t : Translation}
    (way : State.walkLevel (walkPurpose w) 4 c.regs.ptroot (offWalks s i) = (offWalks s i, .ok t)) :
    exec (.pageWalk i) s = .next (walkDone
      { (offWalks s i).tlbFill w.core w.ctx t with walks := (without s.walks i).filter (fun o => !inLeaf w t.base t.size o) }
      (together w (without s.walks i) (inLeaf w t.base t.size))) := by
  have whole : State.walk { s with walks := dropAt s.walks i } w.core ⟨w.ctx, w.va, w.write, w.kind == .fetch⟩ = _ :=
    walk_offWalks found enabled way
  obtain ⟨l, n, filled⟩ := tlbFill_eq (offWalks s i) w.core w.ctx t
  change execPageWalk i s = _
  simp only [execPageWalk, at_, enabled_of_root found enabled, whole, filled]
  rfl

/-- A walk whose leaf does not allow the access faults for the accesses of its own sort, and lets the others go on (R92, R93). -/
theorem execPageWalk_denied (at_ : s.walks[i]? = some w) (found : s.ctx? w.ctx = some c) (enabled : c.regs.ptroot ≠ 0) {base size : Nat}
    (way : State.walkLevel (walkPurpose w) 4 c.regs.ptroot (offWalks s i) = (offWalks s i, .error (.denied base size))) :
    exec (.pageWalk i) s = .next (
      let all := together w (without s.walks i) (inLeaf w base size)
      walkDone (State.raiseFault { s with walks := (without s.walks i).filter (fun o => !inLeaf w base size o) } w.ctx w.core w.va w.kind
        (all.filter (fun j => sameSort w j.kind))) (all.filter (fun j => !sameSort w j.kind))) := by
  have whole : State.walk { s with walks := dropAt s.walks i } w.core ⟨w.ctx, w.va, w.write, w.kind == .fetch⟩ = _ :=
    walk_offWalks found enabled way
  change execPageWalk i s = _
  simp only [execPageWalk, at_, enabled_of_root found enabled, whole]
  rfl

/-- A walk that fails replayably faults for its accesses (R93). -/
theorem execPageWalk_replay (at_ : s.walks[i]? = some w) (found : s.ctx? w.ctx = some c) (enabled : c.regs.ptroot ≠ 0)
    (way : State.walkLevel (walkPurpose w) 4 c.regs.ptroot (offWalks s i) = (r, .error .replay)) :
    exec (.pageWalk i) s = .next (r.raiseFault w.ctx w.core w.va w.kind w.joined) := by
  have whole : State.walk { s with walks := dropAt s.walks i } w.core ⟨w.ctx, w.va, w.write, w.kind == .fetch⟩ = _ :=
    walk_offWalks found enabled way
  change execPageWalk i s = _
  simp only [execPageWalk, at_, enabled_of_root found enabled, whole]
  rfl

/-- A leaf that the tables lead to is what the walk finds: its translation, or that it does not allow the access (R89 to R93). -/
theorem walk_leaf {level e : Nat} (aligned : c.regs.ptroot % 4096 = 0) (leads : LeadsTo s c.regs.ptroot w.va level e)
    (plain : PlainLeaf level e) :
    (((w.write && !bitAt e 2) || ((w.kind == .fetch) && !bitAt e 3)) = true →
      State.walkLevel (walkPurpose w) 4 c.regs.ptroot (offWalks s i) =
        (offWalks s i, .error (.denied (w.va - w.va % pageBytes level) (pageBytes level)))) ∧
    (((w.write && !bitAt e 2) || ((w.kind == .fetch) && !bitAt e 3)) = false → (w.write = true → bitAt e 9 = true) →
      State.walkLevel (walkPurpose w) 4 c.regs.ptroot (offWalks s i) = (offWalks s i, .ok (leafTranslation level e w.va (bitAt e 9)))) := by
  have leads' : LeadsTo (offWalks s i) c.regs.ptroot (walkPurpose w).va level e := leads
  obtain ⟨low, table, aligned', entry, way⟩ := walkLevel_of_leadsTo (w := walkPurpose w) (by omega : c.regs.ptroot % 8 = 0) leads'
  rw [way]
  exact walkLevel_plainLeaf low aligned' entry plain

/-- A walk to a leaf that allows the access (R92). -/
theorem pageWalk_leaf {level e : Nat} (at_ : s.walks[i]? = some w) (found : s.ctx? w.ctx = some c) (aligned : c.regs.ptroot % 4096 = 0)
    (enabled : c.regs.ptroot ≠ 0) (leads : LeadsTo s c.regs.ptroot w.va level e) (plain : PlainLeaf level e)
    (threads : ∀ j ∈ together w (without s.walks i) (insidePage w level), ∃ u, j.who = .thread u)
    (write : w.write = true → bitAt e 2 = true ∧ bitAt e 9 = true) (fetch : w.kind = .fetch → bitAt e 3 = true) :
    ∃ s', exec (.pageWalk i) s = .next s' ∧
      s' = { s with
        walks := (without s.walks i).filter (fun o => !insidePage w level o), tlb := s'.tlb, freeCtr := s'.freeCtr
        threads := s.threads.map (fun t =>
          if t.id ∈ threadsIn (together w (without s.walks i) (insidePage w level)) then { t with stall := .none } else t) } ∧
      s'.tlbFind w.core w.ctx w.va = some ⟨w.va - w.va % pageBytes level, pageBytes level, pteFrame e, bitAt e 2, bitAt e 3, false, false,
        bitAt e 9, 0⟩ := by
  have allowed : ((w.write && !bitAt e 2) || ((w.kind == .fetch) && !bitAt e 3)) = false := by
    rw [Bool.or_eq_false_iff]
    constructor
    · cases hw : w.write with
      | false => rfl
      | true => simp [(write hw).1]
    · by_cases hf : w.kind = .fetch
      · simp [fetch hf]
      · simp [hf]
  have way := (walk_leaf (s := s) (i := i) aligned leads plain).2 allowed fun hw => (write hw).2
  have run := execPageWalk_ok at_ found enabled way
  have inside : inLeaf w (leafTranslation level e w.va (bitAt e 9)).base (leafTranslation level e w.va (bitAt e 9)).size = insidePage w level :=
    inLeaf_eq_insidePage w level
  rw [inside, walkDone_threads _ threads] at run
  obtain ⟨l, n, filled⟩ := tlbFill_eq (offWalks s i) w.core w.ctx (leafTranslation level e w.va (bitAt e 9))
  have positive : 0 < pageBytes level := by unfold pageBytes; positivity
  have served := tlbFind_tlbFill (offWalks s i) w.core w.ctx w.va (leafTranslation level e w.va (bitAt e 9)) (Nat.sub_le ..)
    (by have := Nat.mod_lt w.va positive; simp only [leafTranslation]; omega)
  exact ⟨_, run, by rw [filled]; rfl, served⟩

/-- An access is of the walk's own sort when it writes, or fetches, as the walk does (R92). -/
theorem sameSort_eq (w : Walk) (k : Kind) : sameSort w k = ((k == .fetch) == (w.kind == .fetch) && writes k == w.write) := by
  cases k <;> rfl

/-- Threads of one sort are parked and those of the other go on (R92, R93). -/
theorem mem_threadsIn_filter_or (l : List Joined) (p : Joined → Bool) (u : ThreadId) :
    u ∈ threadsIn l ↔ u ∈ threadsIn (l.filter p) ∨ u ∈ threadsIn (l.filter fun j => !p j) := by
  simp only [threadsIn, List.mem_filterMap, List.mem_filter]
  constructor
  · rintro ⟨j, hj, hu⟩
    cases hp : p j with
    | true => exact .inl ⟨j, ⟨hj, hp⟩, hu⟩
    | false => exact .inr ⟨j, ⟨hj, by simp [hp]⟩, hu⟩
  · rintro (⟨j, ⟨hj, -⟩, hu⟩ | ⟨j, ⟨hj, -⟩, hu⟩) <;> exact ⟨j, hj, hu⟩

/-- The threads of one group park, and those of the other go on. -/
theorem map_park_free (l : List Thread) {all own other : List ThreadId} (both : ∀ u, u ∈ all ↔ u ∈ own ∨ u ∈ other) :
    (l.map (fun t => if t.id ∈ own then { t with park := .fault, stall := .none } else t)).map
      (fun t => if t.id ∈ other then { t with stall := .none } else t) =
    l.map (fun t => if t.id ∈ own then { t with park := .fault, stall := .none } else if t.id ∈ all then { t with stall := .none } else t) := by
  rw [List.map_map]
  refine List.map_congr_left fun t _ => ?_
  by_cases h : t.id ∈ own <;> by_cases h' : t.id ∈ other <;> simp [h, h', both]

/-- A walk to a leaf that does not allow the access (R92, R93). -/
theorem pageWalk_denied {level e : Nat} (at_ : s.walks[i]? = some w) (found : s.ctx? w.ctx = some c) (aligned : c.regs.ptroot % 4096 = 0)
    (enabled : c.regs.ptroot ≠ 0) (leads : LeadsTo s c.regs.ptroot w.va level e) (plain : PlainLeaf level e)
    (threads : ∀ j ∈ together w (without s.walks i) (insidePage w level), ∃ u, j.who = .thread u)
    (denied : (w.write = true ∧ bitAt e 2 = false) ∨ (w.kind = .fetch ∧ bitAt e 3 = false)) :
    let all := together w (without s.walks i) (insidePage w level)
    let same := fun (j : Joined) => sameSort w j.kind
    ∃ s', exec (.pageWalk i) s = .next s' ∧ s'.walks = (without s.walks i).filter (fun o => !insidePage w level o) ∧ s'.tlb = s.tlb ∧
      s'.threads = s.threads.map (fun t =>
        if t.id ∈ threadsIn (all.filter same) then { t with park := .fault, stall := .none }
        else if t.id ∈ threadsIn all then { t with stall := .none } else t) ∧
      faultJoins s' w.ctx = some (c.faults.map Fault94.joined ++ [all.filter same]) := by
  intro all same
  have refused : ((w.write && !bitAt e 2) || ((w.kind == .fetch) && !bitAt e 3)) = true := by
    rcases denied with ⟨hw, h⟩ | ⟨hf, h⟩
    · simp [hw, h]
    · simp [hf, h]
  have run := execPageWalk_denied at_ found enabled ((walk_leaf (s := s) (i := i) aligned leads plain).1 refused)
  rw [inLeaf_eq_insidePage w level] at run
  have part : ∀ p : Joined → Bool, ∀ j ∈ all.filter p, ∃ u, j.who = .thread u := fun p j hj => threads j (List.mem_of_mem_filter hj)
  have found' : State.ctx? { s with walks := (without s.walks i).filter (fun o => !insidePage w level o) } w.ctx = some c := found
  obtain ⟨⟨m, d, cs, is, parked⟩, joins⟩ := raiseFault_threads found' (part same) w.core w.va w.kind
  refine ⟨_, run, ?_⟩
  rw [walkDone_threads _ (part _)]
  refine ⟨?_, ?_, ?_, joins⟩
  · rw [parked]
  · rw [parked]
  · rw [parked]
    exact map_park_free s.threads (mem_threadsIn_filter_or all same)

/-- A walk that meets an entry with V = 0 in the L4 table (R93). -/
theorem pageWalk_absent {t : Thread} {va : Nat} {k : Kind} (at_ : s.walks[i]? = some w) (found : s.ctx? w.ctx = some c)
    (enabled : c.regs.ptroot ≠ 0) (absent : bitAt (tableEntry s c.regs.ptroot 4 w.va) 0 = false) (live : s.thread? t.id = some t)
    (joined : w.joined = [⟨.thread t.id, va, k⟩]) :
    ∃ s', exec (.pageWalk i) s = .next s' ∧ s'.walks = without s.walks i ∧
      s'.thread? t.id = some { t with park := .fault, stall := .none } ∧
      faultJoins s' w.ctx = some (c.faults.map Fault94.joined ++ [w.joined]) := by
  have invalid : bitAt (tableEntry (offWalks s i) c.regs.ptroot 4 (walkPurpose w).va) 0 = false := absent
  have way := walkLevel_invalid (w := walkPurpose w) invalid
  obtain ⟨d, logged⟩ := logLines_eq
    ((offWalks s i).physBlocked (c.regs.ptroot + 8 * levelIndex 4 (walkPurpose w).va) 8 false) false (offWalks s i)
  rw [logged] at way
  have found' : State.ctx? { offWalks s i with denials := d } w.ctx = some c := found
  have thread : ∀ j ∈ w.joined, ∃ u, j.who = .thread u := by
    rw [joined]
    exact fun j hj => ⟨t.id, by rw [List.mem_singleton.1 hj]⟩
  obtain ⟨⟨m, d', cs, is, parked⟩, joins⟩ := raiseFault_threads found' thread w.core w.va w.kind
  refine ⟨_, execPageWalk_replay at_ found enabled way, ?_, ?_, joins⟩
  · rw [parked]
    rfl
  · have own : threadsIn w.joined = [t.id] := by rw [joined]; rfl
    rw [parked, own]
    have only := thread_modThread_self s t.id (fun x => { x with park := .fault, stall := .none }) (by exact fun _ h => h)
    rw [live] at only
    simpa [State.modThread, State.thread?, updWhere_eq_map, offWalks] using only

end

/-! ### Fault replies -/

section
variable {s : State} {c : Ctx} {value : Word}

/-- A reply that matches no record is written, and nothing else happens (R94). -/
theorem faultReply_ignored (found : s.ctx? c.id = some c) (none : ∀ f ∈ c.faults, f.seq ≠ some (value.toNat % 2 ^ 31)) :
    s.faultReply c.id value = s.modCtx c.id (fun x => { x with regs := { x.regs with freply := value.toNat } }) := by
  have missed : c.faults.find? (fun f => f.seq == some (value.toNat % 2 ^ 31)) = Option.none :=
    List.find?_eq_none.2 fun f hf => by simpa using none f hf
  rw [State.faultReply]
  simp only [ctx_modCtx_self s c.id (fun x => { x with regs := { x.regs with freply := value.toNat } }) (fun _ h => h), found,
    Option.map_some, missed]

/-- The state in which the accesses of a record are answered: the reply is written and the record is gone. -/
def answering (s : State) (n : Nat) (value : Word) (f : Fault94) : State :=
  { s with ctxs := s.ctxs.map (fun x => if x.id = n then
    { x with faults := x.faults.filter (fun y => y != f), regs := { x.regs with freply := value.toNat } } else x) }

/-- A reply to a record answers its accesses (R94). -/
theorem faultReply_answers {f : Fault94} {j : Joined} (found : s.ctx? c.id = some c)
    (record : c.faults.find? (fun x => x.seq == some (value.toNat % 2 ^ 31)) = some f) (joined : f.joined = [j]) :
    s.faultReply c.id value = if value.getLsbD 31 then (answering s c.id value f).failWaiter c.id j .denied
      else (answering s c.id value f).resumeWaiter j := by
  have both : (s.modCtx c.id (fun x => { x with regs := { x.regs with freply := value.toNat } })).modCtx c.id
      (fun x => { x with faults := x.faults.filter (fun y => y != f) }) = answering s c.id value f := by
    simp only [State.modCtx, updWhere_eq_map, List.map_map, answering]
    congr 2
    funext x
    by_cases h : x.id = c.id <;> simp [h]
  have bit : bitAt value.toNat 31 = value.getLsbD 31 := by
    rw [BitVec.getLsbD, Nat.testBit_eq_decide_div_mod_eq]
    rfl
  rw [State.faultReply]
  simp only [ctx_modCtx_self s c.id (fun x => { x with regs := { x.regs with freply := value.toNat } }) (fun _ h => h), found,
    Option.map_some, record, both, joined, bit]
  rfl

/-- The access of a thread on the device replays (R94). -/
theorem resumeWaiter_thread {u : ThreadId} {va : Nat} {k : Kind} (inside : s.outside u.team = false) :
    s.resumeWaiter ⟨.thread u, va, k⟩ =
      { s with threads := s.threads.map (fun x => if x.id = u then { x with park := .none, stall := .none } else x) } := by
  have awake : s.noteWake [u] = s := noteWake_of_inside fun i hi => by rw [List.mem_singleton.1 hi]; exact inside
  simp only [State.resumeWaiter, awake, State.modThread, updWhere_eq_map, beq_iff_eq]

/-- The denied access of a thread on the device traps, unless it is a fetch (R94). -/
theorem failWaiter_denied {n va : Nat} {t : Thread} {k : Kind} (live : s.thread? t.id = some t) (inside : s.outside t.id.team = false)
    (data : k ≠ .fetch) :
    s.failWaiter n ⟨.thread t.id, va, k⟩ .denied = s.threadTrap t .access (BitVec.ofNat 32 va) (va / 2 ^ 32) := by
  have late : s.lateTrap t .access (BitVec.ofNat 32 va) (va / 2 ^ 32) = s.threadTrap t .access (BitVec.ofNat 32 va) (va / 2 ^ 32) := by
    simp [State.lateTrap, inside]
  simp only [State.failWaiter, live]
  cases k with
  | fetch => exact absurd rfl data
  | _ => exact late

end

/-- Settles O29: each clause by its own part. -/
theorem walksAndFaults : Obligations.WalksAndFaults := by
  unfold Obligations.WalksAndFaults
  refine ⟨?leaf, ?absent, ?reply, ?ignored⟩
  case leaf =>
    intro s i level e w c at_ found aligned enabled leads plain others all threads
    refine ⟨pageWalk_leaf at_ found aligned enabled leads plain threads, fun denied => ?_⟩
    have run := pageWalk_denied at_ found aligned enabled leads plain threads denied
    simp only [sameSort_eq] at run
    exact run
  case absent =>
    rintro s i w c t at_ found enabled absent live ⟨va, k, joined⟩
    exact pageWalk_absent at_ found enabled absent live joined
  case reply =>
    intro s c value f t va k found record joined live inside may s1
    have written : exec (.faultReply c.id value) s = .next (s.faultReply c.id value) :=
      congrArg Host.Outcome.next (hostWrite_of_may (fun x => x.faultReply c.id value) may)
    rw [written, faultReply_answers found record joined]
    refine ⟨fun replays => ?_, fun denies data => ?_⟩
    · rw [if_neg (by rw [replays]; exact Bool.false_ne_true), resumeWaiter_thread (s := answering s c.id value f) inside]
      rfl
    · rw [if_pos denies, failWaiter_denied (s := answering s c.id value f) live inside data]
      rfl
  case ignored =>
    intro s c value found none may
    have written : exec (.faultReply c.id value) s = .next (s.faultReply c.id value) :=
      congrArg Host.Outcome.next (hostWrite_of_may (fun x => x.faultReply c.id value) may)
    rw [written, faultReply_ignored found none]
    simp only [State.modCtx, updWhere_eq_map, beq_iff_eq]

end Sys2Proof.Proofs
end

section
/-!
PROOFS. CPY, CPYQ and CPYQ.W (R78, R97, R226, R227, R239 to R241, R245, R343, R344): the checks of a copy's operands, the lines that become absent,
and the entry of the queue.
-/

namespace Sys2Proof.Proofs
open Sys2Proof Sys2Proof.Machine Sys2Proof.Laws Sys2Proof.Stmt

/-! ### Lines that become absent -/

/-- Clearing presence bits changes no scratchpad byte (R78). -/
theorem spadByte_clearPresent (s : State) (n : Nat) (ls : List Nat) (team off : Nat) :
    spadByte (s.clearPresent n ls) team off = spadByte s team off := by
  unfold spadByte State.clearPresent
  by_cases same : team = n
  · subst same
    rw [team_modTeam_self s team _ (by exact fun _ h => h), Option.map_map]
    rfl
  · rw [team_modTeam_of_ne s n team _ (by exact fun _ h => h) same]

/-- Clearing a presence bit keeps the teams that exist. -/
theorem team_clearPresent_isSome (s : State) (n : Nat) (ls : List Nat) (team : Nat) :
    ((s.clearPresent n ls).team? team).isSome = (s.team? team).isSome := by
  unfold State.clearPresent
  by_cases same : team = n
  · subst same
    rw [team_modTeam_self s team _ (by exact fun _ h => h), Option.isSome_map]
  · rw [team_modTeam_of_ne s n team _ (by exact fun _ h => h) same]

/-- The line whose presence bit is cleared becomes absent, and no other (R78). -/
theorem lineAbsent_clearPresent (s : State) (p : Nat × Nat) {team : Nat} (line : Nat) (there : (s.team? team).isSome) :
    lineAbsent (s.clearPresent p.1 [p.2]) team line = (lineAbsent s team line || (team, line) == p) := by
  obtain ⟨n, l⟩ := p
  obtain ⟨tm, found⟩ := Option.isSome_iff_exists.1 there
  unfold lineAbsent State.clearPresent
  by_cases same : team = n
  · subst same
    rw [team_modTeam_self s team _ (by exact fun _ h => h), found]
    by_cases old : line ∈ tm.absent <;> by_cases new : line = l <;> simp_all
  · rw [team_modTeam_of_ne s n team _ (by exact fun _ h => h) same, found]
    simp [same]

/-- The lines of a new command become absent, and nothing else changes (R78). -/
theorem clearPresent_foldl (ps : List (Nat × Nat)) (s : State) :
    let s' := ps.foldl (fun s p => s.clearPresent p.1 [p.2]) s
    s' = { s with teams := s'.teams } ∧ (∀ team off, spadByte s' team off = spadByte s team off) ∧
      ∀ team line, (s.team? team).isSome → lineAbsent s' team line = (lineAbsent s team line || ps.contains (team, line)) := by
  induction ps generalizing s with
  | nil => exact ⟨rfl, fun _ _ => rfl, fun _ _ _ => by simp⟩
  | cons p ps ih =>
    obtain ⟨whole, bytes, lines⟩ := ih (s.clearPresent p.1 [p.2])
    refine ⟨whole, fun team off => (bytes team off).trans (spadByte_clearPresent ..), fun team line there => ?_⟩
    have there' : ((s.clearPresent p.1 [p.2]).team? team).isSome := by rwa [team_clearPresent_isSome]
    rw [List.foldl_cons, lines team line there', lineAbsent_clearPresent s p line there, List.contains_cons, Bool.or_assoc]

/-! ### The queue -/

/-- A command with room enters its queue (R78, R97, R226). -/
theorem enterQueue_issues {s : State} (idle : s.cur = .idle) (c : CrewId) {cmd : EngCmd} (new : cmd.id = s.lastId + 1)
    (locks : List RangeLock) : Issues s (s.enterQueue c cmd locks) c cmd locks := by
  obtain ⟨whole, bytes, lines⟩ := clearPresent_foldl (cmd.pending.filter (fun p => p.1 != 0)) s
  set cleared := (cmd.pending.filter (fun p => p.1 != 0)).foldl (fun s p => s.clearPresent p.1 [p.2]) s with hcleared
  have entered : s.enterQueue c cmd locks = { uniNext s c (after 4) id with
      lastId := s.lastId + 1, cmds := s.cmds ++ [cmd], locks := s.locks ++ locks.map (fun l => { l with cmd := cmd.id }),
      teams := cleared.teams } := by
    unfold State.enterQueue
    rw [← hcleared, finishUniform_eq_uniNext _ c 4 (by rw [whole]; exact idle), whole, new]
    have named : { cmd with id := s.lastId + 1 } = cmd := by rw [← new]
    simp only [State.fresh, named]
    rfl
  refine ⟨by rw [entered], fun team off => ?_, fun team line nonzero there => ?_⟩
  · rw [entered, ← bytes team off]
    rfl
  · have marked : lineAbsent (s.enterQueue c cmd locks) team line = lineAbsent cleared team line := by rw [entered]; rfl
    rw [marked, lines team line there]
    simp [nonzero, List.contains_eq_mem, List.mem_filter]

/-! ### The checks of a copy's operands -/

/-- The multicast mask is a halfword (R239). -/
theorem mcast_lt (ws : List Word) : (CopyBlock.of ws).mcast < 2 ^ 16 := Nat.mod_lt _ (by decide)

/-- A number that is not zero has a bit, below any power of two that exceeds it. -/
theorem setBits_ne_nil {n x : Nat} (some_ : x ≠ 0) (low : x < 2 ^ n) : setBits n x ≠ [] := by
  obtain ⟨i, hi⟩ := Nat.exists_testBit_of_ne_zero some_
  have below : i < n := by
    by_contra high
    rw [Nat.testBit_eq_false_of_lt (low.trans_le (Nat.pow_le_pow_right two_pos (not_lt.1 high)))] at hi
    exact Bool.false_ne_true hi
  have bit : bitAt x i = true := by
    rw [Nat.testBit_eq_decide_div_mod_eq] at hi
    exact hi
  exact List.ne_nil_of_mem (List.mem_filter.2 ⟨List.mem_range.2 below, bit⟩)

/-- A copy with a scratchpad destination has a target (R243). -/
theorem targets_ne_nil {s : State} {tm : Team} {ws : List Word} {ts : List Team} (h : s.targets tm (CopyBlock.of ws) = some ts)
    (spad : (CopyBlock.of ws).dstk = 1) : ts ≠ [] := by
  rw [State.targets, if_neg (not_not.2 spad)] at h
  split at h
  · rintro rfl
    simp at h
  · rename_i mask
    obtain ⟨i, is, named⟩ := List.exists_cons_of_ne_nil (setBits_ne_nil mask (mcast_lt ws))
    rw [named, List.mapM_cons] at h
    rintro rfl
    simp [Option.bind_eq_some_iff] at h

/-- Only a copy's destination is written (R226). -/
theorem kind_of_written {b : CopyBlock} {o : Operands} {codes : Nat} {r : OpRange} (h : r ∈ b.ranges o codes) (write : r.write = true) :
    r.kind = b.dstk := by
  unfold CopyBlock.ranges at h
  rcases List.mem_append.1 h with source | destination
  · have pair : ∀ {x y : OpRange}, x.write = false → y.write = false → r ∈ [x, y] → r.write = false := fun hx hy hr => by
      rcases List.mem_pair.1 hr with rfl | rfl
      · exact hx
      · exact hy
    have unwritten : r.write = false := by
      dsimp only at source
      split at source
      · exact pair rfl rfl source
      · exact pair rfl rfl source
      · exact pair rfl rfl source
      · obtain ⟨_, -, rfl⟩ := List.mem_map.1 source
        rfl
      · exact absurd source List.not_mem_nil
      · obtain ⟨_, -, rfl⟩ := List.mem_map.1 source
        rfl
    exact absurd write (by rw [unwritten]; exact Bool.false_ne_true)
  · obtain ⟨e, -, rfl⟩ := List.mem_map.1 destination
    rfl

/-- The limit of a copy's destination: the least scratchpad of its targets (R226). -/
def destLimit (ts : List Team) : Nat := (ts.tail.map Team.spadSize).foldl min (((ts.head?).map Team.spadSize).getD 0)

/-- The limit is the scratchpad of one of the targets (R226). -/
theorem destLimit_mem {ts : List Team} (h : ts ≠ []) : ∃ t ∈ ts, destLimit ts = t.spadSize := by
  obtain ⟨t, rest, rfl⟩ := List.exists_cons_of_ne_nil h
  have least : ((t :: rest).map Team.spadSize).min? = some ((rest.map Team.spadSize).foldl min t.spadSize) := rfl
  obtain ⟨u, hu, size⟩ := List.mem_map.1 (List.min?_mem least)
  exact ⟨u, hu, size.symm⟩

/-- Operands inside their spaces pass the checks of steps 4 and 5 (R226). -/
theorem firstTrap_of_operandsOk {tm : Team} {ts : List Team} {rs : List OpRange} (ok : OperandsOk tm ts rs)
    (targets : ∀ r ∈ rs, r.kind = 1 → r.write = true → ts ≠ []) :
    (State.firstTrap rs (State.rangeBad tm.spadSize (destLimit ts))).orElse (fun _ => State.firstTrap rs State.alignBad) = none := by
  have inside : ∀ r ∈ rs, State.rangeBad tm.spadSize (destLimit ts) r = none := fun r hr => by
    obtain ⟨low, -, high⟩ := ok r hr
    have bound : ¬r.a + r.n > (if r.kind = 1 then ((if r.write then destLimit ts else tm.spadSize : Nat) : Int) else ((2 ^ 52 : Nat) : Int)) := by
      by_cases spad : r.kind = 1
      · rw [if_pos spad] at high ⊢
        by_cases write : r.write = true
        · obtain ⟨t, ht, least⟩ := destLimit_mem (targets r hr spad write)
          rw [if_pos write] at high ⊢
          rw [least]
          exact not_lt.2 (high t ht)
        · rw [if_neg write] at high ⊢
          exact not_lt.2 high
      · rw [if_neg spad] at high ⊢
        exact not_lt.2 high
    simp only [State.rangeBad, if_neg (not_lt.2 low), if_neg bound]
  have aligned : ∀ r ∈ rs, State.alignBad r = none := fun r hr => by
    obtain ⟨-, aligned, -⟩ := ok r hr
    simp [State.alignBad, aligned]
  simp only [State.firstTrap, List.findSome?_eq_none_iff.2 inside, List.findSome?_eq_none_iff.2 aligned, Option.orElse_none]

/-! ### CPY -/

/-- A copy whose operands pass the checks enters its team's queue, if there is room (R97, R226, R227). -/
theorem cpyChecked_issues {s : State} {c : Crew} {tm : Team} {ts : List Team} {ws : List Word} {b b' : CopyBlock} {src dst : State.Side}
    {gs addr : Nat} {ge : Bool} (hb' : b' = if b.srck = 1 ∧ b.xop ≠ 8 then { b with xarg := b.xarg % 2 ^ 32 } else b)
    (same : b'.dstk = b.dstk)
    (targets : b.dstk = 1 → ts ≠ []) :
    let ops : Operands := ⟨src.base, dst.base, src.str, dst.str⟩
    let rs := b'.ranges ops (s.tableCodes tm b')
    let s3 := s.logTable tm b'
    let cmd := { s3.newCmd c .cpy (State.guardSlot gs ge) addr ws with
      src := src.base, dst := dst.base, sstr := src.str, dstr := dst.str, slimit := src.limit, dlimit := dst.limit,
      pending := (if b.dstk = 1 then ts.map Team.id else [0]).flatMap (fun t => (destLines (b'.elems ops)).map (fun l => (t, l))) }
    OperandsOk tm ts rs → s3.cur = .idle → s3.copyLoad (s3.coreOf c.id.team) < 160 →
    s3.lockRoom (s3.coreOf c.id.team) (State.copyLocks tm rs).length = true →
    Issues s3 (s.cpyChecked c (State.guardSlot gs ge) addr ws tm b ts src dst) c.id cmd (State.copyLocks tm rs) := by
  intro ops rs s3 cmd ok idle entry locks
  have passes := firstTrap_of_operandsOk ok fun r hr spad write => targets (by rw [← same, ← kind_of_written hr write, spad])
  have room : s3.cmdRoom cmd (State.copyLocks tm rs) = true := by
    have slots : s3.copyLoad (s3.coreOf cmd.team) < Config.copySlots := entry
    have table : s3.lockRoom (s3.coreOf cmd.team) (State.copyLocks tm rs).length = true := locks
    exact Bool.and_eq_true_iff.2 ⟨decide_eq_true slots, table⟩
  have checked : s.cpyChecked c (State.guardSlot gs ge) addr ws tm b ts src dst = s3.enterQueue c.id cmd (State.copyLocks tm rs) := by
    unfold State.cpyChecked
    simp only [← hb', same]
    rw [show (ts.tail.map Team.spadSize).foldl min (((ts.head?).map Team.spadSize).getD 0) = destLimit ts from rfl, passes]
    exact if_pos room
  rw [checked]
  exact enterQueue_issues idle c.id rfl _

/-- A block of whole lines that is present has no absent line (R78). -/
theorem absentLine?_of_linesPresent {s : State} {team addr n : Nat} {tm : Team} (found : s.team? team = some tm) (aligned : addr % 128 = 0)
    (present : ∀ i, i * 128 < n → addr / 128 + i ∉ tm.absent) : s.absentLine? team addr n = none := by
  simp only [State.absentLine?, found, Option.bind_some, List.find?_eq_none, List.mem_map, List.mem_range]
  rintro _ ⟨i, hi, rfl⟩
  have within : i * 128 < n := by
    rw [aligned, ceilDiv] at hi
    omega
  simpa using present i within

/-- The command of a block of whole lines that is ready takes the block's words (R140, R226). -/
theorem withBlock_of_blockReady {s : State} {c : Crew} {tm : Team} {addr : Nat} (ready : BlockReady s c tm addr 128)
    (f : State → List Word → State) : s.withBlock c addr 128 128 f = f s (blockAt s tm addr 128) := by
  obtain ⟨team, fresh, loads, aligned, inside, reds, present⟩ := ready
  have back : s.loadsBack c.id = true := List.all_eq_true.2 fun t ht => by rw [loads t ht]; rfl
  have whole : s.absentLine? tm.id addr 128 = none := by
    rw [team_name team]
    exact absentLine?_of_linesPresent team aligned present
  have fits : ¬addr + 128 > tm.spadSize := not_lt.2 inside
  simp only [State.withBlock, team, fresh, back, aligned, fits, whole, withReds_of_noSpadReds reds, Bool.not_true, Bool.false_eq_true,
    ne_eq, not_true_eq_false, if_false]
  rfl

/-- A copy whose fields keep their limits comes to the checks of its operands (R226, R239, R240, R243). -/
theorem cpyBlock_checks {s s1 s2 : State} {c : Crew} {tm : Team} {ts : List Team} {x : Ctx} {src dst : State.Side} {guard : Option Nat}
    {addr : Nat} {ws : List Word} (team : s.team? c.id.team = some tm) (ctx : s.ctx? tm.ctx = some x)
    (fields : (CopyBlock.of ws).badField x.regs.lrcount = none) (rules : (CopyBlock.of ws).rulesOk = true)
    (targets : s.targets tm (CopyBlock.of ws) = some ts)
    (source : s.sideOf c.id (CopyBlock.of ws).srck (CopyBlock.of ws).src (CopyBlock.of ws).sstr = (s1, .ok src))
    (destination : s1.sideOf c.id (CopyBlock.of ws).dstk (CopyBlock.of ws).dst (CopyBlock.of ws).dstr = (s2, .ok dst))
    (table : s2.tableWaits tm (CopyBlock.of ws) = none) :
    State.cpyBlock c guard addr s ws = s2.cpyChecked c guard addr ws tm (CopyBlock.of ws) ts src dst := by
  simp only [State.cpyBlock, team, ctx, Option.map_some, Option.getD_some, fields, rules, Bool.not_true, Bool.false_eq_true, if_false, targets,
    source, destination, table]

/-! ### CPYQ -/

/-- The copies of a team are those that the statements count (R245). -/
theorem copiesOf_eq_countP (s : State) (team : Nat) : s.copiesOf team = s.cmds.countP (fun x => x.team == team && x.kind == .cpy) :=
  List.countP_eq_length_filter.symm

/-- A k register of a crew is written; a write to k63 is discarded (R308). -/
theorem crewSetReg_eq_ite (x : Crew) (d : Fin 64) (v : Word) :
    x.setReg d.val v = if d = 63 then x else { x with k := x.k.set d.val v } := by
  by_cases last : d = 63
  · simp [Crew.setReg, last]
  · have other : d.val ≠ 63 := fun h => last (Fin.ext h)
    simp [Crew.setReg, last, other]

/-- A write to a k register keeps the crew's name. -/
theorem crewSetReg_id (x : Crew) (n : Nat) (v : Word) : (x.setReg n v).id = x.id := by rw [crew_setReg_eq]

/-- A uniform instruction that changes its crew and ends (R26). -/
theorem modCrew_finishUniform_eq_uniNext {s : State} {c : CrewId} {f : Crew → Crew} (names : ∀ x, x.id = c → (f x).id = c) (n : Nat)
    (idle : s.cur = .idle) : (s.modCrew c f).finishUniform c n = uniNext s c (after n) f := by
  rw [finishUniform_eq_uniNext _ c n (by exact idle)]
  simp only [uniNext, State.modCrew, updWhere_eq_map, List.map_map, beq_iff_eq]
  congr 1
  refine List.map_congr_left fun x _ => ?_
  by_cases own : x.id = c <;> simp [own, names]

/-- A uniform instruction that waits executes nothing (R22, R111). -/
theorem stallUniform_eq (s : State) (c : CrewId) : s.stallUniform c = { s with
    crews := s.crews.map (fun x => if x.id = c then
      { x with stalled := true, complete := true, begun := true, rdvFrom := none, absent := none } else x)
    cores := match s.cores[s.coreOf c.team]? with
      | none => s.cores
      | some q => s.cores.set (s.coreOf c.team) { q with pipe := none } } := by
  have stalled : s.stallCrew c = { s with crews := s.crews.map (fun x => if x.id = c then
      { x with stalled := true, complete := true, begun := true, rdvFrom := none, absent := none } else x) } := by
    simp only [State.stallCrew, State.modCrew, updWhere_eq_map, beq_iff_eq]
  rw [State.stallUniform, stalled, State.modCore]
  cases core : s.cores[s.coreOf c.team]? with
  | none => rfl
  | some q => simp only [setAt_eq_set]

/-- A uniform instruction that changes its crew's registers only changes its crew (R26). -/
theorem changesCrew_of_uniformReg {i : Instr} {n : Nat} {g : Guard} {f : State → Crew → Crew}
    (run : ∀ s, exec i s = .next (uniformReg n g f s)) (names : ∀ s c, (f s c).id = c.id)
    (focus : ∀ s c, f { s with cur := .idle } c = f s c) : ChangesCrew i n g f := by
  intro s c ⟨cur, crew⟩
  rw [run, uniformReg_crew n g f s c cur crew, focus]
  by_cases guard : c.guard g = true
  · simp only [if_pos guard]
    exact congrArg Host.Outcome.next (modCrew_finishUniform_eq_uniNext (fun _ _ => names s c) n rfl)
  · simp only [if_neg guard]
    exact congrArg Host.Outcome.next (finishUniform_eq_uniNext _ c.id n rfl)

/-- CPYQ tells the number of the team's copies (R245, R344). -/
theorem cpyq_writesK (o : OpKp) : WritesK (.cpyq o) 4 o.g o.kp (fun s c =>
    BitVec.ofNat 32 (s.cmds.countP (fun x => x.team == c.id.team && x.kind == .cpy))) := by
  have changes := changesCrew_of_uniformReg (i := .cpyq o) (n := 4) (g := o.g)
    (f := fun s c => c.setReg o.kp.val (BitVec.ofNat 32 (s.copiesOf c.id.team))) (fun _ => rfl) (fun _ _ => crewSetReg_id ..) (fun _ _ => rfl)
  simp only [copiesOf_eq_countP, crewSetReg_eq_ite] at changes
  exact changes

/-- CPYQ.W (R245, R344). -/
theorem cpyqW_eq {s : State} {c : Crew} {o : OpCpyqW} (one : OneCrew s c) (guard : c.guard o.g = true) :
    exec (.cpyqW o) s = .next (if s.copiesOf c.id.team ≤ o.n.val then
      ({ s with cur := .idle } : State).modCrew c.id (fun x => x.setReg o.kp.val (BitVec.ofNat 32 (s.copiesOf c.id.team)))
        |>.finishUniform c.id 4
      else ({ s with cur := .idle } : State).stallUniform c.id) := by
  obtain ⟨focus, crew⟩ := one
  change execCpyqW o s = _
  rw [execCpyqW, uniformRun_crew 4 o.g _ s c focus crew, if_pos guard]
  rfl

/-- Settles O26: a copy that passes its checks comes to the queue; the two forms of CPYQ count the team's copies. -/
theorem copyIssue : Obligations.CopyIssue := by
  unfold Obligations.CopyIssue
  refine ⟨?issue, cpyq_writesK, ?wait⟩
  case issue =>
    intro o s s1 s2 c tm ts x src dst ⟨focus, crew⟩ guard addr ready ctx ws b s0 fields rules targets source destination b' ops rs ok table s3 cmd
      locks idle entry room
    have ready' : BlockReady s0 c tm addr 128 := ready
    have team : s0.team? c.id.team = some tm := ready.1
    have run : exec (.cpy o) s = .next (s2.cpyChecked c (State.guardSlot o.gs.val o.ge) addr ws tm b ts src dst) := by
      change execCpy o s = _
      rw [execCpy, uniformRun_crew 4 o.g _ s c focus crew, if_pos guard]
      refine congrArg Host.Outcome.next ((withBlock_of_blockReady ready' _).trans ?_)
      exact cpyBlock_checks team ctx fields rules targets source destination table
    have same : b'.dstk = b.dstk := by
      simp only [b']
      split <;> rfl
    exact ⟨_, run, cpyChecked_issues rfl same (fun spad => targets_ne_nil targets spad) ok idle entry room⟩
  case wait =>
    intro o s c one guard k
    have count : s.copiesOf c.id.team = k := copiesOf_eq_countP s c.id.team
    rw [cpyqW_eq one guard, count]
    refine ⟨fun few => ?_, fun many => ?_⟩
    · rw [if_pos few, modCrew_finishUniform_eq_uniNext (fun x hx => (crewSetReg_id ..).trans hx) 4 rfl]
      simp only [crewSetReg_eq_ite]
      rfl
    · rw [if_neg (Nat.not_le.2 many), stallUniform_eq]
      rfl

end Sys2Proof.Proofs
end

section
/-!
PROOFS. ABT (R116, R326): what it discards at each level, and the notice it leaves. ACQ of a thread without loads (R122, R327).
-/

namespace Sys2Proof.Proofs
open Sys2Proof Sys2Proof.Machine Sys2Proof.Laws Sys2Proof.Stmt

/-! ### ABT -/

/-- Dropping the sectors of some bytes from a core's L1, one after another. -/
theorem foldl_l1Drop (core : Nat) (gone : List BufByte) (s : State) :
    gone.foldl (fun s b => s.l1Drop core b.loc) s =
      { s with l1 := s.l1.filter (fun x => !(x.core == core && gone.any (fun b => b.loc.sector == x.loc))) } := by
  induction gone generalizing s with
  | nil => simp
  | cons b gone ih =>
    rw [List.foldl_cons, ih]
    simp only [State.l1Drop, List.filter_filter]
    congr 2
    funext x
    rw [List.any_cons, Bool.eq_iff_iff]
    simp only [Bool.and_eq_true, Bool.not_eq_true', Bool.and_eq_false_iff, Bool.or_eq_false_iff, beq_eq_false_iff_ne]
    grind

/-- The threads of a collective leave it (R26). -/
theorem leaveAll_eq (s : State) (ts : List Thread) (n : Nat) :
    s.leaveAll ts n = { s with threads := s.threads.map (fun x => if x.id ∈ ts.map Thread.id then x.leave n else x) } := by
  simp only [State.leaveAll, updWhere_eq_map]
  congr 2
  funext x
  simp

/-- What `ABT` does for a flight with a guard-true thread (R116, R326). -/
theorem execAbt_flight {o : OpAbt} {s : State} {core : Nat} {ids : List ThreadId} {rdv : Bool} {t : Thread} {ts : List Thread}
    (focus : s.cur = .flight core ids rdv) (all : ids.filterMap s.thread? = t :: ts) (some_ : ∃ u ∈ t :: ts, u.guard o.g = true) :
    exec (.abt o) s = .next (((abortBuffers (({ s with cur := .idle } : State).modCrew t.id.crewId Crew.released) t.id.crewId o.level)).leaveAll
      (t :: ts) 4) := by
  have acts : ((t :: ts).filter (·.guard o.g)).isEmpty = false := by
    obtain ⟨u, hu, guard⟩ := some_
    rw [List.isEmpty_eq_false_iff]
    exact List.ne_nil_of_mem (List.mem_filter.mpr ⟨hu, guard⟩)
  refine congrArg Host.Outcome.next ((laneCrew_flight o.g _ s core ids rdv t ts focus all).trans ?_)
  rw [acts]
  rfl

/-- The buffered bytes that `ABT.TEAM` discards: those of the team's crews and of the team (R116). -/
def abortedNear (c : CrewId) (b : BufByte) : Bool :=
  match b.buf with
  | .crew d => d.team == c.team
  | .team n => n == c.team
  | .cluster _ => false

/-- The bytes of the cluster buffer that `ABT.CLUSTER` discards besides: those that the team's crews author (R116). -/
def abortedShared (s : State) (c : CrewId) (b : BufByte) : Bool :=
  match b.buf, b.author with
  | .cluster n, .crew d => n == clusterOf (s.coreOf c.team) && d.team == c.team
  | _, _ => false

/-- What an abort of the team or of the cluster discards, as the model sorts it by buffer. -/
def aborted (s : State) (c : CrewId) (l : AbtLevel) (b : BufByte) : Bool :=
  match b.buf with
  | .crew d => d.team == c.team
  | .team t => t == c.team
  | .cluster n => l == .cluster && n == s.clusterOfCrew c && (match b.author with | .crew d => d.team == c.team | .unit => false)

theorem aborted_team (s : State) (c : CrewId) : aborted s c .team = abortedNear c := by
  funext b
  unfold aborted abortedNear
  cases b.buf <;> rfl

theorem aborted_cluster (s : State) (c : CrewId) : aborted s c .cluster = fun b => abortedNear c b || abortedShared s c b := by
  funext b
  unfold aborted abortedNear abortedShared
  cases b.buf <;> cases b.author <;> simp [State.clusterOfCrew]

/-- The crews of the team other than the aborting one have a notice (R116). -/
def noticed (s : State) (c : CrewId) : List Crew :=
  updWhere (fun d => d.id.team == c.team && d.id != c && !d.retired) (fun d => { d with notice := true }) s.crews

/-- The crews after a collective of a crew that also leaves a notice to other crews (R26, R116). -/
theorem noticed_released (s : State) (c : CrewId) :
    noticed (s.modCrew c Crew.released) c = s.crews.map (fun d => if d.id = c then left d
      else if d.id.team = c.team ∧ d.retired = false then { d with notice := true } else d) := by
  simp only [noticed, State.modCrew, updWhere_eq_map, List.map_map]
  refine List.map_congr_left fun d _ => ?_
  by_cases own : d.id = c
  · simp [own, Crew.released, left]
  · simp [own]

theorem abortBuffers_team (s : State) (c : CrewId) : abortBuffers s c .team =
    { s with buffers := s.buffers.filter (fun b => !abortedNear c b), crews := noticed s c } := by
  rw [← aborted_team s c]
  rfl

theorem abortBuffers_cluster (s : State) (c : CrewId) : abortBuffers s c .cluster = { s with
    buffers := s.buffers.filter (fun b => !(abortedNear c b || abortedShared s c b)), crews := noticed s c,
    l1 := s.l1.filter (fun x => !(x.core == s.coreOf c.team &&
      s.buffers.any (fun b => (abortedNear c b || abortedShared s c b) && b.loc.sector == x.loc))) } := by
  have sorted : ∀ b, (abortedNear c b || abortedShared s c b) = aborted s c .cluster b := fun b => (congrFun (aborted_cluster s c) b).symm
  simp only [sorted, ← List.any_filter]
  exact foldl_l1Drop (s.coreOf c.team) (s.buffers.filter (aborted s c .cluster))
    { s with buffers := s.buffers.filter (fun b => !aborted s c .cluster b), crews := noticed s c }

/-! ### ACQ -/

/-- `ACQ` of a thread without loads (R122, R327). -/
theorem execAcq_of_no_loads {o : OpAcq} {s : State} {core : Nat} {t : Thread} {rdv : Bool} (one : OneThread s core t rdv)
    (guard : t.guard o.g = true) (noLoads : t.loads = []) :
    exec (.acq o) s = .next ((acquire { s with cur := .idle } t.id.team o.level.num).modThread t.id (·.advance 4)) := by
  refine congrArg Host.Outcome.next ((laneEach_oneThread one guard).trans ?_)
  rw [noLoads]
  rfl

/-- An acquire empties the core's L1 at cluster scope and above, and changes besides it only what loads on their way install (R122, R327). -/
theorem acquire_eq (s : State) (team : Nat) (lvl : CmtLevel) : ∃ h : Thread → Thread,
    acquire s team lvl.num = { s with
      threads := s.threads.map h, l1 := if lvl = .team then s.l1 else s.l1.filter (fun x => x.core != s.coreOf team) } ∧
    ∀ x, (h x).id = x.id ∧ (x.loads = [] → h x = x) := by
  have flush : ∃ h : Thread → Thread, s.l1Flush (s.coreOf team) = { s with
      threads := s.threads.map h, l1 := s.l1.filter (fun x => x.core != s.coreOf team) } ∧ ∀ x, (h x).id = x.id ∧ (x.loads = [] → h x = x) := by
    refine ⟨_, rfl, fun x => ?_⟩
    split
    · exact ⟨rfl, fun noLoads => by cases x; cases noLoads; rfl⟩
    · exact ⟨rfl, fun _ => rfl⟩
  cases lvl with
  | team => exact ⟨id, by simp [acquire, CmtLevel.num], fun x => ⟨rfl, fun _ => rfl⟩⟩
  | cluster | device | system => exact flush

/-- Settles O22: an abort by its level, an acquire of a thread without loads. -/
theorem abortAndAcquire : Obligations.AbortAndAcquire := by
  unfold Obligations.AbortAndAcquire
  refine ⟨?abort, ?acquire⟩
  case abort =>
    intro o s core ids rdv t ts focus all some_ c leave told mine shared
    rw [execAbt_flight focus all some_]
    refine ⟨fun level => ?_, fun level => ?_, fun level => ?_⟩
    · rw [level, leaveAll_eq]
      simp only [abortBuffers, State.modCrew, updWhere_eq_map, beq_iff_eq]
      rfl
    · rw [level, abortBuffers_team, leaveAll_eq]
      rw [noticed_released]
      rfl
    · rw [level, abortBuffers_cluster, leaveAll_eq]
      rw [noticed_released]
      rfl
  case acquire =>
    intro o s core t rdv one guard noLoads
    obtain ⟨h, flushed, kept⟩ := acquire_eq { s with cur := .idle } t.id.team o.level
    rw [execAcq_of_no_loads one guard noLoads, flushed]
    refine ⟨_, rfl, rfl, rfl, ?_⟩
    rw [thread_modThread_self _ t.id _ (by exact fun _ h => h)]
    have found : List.find? (fun x => x.id == t.id) (s.threads.map h) = some t := by
      rw [List.find?_map]
      simp only [Function.comp_def, (kept _).1]
      rw [show s.threads.find? (fun x => x.id == t.id) = some t from one.2.1]
      simp [(kept t).2 noLoads]
    simp only [State.thread?, found]
    rfl

end Sys2Proof.Proofs
end

section
/-!
PROOFS. A commit of a crew (R109, R110) where an older commit of the same crew, which waits for nothing any more, still has to send the words of the
cluster unit. The last acknowledgement sends them (R111, R124), so the state is one that the statement allows rather than one that a device is seen in.
-/

namespace Sys2Proof.Proofs
open Sys2Proof Sys2Proof.Machine Sys2Proof.Stmt

/-- A byte of the cluster unit in the buffer of cluster 0. -/
def unitByte : BufByte :=
  { buf := .cluster 0, author := .unit, ctx := 0, va := 0, loc := .pa 0, tr := ⟨0, 0x1000, 0, true, false, false, false, true, 0⟩, val := 1 }

/-- A commit of crew 0 of team 1 that is to send the cluster unit's words once the crew's count is zero (R110, R124). -/
def lateCommit : CommitWait :=
  { crew := ⟨1, 0⟩, members := [], waiters := [], pd := 7, result := true, cflict := 0, unitWait := [], units := true, barrier := false, trap := none }

/-- The crew at its `CMT`, with the older commit. -/
def commitTwice : State :=
  { withProbe State.reset true with cur := .flight 0 [⟨1, 0⟩] true, buffers := [unitByte], commits := [lateCommit] }

/-- The plain `CMT.TEAM` of every guard-true thread. -/
def cmtTeam : OpCmt := ⟨⟨7, false⟩, .team, false, 1⟩

/-- The sectors that are on their way after an event. -/
def sent : Out → Option (List Loc)
  | .next s => some (s.landings.map Landing.loc)
  | _ => none

theorem commitTwice_at : AtCmt cmtTeam commitTwice (probeThread ⟨1, 0⟩ true) (probeCrew ⟨1, 0⟩) :=
  ⟨0, [⟨1, 0⟩], true, [], rfl, by decide +kernel, by decide +kernel, _, List.mem_singleton.mpr rfl, by decide +kernel⟩

theorem commitTwice_may : MayMove cmtTeam commitTwice (probeCrew ⟨1, 0⟩) (commitTwice.movedBytes ⟨1, 0⟩ 1) := by
  unfold MayMove
  decide +kernel

/-- The older commit sends the unit's word as the new one completes. -/
theorem commitTwice_sends : sent (exec (.cmt cmtTeam) commitTwice) = some [.pa 0] := by decide +kernel

/-- Refutes O21: the clause on `CMT.TEAM` says for every crew that only threads, crews, commits and buffers change, not for a crew without other
commits only. Where an older commit of the crew still has to send the cluster unit's words, they are on their way after the `CMT.TEAM`. -/
theorem not_commit : ¬ Obligations.Commit := by
  rintro ⟨⟨team, -⟩, -⟩
  obtain ⟨s', next, -, frame, -⟩ := team cmtTeam commitTwice (probeThread ⟨1, 0⟩ true) (probeCrew ⟨1, 0⟩) commitTwice_at rfl commitTwice_may
    (by decide)
  have nothing : sent (.next s') = some [] := by
    rw [frame]
    rfl
  exact absurd (commitTwice_sends.symm.trans ((congrArg sent next).trans nothing)) (by decide)

end Sys2Proof.Proofs
end

section
/-!
PROOFS. What an access finds that nothing is on its way to (R130, R131, R191): no landing settles before it, and the loads that perform before it
change the registers of their threads and what is known of the loads, and nothing else.
-/

namespace Sys2Proof.Proofs
open Sys2Proof Sys2Proof.Machine Sys2Proof.Laws Sys2Proof.Stmt

/-! ### Landings that do not settle -/

/-- Where no landing is due, none settles. -/
theorem settleDue_of_none {s : State} {due : Landing → Bool} (h : ∀ l ∈ s.landings ++ s.parkedLandings, due l = false) :
    s.settleDue due = s := by
  have onWay : s.landings.filter due = [] :=
    List.filter_eq_nil_iff.mpr fun l hl => by simp [h l (List.mem_append_left _ hl)]
  have stay : s.landings.filter (fun l => !due l) = s.landings :=
    List.filter_eq_self.mpr fun l hl => by simp [h l (List.mem_append_left _ hl)]
  have parked : s.parkedLandings.filter (fun l => due l && !(s.mergeable l).isEmpty) = [] :=
    List.filter_eq_nil_iff.mpr fun l hl => by simp [h l (List.mem_append_right _ hl)]
  simp only [State.settleDue, onWay, stay, List.foldl_nil, State.mergeParked, parked, List.isEmpty_nil, if_true]

theorem noneLanding_not_due {s : State} {loc : Loc} (h : NoneLanding s loc) (p : Landing → Bool) :
    ∀ l ∈ s.landings ++ s.parkedLandings, (l.loc == loc.sector && p l) = false :=
  fun l hl => by simp [h l hl]

/-- No landing settles before an access to a sector that none is on its way to (R130, R137). -/
theorem settleLandings_of_noneLanding {s : State} {loc : Loc} (h : NoneLanding s loc) (core : Nat) (c : CrewId) :
    s.settleLandings core c loc.sector = s := settleDue_of_none (noneLanding_not_due h _)

/-- Nor before an atomic or a reduction there (R123, R133). -/
theorem settleHome_of_noneLanding {s : State} {loc : Loc} (h : NoneLanding s loc) (sc : Scope) (core : Nat) (c : CrewId) :
    s.settleHome sc core c loc.sector = s := by
  cases sc with
  | cluster => simpa only [State.settleHome, Bool.and_assoc] using settleDue_of_none (noneLanding_not_due h _)
  | _ => rfl

/-! ### Loads that perform -/

/-- A thread whose loads perform: registers take values, and loads are marked. -/
def Loaded (x y : Thread) : Prop := ∃ (v : List Word) (d : Load → Bool), y = { x with v := v, loads := x.loads.map (fun l => { l with done := d l }) }

theorem Loaded.refl (x : Thread) : Loaded x x := ⟨x.v, Load.done, by simp⟩

theorem Loaded.trans {x y z : Thread} (h : Loaded x y) (h' : Loaded y z) : Loaded x z := by
  obtain ⟨v, d, rfl⟩ := h
  obtain ⟨v', d', rfl⟩ := h'
  exact ⟨v', fun l => d' { l with done := d l }, by simp⟩

/-- The threads of `r` are those of `s` after loads have performed, and nothing else differs. -/
def Performs (s r : State) : Prop := ∃ f : Thread → Thread, r = { s with threads := s.threads.map f } ∧ ∀ x, Loaded x (f x)

theorem Performs.refl (s : State) : Performs s s := ⟨id, by simp, .refl⟩

theorem Performs.trans {s r q : State} (h : Performs s r) (h' : Performs r q) : Performs s q := by
  obtain ⟨f, rfl, hf⟩ := h
  obtain ⟨g, rfl, hg⟩ := h'
  exact ⟨g ∘ f, by simp, fun x => (hf x).trans (hg (f x))⟩

theorem Performs.modThread (s : State) (i : ThreadId) (f : Thread → Thread) (h : ∀ x, Loaded x (f x)) : Performs s (s.modThread i f) := by
  refine ⟨_, rfl, fun x => ?_⟩
  split
  · exact h x
  · exact .refl x

theorem Performs.noneLanding {s r : State} (h : Performs s r) {loc : Loc} (n : NoneLanding s loc) : NoneLanding r loc := by
  obtain ⟨f, rfl, -⟩ := h
  exact n

theorem Performs.quiet {s r : State} (h : Performs s r) {loc : Loc} (q : Quiet s loc) : Quiet r loc := by
  refine ⟨h.noneLanding q.1, fun u hu l hl remote => ?_⟩
  obtain ⟨f, rfl, hf⟩ := h
  obtain ⟨x, hx, rfl⟩ := List.mem_map.mp hu
  obtain ⟨v, d, e⟩ := hf x
  rw [e] at hl
  obtain ⟨y, hy, rfl⟩ := List.mem_map.mp hl
  exact q.2 x hx y hy remote

/-- A thread of a name, after loads have performed. -/
theorem Performs.thread {s r : State} (h : Performs s r) {i : ThreadId} {u : Thread} (found : r.thread? i = some u) :
    ∃ t, s.thread? i = some t ∧ Loaded t u := by
  obtain ⟨f, rfl, hf⟩ := h
  have names : ((fun x : Thread => x.id == i) ∘ f) = fun x => x.id == i := by
    funext x
    obtain ⟨v, d, e⟩ := hf x
    simp only [Function.comp_apply, e]
  rw [State.thread?, List.find?_map, names] at found
  obtain ⟨t, ht, rfl⟩ := Option.map_eq_some_iff.mp found
  exact ⟨t, ht, hf t⟩

/-- A load of the sector, of memory that is not a peer's, performs (R131). -/
theorem performLoad_performs {s : State} {loc : Loc} (n : NoneLanding s loc) (t : ThreadId) {l : Load} (near : l.remote = false)
    (sector : l.loc.sector = loc.sector) : Performs s (s.performLoad t l) := by
  unfold State.performLoad
  simp only [near, Bool.false_eq_true, if_false, sector, settleLandings_of_noneLanding n]
  split
  · exact .refl s
  · split
    · exact .refl s
    · refine .modThread s t _ fun x => ?_
      obtain ⟨v, e⟩ := thread_setRegs_eq x l.dst (l.words ‹_›)
      exact ⟨v, Load.done, by simp [e]⟩

theorem mem_slotInsert {x y : ThreadId × Load} {l : List (ThreadId × Load)} (h : y ∈ State.slotInsert x l) : y = x ∨ y ∈ l := by
  induction l with
  | nil => simpa [State.slotInsert] using h
  | cons z l ih =>
    unfold State.slotInsert at h
    split at h
    · simpa using h
    · rcases List.mem_cons.mp h with rfl | h
      · simp
      · rcases ih h with rfl | h <;> simp [*]

theorem mem_foldl_slotInsert {y : ThreadId × Load} (due : List (ThreadId × Load)) {l : List (ThreadId × Load)}
    (h : y ∈ due.foldl (fun l x => State.slotInsert x l) l) : y ∈ due ∨ y ∈ l := by
  induction due generalizing l with
  | nil => exact .inr h
  | cons x due ih =>
    rcases ih h with h | h
    · simp [h]
    · rcases mem_slotInsert h with rfl | h <;> simp [*]

/-- The loads of a flight in a quiet sector perform (R131). -/
theorem settleFlight_performs {s : State} {loc : Loc} (q : Quiet s loc) (core at_ : Nat) : Performs s (s.settleFlight core at_ loc.sector) := by
  have turns : ∀ (due : List (ThreadId × Load)) (r : State), (∀ x ∈ due, x.2.remote = false ∧ x.2.loc.sector = loc.sector) → Performs s r →
      Performs s (due.foldl (fun s x => (s.performLoad x.1 x.2).modThread x.1 (fun t =>
        { t with loads := t.loads.map (fun l => if l.slot == x.2.slot then { l with done := true } else l) })) r) := by
    intro due
    induction due with
    | nil => exact fun _ _ h => h
    | cons x due ih =>
      intro r hd h
      obtain ⟨near, sector⟩ := hd x (by simp)
      refine ih _ (fun y hy => hd y (by simp [hy])) ((h.trans (performLoad_performs (h.noneLanding q.1) x.1 near sector)).trans
        (.modThread _ _ _ fun y => ⟨y.v, fun l => l.done || l.slot == x.2.slot, ?_⟩))
      congr 1
      refine List.map_congr_left fun l _ => ?_
      split <;> simp [*]
  refine turns _ s (fun x hx => ?_) (.refl s)
  rcases mem_foldl_slotInsert _ hx with hx | hx
  · obtain ⟨t, ht, hx⟩ := List.mem_flatMap.mp hx
    obtain ⟨l, hl, rfl⟩ := List.mem_map.mp hx
    obtain ⟨hl, due⟩ := List.mem_filter.mp hl
    simp only [Bool.and_eq_true, beq_iff_eq] at due
    refine ⟨?_, due.1.2⟩
    by_contra remote
    exact q.2 t (List.mem_of_mem_filter ht) l hl (by simpa using remote) due.1.2
  · exact absurd hx List.not_mem_nil

/-- The loads of a thread in a quiet sector perform (R130). -/
theorem settleLoads_performs {s : State} {loc : Loc} (q : Quiet s loc) (t : ThreadId) : Performs s (s.settleLoads t loc.sector) := by
  unfold State.settleLoads
  split
  · exact .refl s
  · exact List.foldlRecOn (motive := Performs s) _ _ (.refl s) fun r h l _ => h.trans (settleFlight_performs (h.quiet q) _ _)

/-- The state that an access to a quiet place finds. -/
theorem settled_performs {s : State} {loc : Loc} (q : Quiet s loc) (t : Thread) : Performs { s with cur := .idle } (settled s t loc) :=
  settleLoads_performs (s := { s with cur := .idle }) q t.id

theorem settledFlight_performs {s : State} {loc : Loc} (q : Quiet s loc) (t : Thread) :
    Performs { s with cur := .idle } (settledFlight s t loc) := by
  have first := settled_performs q t
  unfold settledFlight
  split
  · exact first.trans (settleFlight_performs (first.quiet q) _ _)
  · exact first

end Sys2Proof.Proofs
end


section
/-!
PROOFS. A run of bytes put in a buffer one by one (R106, R123): each is then the buffer's copy of its place, and every other copy stays.
-/

namespace Sys2Proof.Proofs
open Sys2Proof Sys2Proof.Machine Sys2Proof.Laws

/-- The byte of a run that stands `i` places after its first place `x`. -/
def runByte (x : BufByte) (b : Byte × Nat) : BufByte := { x with va := x.va + b.2, loc := x.loc.add b.2, val := b.1 }

/-- A run of bytes from the place of `x` upwards, put in the buffer of `x`. -/
def putRun (x : BufByte) (bs : List Byte) (s : State) : State := bs.zipIdx.foldl (fun s b => s.bufPut (runByte x b)) s

theorem loc_add_inj {l : Loc} {i j : Nat} (h : l.add i = l.add j) : i = j := by
  cases l <;> simpa [Loc.add] using h

/-- Putting bytes changes buffers only. -/
theorem putRun_eq (x : BufByte) (bs : List Byte) (s : State) : ∃ l, putRun x bs s = { s with buffers := l } :=
  List.foldlRecOn (motive := fun r : State => ∃ l, r = { s with buffers := l }) _ _ ⟨s.buffers, rfl⟩ fun r h b _ => by
    obtain ⟨l, rfl⟩ := h
    exact ⟨_, rfl⟩

/-- A copy after a run whose first byte has the number `k` was put in a buffer. -/
theorem bufGet_foldl_bufPut (x : BufByte) (bs : List Byte) (k : Nat) (s : State) :
    let r := (bs.zipIdx k).foldl (fun s b => s.bufPut (runByte x b)) s
    (∀ i, k ≤ i → i < k + bs.length → r.bufGet x.buf (x.loc.add i) = some (runByte x (bs.getD (i - k) 0, i))) ∧
      ∀ b l, (b = x.buf → ∀ i, k ≤ i → i < k + bs.length → l ≠ x.loc.add i) → r.bufGet b l = s.bufGet b l := by
  induction bs generalizing k s with
  | nil => exact ⟨fun i h h' => absurd h' (by simpa using h), fun _ _ _ => rfl⟩
  | cons v bs ih =>
    obtain ⟨inside, outside⟩ := ih (k + 1) (s.bufPut (runByte x (v, k)))
    refine ⟨fun i low high => ?_, fun b l off => ?_⟩
    · rcases Nat.eq_or_lt_of_le low with rfl | later
      · have first := bufGet_bufPut_self s (runByte x (v, k))
        rw [Nat.sub_self, List.getD_cons_zero, ← first]
        exact outside x.buf (x.loc.add k) fun _ j hj _ e => absurd (loc_add_inj e) (by omega)
      · obtain ⟨j, rfl⟩ : ∃ j, i = j + 1 := ⟨i - 1, by omega⟩
        have := inside (j + 1) (by omega) (by rw [List.length_cons] at high; omega)
        rw [show j + 1 - k = (j + 1 - (k + 1)) + 1 by omega, List.getD_cons_succ, ← this]
        rfl
    · refine (outside b l fun hb i low high => off hb i (by omega) (by rw [List.length_cons]; omega)).trans ?_
      refine bufGet_bufPut_of_ne s _ b l fun ⟨hb, hl⟩ => ?_
      exact off hb.symm k (by omega) (by simp) hl.symm

/-- Each byte of a run is the buffer's copy of its place. -/
theorem bufGet_putRun (x : BufByte) (bs : List Byte) (s : State) {i : Nat} (h : i < bs.length) :
    (putRun x bs s).bufGet x.buf (x.loc.add i) = some (runByte x (bs.getD i 0, i)) :=
  (bufGet_foldl_bufPut x bs 0 s).1 i (Nat.zero_le i) (by omega)

/-- Every other copy stays. -/
theorem bufGet_putRun_of_ne (x : BufByte) (bs : List Byte) (s : State) {b : Buf} {l : Loc}
    (h : b = x.buf → ∀ i, i < bs.length → l ≠ x.loc.add i) : (putRun x bs s).bufGet b l = s.bufGet b l :=
  (bufGet_foldl_bufPut x bs 0 s).2 b l fun hb i _ hi => h hb i (by omega)

end Sys2Proof.Proofs
end

section
/-!
PROOFS. LD and ST of global memory (R106, R107, R380, R410 to R412).
-/

namespace Sys2Proof.Proofs
open Sys2Proof Sys2Proof.Machine Sys2Proof.Laws Sys2Proof.Stmt

/-! ### ST -/

/-- `ST` of one thread whose check finds a quiet place and whose crew has room (R411). -/
theorem execSt_lands {o : OpMem} {s : State} {core : Nat} {t : Thread} {rdv : Bool} {tr : Translation} {loc : Loc}
    (one : OneThread s core t rdv) (guard : t.guard o.g = true)
    (found : s.access t.id.team (memAddr t o) (szBytes o.sz.val) true = .ok tr loc)
    (room : storeLimit (settled s t loc) t.id.crewId loc.sector = none) :
    exec (.st o) s = .next ((storeBytes (settled s t loc) t.id.crewId ((settled s t loc).ctxId t.id.team) (memAddr t o) tr loc
      (storedBytes t o.d.val o.sz.val)).modThread t.id (·.advance 4)) := by
  obtain ⟨focus, there, -⟩ := one
  have turn : storeThread o { s with cur := .idle } t ⟨[], []⟩ =
      (storeBytes (settled s t loc) t.id.crewId ((settled s t loc).ctxId t.id.team) (memAddr t o) tr loc (storedBytes t o.d.val o.sz.val),
        ⟨[], [t.id]⟩) := by
    unfold storeThread
    simp only [show ({ s with cur := .idle } : State).access t.id.team (memAddr t o) (szBytes o.sz.val) true = .ok tr loc from found]
    rw [show (State.settleLoads { s with cur := .idle } t.id loc.sector) = settled s t loc from rfl, room]
    rfl
  have run : execSt o s = .next (settleStores (storeThread o { s with cur := .idle } t ⟨[], []⟩).1
      (storeThread o { s with cur := .idle } t ⟨[], []⟩).2) := by
    simp only [execSt, focus, Focus.ids, List.foldl_cons, List.foldl_nil, show ({ s with cur := .idle } : State).thread? t.id = some t from there,
      guard, if_true]
  refine run.trans ?_
  rw [turn]
  rfl

/-- A thread after one thread was changed by a function that keeps its name. -/
theorem thread_modThread (s : State) (i : ThreadId) (f : Thread → Thread) (names : ∀ x, (f x).id = x.id) (u : ThreadId) :
    (s.modThread i f).thread? u = (s.thread? u).map (fun x => if u = i then f x else x) := by
  refine (thread_updWhere s (· == i) f names u).trans (Option.map_congr fun x _ => ?_)
  simp only [beq_iff_eq]

/-- The first byte of what a thread stores, as its crew's buffer holds it (R106). -/
def storedFirst (s : State) (t : Thread) (va : Nat) (loc : Loc) (tr : Translation) : BufByte :=
  { buf := .crew t.id.crewId, author := .crew t.id.crewId, ctx := s.ctxId t.id.team, va := va, loc := loc, tr := tr, val := 0 }

/-- The bytes land in the crew's buffer, every other copy stays, and the crew's own loads read them (R106, R107, R411). -/
theorem globalStore : Sys2Proof.Stmt.GlobalStore := by
  intro o s core t rdv tr loc one guard size n va bs found quiet room
  have performed := settled_performs quiet t
  have run := execSt_lands one guard found room
  have length : bs.length = n := storedBytes_length t _ _ size
  generalize settled s t loc = x at room performed run ⊢
  obtain ⟨f, rfl, -⟩ := performed
  obtain ⟨l, put⟩ := putRun_eq (storedFirst s t va loc tr) bs { s with cur := .idle, threads := s.threads.map f }
  have inside : ∀ i, i < n → State.bufGet { s with buffers := l } (.crew t.id.crewId) (loc.add i) =
      some (runByte (storedFirst s t va loc tr) (bs.getD i 0, i)) := fun i hi => by
      have := bufGet_putRun (storedFirst s t va loc tr) bs { s with cur := .idle, threads := s.threads.map f } (length.symm ▸ hi)
      rwa [put] at this
  have outside : ∀ b m, (b = .crew t.id.crewId → ∀ i, i < n → m ≠ loc.add i) → State.bufGet { s with buffers := l } b m = s.bufGet b m :=
    fun b m off => by
      have := bufGet_putRun_of_ne (storedFirst s t va loc tr) bs { s with cur := .idle, threads := s.threads.map f } (b := b) (l := m) fun hb i hi =>
        off hb i (length ▸ hi)
      rwa [put] at this
  refine ⟨_, run.trans (congrArg (fun y : State => Host.Outcome.next (y.modThread t.id (·.advance 4))) put), rfl, fun u => ?_, inside, outside,
    fun i hi => ?_⟩
  · exact (thread_modThread _ _ _ (by exact fun _ => rfl) u).trans rfl
  · have own : State.loadByte? { s with buffers := l } t.id.crewId (s.coreOf t.id.team) (loc.add i) = some (bs.getD i 0) := by
      simp only [State.loadByte?, State.nearByte?, inside i hi]
      rfl
    exact own

/-! ### LD -/

/-- The load that an `LD` leaves outstanding (R380), from the state `x` that it reads. -/
def loadOf (o : OpMem) (t : Thread) (va : Nat) (x : State) (loc : Loc) : Load :=
  { slot := x.lastId + 1, dst := o.d.val, regs := szRegs o.sz.val, size := szBytes o.sz.val, sext := decide (o.sz.val ≥ 5),
    ctx := x.ctxId t.id.team, va := va, loc := loc, done := x.choice == 0,
    install := if x.needsFar t.id.crewId (x.coreOf t.id.team) loc (szBytes o.sz.val) && (x.sectorFill? (x.coreOf t.id.team) loc.sector).isSome
      then some loc.sector else none,
    at_ := x.flightNo, remote := false }

/-- `LD` of a quiet place whose bytes can be read, from the state that it finds (R107, R380, log entry 105). -/
theorem loadAt_reads {o : OpMem} {s x : State} {t : Thread} {tr : Translation} {loc : Loc} {bs : List Byte} (va : Nat) (quiet : Quiet s loc)
    (up : s.delayed loc = false) (state : x = settledFlight s t loc)
    (bytes : x.loadBytes? t.id.crewId (s.coreOf t.id.team) loc (szBytes o.sz.val) = some bs) :
    loadAt o t va { s with cur := .idle } tr loc =
      if x.goesRemote t.id.crewId (s.coreOf t.id.team) loc (szBytes o.sz.val) then
        x.fresh.modThread t.id (fun y => { y with stall := .remote, loads := y.loads ++ [{ loadOf o t va x loc with done := false, remote := true }] })
      else x.fresh.choose.modThread t.id (fun y =>
        { (y.setRegs o.d.val (loadedRegs o.sz.val bs)).advance 4 with loads := y.loads ++ [loadOf o t va x loc] }) := by
  have found : (if State.choice (settled s t loc) = 0 then
      (settled s t loc).settleFlight (({ s with cur := .idle } : State).coreOf t.id.team) (settled s t loc).flightNo loc.sector
      else settled s t loc) = x := by
    obtain ⟨f, e, -⟩ := settled_performs quiet t
    rw [state, settledFlight, show (settled s t loc).flightNo = s.flightNo by rw [e]]
    rfl
  have links : x.delayed loc = false := by
    obtain ⟨f, e, -⟩ := settledFlight_performs quiet t
    rw [state, e]
    exact up
  have teams : x.coreOf t.id.team = s.coreOf t.id.team := by
    obtain ⟨f, e, -⟩ := settledFlight_performs quiet t
    rw [state, e]
    rfl
  have core : State.coreOf { s with cur := .idle } t.id.team = s.coreOf t.id.team := rfl
  unfold loadAt
  simp only [settleLandings_of_noneLanding (s := { s with cur := .idle }) quiet.1]
  rw [show State.settleLoads { s with cur := .idle } t.id loc.sector = settled s t loc from rfl, found]
  simp only [core, links, bytes, Bool.false_and, Bool.false_eq_true, if_false]
  simp only [loadOf, teams]

/-- The frame of a load that was issued: its thread changes, and the next number is taken (R131, R380). -/
theorem loadAt_frame {s x : State} (performed : Performs { s with cur := .idle } x) (i : ThreadId) (f : Thread → Thread) (names : ∀ y, (f y).id = y.id)
    {r : State} (issued : r = x.fresh.modThread i f ∨ r = x.fresh.choose.modThread i f) :
    r = { s with cur := .idle, threads := r.threads, lastId := s.lastId + 1, oracle := r.oracle } ∧
      ∀ u, r.thread? u = (x.thread? u).map (fun y => if u = i then f y else y) := by
  obtain ⟨g, rfl, -⟩ := performed
  rcases issued with rfl | rfl
  · exact ⟨rfl, thread_modThread _ i f names⟩
  · exact ⟨rfl, thread_modThread _ i f names⟩

/-- The load reads where its flight has performed, and is outstanding; one of a peer's memory makes its thread wait (R131, R380, log entry 105). -/
theorem globalLoad : Sys2Proof.Stmt.GlobalLoad := by
  intro o s x core t rdv tr loc bs one guard n found quiet up state bytes far
  have performed : Performs { s with cur := .idle } x := state ▸ settledFlight_performs quiet t
  have same : x.lastId = s.lastId := by
    obtain ⟨f, e, -⟩ := performed
    rw [e]
  have run : exec (.ld o) s = .next (loadAt o t (memAddr t o) { s with cur := .idle } tr loc) :=
    (exec_ld_oneThread one guard).trans (congrArg Host.Outcome.next (withAccess_ok { s with cur := .idle } t _ _ _ _ _ tr loc found))
  rw [loadAt_reads (memAddr t o) quiet up state bytes] at run
  by_cases remote : far = true
  · obtain ⟨frame, threads⟩ := loadAt_frame performed t.id
      (fun y => { y with stall := .remote, loads := y.loads ++ [{ loadOf o t (memAddr t o) x loc with done := false, remote := true }] })
      (fun _ => rfl) (.inl rfl)
    refine ⟨_, { loadOf o t (memAddr t o) x loc with done := false, remote := true }, run.trans (congrArg Host.Outcome.next (if_pos remote)), frame,
      congrArg (· + 1) same, rfl, rfl, rfl, remote.symm,
      fun u => (threads u).trans (Option.map_congr fun y _ => ?_)⟩
    by_cases own : u = t.id <;> simp [own, remote]
  · obtain ⟨frame, threads⟩ := loadAt_frame performed t.id
      (fun y => { (y.setRegs o.d.val (loadedRegs o.sz.val bs)).advance 4 with loads := y.loads ++ [loadOf o t (memAddr t o) x loc] })
      (fun y => by obtain ⟨v, e⟩ := thread_setRegs_eq y o.d.val (loadedRegs o.sz.val bs); rw [e]; rfl) (.inr rfl)
    refine ⟨_, loadOf o t (memAddr t o) x loc, run.trans (congrArg Host.Outcome.next (if_neg remote)), frame, congrArg (· + 1) same, rfl, rfl,
      rfl, (by simpa using remote : far = false).symm, fun u => (threads u).trans (Option.map_congr fun y _ => ?_)⟩
    obtain ⟨v, e⟩ := thread_setRegs_eq y o.d.val (loadedRegs o.sz.val bs)
    by_cases own : u = t.id <;> simp [own, remote, e, Thread.advance]

/-- Settles O42: no landing settles before an access to a quiet place, and the loads that perform first change their own threads only, so that the
load reads, and the store writes, in the state `settled` of the statement. -/
theorem globalAccess : Obligations.GlobalAccess := ⟨globalLoad, globalStore⟩

end Sys2Proof.Proofs
end

section
/-!
PROOFS. What the cluster unit sends (R124), and what its room costs an operation at cluster scope (R119, R123). The statements on operations at cluster
scope shut out a buffer that holds 8,192 sectors and more, and count on room for one more; a place that is not aligned can take two.
-/

namespace Sys2Proof.Proofs
open Sys2Proof Sys2Proof.Machine Sys2Proof.Laws Sys2Proof.Stmt

/-! ### What the cluster unit sends -/

/-- The cluster unit's bytes that are sent leave the buffers (R124). -/
theorem sendUnit_buffers (s : State) (cl : Nat) (c : CrewId) (d : Nat) (mine : BufByte → Bool) :
    (s.sendUnit cl c d mine).buffers = s.buffers.filter (fun b => !(b.buf == .cluster cl && b.author == .unit && mine b)) := by
  unfold State.sendUnit
  refine List.foldlRecOn (motive := fun r : State => r.buffers = _) _ _ rfl fun r h sec _ => ?_
  dsimp only
  split
  · exact h
  · exact h

/-- The sectors of some bytes, each counted once. -/
theorem mem_sectors {l : List BufByte} {sec : Loc} : sec ∈ (l.map (fun b => b.loc.sector)).eraseDups ↔ ∃ b ∈ l, b.loc.sector = sec := by
  simp

theorem length_eraseDups_le (l : List Loc) : l.eraseDups.length ≤ l.length := by
  induction h : l.length using Nat.strongRecOn generalizing l with
  | _ n ih =>
    cases l with
    | nil => simp
    | cons a l =>
      rw [List.eraseDups_cons, List.length_cons]
      have less := List.length_filter_le (fun b => !b == a) l
      rw [List.length_cons] at h
      have := ih _ (by omega) (l.filter (fun b => !b == a)) rfl
      omega

theorem sectorCount_le_length (l : List BufByte) : State.sectorCount l ≤ l.length :=
  (length_eraseDups_le _).trans (List.length_map ..).le

/-- Bytes that lie in each of some sectors count at least these. -/
theorem le_sectorCount {l : List BufByte} {secs : List Loc} (once : secs.Nodup) (each : ∀ sec ∈ secs, ∃ b ∈ l, b.loc.sector = sec) :
    secs.length ≤ State.sectorCount l :=
  (List.subperm_of_subset once fun sec h => mem_sectors.mpr (each sec h)).length_le

/-- A cluster buffer of the unit's own words that holds more sectors than it has loses the words of one (R119). -/
theorem unitRoom_evicts {s : State} {cl : Nat} (own : ∀ b ∈ s.buffers, b.author = .unit)
    (many : Config.clusterSectors < State.sectorCount (s.buffers.filter (fun b => b.buf == .cluster cl))) :
    ∃ b ∈ s.buffers, b.buf = .cluster cl ∧ (s.unitRoom cl).bufGet (.cluster cl) b.loc = none := by
  unfold State.unitRoom
  rw [if_neg (Nat.not_le.mpr many)]
  generalize sectors : ((s.buffers.filter (fun b => b.buf == .cluster cl)).map (fun b => b.loc.sector)).eraseDups = secs
  have all : secs.filter (fun sec => ((s.buffers.filter (fun b => b.buf == .cluster cl)).filter (fun b => b.loc.sector == sec)).all
      (fun b => b.author == .unit)) = secs :=
    List.filter_eq_self.mpr fun sec _ => List.all_eq_true.mpr fun b hb => by
      simp [own b (List.mem_of_mem_filter (List.mem_of_mem_filter hb))]
  have some_ : 0 < secs.length := by
    rw [← sectors]
    exact Nat.lt_of_le_of_lt (Nat.zero_le _) many
  simp only [all]
  obtain ⟨sec, chosen⟩ : ∃ sec, secs[s.choice % secs.length]? = some sec := ⟨_, List.getElem?_eq_getElem (Nat.mod_lt _ some_)⟩
  have there := List.mem_of_getElem? chosen
  rw [chosen]
  rw [← sectors] at there
  obtain ⟨b, hb, rfl⟩ := mem_sectors.mp there
  obtain ⟨inBuf, ofCluster⟩ := List.mem_filter.mp hb
  refine ⟨b, inBuf, by simpa using ofCluster, ?_⟩
  rw [State.bufGet, sendUnit_buffers]
  refine List.find?_eq_none.mpr fun y hy => ?_
  obtain ⟨hy, kept⟩ := List.mem_filter.mp hy
  intro same
  simp only [Bool.and_eq_true, beq_iff_eq] at same
  simp [same.1, same.2, own y hy] at kept

/-! ### A cluster buffer with room for one sector -/

/-- The cluster buffer of cluster 0 with one byte of the unit in each of `n` sectors, from the third of memory on. -/
def crowd (n : Nat) : List BufByte :=
  (List.range n).map fun i =>
    { buf := .cluster 0, author := .unit, ctx := 0, va := 0, loc := .pa (32 * (i + 2)), tr := ⟨0, 0, 0, false, false, false, false, false, 0⟩, val := 0 }

theorem mem_crowd {n : Nat} {b : BufByte} (h : b ∈ crowd n) : b.author = .unit ∧ b.buf = .cluster 0 ∧ ∃ i, b.loc = .pa (32 * (i + 2)) := by
  obtain ⟨i, -, rfl⟩ := List.mem_map.mp h
  exact ⟨rfl, rfl, i, rfl⟩

theorem sectorCount_crowd_le (n : Nat) : State.sectorCount ((crowd n).filter (fun b => b.buf == .cluster 0)) ≤ n :=
  (sectorCount_le_length _).trans ((List.length_filter_le _ _).trans (by simp [crowd]))

/-- The first two sectors of memory are not there. -/
theorem bufGet_crowd_none {s : State} {n : Nat} (h : s.buffers = crowd n) (b : Buf) {a : Nat} (low : a < 64) : s.bufGet b (.pa a) = none := by
  rw [State.bufGet, h]
  refine List.find?_eq_none.mpr fun y hy => ?_
  obtain ⟨-, -, i, e⟩ := mem_crowd hy
  rw [e]
  simp only [Bool.and_eq_true, beq_iff_eq, Loc.pa.injEq, not_and]
  omega

/-- Each of its sectors keeps a copy. -/
theorem bufGet_crowd_some {s : State} {n : Nat} (h : s.buffers = crowd n) {i : Nat} (hi : i < n) :
    (s.bufGet (.cluster 0) (.pa (32 * (i + 2)))).isSome := by
  rw [State.bufGet, h, List.find?_isSome]
  exact ⟨_, List.mem_map.mpr ⟨i, List.mem_range.mpr hi, rfl⟩, by simp⟩

/-- Four bytes of the unit put where the first two sectors of memory meet. -/
def straddle (ctx va : Nat) (tr : Translation) : BufByte :=
  { buf := .cluster 0, author := .unit, ctx := ctx, va := va, loc := .pa 30, tr := tr, val := 0 }

/-- They take two sectors more. -/
theorem sectorCount_straddle {s : State} {n : Nat} (h : s.buffers = crowd n) (ctx va : Nat) (tr : Translation) {bs : List Byte} (four : bs.length = 4) :
    n + 2 ≤ State.sectorCount ((putRun (straddle ctx va tr) bs s).buffers.filter (fun b => b.buf == .cluster 0)) := by
  have each : ∀ sec ∈ (List.range (n + 2)).map (fun i => Loc.pa (32 * i)),
      ∃ b ∈ (putRun (straddle ctx va tr) bs s).buffers.filter (fun b => b.buf == .cluster 0), b.loc.sector = sec := by
    intro sec hsec
    obtain ⟨i, hi, rfl⟩ := List.mem_map.mp hsec
    have holds : ∀ l, ((putRun (straddle ctx va tr) bs s).bufGet (.cluster 0) l).isSome → l.sector = .pa (32 * i) →
        ∃ b ∈ (putRun (straddle ctx va tr) bs s).buffers.filter (fun b => b.buf == .cluster 0), b.loc.sector = .pa (32 * i) := by
      intro l there sector
      obtain ⟨b, hb, same⟩ := List.find?_isSome.mp there
      simp only [Bool.and_eq_true, beq_iff_eq] at same
      exact ⟨b, List.mem_filter.mpr ⟨hb, by simp [same.1]⟩, by rw [same.2, sector]⟩
    have there : ∀ {k}, k < bs.length → ((putRun (straddle ctx va tr) bs s).bufGet (.cluster 0) ((straddle ctx va tr).loc.add k)).isSome :=
      fun hk => Option.isSome_of_eq_some (bufGet_putRun (straddle ctx va tr) bs s hk)
    rcases i with _ | _ | i
    · exact holds ((straddle ctx va tr).loc.add 0) (there (by omega)) rfl
    · exact holds ((straddle ctx va tr).loc.add 2) (there (by omega)) rfl
    · refine holds (.pa (32 * (i + 2))) ?_ (by simp [Loc.sector, Loc.down])
      rw [bufGet_putRun_of_ne]
      · exact bufGet_crowd_some h (by have := List.mem_range.mp hi; omega)
      · intro _ k hk e
        have : 32 * (i + 2) = 30 + k := Loc.pa.inj e
        omega
  have once : ((List.range (n + 2)).map (fun i => Loc.pa (32 * i))).Nodup :=
    List.nodup_range.map fun i j e => by simpa using e
  simpa using le_sectorCount once each

/-- Memory that is still zero supplies the bytes there (R107). -/
theorem farByte_crowd {s : State} {n : Nat} (h : s.buffers = crowd n) (clear : s.mem = State.reset.mem) {k : Nat} (hk : k < 4) :
    s.farByte? 0 ((Loc.pa 30).add k) = some 0 := by
  have none_ : s.bufGet (.cluster 0) ((Loc.pa 30).add k) = none := bufGet_crowd_none h _ (by omega)
  rw [State.farByte?, none_]
  change some (s.mem.read (30 + k)) = some 0
  rw [clear]
  rfl

theorem homeBytes_crowd {s : State} {n : Nat} (h : s.buffers = crowd n) (clear : s.mem = State.reset.mem) :
    s.homeBytes? .cluster 0 (.pa 30) 4 = some [0, 0, 0, 0] := by
  have bytes := fun k hk => farByte_crowd h clear (k := k) hk
  simp [State.homeBytes?, List.range_succ, bytes]

/-- The authors of a run's bytes and of those that were there. -/
theorem mem_putRun {x y : BufByte} {bs : List Byte} {s : State} (h : y ∈ (putRun x bs s).buffers) : y.author = x.author ∨ y ∈ s.buffers := by
  refine List.foldlRecOn (motive := fun r : State => ∀ y ∈ r.buffers, y.author = x.author ∨ y ∈ s.buffers) _ _ (fun y h => .inr h)
    (fun r old b _ y h => ?_) y h
  rcases List.mem_append.mp h with h | h
  · exact old y (List.mem_of_mem_filter h)
  · rw [List.mem_singleton.mp h]
    exact .inl rfl

/-- Wakes change no buffer. -/
theorem wakeCluster_buffers (s : State) (cl : Nat) (sec : Loc) : (s.wakeCluster cl sec).buffers = s.buffers := by
  unfold State.wakeCluster
  cases sec with
  | pa a =>
    dsimp only
    cases isLocal a <;> rfl
  | env c v => rfl

/-- An operation at cluster scope puts its bytes in the cluster buffer, and the core's L1 follows (R80, R123). -/
theorem putRun_l1Update (x : BufByte) (core : Nat) (bs : List Byte) (s : State) :
    ∃ l1, bs.zipIdx.foldl (fun s b => (s.bufPut (runByte x b)).l1Update core (x.loc.add b.2) b.1) s = { putRun x bs s with l1 := l1 } := by
  have same : ∀ (run : List (Byte × Nat)) (s : State) (l1 : List L1Sector), ∃ l1',
      run.foldl (fun s b => (s.bufPut (runByte x b)).l1Update core (x.loc.add b.2) b.1) { s with l1 := l1 } =
        { run.foldl (fun s b => s.bufPut (runByte x b)) s with l1 := l1' } := by
    intro run
    induction run with
    | nil => exact fun s l1 => ⟨l1, rfl⟩
    | cons b run ih => exact fun s l1 => ih (s.bufPut (runByte x b)) _
  exact same bs.zipIdx s s.l1

/-- Bytes that an operation at cluster scope writes across two sectors of a buffer without room for two: a copy leaves the buffer, of one of these bytes or
of a byte that was there (R119, R123). -/
theorem homeWrite_crowd {s : State} {n : Nat} (h : s.buffers = crowd n) (full : Config.clusterSectors < n + 2) (ctx va : Nat) (tr : Translation)
    {bs : List Byte} (four : bs.length = 4) :
    ∃ l, (s.homeWrite .cluster 0 ctx va tr (.pa 30) bs).bufGet (.cluster 0) l = none ∧
      ((∃ k, k < 4 ∧ l = (Loc.pa 30).add k) ∨ (s.bufGet (.cluster 0) l).isSome) := by
  obtain ⟨l1, put⟩ := putRun_l1Update (straddle ctx va tr) 0 bs s
  have run : s.homeWrite .cluster 0 ctx va tr (.pa 30) bs =
      (State.wakeCluster { putRun (straddle ctx va tr) bs s with l1 := l1 } 0 (Loc.pa 30).sector).unitRoom 0 := by
    rw [← put]
    rfl
  obtain ⟨b, there, ofCluster, gone⟩ := unitRoom_evicts (cl := 0)
    (s := State.wakeCluster { putRun (straddle ctx va tr) bs s with l1 := l1 } 0 (Loc.pa 30).sector)
    (fun b hb => by
      rw [wakeCluster_buffers] at hb
      rcases mem_putRun hb with e | old
      · exact e
      · exact (mem_crowd (h ▸ old)).1)
    (by rw [wakeCluster_buffers]; exact Nat.lt_of_lt_of_le full (sectorCount_straddle h ctx va tr four))
  rw [wakeCluster_buffers] at there
  refine ⟨b.loc, run ▸ gone, or_iff_not_imp_left.mpr fun other => ?_⟩
  have held : ((putRun (straddle ctx va tr) bs s).bufGet (.cluster 0) b.loc).isSome :=
    List.find?_isSome.mpr ⟨b, there, by simp [ofCluster]⟩
  rwa [bufGet_putRun_of_ne] at held
  exact fun _ k hk e => other ⟨k, four ▸ hk, e⟩

end Sys2Proof.Proofs
end

section
/-!
PROOFS. RED_PERFORM at cluster scope (R134) at a place that is not aligned, of a cluster buffer with room for one sector more: the statement allows both.
-/

namespace Sys2Proof.Proofs
open Sys2Proof Sys2Proof.Machine Sys2Proof.Laws Sys2Proof.Stmt

/-- A reduction of cluster scope performs at its home (R134). -/
theorem exec_redPerform_cluster {s : State} {i : Nat} {r : Machine.RedOp} {bs : List Byte} (there : s.reds[i]? = some r) (scope : r.scope = .cluster)
    (choice : s.choice = 0) (reach : s.reachable r.loc true = true) (up : s.delayed r.loc = false) (quiet : NoneLanding s r.loc)
    (bytes : s.homeBytes? .cluster (clusterOf r.core) r.loc (atomSize r.wide) = some bs) :
    ∃ new : List Byte, new.length = atomSize r.wide ∧ exec (.redPerform i) s =
      .next (ackRed (State.homeWrite { s.choose with reds := dropAt s.reds i } .cluster r.core r.ctx r.va r.tr r.loc new) r) := by
  have ready : redReady s r = true := by simp only [redReady, scope, State.homeDelayed, up, Bool.false_and, Bool.not_false]
  have reach' : State.reachable { s.choose with reds := dropAt s.reds i } r.loc true = true := reach
  have quiet' : NoneLanding { s.choose with reds := dropAt s.reds i } r.loc := quiet
  have bytes' : State.homeBytes? { s.choose with reds := dropAt s.reds i } .cluster (clusterOf r.core) r.loc (atomSize r.wide) = some bs := bytes
  refine ⟨leBytes (atomSize r.wide) (atomApply r.op r.wide (BitVec.ofNat 64 (leNat bs)) r.operand).toNat, leBytes_length _ _, ?_⟩
  change execRedPerform i s = _
  simp only [execRedPerform, there, ready, choice, performRed, scope, reach', settleHome_of_noneLanding quiet', bytes', Bool.not_true,
    Bool.false_eq_true, if_false, if_true]

theorem ackRed_bufGet (s : State) (r : Machine.RedOp) (b : Buf) (l : Loc) : (ackRed s r).bufGet b l = s.bufGet b l := rfl

/-- A reduction of four bytes where the first two sectors of memory meet. -/
def straddlingRed : Machine.RedOp :=
  { crews := [], team := 0, scope := .cluster, op := .exch, wide := false, operand := 0, off := 0, va := 0, loc := .pa 30, ctx := 0,
    tr := ⟨0, 0, 0, false, false, false, false, false, 0⟩, core := 0, waiting := false }

/-- It waits to perform, and the cluster buffer holds words of `n` other sectors. -/
def redCrowd (n : Nat) : State := { State.reset with buffers := crowd n, reds := [straddlingRed] }

/-- Refutes O16: the statement on RED_PERFORM at cluster scope asks for room in the cluster buffer, and for no alignment. Where the bytes of the
operation lie in two sectors and there is room for one, the cluster unit evicts one of its sectors (R119), and a copy that the statement keeps is gone. -/
theorem not_reductions : ¬ Obligations.Reductions := by
  rintro ⟨-, -, -, cluster⟩
  obtain ⟨n, hn⟩ : ∃ n, n = 8191 := ⟨_, rfl⟩
  have reach : (redCrowd n).reachable (.pa 30) true = true := (by decide : State.reset.reachable (.pa 30) true = true)
  have quiet : NoneLanding (redCrowd n) (.pa 30) := fun l hl => absurd hl List.not_mem_nil
  obtain ⟨s', run, -, -, -, -, written, kept⟩ := cluster (redCrowd n) 0 straddlingRed [0, 0, 0, 0] rfl rfl rfl reach rfl quiet rfl
    (fun k hk => (farByte_crowd (s := redCrowd n) rfl rfl hk).trans (by rcases k with _ | _ | _ | _ | k <;> rfl))
    (Nat.lt_of_le_of_lt (sectorCount_crowd_le n) (by omega))
  obtain ⟨new, four, performed⟩ :=
    exec_redPerform_cluster (s := redCrowd n) (i := 0) (r := straddlingRed) rfl rfl rfl reach rfl quiet (homeBytes_crowd (s := redCrowd n) rfl rfl)
  have result := Host.Outcome.next.inj (performed.symm.trans run)
  obtain ⟨l, gone, place⟩ := homeWrite_crowd (s := { (redCrowd n).choose with reds := dropAt (redCrowd n).reds 0 }) (n := n) rfl
    (by omega : 8192 < n + 2) straddlingRed.ctx straddlingRed.va straddlingRed.tr four
  rw [← ackRed_bufGet _ straddlingRed] at gone
  have lost : s'.bufGet (.cluster 0) l = none := result ▸ gone
  clear result run performed gone
  by_cases own : ∃ k, k < 4 ∧ l = (Loc.pa 30).add k
  · obtain ⟨k, hk, rfl⟩ := own
    exact Option.some_ne_none _ ((written k hk).symm.trans lost)
  · have held : ((redCrowd n).bufGet (.cluster 0) l).isSome := place.resolve_left own
    rw [← kept (.cluster 0) l fun _ k hk e => own ⟨k, hk, e⟩, lost] at held
    exact Bool.false_ne_true held

end Sys2Proof.Proofs
end

section
/-!
PROOFS. ATOM at cluster scope (R123, R330) where its bytes lie in two sectors and the cluster buffer has room for one more. A translation whose frame is not
a multiple of its size gives such a place; the statement allows it.
-/

namespace Sys2Proof.Proofs
open Sys2Proof Sys2Proof.Machine Sys2Proof.Laws Sys2Proof.Stmt

/-- `ATOM` of cluster scope of one thread without loads, whose check finds a place that nothing is on its way to (R123, R130). -/
theorem exec_atom_cluster {o : OpAtom} {s : State} {core : Nat} {t : Thread} {rdv : Bool} {tr : Translation} {loc : Loc} {bs : List Byte}
    (one : OneThread s core t rdv) (guard : t.guard o.g = true) (scope : o.sc = .cluster) (free : t.loads = [])
    (found : s.access t.id.team (t.pair o.a.val) (atomSize o.w) true = .ok tr loc) (quiet : NoneLanding s loc) (up : s.delayed loc = false)
    (bytes : s.homeBytes? .cluster (clusterOf (s.coreOf t.id.team)) loc (atomSize o.w) = some bs) :
    ∃ new : List Byte, new.length = atomSize o.w ∧ ∃ f, exec (.atom o) s =
      .next ((State.homeWrite { s with cur := .idle } .cluster (s.coreOf t.id.team) (s.ctxId t.id.team) (t.pair o.a.val) tr loc new).modThread t.id f) := by
  refine ⟨leBytes (atomSize o.w) (atomApply o.op o.w (BitVec.ofNat 64 (leNat bs)) (atomOperand t o.d.val o.w)).toNat, leBytes_length _ _,
    fun x => (x.setRegs o.d.val (wideRegs o.w (BitVec.ofNat 64 (leNat bs)))).advance 4, ?_⟩
  obtain ⟨focus, there, live⟩ := one
  have calm : settleRun o.g o.a.val o.w o.sc s = { s with cur := .idle } := by
    have same : State.settleLoads { s with cur := .idle } t.id loc.sector = { s with cur := .idle } := by
      simp only [State.settleLoads, show ({ s with cur := .idle } : State).thread? t.id = some t from there, free, List.filter_nil, List.foldl_nil]
    have turn : s.access t.id.team (atomAddr t o.a.val .cluster) (atomSize o.w) true = .ok tr loc := found
    simp only [settleRun, focus, Focus.ids, List.foldl_cons, List.foldl_nil, there, guard, scope, turn]
    exact same
  change Host.Outcome.next (laneFrom 4 o.g _ s (settleRun o.g o.a.val o.w o.sc s)) = _
  rw [calm, laneFrom_one 4 o.g _ s { s with cur := .idle } core t t rdv focus there there live rfl, if_pos guard]
  have pair : atomAddr t o.a.val .cluster = t.pair o.a.val := rfl
  simp only [scope, atomThread, pair]
  rw [withAccess_ok { s with cur := .idle } t _ _ _ _ _ tr loc found]
  simp only [atomAt, settleHome_of_noneLanding (s := { s with cur := .idle }) quiet, State.homeDelayed,
    show State.delayed { s with cur := .idle } loc = false from up, Bool.false_and, Bool.false_eq_true, if_false,
    show State.homeBytes? { s with cur := .idle } .cluster (clusterOf (State.coreOf { s with cur := .idle } t.id.team)) loc (atomSize o.w) = some bs
      from bytes]
  rfl

theorem modThread_bufGet (s : State) (i : ThreadId) (f : Thread → Thread) (b : Buf) (l : Loc) : (s.modThread i f).bufGet b l = s.bufGet b l := rfl

/-- A thread of a team of core 0 issues an `ATOM`. Its TLB puts address 0 two bytes before the end of the first sector of memory; the cluster buffer
holds words of `n` other sectors. -/
def atomCrowd (n : Nat) : State :=
  { withProbe State.reset false with
    cur := .flight 0 [⟨1, 0⟩] false
    buffers := crowd n
    tlb := [⟨.core 0, 0, ⟨0, 0x1000, 30, true, false, false, false, true, 0⟩⟩] }

theorem coreOf_atomCrowd (n : Nat) : (atomCrowd n).coreOf (probeThread ⟨1, 0⟩ false).id.team = 0 := rfl

/-- The `ATOM`: it exchanges four bytes. -/
def straddlingAtom : OpAtom := { g := ⟨7, false⟩, op := .exch, w := false, sc := .cluster, d := 0, a := 0 }

/-- The translation of its address. -/
def straddlingPage : Translation := ⟨0, 0x1000, 30, true, false, false, false, true, 0⟩

theorem access_atomCrowd (n : Nat) : (atomCrowd n).access 1 ((probeThread ⟨1, 0⟩ false).pair 0) 4 true = .ok straddlingPage (.pa 30) :=
  (rfl : (atomCrowd 0).access 1 ((probeThread ⟨1, 0⟩ false).pair 0) 4 true = .ok straddlingPage (.pa 30))

/-- Refutes O43: the statement on ATOM at cluster scope asks for room in the cluster buffer, and for no alignment of the place. Where its bytes lie in two
sectors and there is room for one, the cluster unit evicts one of its sectors (R119), and a copy that the statement keeps is gone. -/
theorem not_atomicAccess : ¬ Obligations.AtomicAccess := by
  rintro ⟨⟨-, -, cluster⟩, -⟩
  obtain ⟨n, hn⟩ : ∃ n, n = 8191 := ⟨_, rfl⟩
  have one : OneThread (atomCrowd n) 0 (probeThread ⟨1, 0⟩ false) false := ⟨rfl, rfl, rfl⟩
  have home : clusterOf ((atomCrowd n).coreOf (probeThread ⟨1, 0⟩ false).id.team) = 0 := by rw [coreOf_atomCrowd]; rfl
  have quiet : NoneLanding (atomCrowd n) (.pa 30) := fun l hl => absurd hl List.not_mem_nil
  have loads : ∀ u ∈ (atomCrowd n).threads, u.loads = [] := fun u hu => by rw [List.mem_singleton.mp hu]; rfl
  obtain ⟨s', run, -, -, -, -, -, changed, -⟩ := cluster (.atom straddlingAtom) ⟨7, false⟩ 0 0 false (atomCrowd n) 0 (probeThread ⟨1, 0⟩ false)
    (probeThread ⟨1, 0⟩ false) false straddlingPage (.pa 30) [0, 0, 0, 0] rfl one rfl (fun m hm => absurd hm List.not_mem_nil) (access_atomCrowd n)
    ⟨quiet, fun u hu l hl => absurd (loads u hu ▸ hl) List.not_mem_nil⟩ rfl rfl rfl rfl
    (fun k hk => by rw [home, farByte_crowd (s := atomCrowd n) rfl rfl hk]; rcases k with _ | _ | _ | _ | k <;> rfl)
    (by rw [home]; exact Nat.lt_of_le_of_lt (sectorCount_crowd_le n) (by omega))
  obtain ⟨written, kept⟩ := changed _ rfl
  rw [home] at written kept
  obtain ⟨new, four, f, performed⟩ := exec_atom_cluster (o := straddlingAtom) (bs := [0, 0, 0, 0]) one rfl rfl rfl (access_atomCrowd n) quiet rfl
    (by rw [home]; exact homeBytes_crowd (s := atomCrowd n) rfl rfl)
  rw [coreOf_atomCrowd] at performed
  have result := Host.Outcome.next.inj (performed.symm.trans run)
  obtain ⟨l, gone, place⟩ := homeWrite_crowd (s := { atomCrowd n with cur := .idle }) (n := n) rfl (by omega : 8192 < n + 2)
    ((atomCrowd n).ctxId (probeThread ⟨1, 0⟩ false).id.team) ((probeThread ⟨1, 0⟩ false).pair 0) straddlingPage four
  rw [← modThread_bufGet _ ⟨1, 0⟩ f] at gone
  have lost : s'.bufGet (.cluster 0) l = none := result ▸ gone
  clear result run performed gone
  by_cases own : ∃ k, k < 4 ∧ l = (Loc.pa 30).add k
  · obtain ⟨k, hk, rfl⟩ := own
    exact Option.some_ne_none _ ((written k hk).symm.trans lost)
  · have held : ((atomCrowd n).bufGet (.cluster 0) l).isSome := place.resolve_left own
    rw [← kept (.cluster 0) l fun _ k hk e => own ⟨k, hk, e⟩, lost] at held
    exact Bool.false_ne_true held

end Sys2Proof.Proofs
end

section
/-!
PROOFS. SECTOR_LANDING (R135, R136): the bytes of a sector that lands in memory, and its acknowledgement (R111).
-/

namespace Sys2Proof.Proofs
open Sys2Proof Sys2Proof.Machine Sys2Proof.Laws Sys2Proof.Stmt

/-! ### Separate bytes in memory -/

/-- An address that none of the bytes has keeps its byte. -/
theorem read_writeAll_of_ne (m : Memory) (bs : List (Nat × Byte)) {x : Nat} (h : ∀ b ∈ bs, x ≠ b.1) : (m.writeAll bs).read x = m.read x := by
  induction bs generalizing m with
  | nil => rfl
  | cons b bs ih =>
    exact (ih (m.write b.1 b.2) fun c hc => h c (List.mem_cons_of_mem b hc)).trans (read_write_of_ne m b.2 (h b (List.mem_cons_self ..)))

/-- An address for which the bytes name one value takes it. -/
theorem read_writeAll_of_mem (m : Memory) (bs : List (Nat × Byte)) {b : Nat × Byte} (h : b ∈ bs) (once : ∀ c ∈ bs, c.1 = b.1 → c = b) :
    (m.writeAll bs).read b.1 = b.2 := by
  induction bs generalizing m with
  | nil => exact absurd h List.not_mem_nil
  | cons c bs ih =>
    by_cases later : ∃ d ∈ bs, d.1 = b.1
    · obtain ⟨d, hd, same⟩ := later
      exact ih (m.write c.1 c.2) (once d (List.mem_cons_of_mem c hd) same ▸ hd) fun e he => once e (List.mem_cons_of_mem c he)
    · have last : c = b := ((List.mem_cons.mp h).resolve_right fun hb => later ⟨b, hb, rfl⟩).symm
      subst last
      exact (read_writeAll_of_ne _ bs fun d hd e => later ⟨d, hd, e.symm⟩).trans (read_write_self ..)

/-! ### A landing in memory -/

/-- Bytes that land in a page without compressed data are in memory, and monitors may wake (R135, R277). -/
theorem landBytes_pa (s : State) (ctx : Nat) {tr : Translation} (plain : tr.c = false) (a : Nat) (bs : List (Nat × Byte)) :
    ∃ th ts mo, s.landBytes ctx tr (.pa a) bs =
      ({ s with mem := s.mem.writeAll (bs.map (fun b => (a + b.1, b.2))), threads := th, teams := ts, monitors := mo }, []) := by
  simp only [State.landBytes, plain, Bool.false_eq_true, if_false]
  split
  · exact ⟨_, _, _, congrArg (·, []) (wakeMonitors_eq _ _).choose_spec.choose_spec.choose_spec⟩
  · exact ⟨_, _, _, rfl⟩

/-- The sending core's L1 follows, and nothing else (R80). -/
theorem landL1_l1 (s : State) (l : Landing) (bs : List (Nat × Byte)) : ∃ l1, s.landL1 l bs = { s with l1 := l1 } := by
  unfold State.landL1
  cases l.author with
  | unit => exact ⟨s.l1, rfl⟩
  | crew d =>
    refine List.foldlRecOn (motive := fun r : State => ∃ l1, r = { s with l1 := l1 }) _ _ ⟨s.l1, rfl⟩ fun r h b _ => ?_
    obtain ⟨l1, rfl⟩ := h
    dsimp only
    split
    · exact ⟨_, rfl⟩
    · exact ⟨_, rfl⟩

/-- The acknowledgement of a landing; a copy has none, and may free locks (R97, R111). -/
theorem sendAck_acks (s : State) (l : Landing) : ∃ lo, s.sendAck l = { s with
    locks := lo, acks := if l.cmd ≠ 0 ∨ (l.author = .unit ∧ l.id = 0) then s.acks else s.acks ++ [⟨l.author, l.id, l.core⟩] } := by
  unfold State.sendAck
  by_cases copy : l.cmd = 0
  · rw [if_neg (by simpa using copy)]
    by_cases own : l.author = .unit ∧ l.id = 0
    · exact ⟨s.locks, by rw [if_pos own, if_pos (.inr own)]⟩
    · exact ⟨s.locks, by rw [if_neg own, if_neg (by simpa [copy] using own)]⟩
  · rw [if_pos copy, if_pos (.inl copy)]
    unfold State.freeLocks
    split
    · exact ⟨s.locks, rfl⟩
    · exact ⟨_, rfl⟩

/-- A sector lands in memory (R135, R136). -/
theorem land_pa {s : State} {a : Nat} {l : Landing} (place : l.loc = .pa a) (plain : l.tr.c = false) (reach : s.reachable (.pa a) true = true)
    (up : s.delayed (.pa a) = false) :
    ∃ th ts mo l1 lo, s.land l = { s with
      mem := s.mem.writeAll (l.bytes.map (fun b => (a + b.1, b.2))), threads := th, teams := ts, monitors := mo, l1 := l1, locks := lo,
      acks := if l.cmd ≠ 0 ∨ (l.author = .unit ∧ l.id = 0) then s.acks else s.acks ++ [⟨l.author, l.id, l.core⟩] } := by
  have room : s.roomFor (.pa a) l.bytes = (s, true) := rfl
  obtain ⟨th, ts, mo, landed⟩ := landBytes_pa s l.ctx plain a l.bytes
  have whole : (s.landBytes l.ctx l.tr (.pa a) l.bytes).2 = [] := congrArg Prod.snd landed
  have run : s.land l = ((s.landBytes l.ctx l.tr (.pa a) l.bytes).1.landL1 l l.bytes).sendAck l := by
    have all : l.bytes.filter (fun b => !([] : List (Nat × Byte)).contains b) = l.bytes := List.filter_eq_self.mpr fun _ _ => rfl
    simp only [State.land, place, reach, up, room, whole, all, Bool.not_true, Bool.or_self, Bool.false_eq_true, if_false]
  obtain ⟨l1, follows⟩ := landL1_l1 (s.landBytes l.ctx l.tr (.pa a) l.bytes).1 l l.bytes
  obtain ⟨lo, ack⟩ := sendAck_acks ((s.landBytes l.ctx l.tr (.pa a) l.bytes).1.landL1 l l.bytes) l
  refine ⟨th, ts, mo, l1, lo, ?_⟩
  rw [run, ack, follows, congrArg Prod.fst landed]

/-- SECTOR_LANDING writes the sector's bytes in memory and nowhere else, and sends its acknowledgement (R111, R135, R136). -/
theorem exec_sectorLanding_pa (s : State) (i a : Nat) (l : Landing) (there : s.landings[i]? = some l) (place : l.loc = .pa a) (plain : l.tr.c = false)
    (reach : s.reachable (.pa a) true = true) (up : s.delayed (.pa a) = false) :
    ∃ s', exec (.sectorLanding i) s = .next s' ∧ s'.landings = without s.landings i ∧
      s'.acks = (if l.cmd ≠ 0 ∨ (l.author = .unit ∧ l.id = 0) then s.acks else s.acks ++ [⟨l.author, l.id, l.core⟩]) ∧
      s'.crews = s.crews ∧ s'.buffers = s.buffers ∧ s'.envLines = s.envLines ∧
      (∀ x, (∀ b ∈ l.bytes, x ≠ a + b.1) → s'.mem.read x = s.mem.read x) ∧
      (∀ b ∈ l.bytes, (∀ b' ∈ l.bytes, b'.1 = b.1 → b' = b) → s'.mem.read (a + b.1) = b.2) := by
  have ready : s.landWaits l = none := by
    have room : s.roomFor (.pa a) l.bytes = (s, true) := rfl
    simp only [State.landWaits, place, reach, up, room, Bool.not_true, Bool.false_eq_true, if_false, if_true]
  have run : exec (.sectorLanding i) s = .next (State.land { s with landings := dropAt s.landings i } l) := by
    change execSectorLanding i s = _
    simp only [execSectorLanding, there, ready, Option.getD_none]
  obtain ⟨th, ts, mo, l1, lo, land⟩ := land_pa (s := { s with landings := dropAt s.landings i }) place plain reach up
  refine ⟨_, run.trans (congrArg Host.Outcome.next land), rfl, rfl, rfl, rfl, rfl, fun x other => ?_, fun b hb once => ?_⟩
  · refine read_writeAll_of_ne _ _ fun c hc => ?_
    obtain ⟨b, hb, rfl⟩ := List.mem_map.mp hc
    exact other b hb
  · refine read_writeAll_of_mem _ _ (b := (a + b.1, b.2)) (List.mem_map.mpr ⟨b, hb, rfl⟩) fun c hc same => ?_
    obtain ⟨d, hd, rfl⟩ := List.mem_map.mp hc
    rw [once d hd (Nat.add_left_cancel same)]

end Sys2Proof.Proofs
end

section
/-!
PROOFS. ACKNOWLEDGEMENT (R110, R111, R124): the count of its crew, the commit that it completes, and the cluster unit's words that go first.
-/

namespace Sys2Proof.Proofs
open Sys2Proof Sys2Proof.Machine Sys2Proof.Laws Sys2Proof.Stmt

/-! ### Arrival -/

theorem modCrew_eq (s : State) (d : CrewId) (f : Crew → Crew) :
    s.modCrew d f = { s with crews := s.crews.map (fun x => if x.id = d then f x else x) } := by
  simp only [State.modCrew, updWhere, beq_iff_eq]

/-- A crew's count falls (R111). -/
def lowered (s : State) (i : Nat) (d : CrewId) : State :=
  State.modCrew { s with acks := dropAt s.acks i } d (fun x => { x with unack := x.unack - 1 })

theorem exec_acknowledgement_crew {s : State} {i : Nat} {a : Ack} {d : CrewId} (there : s.acks[i]? = some a) (author : a.author = .crew d) :
    exec (.acknowledgement i) s = .next ((lowered s i d).tryCommits d) := by
  change execAcknowledgement i s = _
  simp only [execAcknowledgement, there, State.applyAck, author]
  rfl

/-- The crew's last operation is acknowledged. -/
theorem crew_lowered {s : State} {d : CrewId} {x : Crew} (i : Nat) (there : s.crew? d = some x) :
    (lowered s i d).crew? d = some { x with unack := x.unack - 1 } :=
  (crew_modCrew_self _ d _ (by exact fun _ h => h)).trans (congrArg (Option.map _) there)

/-! ### What a crew's commits do once its count is zero -/

theorem sendLate_of_none {s : State} {d : CrewId} (h : ∀ w ∈ s.commits, w.crew = d → w.units = false) : s.sendLate d = s := by
  have none_ : s.commits.any (fun w => w.crew == d && w.units) = false :=
    List.any_eq_false.mpr fun w hw => by
      simp only [Bool.and_eq_true, beq_iff_eq, not_and]
      exact fun e => by simp [h w hw e]
  simp only [State.sendLate, none_, Bool.false_eq_true, if_false]

/-- Without a commit that can send or complete, nothing happens. -/
theorem tryCommits_of_none {s : State} {d : CrewId} (h : ∀ w ∈ s.commits, w.crew = d → w.units = false ∧ w.unitWait ≠ []) : s.tryCommits d = s := by
  have wait : s.commits.filter (fun w => w.crew == d && w.unitWait.isEmpty) = [] :=
    List.filter_eq_nil_iff.mpr fun w hw => by
      simp only [Bool.and_eq_true, beq_iff_eq, List.isEmpty_iff, not_and]
      exact fun e => (h w hw e).2
  unfold State.tryCommits
  split
  · rfl
  · simp only [sendLate_of_none fun w hw e => (h w hw e).1, wait, List.foldl_nil, ite_self]

/-- The only commit, with nothing left to wait for, completes. -/
theorem tryCommits_one {s : State} {x : Crew} {w : CommitWait} (crew : s.crew? w.crew = some x) (count : x.unack = 0) (one : s.commits = [w])
    (free : w.unitWait = []) (sent : w.units = false) : s.tryCommits w.crew = s.completeCommit w := by
  have still : s.sendLate w.crew = s := sendLate_of_none fun v hv _ => by rw [one] at hv; rw [List.mem_singleton.mp hv]; exact sent
  simp only [State.tryCommits, crew, count, still, one, free, if_true, beq_self_eq_true, List.isEmpty_nil, Bool.and_self, List.filter_cons, List.filter_nil,
    List.foldl_cons, List.foldl_nil]

/-- A commit of `CMT` completes without a trap: the conflicts are in `%cflict`, the result in the predicate, and its threads continue (R109, R110). -/
theorem completeCommit_continues {s : State} {w : CommitWait} (one : s.commits = [w]) (plain : w.barrier = false) (some_ : w.waiters ≠ [])
    (calm : w.trap = none) : s.completeCommit w = { s with
      commits := [],
      crews := s.crews.map (fun y => if y.id = w.crew then { y with cflict := w.cflict } else y),
      threads := s.threads.map (fun t => if t.id ∈ w.waiters then
        { (if t.id ∈ w.members ∧ w.pd ≠ 7 then { t with p := t.p.set w.pd w.result } else t) with
          pc := t.pc + 4, arrived := none, stall := .none, wait := 0 } else t) } := by
  have held : w.waiters.isEmpty = false := by simpa using some_
  have gone : s.commits.filter (fun x => x != w) = [] := by simp [one]
  have go : ∀ t : Thread, (if t.id ∈ w.members then t.setPred w.pd w.result else t).leave 4 =
      { (if t.id ∈ w.members ∧ w.pd ≠ 7 then { t with p := t.p.set w.pd w.result } else t) with
          pc := t.pc + 4, arrived := none, stall := .none, wait := 0 } := fun t => by
    by_cases member : t.id ∈ w.members <;> by_cases p7 : w.pd = 7 <;> simp [member, p7, Thread.setPred, Thread.leave]
  simp only [State.completeCommit, held, gone, plain, calm, modCrew_eq, updWhere, Bool.false_eq_true, if_false, List.contains_iff_mem, go]

/-! ### The clauses of the statement -/

/-- An acknowledgement of a crew without commits lowers its count (R111). -/
theorem exec_acknowledgement_lowers (s : State) (i : Nat) (d : CrewId) (a : Ack) (there : s.acks[i]? = some a) (author : a.author = .crew d)
    (none_ : ∀ w ∈ s.commits, w.crew ≠ d) :
    exec (.acknowledgement i) s = .next { s with
      acks := without s.acks i, crews := s.crews.map (fun x => if x.id = d then { x with unack := x.unack - 1 } else x) } := by
  rw [exec_acknowledgement_crew there author, tryCommits_of_none (s := lowered s i d) fun w hw e => absurd e (none_ w hw), lowered, modCrew_eq]
  rfl

/-- The last acknowledgement completes the crew's commit (R110). -/
theorem exec_acknowledgement_completes (s : State) (i : Nat) (a : Ack) (x : Crew) (w : CommitWait) (there : s.acks[i]? = some a)
    (author : a.author = .crew w.crew) (crew : s.crew? w.crew = some x) (last : x.unack = 1) (one : s.commits = [w]) (free : w.unitWait = [])
    (sent : w.units = false) (plain : w.barrier = false) (some_ : w.waiters ≠ []) (calm : w.trap = none) :
    exec (.acknowledgement i) s = .next { s with
      acks := without s.acks i, commits := [],
      crews := s.crews.map (fun y => if y.id = w.crew then { y with unack := y.unack - 1, cflict := w.cflict } else y),
      threads := s.threads.map (fun t => if t.id ∈ w.waiters then
        { (if t.id ∈ w.members ∧ w.pd ≠ 7 then { t with p := t.p.set w.pd w.result } else t) with
          pc := t.pc + 4, arrived := none, stall := .none, wait := 0 } else t) } := by
  have crews : ∀ y : Crew, (if (if y.id = w.crew then { y with unack := y.unack - 1 } else y).id = w.crew then
      { (if y.id = w.crew then { y with unack := y.unack - 1 } else y) with cflict := w.cflict }
      else if y.id = w.crew then { y with unack := y.unack - 1 } else y) =
      if y.id = w.crew then { y with unack := y.unack - 1, cflict := w.cflict } else y := fun y => by
    by_cases own : y.id = w.crew <;> simp [own]
  rw [exec_acknowledgement_crew there author, tryCommits_one (s := lowered s i w.crew) (crew_lowered i crew) (by simp [last]) one free sent,
    completeCommit_continues (s := lowered s i w.crew) one plain some_ calm, lowered, modCrew_eq]
  simp only [List.map_map, Function.comp_def, crews]
  rfl

/-- A commit that waits for another landing of the cluster unit goes on waiting (R124). -/
theorem exec_acknowledgement_unit (s : State) (i n : Nat) (a : Ack) (w : CommitWait) (there : s.acks[i]? = some a) (author : a.author = .unit)
    (one : s.commits = [w]) (waits : n ∈ w.unitWait) (other : n ≠ a.id) (sent : w.units = false) :
    exec (.acknowledgement i) s = .next { s with
      acks := without s.acks i, commits := [{ w with unitWait := w.unitWait.filter (fun m => m != a.id) }] } := by
  have left : n ∈ w.unitWait.filter (fun m => m != a.id) := List.mem_filter.mpr ⟨waits, by simpa using other⟩
  have still := tryCommits_of_none (d := w.crew) (s := { s with
    acks := dropAt s.acks i, commits := [{ w with unitWait := w.unitWait.filter (fun m => m != a.id) }] }) fun v hv _ => by
    rw [List.mem_singleton.mp hv]
    exact ⟨sent, List.ne_nil_of_mem left⟩
  change execAcknowledgement i s = _
  simp only [execAcknowledgement, there, State.applyAck, author, one, List.map_cons, List.map_nil, List.eraseDups_cons, List.filter_nil,
    List.eraseDups_nil, List.foldl_cons, List.foldl_nil]
  exact congrArg Host.Outcome.next still

end Sys2Proof.Proofs
end

section
/-!
PROOFS. The landings of what the cluster unit sends (R124): by a crew's commit whose last operation is acknowledged (R110), and by an eviction.
-/

namespace Sys2Proof.Proofs
open Sys2Proof Sys2Proof.Machine Sys2Proof.Laws Sys2Proof.Stmt

/-! ### What the cluster unit sends, sector by sector -/

/-- A landing of the cluster unit's, for a crew, that carries a byte. -/
def Carries (cl : Nat) (c : CrewId) (b : BufByte) (l : Landing) : Prop :=
  l.author = .unit ∧ l.crew = c ∧ l.core = cl * Config.coresPerCluster ∧ l.cmd = 0 ∧ l.loc = b.loc.sector ∧ (b.loc.num % 32, b.val) ∈ l.bytes

/-- The landing of some bytes of a sector, of which `b` is the first. -/
def unitLanding (cl : Nat) (c : CrewId) (d : Nat) (sec : Loc) (b : BufByte) (part : List BufByte) (id : Nat) : Landing :=
  { author := .unit, crew := c, fdepth := d, ctx := b.ctx, va := b.va - b.va % 32, loc := sec, tr := b.tr,
    bytes := part.map (fun x => (x.loc.num % 32, x.val)), implied := 0, core := cl * Config.coresPerCluster, seen := 2, id := id, cmd := 0 }

/-- One sector of some bytes is sent. -/
def sendSector (cl : Nat) (c : CrewId) (d : Nat) (bytes : List BufByte) (s : State) (sec : Loc) : State :=
  match (bytes.filter (fun b => b.loc.sector == sec)).head? with
  | none => s
  | some b =>
    { s.fresh with landings := s.landings ++ [unitLanding cl c d sec b (bytes.filter (fun b => b.loc.sector == sec)) (s.lastId + 1)] }

theorem sendUnit_eq (s : State) (cl : Nat) (c : CrewId) (d : Nat) (mine : BufByte → Bool) :
    let bytes := s.buffers.filter (fun b => b.buf == .cluster cl && b.author == .unit && mine b)
    s.sendUnit cl c d mine = ((bytes.map (fun b => b.loc.sector)).eraseDups).foldl (sendSector cl c d bytes)
      { s with buffers := s.buffers.filter (fun b => !(b.buf == .cluster cl && b.author == .unit && mine b)) } := rfl

/-- Sending changes landings and numbers only. -/
theorem foldl_sendSector_eq (cl : Nat) (c : CrewId) (d : Nat) (bytes : List BufByte) (secs : List Loc) (s : State) :
    ∃ n ls, secs.foldl (sendSector cl c d bytes) s = { s with lastId := n, landings := ls } := by
  refine List.foldlRecOn (motive := fun r : State => ∃ n ls, r = { s with lastId := n, landings := ls }) _ _ ⟨_, _, rfl⟩ fun r h sec _ => ?_
  obtain ⟨n, ls, rfl⟩ := h
  unfold sendSector
  split
  · exact ⟨_, _, rfl⟩
  · exact ⟨_, _, rfl⟩

/-- A sector is sent with each of its bytes. -/
theorem sendSector_carries (cl : Nat) (c : CrewId) (d : Nat) {bytes : List BufByte} {b : BufByte} (h : b ∈ bytes) (s : State) :
    ∃ l ∈ (sendSector cl c d bytes s b.loc.sector).landings, Carries cl c b l := by
  have there : b ∈ bytes.filter (fun x => x.loc.sector == b.loc.sector) := List.mem_filter.mpr ⟨h, by simp⟩
  unfold sendSector
  split
  next none_ =>
    rw [List.head?_eq_none_iff.mp none_] at there
    exact absurd there List.not_mem_nil
  next => exact ⟨_, List.mem_append_right _ (List.mem_singleton_self _), rfl, rfl, rfl, rfl, rfl, List.mem_map.mpr ⟨b, there, rfl⟩⟩

/-- What is on its way stays on its way. -/
theorem sendSector_keeps {cl : Nat} {c : CrewId} {d : Nat} {bytes : List BufByte} {s : State} {l : Landing} (h : l ∈ s.landings) (sec : Loc) :
    l ∈ (sendSector cl c d bytes s sec).landings := by
  unfold sendSector
  split
  · exact h
  · exact List.mem_append_left _ h

/-- Every byte that the cluster unit sends is on its way (R124). -/
theorem sendUnit_carries {s : State} {cl : Nat} {mine : BufByte → Bool} {b : BufByte} (c : CrewId) (d : Nat) (there : b ∈ s.buffers)
    (ofCluster : b.buf = .cluster cl) (own : b.author = .unit) (sent : mine b = true) :
    ∃ l ∈ (s.sendUnit cl c d mine).landings, Carries cl c b l := by
  rw [sendUnit_eq]
  have h : b ∈ s.buffers.filter (fun b => b.buf == .cluster cl && b.author == .unit && mine b) :=
    List.mem_filter.mpr ⟨there, by simp [ofCluster, own, sent]⟩
  generalize s.buffers.filter (fun b => b.buf == .cluster cl && b.author == .unit && mine b) = bytes at h ⊢
  have turns : ∀ (secs : List Loc) (r : State), (b.loc.sector ∈ secs ∨ ∃ l ∈ r.landings, Carries cl c b l) →
      ∃ l ∈ (secs.foldl (sendSector cl c d bytes) r).landings, Carries cl c b l := by
    intro secs
    induction secs with
    | nil => exact fun r h => h.resolve_left List.not_mem_nil
    | cons sec secs ih =>
      rintro r (first | ⟨l, old, carries⟩)
      · rcases List.mem_cons.mp first with rfl | later
        · exact ih _ (.inr (sendSector_carries cl c d h r))
        · exact ih _ (.inl later)
      · exact ih _ (.inr ⟨l, sendSector_keeps old sec, carries⟩)
  exact turns _ _ (.inl (mem_sectors.mpr ⟨b, h, rfl⟩))

/-- A landing of the cluster unit's is not acknowledged (R124). -/
theorem Carries.inFlight {s : State} {cl : Nat} {c : CrewId} {b : BufByte} {l : Landing} (h : Carries cl c b l) (there : l ∈ s.landings) :
    l.id ∈ s.unitInFlight cl := by
  obtain ⟨own, -, core, device, -, -⟩ := h
  have home : clusterOf (cl * Config.coresPerCluster) = cl := Nat.mul_div_cancel _ (by decide)
  refine List.mem_append_left _ (List.mem_map.mpr ⟨l, List.mem_filter.mpr ⟨List.mem_append_left _ there, ?_⟩, rfl⟩)
  simp [own, core, device, home]

/-- The frame of what the cluster unit sends. -/
theorem sendUnit_frame (s : State) (cl : Nat) (c : CrewId) (d : Nat) (mine : BufByte → Bool) :
    ∃ n ls bs, s.sendUnit cl c d mine = { s with lastId := n, landings := ls, buffers := bs } := by
  obtain ⟨n, ls, e⟩ := foldl_sendSector_eq cl c d (s.buffers.filter (fun b => b.buf == .cluster cl && b.author == .unit && mine b)) _
    { s with buffers := s.buffers.filter (fun b => !(b.buf == .cluster cl && b.author == .unit && mine b)) }
  exact ⟨n, ls, _, (sendUnit_eq ..).trans e⟩

/-! ### A commit whose words are late -/

/-- What is sent as the count of a crew reaches zero (log entry 125). -/
def lateSent (s : State) (c : CrewId) : State := s.sendUnit (s.clusterOfCrew c) c (s.fdepthOf c.team) (fun _ => true)

theorem lateSent_frame (s : State) (c : CrewId) : ∃ n ls bs, lateSent s c = { s with lastId := n, landings := ls, buffers := bs } := sendUnit_frame ..

/-- The words go, and the commit waits for them. -/
theorem sendLate_one {s : State} {w : CommitWait} (one : s.commits = [w]) (late : w.units = true) : s.sendLate w.crew =
    { lateSent s w.crew with commits := [{ w with units := false, unitWait := (lateSent s w.crew).unitInFlight (s.clusterOfCrew w.crew) }] } := by
  have some_ : s.commits.any (fun v => v.crew == w.crew && v.units) = true := by simp [one, late]
  have kept : (lateSent s w.crew).commits = [w] ∧ (lateSent s w.crew).clusterOfCrew w.crew = s.clusterOfCrew w.crew := by
    obtain ⟨n, ls, bs, e⟩ := lateSent_frame s w.crew
    rw [e]
    exact ⟨one, rfl⟩
  simp only [State.sendLate, some_, if_true]
  rw [show s.sendUnit (s.clusterOfCrew w.crew) w.crew (s.fdepthOf w.crew.team) (fun _ => true) = lateSent s w.crew from rfl, kept.1]
  simp [updWhere, late, kept.2]

/-- A commit whose words are late does not complete as the count reaches zero (R110, R124). -/
theorem tryCommits_late {s : State} {x : Crew} {w : CommitWait} (crew : s.crew? w.crew = some x) (count : x.unack = 0) (one : s.commits = [w])
    (late : w.units = true) (out : (lateSent s w.crew).unitInFlight (s.clusterOfCrew w.crew) ≠ []) : s.tryCommits w.crew =
    { lateSent s w.crew with commits := [{ w with units := false, unitWait := (lateSent s w.crew).unitInFlight (s.clusterOfCrew w.crew) }] } := by
  have waits : ((lateSent s w.crew).unitInFlight (s.clusterOfCrew w.crew)).isEmpty = false := by simpa using out
  simp only [State.tryCommits, crew, count, if_true, sendLate_one one late, List.filter_cons, List.filter_nil, waits, Bool.and_false, Bool.false_eq_true,
    if_false, List.foldl_nil]

/-! ### The clauses of the statement -/

/-- The words that the crew's reductions left go with its commit, which then waits for them (log entry 125). -/
theorem exec_acknowledgement_sends (s : State) (i : Nat) (a : Ack) (x : Crew) (w : CommitWait) (b : BufByte) (there : s.acks[i]? = some a)
    (author : a.author = .crew w.crew) (crew : s.crew? w.crew = some x) (last : x.unack = 1) (one : s.commits = [w]) (late : w.units = true) :
    let cl := clusterOf (s.coreOf w.crew.team)
    b ∈ s.buffers → b.buf = .cluster cl → b.author = .unit →
    ∃ s', exec (.acknowledgement i) s = .next s' ∧ (∀ y ∈ s'.buffers, ¬(y.buf = .cluster cl ∧ y.author = .unit)) ∧
      (∃ l ∈ s'.landings, l.author = .unit ∧ l.crew = w.crew ∧ l.loc = b.loc.sector ∧ (b.loc.num % 32, b.val) ∈ l.bytes) ∧
      s'.commits = [{ w with units := false, unitWait := s'.unitInFlight cl }] ∧ s'.threads = s.threads := by
  intro cl held ofCluster own
  obtain ⟨l, onWay, carries⟩ := sendUnit_carries (s := lowered s i w.crew) (cl := cl) (mine := fun _ => true) w.crew
    ((lowered s i w.crew).fdepthOf w.crew.team) held ofCluster own rfl
  have run := tryCommits_late (s := lowered s i w.crew) (crew_lowered i crew) (by simp [last]) one late (List.ne_nil_of_mem (carries.inFlight onWay))
  have left : ∀ y ∈ (lateSent (lowered s i w.crew) w.crew).buffers, ¬(y.buf = .cluster cl ∧ y.author = .unit) := fun y hy ⟨hb, ha⟩ => by
    rw [lateSent, sendUnit_buffers] at hy
    have kept := (List.mem_filter.mp hy).2
    rw [show (lowered s i w.crew).clusterOfCrew w.crew = cl from rfl] at kept
    simp [hb, ha] at kept
  have threads : (lateSent (lowered s i w.crew) w.crew).threads = s.threads := by
    obtain ⟨n, ls, bs, e⟩ := lateSent_frame (lowered s i w.crew) w.crew
    rw [e]
    rfl
  obtain ⟨unit, crewOf, -, -, loc, byte⟩ := carries
  exact ⟨_, (exec_acknowledgement_crew there author).trans (congrArg Host.Outcome.next run), left, ⟨l, onWay, unit, crewOf, loc, byte⟩, rfl, threads⟩

/-- The sector of a word's byte. -/
theorem sector_of_word {l m : Loc} (h : l.down 4 = m.down 4) : l.sector = m.sector := by
  have through : ∀ l : Loc, l.sector = (l.down 4).sector := fun l => by
    cases l <;> simp only [Loc.sector, Loc.down, Loc.pa.injEq, Loc.env.injEq, true_and] <;> omega
  rw [through l, through m, h]

/-- The cluster unit's bytes of a word go to device reach as one landing (R124, log entry 114). -/
theorem exec_clusterUnitEviction (s : State) (cluster : Nat) (word : Loc) (b : BufByte) (bs : List BufByte) :
    let mine := fun (b : BufByte) => b.buf == .cluster cluster && b.author == .unit && b.loc.down 4 == word.down 4
    s.buffers.filter mine = b :: bs →
    exec (.clusterUnitEviction cluster word) s = .next { s with
      lastId := s.lastId + 1, buffers := s.buffers.filter (fun b => !mine b), landings := s.landings ++ [{
        author := .unit, crew := ⟨0, 0⟩, fdepth := 0, ctx := b.ctx, va := b.va - b.va % 32, loc := b.loc.sector, tr := b.tr,
        bytes := (b :: bs).map (fun x => (x.loc.num % 32, x.val)), implied := 0, core := 16 * cluster, seen := 2, id := s.lastId + 1, cmd := 0 }] } := by
  intro mine found
  have sector : ∀ x ∈ b :: bs, x.loc.sector = b.loc.sector := by
    have ofWord : ∀ x ∈ b :: bs, x.loc.down 4 = word.down 4 := fun x hx => by
      have := (List.mem_filter.mp (found ▸ hx)).2
      simp only [mine, Bool.and_eq_true, beq_iff_eq] at this
      exact this.2
    exact fun x hx => sector_of_word ((ofWord x hx).trans (ofWord b (List.mem_cons_self ..)).symm)
  have one : ((b :: bs).map (fun x => x.loc.sector)).eraseDups = [b.loc.sector] := by
    have rest : (bs.map (fun x => x.loc.sector)).filter (fun x => !x == b.loc.sector) = [] :=
      List.filter_eq_nil_iff.mpr fun x hx => by
        obtain ⟨y, hy, rfl⟩ := List.mem_map.mp hx
        simp [sector y (List.mem_cons_of_mem b hy)]
    rw [List.map_cons, List.eraseDups_cons, rest, List.eraseDups_nil]
  have all : (b :: bs).filter (fun x => x.loc.sector == b.loc.sector) = b :: bs :=
    List.filter_eq_self.mpr fun x hx => by simp [sector x hx]
  refine congrArg Host.Outcome.next ((sendUnit_eq s cluster ⟨0, 0⟩ 0 (fun b => b.loc.down 4 == word.down 4)).trans ?_)
  rw [show s.buffers.filter (fun b => b.buf == .cluster cluster && b.author == .unit && b.loc.down 4 == word.down 4) = b :: bs from found, one,
    List.foldl_cons, List.foldl_nil, sendSector, all, Nat.mul_comm 16 cluster]
  rfl

theorem landingsAndAcknowledgements : Sys2Proof.Stmt.LandingsAndAcknowledgements :=
  ⟨exec_sectorLanding_pa, exec_acknowledgement_lowers, exec_acknowledgement_completes, exec_acknowledgement_unit, exec_acknowledgement_sends,
    exec_clusterUnitEviction⟩

end Sys2Proof.Proofs
end

section
/-!
PROOFS. LINE_EVICTION (R100, R102, R108, R185) and ENVELOPE_MISS (R187, R196): the line that leaves, the miss that replays, that joins a fill, and that
gets a fill of its own.
-/

namespace Sys2Proof.Proofs
open Sys2Proof Sys2Proof.Machine Sys2Proof.Laws Sys2Proof.Stmt

/-! ### An envelope line leaves the cache -/

/-- The name of a listed line. -/
theorem name_of_envLine {s : State} {c n : Nat} {l : EnvLine} (h : s.envLine? c n = some l) : l.name = n - n % 128 := by
  have := List.find?_some h
  simp only [Bool.and_eq_true, beq_iff_eq] at this
  exact this.2

/-- Without monitors none wakes (R277). -/
theorem wakeMonitors_of_nil {s : State} (h : s.monitors = []) (p : Loc → Bool) : s.wakeMonitors p = s := by
  have none_ : s.noteWake [] = s := noteWake_of_inside fun i hi => absurd hi List.not_mem_nil
  have same : { s with monitors := [] } = s := by rw [← h]
  simp only [State.wakeMonitors, h, List.filter_nil, List.map_nil, none_, updWhere, List.contains_nil, Bool.false_and, Bool.false_eq_true, if_false,
    List.map_id']
  exact same

/-- Without pins and with room for it, a PRESENT line goes (R185, R203). -/
theorem exec_lineEviction_env {s : State} {n : Nat} {l : EnvLine} (pins : s.pins = []) (monitors : s.monitors = []) (line : s.envLine? l.ctx n = some l)
    (present : l.held = false) (room : s.noEntry l = false) : exec (.lineEviction (.llc (.env l.ctx n))) s = .next (
      if s.mustKeep l then { s with envLines := s.envLines.map (fun x => if x.ctx = l.ctx ∧ x.name = n - n % 128 then { x with held := true } else x) }
      else { s with envLines := s.envLines.filter (fun x => !(x.ctx == l.ctx && x.name == n - n % 128)) }) := by
  have free : ∀ name, s.pinned l.ctx name = false := fun name => by simp only [State.pinned, pins, List.any_nil, Bool.and_false]
  have name := name_of_envLine line
  have aligned : n - n % 128 - (n - n % 128) % 128 = n - n % 128 := by omega
  change execLineEviction (.llc (.env l.ctx n)) s = _
  simp only [execLineEviction, evictEnv, line, present, free, room, Bool.or_self, Bool.false_eq_true, if_false, State.evictLine,
    wakeMonitors_of_nil monitors, State.modEnv, updWhere, name, aligned, Bool.and_eq_true, beq_iff_eq]

/-- A line that can be computed again is dropped; a written one becomes HELD while the ballast store has room (R185, R203). -/
theorem evictions (s : State) (n : Nat) (l : EnvLine) (c : Ctx) (g : GenDesc) (pins : s.pins = []) (monitors : s.monitors = [])
    (line : s.envLine? l.ctx n = some l) (present : l.held = false) (ctx : s.ctx? l.ctx = some c) (gen : c.gens[l.gen]? = some g) :
    (l.written = false → g.ballast = false →
      exec (.lineEviction (.llc (.env l.ctx n))) s = .next { s with
        envLines := s.envLines.filter (fun x => !(x.ctx == l.ctx && x.name == n - n % 128)) }) ∧
    (l.written = true → s.envLines.countP (fun x => x.ctx == l.ctx && x.held) < c.regs.ballast * 0x4000000 / 128 →
      exec (.lineEviction (.llc (.env l.ctx n))) s = .next { s with
        envLines := s.envLines.map (fun x => if x.ctx = l.ctx ∧ x.name = n - n % 128 then { x with held := true } else x) }) := by
  refine ⟨fun clean plain => ?_, fun written few => ?_⟩
  · have drop : s.mustKeep l = false := by simp [State.mustKeep, clean, ctx, gen, plain]
    have room : s.noEntry l = false := by simp only [State.noEntry, drop, Bool.false_and]
    rw [exec_lineEviction_env pins monitors line present room, drop]
    simp only [Bool.false_eq_true, if_false]
  · have keep : s.mustKeep l = true := by simp only [State.mustKeep, written, Bool.true_or]
    have room : s.noEntry l = false := by
      have entries : s.ballastEntries l.ctx = c.regs.ballast * 0x4000000 / 128 := by
        rw [State.ballastEntries, ctx, Option.map_some, Option.getD_some]
      rw [List.countP_eq_length_filter, ← entries] at few
      rw [State.noEntry, keep, Bool.true_and]
      exact decide_eq_false (Nat.not_le.mpr few)
    rw [exec_lineEviction_env pins monitors line present room, keep]
    simp only [if_true]

/-! ### A miss that is served -/

theorem notHeld_of_present {s : State} {c n : Nat} (present : ∀ l, s.envLine? c n = some l → l.held = false) :
    ((s.envLine? c n).map EnvLine.held).getD false = false := by
  cases line : s.envLine? c n with
  | none => rfl
  | some l => exact present l line

/-- A miss on a line that is not HELD reaches its slice (R187). -/
theorem exec_envelopeMiss {s : State} {i n : Nat} {m : Miss} (there : s.misses[i]? = some m) (place : m.loc = .env m.ctx n)
    (present : ∀ l, s.envLine? m.ctx n = some l → l.held = false) :
    exec (.envelopeMiss i) s = .next (State.missAt { s with misses := dropAt s.misses i } m) := by
  have ready : s.missWaits m = none := by simp only [State.missWaits, place, notHeld_of_present present, Bool.false_eq_true, if_false]
  change execEnvelopeMiss i s = _
  simp only [execEnvelopeMiss, there, ready, Option.getD_none]

/-- A line that is not HELD is not restored (R185). -/
theorem restoreEnv_of_present {s : State} {c n : Nat} (present : ∀ l, s.envLine? c n = some l → l.held = false) : s.restoreEnv c n = s := by
  unfold State.restoreEnv
  split
  next l line => rw [present l line]; rfl
  next => rfl

/-- The waiter is the thread. -/
def isThread (t : ThreadId) : Waiter → Bool
  | .thread u => [t].contains u
  | _ => false

theorem not_isThread {t : ThreadId} {w : Waiter} (other : w ≠ .thread t) : (!isThread t w) = true := by
  cases w with
  | thread u => simpa [isThread] using fun e : u = t => other (e ▸ rfl)
  | _ => rfl

/-- A thread that waits nowhere else replays next (R196). -/
theorem replayThreads_one {s : State} {t : ThreadId} (inside : s.outside t.team = false) (misses : ∀ x ∈ s.misses ++ s.overflow, x.waiter ≠ .thread t)
    (fills : ∀ f ∈ s.fills, ∀ j ∈ f.waiters, j.who ≠ .thread t) (replays : ∀ j ∈ s.replays, j.who ≠ .thread t) (va : Nat) (kind : Kind) :
    s.replayThreads [t] va kind = { s with
      replays := s.replays ++ [⟨.thread t, va, kind⟩],
      threads := s.threads.map (fun u => if u.id = t then { u with park := .none, stall := .none } else u) } := by
  have awake : s.noteWake [t] = s := noteWake_of_inside fun i hi => by rw [List.mem_singleton.mp hi]; exact inside
  have keepM : s.misses.filter (fun m => !isThread t m.waiter) = s.misses :=
    List.filter_eq_self.mpr fun m hm => not_isThread (misses m (List.mem_append_left _ hm))
  have keepO : s.overflow.filter (fun m => !isThread t m.waiter) = s.overflow :=
    List.filter_eq_self.mpr fun m hm => not_isThread (misses m (List.mem_append_right _ hm))
  have keepR : s.replays.filter (fun j => !isThread t j.who) = s.replays :=
    List.filter_eq_self.mpr fun j hj => not_isThread (replays j hj)
  have keepF : s.fills.map (fun (f : Fill) => { f with waiters := f.waiters.filter (fun j => !isThread t j.who) }) = s.fills :=
    (List.map_congr_left fun f hf => by rw [List.filter_eq_self.mpr fun j hj => not_isThread (fills f hf j hj)]; rfl).trans (List.map_id _)
  have run : s.replayThreads [t] va kind = { s with
      misses := s.misses.filter (fun m => !isThread t m.waiter)
      overflow := s.overflow.filter (fun m => !isThread t m.waiter)
      fills := s.fills.map (fun (f : Fill) => { f with waiters := f.waiters.filter (fun j => !isThread t j.who) })
      threads := updWhere (fun x => [t].contains x.id) (fun x => { x with park := .none, stall := .none }) s.threads
      replays := s.replays.filter (fun j => !isThread t j.who) ++ [⟨.thread t, va, kind⟩] } := by
    unfold State.replayThreads
    rw [awake]
    rfl
  rw [run, keepM, keepO, keepR, keepF]
  simp only [updWhere, List.contains_cons, List.contains_nil, Bool.or_false, beq_iff_eq]

/-- A miss whose word is valid replays (R187, R196). -/
theorem missAt_valid {s : State} {n : Nat} {m : Miss} {v : Byte} (place : m.loc = .env m.ctx n)
    (present : ∀ l, s.envLine? m.ctx n = some l → l.held = false) (valid : s.devByte? m.loc = some v) :
    s.missAt m = s.queueReplay ⟨m.waiter, m.va, m.kind⟩ := by
  rw [place] at valid
  simp only [State.missAt, place, notHeld_of_present present, restoreEnv_of_present present, valid, Option.isSome_some, Bool.not_true,
    Bool.false_eq_true, if_false, if_true]

/-- The thread of a miss whose word is valid now replays (R187, R196). -/
theorem exec_envelopeMiss_replays (s : State) (i n : Nat) (m : Miss) (t : ThreadId) (v : Byte) (there : s.misses[i]? = some m)
    (place : m.loc = .env m.ctx n) (waiter : m.waiter = .thread t) (valid : s.devByte? m.loc = some v)
    (present : ∀ l, s.envLine? m.ctx n = some l → l.held = false) (inside : s.outside t.team = false)
    (alone : ∀ u, s.thread? t = some u → u.run = none) (replays : ∀ j ∈ s.replays, j.who ≠ .thread t)
    (misses : ∀ x ∈ without s.misses i ++ s.overflow, x.waiter ≠ .thread t) (fills : ∀ f ∈ s.fills, ∀ j ∈ f.waiters, j.who ≠ .thread t) :
    exec (.envelopeMiss i) s = .next { s with
      misses := without s.misses i, replays := s.replays ++ [⟨.thread t, m.va, m.kind⟩],
      threads := s.threads.map (fun u => if u.id = t then { u with park := .none, stall := .none } else u) } := by
  have single : s.runOf t = [t] := by
    have none_ : (s.thread? t).bind Thread.run = none := by
      cases found : s.thread? t with
      | none => rfl
      | some u => exact alone u found
    simp only [State.runOf, none_]
  have queue : State.queueReplay { s with misses := dropAt s.misses i } ⟨m.waiter, m.va, m.kind⟩ =
      State.replayThreads { s with misses := dropAt s.misses i } [t] m.va m.kind := by
    simp only [State.queueReplay, waiter]
    exact congrArg (State.replayThreads { s with misses := dropAt s.misses i } · m.va m.kind) single
  rw [exec_envelopeMiss there place present, missAt_valid (s := { s with misses := dropAt s.misses i }) place present valid, queue,
    replayThreads_one (s := { s with misses := dropAt s.misses i }) inside misses fills replays]
  rfl

end Sys2Proof.Proofs
end

section
/-!
PROOFS. A miss that needs a fill (R186 to R188): it joins the fill that makes its span, or gets one of its own, whose record enters its bin (R169).
-/

namespace Sys2Proof.Proofs
open Sys2Proof Sys2Proof.Machine Sys2Proof.Laws Sys2Proof.Stmt

/-! ### The span of a miss -/

/-- The base of a miss's span under its generator (R182). -/
def missSpan (m : Miss) (g : GenDesc) : Nat := m.word - m.word % (128 * 2 ^ g.log2span)

/-- The fill makes the span of the miss. -/
def makesSpan (m : Miss) (g : GenDesc) (f : Fill) : Bool := f.ctx == m.ctx && f.span == missSpan m g && f.depth == m.depth + 1

/-- The miss as a waiter. -/
def missJoined (m : Miss) : Joined := ⟨m.waiter, m.va, m.kind⟩

/-- The fill that a miss starts, with its number (R186, R199). -/
def missFill (m : Miss) (n : Nat) (g : GenDesc) (d : NodeDesc) (p : Nat) : Fill :=
  { pfid := p, ctx := m.ctx, gen := m.gen, span := missSpan m g, name := n - m.word % (128 * 2 ^ g.log2span), log2span := g.log2span,
    depth := m.depth + 1, state := .emitting, cls := max (max g.pfloor d.prio) m.cls, waiters := [missJoined m] }

/-- The record of that fill (R188, R194). -/
def missRecord (m : Miss) (g : GenDesc) (d : NodeDesc) (p : Nat) (merge : Bool) : Record :=
  { words := fillRecordWords g m.gen (missSpan m g) (m.depth + 1) merge p ++ List.replicate (d.rsize - 11) 0, pfid := some p, gen := some m.gen,
    writer := none }

/-- A miss on an absent line that its generator can make: its span lies in its page and above its generator's base (R187). -/
structure Fillable (s : State) (n : Nat) (m : Miss) (c : Ctx) (g : GenDesc) : Prop where
  place : m.loc = .env m.ctx n
  absent : s.envLine? m.ctx n = none
  shallow : m.depth < 2
  ctx : s.ctx? m.ctx = some c
  gen : c.gens[m.gen]? = some g
  low : m.pageBase ≤ missSpan m g
  high : missSpan m g + 128 * 2 ^ g.log2span ≤ m.pageBase + m.pageSize
  base : g.vbase ≤ missSpan m g

theorem Fillable.present {s : State} {n : Nat} {m : Miss} {c : Ctx} {g : GenDesc} (h : Fillable s n m c g) :
    ∀ l, s.envLine? m.ctx n = some l → l.held = false := fun l line => by
  rw [h.absent] at line
  exact absurd line (Option.some_ne_none l).symm

/-- The checks that such a miss passes. -/
theorem Fillable.passes {s : State} {n : Nat} {m : Miss} {c : Ctx} {g : GenDesc} (h : Fillable s n m c g) :
    (s.devByte? (.env m.ctx n)).isSome = false ∧ (s.ctx? m.ctx).bind (fun c => c.gens[m.gen]?) = some g ∧ ¬m.depth ≥ 2 ∧
      ¬(m.word - m.word % (128 * 2 ^ g.log2span) < m.pageBase ∨
        m.pageBase + m.pageSize < m.word - m.word % (128 * 2 ^ g.log2span) + 128 * 2 ^ g.log2span) ∧
      ¬m.word - m.word % (128 * 2 ^ g.log2span) < g.vbase := by
  obtain ⟨-, absent, shallow, ctx, gen, low, high, base⟩ := h
  refine ⟨by simp only [State.devByte?, absent, Option.isSome_none], by rw [ctx]; exact gen, Nat.not_le.mpr shallow, ?_, Nat.not_lt.mpr base⟩
  exact not_or.mpr ⟨Nat.not_lt.mpr low, Nat.not_lt.mpr high⟩

/-- The miss joins the fill of its span (R187). -/
theorem missAt_joins {s : State} {n : Nat} {m : Miss} {c : Ctx} {g : GenDesc} (h : Fillable s n m c g) (filling : s.fills.any (makesSpan m g) = true) :
    s.missAt m = State.raiseClasses { s with fills := updWhere (makesSpan m g) (fun f => { f with waiters := f.waiters ++ [missJoined m] }) s.fills } := by
  obtain ⟨invalid, gen, depth, inPage, inGen⟩ := h.passes
  have filling' : s.fills.any (fun f => f.ctx == m.ctx && f.span == m.word - m.word % (128 * 2 ^ g.log2span) && f.depth == m.depth + 1) = true := filling
  simp only [State.missAt, h.place, notHeld_of_present h.present, restoreEnv_of_present h.present, invalid, gen, if_neg depth, if_neg inPage, if_neg inGen,
    filling', Bool.not_true, Bool.false_eq_true, if_false, if_true]
  rfl

/-- The state in which the record of a miss's fill is allocated (R186). -/
def withFill (s : State) (f : Fill) : State := { s.choose with fills := s.fills ++ [f] }

/-- The miss gets a fill of its own, whose record is allocated (R187, R188). -/
theorem missAt_fills {s : State} {n : Nat} {m : Miss} {c : Ctx} {g : GenDesc} {p : Nat} {d : NodeDesc} (h : Fillable s n m c g)
    (new : s.fills.any (makesSpan m g) = false) (few : s.fills.length < Config.fillSlots) (free : s.freePfid = some p) (node : c.nodes[g.node]? = some d) :
    s.missAt m = ((withFill s (missFill m n g d p)).allocate m.ctx g.node (m.depth + 1) (missRecord m g d p false)
      (.fill p)).raiseClasses := by
  obtain ⟨invalid, gen, depth, inPage, inGen⟩ := h.passes
  have new' : s.fills.any (fun f => f.ctx == m.ctx && f.span == m.word - m.word % (128 * 2 ^ g.log2span) && f.depth == m.depth + 1) = false := new
  have node' : s.node? m.ctx g.node = some d := by rw [State.node?, h.ctx]; exact node
  simp only [State.missAt, h.place, h.absent, Option.map_none, Option.getD_none, restoreEnv_of_present h.present, invalid, gen, if_neg depth,
    if_neg inPage, if_neg inGen, new', if_neg (Nat.not_le.mpr few), free, node', Option.isSome_none, Bool.not_true, Bool.false_eq_true, if_false]
  rfl

/-! ### The record of a fill enters its bin -/

/-- One more record that makes no batch triggers nothing (R170). -/
theorem trigger_of_noTrigger {s : State} {ctx n part : Nat} {c : Ctx} {d : NodeDesc} (r : Record) (now : Nat) (hc : s.ctx? ctx = some c)
    (hd : c.nodes[n]? = some d) (quiet : NoTrigger c n part d) :
    (s.modCtx ctx (fun c => enters c n part r now)).trigger ctx n part = s.modCtx ctx (fun c => enters c n part r now) := by
  have entered : (s.modCtx ctx (fun c => enters c n part r now)).ctx? ctx = some (enters c n part r now) := by
    rw [ctx_modCtx_self s ctx (fun c => enters c n part r now) (fun _ h => h), hc]
    rfl
  have few : ¬((enters c n part r now).binPart n part).length ≥ d.c := by
    rw [binPart_enters_length]
    have := quiet.2
    omega
  simp only [State.trigger, entered]
  rw [show (enters c n part r now).nodes = c.nodes from rfl, hd]
  exact if_neg few

/-- The record of a fill enters its bin, and the fill waits there (R169, R186). -/
theorem allocate_fill {s : State} {ctx n part p : Nat} {c : Ctx} {d : NodeDesc} {r : Record} (who : AllocFor) (fill : r.pfid = some p)
    (hc : s.ctx? ctx = some c) (hd : c.nodes[n]? = some d) (room : c.canAlloc n = true) (quiet : NoTrigger c n part d) :
    s.allocate ctx n part r who =
      State.modCtx (s.modFill p (fun f => { f with state := .queued })) ctx (fun c => enters c n part r s.time) := by
  have entered : (State.modCtx (s.modFill p (fun f => { f with state := .queued })) ctx (fun c => enters c n part r s.time)).ctx? ctx =
      some (enters c n part r s.time) := by
    rw [ctx_modCtx_self (s.modFill p (fun f => { f with state := .queued })) ctx (fun c => enters c n part r s.time) (fun _ h => h)]
    exact congrArg (Option.map _) hc
  have enter : s.enterBin ctx n part r = State.modCtx (s.modFill p (fun f => { f with state := .queued })) ctx (fun c => enters c n part r s.time) := by
    simp only [State.enterBin, fill]
    exact trigger_of_noTrigger (s := s.modFill p (fun f => { f with state := .queued })) r s.time hc hd quiet
  simp only [State.allocate, hc, room, if_true, enter]
  refine drainBins_of_timers fun c' hc' => ?_
  rw [entered] at hc'
  rw [← Option.some.inj hc']
  exact quiet.1

/-- Raising classes leaves what does not depend on them (R199). -/
theorem raiseClasses_map {α : Type} (s : State) (key : Fill → α) (h : ∀ f n, key { f with cls := n } = key f) :
    s.raiseClasses.fills.map key = s.fills.map key := by
  simp only [State.raiseClasses, List.map_map, Function.comp_def, h]

/-- What a miss that joins a fill leaves (R187). -/
theorem missAt_joins_waiters {s : State} {n : Nat} {m : Miss} {c : Ctx} {g : GenDesc} (h : Fillable s n m c g)
    (filling : s.fills.any (makesSpan m g) = true) :
    (s.missAt m).misses = s.misses ∧ (s.missAt m).fills.map (fun f => (f.pfid, f.waiters)) =
      s.fills.map (fun f => (f.pfid, if makesSpan m g f then f.waiters ++ [missJoined m] else f.waiters)) := by
  rw [missAt_joins h filling]
  refine ⟨rfl, ?_⟩
  rw [raiseClasses_map _ _ (by exact fun _ _ => rfl), updWhere_eq_map, List.map_map]
  refine List.map_congr_left fun f _ => ?_
  rw [Function.comp_apply]
  split <;> rfl

/-- What a miss that gets a fill of its own leaves (R187, R169). -/
theorem missAt_fills_bin {s : State} {n : Nat} {m : Miss} {c : Ctx} {g : GenDesc} {p : Nat} {d : NodeDesc} (h : Fillable s n m c g)
    (new : s.fills.any (makesSpan m g) = false) (few : s.fills.length < Config.fillSlots) (free : s.freePfid = some p) (node : c.nodes[g.node]? = some d)
    (room : c.canAlloc g.node = true) (quiet : NoTrigger c g.node (m.depth + 1) d) :
    (s.missAt m).misses = s.misses ∧
      (s.missAt m).fills.map (fun f => (f.pfid, f.span, f.waiters)) =
        s.fills.map (fun f => (f.pfid, f.span, f.waiters)) ++ [(p, missSpan m g, [missJoined m])] ∧
      ((s.missAt m).ctx? m.ctx).map (fun x => (x.bins.length, (x.binPart g.node (m.depth + 1)).length)) =
        some (c.bins.length + 1, (c.binPart g.node (m.depth + 1)).length + 1) := by
  have ctx : (withFill s (missFill m n g d p)).ctx? m.ctx = some c := h.ctx
  rw [missAt_fills h new few free node, allocate_fill (s := withFill s (missFill m n g d p)) (.fill p) rfl ctx node room quiet]
  generalize missRecord m g d p false = r
  refine ⟨rfl, ?_, ?_⟩
  · have queued : ∀ f : Fill, (fun f : Fill => (f.pfid, f.span, f.waiters)) (if f.pfid == p then { f with state := .queued } else f) =
        (f.pfid, f.span, f.waiters) := fun f => by split <;> rfl
    rw [raiseClasses_map _ _ (by exact fun _ _ => rfl)]
    change List.map _ (updWhere (fun f => f.pfid == p) (fun f => { f with state := .queued }) (s.fills ++ [missFill m n g d p])) = _
    rw [updWhere_eq_map, List.map_map]
    exact (List.map_congr_left fun f _ => queued f).trans List.map_append
  · have entered := (ctx_modCtx_self ((withFill s (missFill m n g d p)).modFill p (fun f => { f with state := .queued })) m.ctx
      (fun c => enters c g.node (m.depth + 1) r s.time) (fun _ h => h)).trans (congrArg (Option.map _) ctx)
    refine (congrArg (Option.map _) entered).trans ?_
    simp only [Option.map_some, binPart_enters_length]
    rw [enters, List.length_append, List.length_singleton]

/-! ### The clauses of the statement -/

/-- ENVELOPE_MISS for a span that a fill makes joins it; another starts a fill, whose record enters the bin of its generator's node (R187, R188). -/
theorem exec_envelopeMiss_fills (s : State) (i n : Nat) (m : Miss) (c : Ctx) (g : GenDesc) (there : s.misses[i]? = some m)
    (place : m.loc = .env m.ctx n) (absent : s.envLine? m.ctx n = none) (shallow : m.depth < 2) (ctx : s.ctx? m.ctx = some c)
    (gen : c.gens[m.gen]? = some g) :
    let size := 128 * 2 ^ g.log2span
    let span := m.word - m.word % size
    let same := fun (f : Fill) => f.ctx == m.ctx && f.span == span && f.depth == m.depth + 1
    m.pageBase ≤ span → span + size ≤ m.pageBase + m.pageSize → g.vbase ≤ span →
    (s.fills.any same = true → ∃ s', exec (.envelopeMiss i) s = .next s' ∧ s'.misses = without s.misses i ∧
      s'.fills.map (fun f => (f.pfid, f.waiters)) =
        s.fills.map (fun f => (f.pfid, if same f then f.waiters ++ [⟨m.waiter, m.va, m.kind⟩] else f.waiters))) ∧
    (∀ p d, s.fills.any same = false → s.fills.length < 65536 → s.freePfid = some p → c.nodes[g.node]? = some d → c.canAlloc g.node = true →
      NoTrigger c g.node (m.depth + 1) d →
      ∃ s', exec (.envelopeMiss i) s = .next s' ∧ s'.misses = without s.misses i ∧
        s'.fills.map (fun f => (f.pfid, f.span, f.waiters)) =
          s.fills.map (fun f => (f.pfid, f.span, f.waiters)) ++ [(p, span, [⟨m.waiter, m.va, m.kind⟩])] ∧
        (s'.ctx? m.ctx).map (fun x => (x.bins.length, (x.binPart g.node (m.depth + 1)).length)) =
          some (c.bins.length + 1, (c.binPart g.node (m.depth + 1)).length + 1)) := by
  intro size span same low high base
  have fillable : Fillable { s with misses := dropAt s.misses i } n m c g := ⟨place, absent, shallow, ctx, gen, low, high, base⟩
  have run := exec_envelopeMiss there place (fillable.present : ∀ l, s.envLine? m.ctx n = some l → l.held = false)
  exact ⟨fun filling => ⟨_, run, missAt_joins_waiters fillable filling⟩, fun p d new few free node room quiet =>
    ⟨_, run, missAt_fills_bin fillable new few free node room quiet⟩⟩

theorem evictionsAndMisses : Sys2Proof.Stmt.EvictionsAndMisses :=
  ⟨fun _ _ _ _ _ _ _ _ => ⟨rfl, rfl, rfl⟩, evictions, exec_envelopeMiss_replays, exec_envelopeMiss_fills⟩

/-- Settles O53, clause by clause: each event's guard holds, and what follows it is the lemma of its operation: a landing, a crew's commits, the
words that the cluster unit sends, an eviction, a miss at its slice. -/
theorem memoryEvents : Obligations.MemoryEvents := ⟨landingsAndAcknowledgements, evictionsAndMisses⟩

end Sys2Proof.Proofs
end

section
/-!
PROOFS. What a change of a barrier makes of it (R146), and the arrivals `BAR`, `BARA` and `BARW` of a thread whose crew takes no SAT_TRAP (R148, R151,
R154 to R156).
-/

namespace Sys2Proof.Proofs
open Sys2Proof Sys2Proof.Machine Sys2Proof.Laws Sys2Proof.Stmt

/-! ### A barrier that changes -/

/-- A unit of a grid after it was changed by a function that keeps its name. -/
theorem unit_modUnit_self (s : State) (g u : Nat) (f : Machine.PUnit → Machine.PUnit)
    (hf : ∀ x, (x.grid, x.index) = (g, u) → ((f x).grid, (f x).index) = (g, u)) : (s.modUnit g u f).unit? g u = (s.unit? g u).map f :=
  find?_updWhere_self (fun x : Machine.PUnit => (x.grid, x.index)) (g, u) f s.units hf

theorem modBarAt_getElem? (l : List Barrier) (n : Nat) (f : Barrier → Barrier) : (State.modBarAt l n f)[n]? = (l[n]?).map f := by
  unfold State.modBarAt
  cases found : l[n]? with
  | none => simp [found]
  | some x => simp [(List.getElem?_eq_some_iff.mp found).1]

/-- A barrier does not depend on the focus. -/
@[simp] theorem barrier_idle (s : State) (team : Nat) (b : BarRef) : State.barrier? { s with cur := .idle } team b = s.barrier? team b := rfl

/-- A claimed barrier after its change (R146). -/
theorem barrier_modBarrier_self {s : State} {team : Nat} {b : BarRef} {x : Barrier} (f : Barrier → Barrier) (claimed : s.barrier? team b = some x) :
    (s.modBarrier team b f).barrier? team b = some (f x) := by
  cases found : s.team? team with
  | none => simp [State.barrier?, found] at claimed
  | some tm =>
    cases level : b.level with
    | crew => simp [State.barrier?, found, level] at claimed
    | team =>
      simp only [State.barrier?, found, level] at claimed
      simp only [State.modBarrier, found, level]
      rw [State.barrier?, team_modTeam_self s team _ (by exact fun _ h => h), found]
      simp only [Option.map_some, level, modBarAt_getElem?, claimed]
    | cluster =>
      simp only [State.barrier?, found, level] at claimed
      obtain ⟨u, unit, bar⟩ := Option.bind_eq_some_iff.mp claimed
      simp only [State.modBarrier, found, level]
      rw [State.barrier?, show State.team? (s.modUnit tm.grid tm.unit _) team = some tm from found]
      simp only [level]
      rw [unit_modUnit_self s tm.grid tm.unit _ (by exact fun _ h => h), unit]
      simp only [Option.map_some, Option.bind_some, modBarAt_getElem?, bar]
    | grid =>
      simp only [State.barrier?, found, level] at claimed
      obtain ⟨g, grid, bar⟩ := Option.bind_eq_some_iff.mp claimed
      simp only [State.modBarrier, found, level]
      rw [State.barrier?, show State.team? (s.modGrid tm.grid _) team = some tm from found]
      simp only [level]
      rw [grid_modGrid_self s tm.grid _ (by exact fun _ h => h), grid]
      simp only [Option.map_some, Option.bind_some, modBarAt_getElem?, bar]

/-! ### An arrival -/

/-- An arrival adds its count to A, and leaves E and P (R148, R155). -/
theorem barrier_arrive {s : State} {t : ThreadId} {b : BarRef} {x : Barrier} (n : Nat) (bar : Bool) (claimed : s.barrier? t.team b = some x) :
    ((s.arrive t b n bar).barrier? t.team b).map (fun y => (y.e, y.a, y.p)) = some (x.e, x.a + n, x.p) := by
  unfold State.arrive
  split_ifs with zero
  · rw [claimed, zero]
    rfl
  · rw [barrier_modBarrier_self _ claimed]
    rfl

/-- An arrival changes barriers only. -/
theorem arrive_eq (s : State) (t : ThreadId) (b : BarRef) (n : Nat) (bar : Bool) :
    ∃ ts us gs, s.arrive t b n bar = { s with teams := ts, units := us, grids := gs } := by
  unfold State.arrive
  split_ifs
  · exact ⟨s.teams, s.units, s.grids, rfl⟩
  · exact modBarrier_eq s t.team b _

/-- A thread of a flight of its own arrives and becomes `h` of itself. -/
theorem arrive_modThread {s : State} {t : Thread} {b : BarRef} {x : Barrier} (n : Nat) (bar : Bool) (h : Thread → Thread)
    (names : ∀ y, (h y).id = y.id) (found : s.thread? t.id = some t) (claimed : s.barrier? t.id.team b = some x) :
    let s' := (State.arrive { s with cur := .idle } t.id b n bar).modThread t.id h
    s' = { s with cur := .idle, threads := s'.threads, teams := s'.teams, units := s'.units, grids := s'.grids } ∧
      (s'.barrier? t.id.team b).map (fun y => (y.e, y.a, y.p)) = some (x.e, x.a + n, x.p) ∧
      s'.thread? t.id = some (h t) ∧ ∀ u, u ≠ t.id → s'.thread? u = s.thread? u := by
  have counted := barrier_arrive (s := { s with cur := .idle }) n bar claimed
  obtain ⟨ts, us, gs, arrived⟩ := arrive_eq { s with cur := .idle } t.id b n bar
  intro s'
  have names' : ∀ y, y.id = t.id → (h y).id = t.id := fun y e => (names y).trans e
  refine ⟨?frame, counted, ?own, fun u other => ?others⟩
  case frame =>
    simp only [s', arrived]
    rfl
  case own =>
    refine (thread_modThread_self _ t.id h names').trans ?_
    rw [arrived]
    exact congrArg (Option.map h) found
  case others =>
    refine (thread_modThread_of_ne _ t.id u h names' other).trans ?_
    rw [arrived]
    rfl

/-- A flight of one thread takes no SAT_TRAP at a barrier where its crew is not due one, or the barrier is not claimed (R160, R332). -/
theorem arriveEach_oneThread {g : Guard} {b : BarRef} {f : State → Thread → State} {s : State} {core : Nat} {t : Thread} {rdv : Bool}
    (one : OneThread s core t rdv) (guard : t.guard g = true) (quiet : s.satDue t.id.crewId = false ∨ s.barrier? t.id.team b = none) :
    arriveEach g b f s = f { s with cur := .idle } t := by
  have nobody : satThreads g b s = [] := by
    obtain ⟨focus, found, -⟩ := one
    obtain due | unclaimed := quiet
    · simp [satThreads, focus, Focus.ids, found, due]
    · simp [satThreads, focus, Focus.ids, found, unclaimed]
  unfold arriveEach
  rw [nobody]
  exact laneEach_oneThread (f := fun s t => if [].contains t.id then s else f s t) one guard

/-! ### BAR, BARA and BARW -/

/-- `BAR` at a level above the crew's is an arrival of each thread (R151). -/
theorem exec_bar_arrives {o : OpBar} (level : o.level ≠ .crew) (s : State) :
    exec (.bar o) s = .next (arriveEach o.g ⟨o.level, o.id.val⟩ (barThread o) s) := by
  change execBar o s = _
  unfold execBar
  cases at_ : o.level with
  | crew => exact absurd at_ level
  | team | cluster | grid => rfl

/-- `BAR` adds one arrival and parks its thread for the phase that it joins (R148, R151). -/
theorem exec_bar_claimed {o : OpBar} {s : State} {core : Nat} {t : Thread} {rdv : Bool} {x : Barrier} {c : Crew} (level : o.level ≠ .crew)
    (one : OneThread s core t rdv) (guard : t.guard o.g = true) (calm : s.satDue t.id.crewId = false) (committed : o.cmt = false ∨ t.committed = true)
    (claimed : s.barrier? t.id.team ⟨o.level, o.id.val⟩ = some x) (crew : s.crew? t.id.crewId = some c) :
    exec (.bar o) s = .next ((State.arrive { s with cur := .idle } t.id ⟨o.level, o.id.val⟩ 1 true).modThread t.id
      (fun y => { y with park := .barrier ⟨o.level, o.id.val⟩ x.joins o.acq true })) := by
  have done : (o.cmt && !t.committed) = false := by
    obtain plain | done := committed
    · rw [plain, Bool.false_and]
    · rw [done, Bool.not_true, Bool.and_false]
  have crew' : State.crew? { s with cur := .idle } t.id.crewId = some c := crew
  rw [exec_bar_arrives level, arriveEach_oneThread one guard (.inl calm)]
  simp only [barThread, barrier_idle, claimed, crew', done, Bool.false_eq_true, if_false]

/-- `BARA` adds its count and gives the token of the phase that its first unit joins (R155). -/
theorem exec_bara_claimed {o : OpBara} {s : State} {core : Nat} {t : Thread} {rdv : Bool} {x : Barrier}
    (one : OneThread s core t rdv) (guard : t.guard o.g = true) (calm : s.satDue t.id.crewId = false)
    (claimed : s.barrier? t.id.team ⟨o.level, o.id.val⟩ = some x) :
    exec (.bara o) s = .next ((State.arrive { s with cur := .idle } t.id ⟨o.level, o.id.val⟩ ((opb s t o.b).toNat % 65536) false).modThread t.id
      (fun y => { y with v := y.v.set o.d.val (tokenOf ⟨o.level, o.id.val⟩ x.joins), pc := y.pc + 4 })) := by
  have operand : opb { s with cur := .idle } t o.b = opb s t o.b := by cases o.b <;> rfl
  refine congrArg Host.Outcome.next ((arriveEach_oneThread one guard (.inl calm)).trans ?_)
  simp only [baraThread, barrier_idle, claimed, operand, Thread.setReg, Thread.advance, setAt_eq_set]
  rfl

/-- An arrival at a barrier that is not claimed traps (R148). -/
theorem exec_bar_unclaimed {o : OpBar} {s : State} {core : Nat} {t : Thread} {rdv : Bool} (level : o.level ≠ .crew) (one : OneThread s core t rdv)
    (guard : t.guard o.g = true) (unclaimed : s.barrier? t.id.team ⟨o.level, o.id.val⟩ = none) :
    exec (.bar o) s = .next (State.threadTrap { s with cur := .idle } t .badHandle (BitVec.ofNat 32 o.id.val) 0) := by
  rw [exec_bar_arrives level, arriveEach_oneThread one guard (.inr unclaimed)]
  simp only [barThread, barrier_idle, unclaimed]

theorem exec_bara_unclaimed {o : OpBara} {s : State} {core : Nat} {t : Thread} {rdv : Bool} (one : OneThread s core t rdv)
    (guard : t.guard o.g = true) (unclaimed : s.barrier? t.id.team ⟨o.level, o.id.val⟩ = none) :
    exec (.bara o) s = .next (State.threadTrap { s with cur := .idle } t .badHandle (BitVec.ofNat 32 o.id.val) 0) := by
  refine congrArg Host.Outcome.next ((arriveEach_oneThread one guard (.inr unclaimed)).trans ?_)
  simp only [baraThread, barrier_idle, unclaimed]

/-- A thread leaves a barrier without an acquire (R156). -/
theorem leaveBarrier_plain (s : State) (t : Thread) (l : BarLevel) :
    s.leaveBarrier t l false = s.modThread t.id (fun u => { u with park := .none, committed := false, pc := u.pc + 4 }) := rfl

/-- `BARW` without `.ACQ` of a token of a claimed barrier (R156). -/
theorem exec_barw {o : OpBarw} {s : State} {core : Nat} {t : Thread} {rdv : Bool} {b : BarRef} {x : Barrier} (one : OneThread s core t rdv)
    (guard : t.guard o.g = true) (plain : o.acq = false) (names : barrierOfNumber ((t.reg o.a.val).toNat % 256) = some b)
    (claimed : s.barrier? t.id.team b = some x) :
    exec (.barw o) s = .next (if tokenDone x.p ((t.reg o.a.val).toNat / 256)
      then laneNext s [t.id] (fun u => { u with park := .none, committed := false, pc := u.pc + 4 })
      else laneNext s [t.id] (fun u => { u with park := .barrier b ((t.reg o.a.val).toNat / 256) false false })) := by
  refine congrArg Host.Outcome.next ((laneEach_oneThread one guard).trans ?_)
  simp only [names, barrier_idle, claimed, Option.bind_some, Option.map_some, plain, leaveBarrier_plain, modThread_eq_laneNext]

end Sys2Proof.Proofs
end

section
/-!
PROOFS. `BAR.CREW` (R150, R159): its threads continue, whatever their guards, and the crew has its report.
-/

namespace Sys2Proof.Proofs
open Sys2Proof Sys2Proof.Machine Sys2Proof.Laws Sys2Proof.Stmt

/-- A crew that is found and not due a SAT_TRAP is not armed with its flag set (R160). -/
theorem notArmed_of_satDue {s : State} {c : CrewId} {x : Crew} (crew : s.crew? c = some x) (calm : s.satDue c = false) :
    (x.satArm && x.sat != 0) = false := by
  simpa only [State.satDue, crew] using calm

/-- The cycle in which the first of some threads arrived, as a report counts it (R159). -/
def firstArrival (now : Nat) (all : List Thread) : Nat := all.foldl (fun n u => min n (u.arrived.getD now)) now

/-- The completion of a crew barrier reports how long its first thread waited, and changes nothing but the crew's report (R159). -/
theorem completeCrewBar_report (s : State) {x : Crew} (all : List Thread) (calm : (x.satArm && x.sat != 0) = false) :
    let now := s.cycleOf (s.coreOf x.id.team)
    ∃ i, s.completeCrewBar x all =
      s.modCrew x.id (fun y => { y with stragId := i, stragWait := stragWait (now - firstArrival now all) }) := by
  simp only [State.completeCrewBar, calm, Bool.false_eq_true, if_false, List.foldl_map, firstArrival]
  exact ⟨_, rfl⟩

/-- The threads of a flight leave a collective, from a state with the threads of `s` (R26). -/
theorem leaveAll_flight {s x : State} (same : x.threads = s.threads) (ids : List ThreadId) (n : Nat) :
    x.leaveAll (ids.filterMap s.thread?) n = { x with threads := s.threads.map (fun u => if u.id ∈ ids then u.leave n else u) } := by
  have named : ∀ u ∈ s.threads, (ids.filterMap s.thread?).any (fun t => t.id == u.id) = decide (u.id ∈ ids) := fun u hu => by
    obtain ⟨y, hy⟩ : ∃ y, s.thread? u.id = some y := Option.isSome_iff_exists.mp (List.find?_isSome.mpr ⟨u, hu, beq_self_eq_true u.id⟩)
    have name := thread_name hy
    rw [← name] at hy ⊢
    exact flight_any hy
  have threads : updWhere (fun u => (ids.filterMap s.thread?).any (fun t => t.id == u.id)) (·.leave n) s.threads =
      s.threads.map (fun u => if u.id ∈ ids then u.leave n else u) :=
    List.map_congr_left fun u hu => by simp only [named u hu, decide_eq_true_eq]
  rw [State.leaveAll, same, threads]

/-- The crews when `BAR.CREW` is over, where `f` has given the crew its report (R26, R159). -/
def crewsReported (s : State) (c : CrewId) (f : Crew → Crew) : List Crew := (s.modCrew c (fun x => (f x).released)).crews

/-- The collective that lets every thread of the flight continue, once `f` has given its crew a report (R26, R27). -/
theorem laneCrew_leaves {s : State} {core : Nat} {ids : List ThreadId} {rdv : Bool} {t : Thread} {ts : List Thread}
    (focus : s.cur = .flight core ids rdv) (all : ids.filterMap s.thread? = t :: ts) (f : Crew → Crew)
    (names : ∀ y, (f y).id = y.id) : laneCrew guardTrue (fun s _ all _ => s.leaveAll all 4) (s.modCrew t.id.crewId f) = { s with
      cur := .idle, crews := crewsReported s t.id.crewId f, threads := s.threads.map (fun u => if u.id ∈ ids then u.leave 4 else u) } := by
  refine (laneCrew_flight guardTrue _ (s.modCrew t.id.crewId f) core ids rdv t ts focus all).trans ?_
  rw [← all, show State.modCrew { s.modCrew t.id.crewId f with cur := .idle } t.id.crewId Crew.released =
    { s with cur := .idle, crews := crewsReported s t.id.crewId f } from modCrew_modCrew { s with cur := .idle } t.id.crewId f Crew.released names]
  exact leaveAll_flight (s := s) (x := { s with cur := .idle, crews := crewsReported s t.id.crewId f }) rfl ids 4

/-- `BAR.CREW` of a crew that is not due a SAT_TRAP: the crew keeps the report of its completion, or gets it now (R150, R159, R160). -/
theorem exec_barCrew {o : OpBar} {s : State} {core : Nat} {ids : List ThreadId} {rdv : Bool} {t : Thread} {ts : List Thread} {x : Crew}
    (level : o.level = .crew) (focus : s.cur = .flight core ids rdv) (head : ids.head? = some t.id) (all : ids.filterMap s.thread? = t :: ts)
    (crew : s.crew? t.id.crewId = some x) (calm : s.satDue t.id.crewId = false) :
    let now := s.cycleOf (s.coreOf t.id.team)
    ∃ f : Crew → Crew, (∀ y, (f y).id = y.id) ∧
      (f x).stragWait = (if x.complete then x.stragWait else stragWait (now - firstArrival now (t :: ts))) ∧
      exec (.bar o) s = .next { s with
        cur := .idle, crews := crewsReported s t.id.crewId f, threads := s.threads.map (fun u => if u.id ∈ ids then u.leave 4 else u) } := by
  intro now
  have name := crew_name crew
  have run : exec (.bar o) s = .next (barCrew s) := by
    change execBar o s = _
    rw [execBar, level]
  have calm' := notArmed_of_satDue crew calm
  simp only [run, barCrew, focus, Focus.ids, head, Option.bind_some, crew, calm', all, Bool.false_eq_true, if_false]
  cases complete : x.complete with
  | true =>
    have same : s.modCrew t.id.crewId id = s := by rw [State.modCrew, updWhere_id]
    refine ⟨id, fun _ => rfl, rfl, ?_⟩
    have run := laneCrew_leaves focus all id fun _ => rfl
    rw [same] at run
    rw [if_pos rfl, run]
  | false =>
    obtain ⟨i, report⟩ := completeCrewBar_report s (t :: ts) calm'
    rw [name] at report
    refine ⟨fun y => { y with stragId := i, stragWait := stragWait (now - firstArrival now (t :: ts)) }, fun _ => rfl, rfl, ?_⟩
    rw [if_neg Bool.false_ne_true, report]
    exact congrArg Host.Outcome.next (laneCrew_leaves focus all _ fun _ => rfl)

/-- A crew when `BAR.CREW` of the crew `c` is over. -/
theorem crew_crewsReported (s : State) (c : CrewId) (f : Crew → Crew) (names : ∀ y, (f y).id = y.id) (th : List Thread) (d : CrewId) :
    State.crew? { s with cur := .idle, crews := crewsReported s c f, threads := th } d =
      if d = c then (s.crew? d).map (fun y => (f y).released) else s.crew? d := by
  have names' : ∀ y, y.id = c → (f y).released.id = c := fun y e => (names y).trans e
  change (s.modCrew c (fun x => (f x).released)).crew? d = _
  split_ifs with own
  · rw [own, crew_modCrew_self s c _ names']
  · exact crew_modCrew_of_ne s c d _ names' own

/-- Settles O23, an instruction and a state of its barrier at a time: the arrival of `BAR` and of `BARA`, the wait of `BARW`, the traps, and the
rendezvous of `BAR.CREW`. -/
theorem barrierArrival : Obligations.BarrierArrival := by
  unfold Obligations.BarrierArrival
  refine ⟨?bar, ?bara, ?barw, ?barTrap, ?baraTrap, ?barCrew⟩
  case bar =>
    intro o s core t rdv x c level one guard calm committed claimed crew
    exact ⟨_, exec_bar_claimed level one guard calm committed claimed crew,
      arrive_modThread 1 true (fun y => { y with park := .barrier ⟨o.level, o.id.val⟩ x.joins o.acq true }) (fun _ => rfl) one.2.1 claimed⟩
  case bara =>
    intro o s core t rdv x level one guard calm claimed
    exact ⟨_, exec_bara_claimed one guard calm claimed, arrive_modThread ((opb s t o.b).toNat % 65536) false
      (fun y => { y with v := y.v.set o.d.val (tokenOf ⟨o.level, o.id.val⟩ x.joins), pc := y.pc + 4 }) (fun _ => rfl) one.2.1 claimed⟩
  case barw =>
    intro o s core t rdv b x one guard plain names claimed phase
    have run := exec_barw one guard plain names claimed
    exact ⟨fun done => by rw [run, if_pos done], fun running => by rw [run, if_neg (Bool.eq_false_iff.mp running)]⟩
  case barTrap => exact fun o s core t rdv one level guard unclaimed => exec_bar_unclaimed level one guard unclaimed
  case baraTrap => exact fun o s core t rdv one guard unclaimed => exec_bara_unclaimed one guard unclaimed
  case barCrew =>
    intro o s core ids rdv t ts x level focus head all crew calm now first
    obtain ⟨f, names, wait, run⟩ := exec_barCrew level focus head all crew calm
    refine ⟨_, run, rfl, ?_, fun c other => ?_⟩
    · rw [crew_crewsReported s t.id.crewId f names _ t.id.crewId, if_pos rfl, crew]
      exact congrArg some wait
    · rw [crew_crewsReported s t.id.crewId f names _ c, if_neg other]

end Sys2Proof.Proofs
end

section
/-!
PROOFS. BARRIER_COMPLETION of a team barrier (R148, R157): what completes its phase makes of the barrier, and which threads it releases.
-/

namespace Sys2Proof.Proofs
open Sys2Proof Sys2Proof.Machine Sys2Proof.Laws Sys2Proof.Stmt

/-! ### The release of waiters -/

/-- The thread waits at a barrier for a phase that is over when the barrier is in phase `p` (R156). -/
def waitOver (b : BarRef) (p : Nat) (t : Thread) : Bool :=
  match t.park with
  | .barrier r ph _ _ => r == b && tokenDone p ph
  | _ => false

/-- What its release from a team barrier makes of a thread: it continues, and is ready one cycle later (R157). -/
def freed (t : Thread) : Thread := { t with park := .none, committed := false, pc := t.pc + 4, stall := .released }

/-- What the release does for one thread of the barrier's teams, as the model has it. -/
def releaseOne (b : BarRef) (p : Nat) (s : State) (t : Thread) : State :=
  match t.park with
  | .barrier r ph acq _ =>
    if r == b && tokenDone p ph then
      if s.outside t.id.team then s.modTeam t.id.team (fun x => { x with wake := true })
      else (s.leaveBarrier t b.level acq).modThread t.id (fun x =>
        if b.level = .team ∧ !(acq && !t.loads.isEmpty) then { x with stall := .released } else x)
    else s
  | _ => s

theorem release_eq (s : State) (teams : List Nat) (b : BarRef) (p : Nat) :
    s.release teams b p = (s.threads.filter (fun t => teams.contains t.id.team && t.live)).foldl (releaseOne b p) s := rfl

/-- Two changes of a thread in a row are one, where the first keeps its name. -/
theorem modThread_modThread (s : State) (i : ThreadId) (f g : Thread → Thread) (names : ∀ y, (f y).id = y.id) :
    (s.modThread i f).modThread i g = s.modThread i (fun x => g (f x)) := by
  simp only [State.modThread, updWhere_eq_map, List.map_map]
  congr 2
  funext x
  by_cases own : x.id = i <;> simp [own, names]

/-- A waiter of a team barrier whose team is on its core, and which acquires nothing, is freed where its wait is over. -/
theorem releaseOne_team {n p : Nat} {s : State} {t : Thread} (inside : s.outside t.id.team = false)
    (plain : ∀ ph acq arr, t.park = .barrier ⟨.team, n⟩ ph acq arr → acq = false) :
    releaseOne ⟨.team, n⟩ p s t = if waitOver ⟨.team, n⟩ p t then s.modThread t.id freed else s := by
  unfold releaseOne waitOver
  split
  next r ph acq arr park =>
    by_cases ended : (r == ⟨.team, n⟩ && tokenDone p ph) = true
    · have here : r = ⟨.team, n⟩ := by simpa using (Bool.and_eq_true_iff.mp ended).1
      obtain rfl := plain ph acq arr (here ▸ park)
      rw [if_pos ended, if_pos ended, inside, if_neg Bool.false_ne_true, leaveBarrier_plain, modThread_modThread _ _ _ _ (by exact fun _ => rfl)]
      rfl
    · rw [if_neg ended, if_neg ended]
  next => rfl

/-- The threads that the completion of a team barrier releases. -/
def releasedThreads (s : State) (team n p : Nat) : List Thread :=
  (s.threads.filter (fun t => [team].contains t.id.team && t.live)).filter (waitOver ⟨.team, n⟩ p)

/-- The release of a team barrier frees one thread after another, where the team is on its core and no waiter acquires (R148, R157). -/
theorem release_team {s : State} {team n p : Nat} (inside : s.outside team = false)
    (plain : ∀ t ∈ s.threads, ∀ ph acq arr, t.park = .barrier ⟨.team, n⟩ ph acq arr → acq = false) :
    s.release [team] ⟨.team, n⟩ p = (releasedThreads s team n p).foldl (fun x t => x.modThread t.id freed) s := by
  have each : ∀ (l : List Thread) (x : State), x.outside team = false →
      (∀ t ∈ l, t.id.team = team ∧ ∀ ph acq arr, t.park = .barrier ⟨.team, n⟩ ph acq arr → acq = false) →
      l.foldl (releaseOne ⟨.team, n⟩ p) x = l.foldl (fun x t => if waitOver ⟨.team, n⟩ p t then x.modThread t.id freed else x) x := by
    intro l
    induction l with
    | nil => exact fun _ _ _ => rfl
    | cons t l ih =>
      intro x inside waiters
      obtain ⟨own, plain⟩ := waiters t List.mem_cons_self
      rw [List.foldl_cons, List.foldl_cons, releaseOne_team (own.symm ▸ inside) plain]
      refine ih _ ?_ fun u hu => waiters u (List.mem_cons_of_mem t hu)
      split_ifs <;> exact inside
  rw [release_eq, releasedThreads, List.foldl_filter (p := waitOver ⟨.team, n⟩ p)]
  refine each _ s inside fun t ht => ?_
  obtain ⟨mem, own⟩ := List.mem_filter.mp ht
  exact ⟨by simpa using (Bool.and_eq_true_iff.mp own).1, plain t mem⟩

/-- Changing threads one after another changes threads only. -/
theorem foldl_modThread_frame (f : Thread → Thread) (l : List Thread) (s : State) :
    ∃ th, l.foldl (fun x t => x.modThread t.id f) s = { s with threads := th } := by
  induction l generalizing s with
  | nil => exact ⟨s.threads, rfl⟩
  | cons t l ih =>
    obtain ⟨th, e⟩ := ih (s.modThread t.id f)
    exact ⟨th, e⟩

/-- A thread after changes of threads: changed once for each time that its name is listed. -/
theorem thread_foldl_iterate (f : Thread → Thread) (names : ∀ y, (f y).id = y.id) (l : List Thread) (s : State) (u : ThreadId) :
    (l.foldl (fun x t => x.modThread t.id f) s).thread? u = (s.thread? u).map f^[l.countP (fun t => t.id == u)] := by
  induction l generalizing s with
  | nil => simp
  | cons t l ih =>
    rw [List.foldl_cons, ih, List.countP_cons]
    by_cases own : t.id = u
    · rw [own, thread_modThread_self s u f (fun y e => (names y).trans e), Option.map_map, beq_self_eq_true, if_pos rfl, Function.iterate_succ]
    · rw [thread_modThread_of_ne s t.id u f (fun y e => (names y).trans e) (Ne.symm own), if_neg (by simpa using own), Nat.add_zero]

/-- A waiter whose wait is over and whose name is its own is released once. -/
theorem countP_releasedThreads {s : State} {n p : Nat} {t : Thread} (unique : s.threads.filter (fun u => u.id == t.id) = [t]) (live : t.live = true)
    (ended : waitOver ⟨.team, n⟩ p t = true) : (releasedThreads s t.id.team n p).countP (fun u => u.id == t.id) = 1 := by
  have only : (releasedThreads s t.id.team n p).filter (fun u => u.id == t.id) = [t] := by
    rw [releasedThreads, List.filter_comm, List.filter_comm _ _ s.threads, unique]
    simp [live, ended]
  rw [List.countP_eq_length_filter, only, List.length_singleton]

/-! ### The completion of a phase -/

/-- A team on its core is not out (R67). -/
theorem inside_of_resident {s : State} {team core : Nat} (place : (s.team? team).map Team.place = some (.resident core)) : s.outside team = false := by
  obtain ⟨tm, found, here⟩ := Option.map_eq_some_iff.mp place
  simp only [State.outside, found, Option.map_some, Option.getD_some, Team.out, here]

/-- A change of a team barrier leaves its team where it is. -/
theorem place_modBarrier (s : State) (team n : Nat) (f : Barrier → Barrier) :
    ((s.modBarrier team ⟨.team, n⟩ f).team? team).map Team.place = (s.team? team).map Team.place := by
  cases found : s.team? team with
  | none => simp only [State.modBarrier, found]
  | some tm =>
    simp only [State.modBarrier, found]
    rw [team_modTeam_self s team _ (by exact fun _ h => h), found]
    rfl

/-- The crews of a team on its core take a report at once (R159). -/
theorem report_resident {s : State} {team core : Nat} (place : (s.team? team).map Team.place = some (.resident core)) (id wait : Word) :
    s.report team id wait = { s with crews := (s.report team id wait).crews } := by
  simp only [State.report, place]

/-- A full phase of a barrier of a team on its core: the barrier goes to its next phase, and then the waiters are released (R148). -/
theorem completePhase_full {s : State} {team n core : Nat} {x : Barrier} (place : (s.team? team).map Team.place = some (.resident core))
    (claimed : s.barrier? team ⟨.team, n⟩ = some x) (expected : 1 ≤ x.e) (all : x.e ≤ x.a) :
    ∃ r : State, s.completePhase [team] team ⟨.team, n⟩ = r.release [team] ⟨.team, n⟩ ((x.p + 1) % 2 ^ 24) ∧
      r.threads = s.threads ∧ r.mem = s.mem ∧ r.outside team = false ∧ ∃ now, r.barrier? team ⟨.team, n⟩ = some (x.next now) := by
  have full : x.complete? = true := by simp [Barrier.complete?, expected, all]
  have counter : ∀ (c : Bool) (k : Nat), ∃ ctr, (if c then s else { s with freeCtr := k }) = { s with freeCtr := ctr } := fun c k => by
    cases c with
    | true => exact ⟨s.freeCtr, rfl⟩
    | false => exact ⟨k, rfl⟩
  simp only [State.completePhase, claimed, full, Bool.not_true, Bool.false_eq_true, if_false, List.foldl_cons, List.foldl_nil]
  obtain ⟨ctr, drawn⟩ := counter (x.first.isSome && x.last.isSome) (s.freeCtr + 3)
  rw [drawn]
  generalize s.barrierNow team .team + 1 = now
  have place' := (place_modBarrier { s with freeCtr := ctr } team n (fun y => y.next now)).trans place
  have claimed' : State.barrier? { s with freeCtr := ctr } team ⟨.team, n⟩ = some x := claimed
  have next := barrier_modBarrier_self (fun y => y.next now) claimed'
  obtain ⟨ts, us, gs, frame⟩ := modBarrier_eq { s with freeCtr := ctr } team ⟨.team, n⟩ (fun y => y.next now)
  rw [frame] at place' next ⊢
  rw [report_resident place']
  exact ⟨_, rfl, rfl, rfl, inside_of_resident place', now, next⟩

/-- Where arrivals are missing, or none is expected, no phase completes (R148). -/
theorem completePhase_short {s : State} {teams : List Nat} {team : Nat} {b : BarRef} {x : Barrier} (claimed : s.barrier? team b = some x)
    (missing : x.a < x.e ∨ x.e = 0) : s.completePhase teams team b = s := by
  have short : x.complete? = false := by
    simp only [Barrier.complete?, Bool.and_eq_false_iff, decide_eq_false_iff_not]
    omega
  simp only [State.completePhase, claimed, short, Bool.not_false, if_true]

/-- A phase is over in the phase after it (R156). -/
theorem tokenDone_next (p : Nat) : tokenDone ((p + 1) % 2 ^ 24) p = true := by
  have one : ((p + 1) % 2 ^ 24 + 2 ^ 24 - p % 2 ^ 24) % 2 ^ 24 = 1 := by omega
  rw [tokenDone, one]
  decide

/-- The completion of a full phase of a team barrier whose waiters acquire nothing (R148, R157). -/
theorem exec_barrierCompletion_full {s : State} {tm : Team} {n core : Nat} {x : Barrier} (found : s.team? tm.id = some tm)
    (place : tm.place = .resident core) (bar : tm.bars[n]? = some x) (expected : 1 ≤ x.e) (all : x.e ≤ x.a)
    (plain : ∀ t ∈ s.threads, ∀ ph acq arr, t.park = .barrier ⟨.team, n⟩ ph acq arr → acq = false) :
    ∃ s', exec (.barrierCompletion (.team tm.id n)) s = .next s' ∧ s'.mem = s.mem ∧
      (∃ now, s'.barrier? tm.id ⟨.team, n⟩ = some (x.next now)) ∧
      ∀ u, s'.thread? u = (s.thread? u).map freed^[(releasedThreads s tm.id n ((x.p + 1) % 2 ^ 24)).countP (fun t => t.id == u)] := by
  have place' : (s.team? tm.id).map Team.place = some (.resident core) := by rw [found, Option.map_some, place]
  have claimed : s.barrier? tm.id ⟨.team, n⟩ = some x := by simp only [State.barrier?, found, bar]
  obtain ⟨r, run, threads, mem, inside, next⟩ := completePhase_full place' claimed expected all
  have released := release_team (p := (x.p + 1) % 2 ^ 24) inside (threads ▸ plain)
  have who : releasedThreads r tm.id n ((x.p + 1) % 2 ^ 24) = releasedThreads s tm.id n ((x.p + 1) % 2 ^ 24) := by
    simp only [releasedThreads, threads]
  rw [who] at released
  obtain ⟨th, frame⟩ := foldl_modThread_frame freed (releasedThreads s tm.id n ((x.p + 1) % 2 ^ 24)) r
  refine ⟨_, congrArg Host.Outcome.next (run.trans released), ?mem, ?next, fun u => ?threads⟩
  case mem =>
    rw [frame]
    exact mem
  case next =>
    rw [frame]
    exact next
  case threads =>
    rw [thread_foldl_iterate freed (fun _ => rfl)]
    simp only [State.thread?, threads]

/-- Settles O24: a full phase completes with its barrier's next phase, and each waiter of the phase is released once; a released thread stands at a
stall; a phase with arrivals missing does not complete. -/
theorem barrierPhase : Obligations.BarrierPhase := by
  unfold Obligations.BarrierPhase
  refine ⟨?full, ?released, ?short⟩
  case full =>
    intro s tm n x core found place bar expected all plain
    obtain ⟨s', run, mem, ⟨now, next⟩, threads⟩ := exec_barrierCompletion_full found place bar expected all plain
    refine ⟨s', run, mem, ?_, fun t arr unique own live park => ?_⟩
    · rw [next]
      rfl
    · have there : s.thread? t.id = some t := by rw [State.thread?, ← List.head?_filter, unique, List.head?_cons]
      have ended : waitOver ⟨.team, n⟩ ((x.p + 1) % 2 ^ 24) t = true := by
        simp only [waitOver, park, beq_self_eq_true, tokenDone_next, Bool.and_self]
      rw [threads, ← own, countP_releasedThreads unique live ended, Function.iterate_one, there]
      rfl
  case released => exact fun s core t stall => by simp [State.ready, stall]
  case short =>
    intro s tm n x found bar missing
    have claimed : s.barrier? tm.id ⟨.team, n⟩ = some x := by simp only [State.barrier?, found, bar]
    exact congrArg Host.Outcome.next (completePhase_short claimed missing)

end Sys2Proof.Proofs
end

section
/-!
PROOFS. `%node` (R163).
-/

namespace Sys2Proof.Proofs
open Sys2Proof Sys2Proof.Machine

/-- Settles O32: a read of `%node` finds the thread's team, crew and grid, and answers the team's node. -/
theorem nodeRegister : Obligations.NodeRegister := by
  unfold Obligations.NodeRegister
  refine ⟨rfl, fun s t tm c g latch team crew grid => ?_⟩
  have reads : s.readSReg t latch .node = some (BitVec.ofNat 32 (tm.node.getD 0xFFFFFFFF)) := by
    simp only [State.readSReg, team, crew, grid]
  exact ⟨fun n node => by rw [reads, node, Option.getD_some], fun node => reads.trans (by rw [node]; rfl)⟩

end Sys2Proof.Proofs
end

section
/-!
PROOFS. `RECLD` (R174), and `TRAV` with its continuation form (R253, R259, R416).
-/

namespace Sys2Proof.Proofs
open Sys2Proof Sys2Proof.Machine Sys2Proof.Laws Sys2Proof.Stmt

/-- A `RECLD` of a thread whose team comes from a bin writes words of its record (R174). -/
theorem exec_recld_reads {o : OpRecld} {s : State} {core : Nat} {t : Thread} {rdv : Bool} {tm : Team} {n : Nat} {d : NodeDesc} {r : Record}
    (one : OneThread s core t rdv) (guard : t.guard o.g = true) (team : s.team? t.id.team = some tm) (fromBin : tm.node = some n)
    (node : s.node? tm.ctx n = some d) (record : t.record = some r) :
    exec (.recld o) s = .next (runsOn s t.id 4 (fun u => u.setRegs o.d.val ((List.range (o.n.val + 1)).map (fun j =>
      if o.w.val + j < d.rsize then r.words.getD (o.w.val + j) 0 else 0)))) := by
  have place : (({ s with cur := .idle } : State).team? t.id.team).bind (fun x => x.node.map (fun m => (x.ctx, m))) = some (tm.ctx, n) := by
    change (s.team? t.id.team).bind _ = _
    rw [team, Option.bind_some, fromBin, Option.map_some]
  have node' : ({ s with cur := .idle } : State).node? tm.ctx n = some d := node
  change Host.Outcome.next (laneEach 4 o.g (recldThread o) s) = _
  rw [laneEach_oneThread one guard, ← modThread_setRegs_eq_runsOn]
  simp only [recldThread, place, node', record, Option.map_some, Option.getD_some]

/-- A `RECLD` of a thread whose team comes from no bin traps (R174). -/
theorem exec_recld_traps {o : OpRecld} {s : State} {core : Nat} {t : Thread} {rdv : Bool} {tm : Team} (one : OneThread s core t rdv)
    (guard : t.guard o.g = true) (team : s.team? t.id.team = some tm) (noBin : tm.node = none) :
    exec (.recld o) s = .next (State.threadTrap { s with cur := .idle } t .badHandle 0xFFFFFFFF 0) := by
  have place : (({ s with cur := .idle } : State).team? t.id.team).bind (fun x => x.node.map (fun m => (x.ctx, m))) = none := by
    change (s.team? t.id.team).bind _ = _
    rw [team, Option.bind_some, noBin, Option.map_none]
  change Host.Outcome.next (laneEach 4 o.g (recldThread o) s) = _
  rw [laneEach_oneThread one guard]
  simp only [recldThread, place]

/-- The query that a `TRAV` sends (R253, R259). -/
def sentQuery (s : State) (t : Thread) (a dst base : Nat) (cont : Option Nat) : Query :=
  { id := s.lastId + 1, thread := t.id, cont := cont, dst := dst, base := base, ray := (List.range 8).map (fun i => t.reg (a + i)), wait := .none }

/-- With fewer queries under way than one unit's slots, a query goes to its traversal unit and its thread parks (R259). -/
theorem issueQuery_sends {s : State} (t : Thread) (a dst base : Nat) (cont : Option Nat) (room : s.queries.length < 4096) :
    issueQuery { s with cur := .idle } t a dst base cont =
      { laneNext s [t.id] (fun u => { u with park := .query, cont := cont.isSome }) with
        lastId := s.lastId + 1, queries := s.queries ++ [sentQuery s t a dst base cont] } := by
  have few : ∀ p : Query → Bool, ¬(s.queries.filter p).length ≥ Config.querySlots := fun p =>
    Nat.not_le.2 ((List.length_filter_le p s.queries).trans_lt room)
  rw [← modThread_eq_laneNext]
  exact if_neg (few _)

/-- A base below 2^52 and a multiple of 128 passes its checks (R416). -/
theorem withBase_passes {s : State} {t : Thread} {b : Nat} {c : Crew} (f : Nat → State) (crew : s.crew? t.id.crewId = some c)
    (below : c.pair b < 2 ^ 52) (aligned : c.pair b % 128 = 0) : withBase s t b f = f (c.pair b) := by
  have base : travBase s t b = c.pair b := by rw [travBase, crew, Option.map_some, Option.getD_some]
  simp only [withBase, base]
  rw [if_neg (Nat.not_le.2 below), if_neg (not_not.2 aligned)]

/-- A `TRAV.CONT` whose node can take the record of a hit sends its query (R175, R188). -/
theorem travContThread_sends {o : OpTrav} {s : State} {t : Thread} {base : Nat} {d : NodeDesc}
    (node : s.node? (s.ctxId t.id.team) (t.reg o.d.val).toNat = some d) (words : 4 ≤ d.rsize) (nest : ¬(d.fill = true ∧ s.fdepthOf t.id.team = 2)) :
    travContThread o s t base = issueQuery s t o.a.val 0 base (some (t.reg o.d.val).toNat) := by
  simp only [travContThread, node]
  rw [if_neg (Nat.not_lt.2 words), if_neg nest]

/-- Settles O20: a read of the record's words, the trap of a team without a node, and the query that either form of `TRAV` sends. -/
theorem recordsAndQueries : Obligations.RecordsAndQueries := by
  unfold Obligations.RecordsAndQueries
  refine ⟨?reads, ?traps, ?sends⟩
  case reads =>
    intro o s core t rdv tm n d r one guard team fromBin node record
    exact exec_recld_reads one guard team fromBin node record
  case traps =>
    intro o s core t rdv tm one guard team noBin
    exact exec_recld_traps one guard team noBin
  case sends =>
    intro i o s core t rdv c cont dst form one guard crew below aligned room
    obtain ⟨rfl, rfl, rfl⟩ | ⟨rfl, rfl, rfl, d, node, words, nest⟩ := form
    · change Host.Outcome.next (laneEach 4 o.g _ s) = _
      rw [laneEach_oneThread one guard, withBase_passes _ (show State.crew? { s with cur := .idle } _ = _ from crew) below aligned,
        issueQuery_sends _ _ _ _ _ room]
      rfl
    · change Host.Outcome.next (laneEach 4 o.g _ s) = _
      rw [laneEach_oneThread one guard, withBase_passes _ (show State.crew? { s with cur := .idle } _ = _ from crew) below aligned,
        travContThread_sends (s := { s with cur := .idle }) node words nest, issueQuery_sends _ _ _ _ _ room]
      rfl

end Sys2Proof.Proofs
end

section
/-!
PROOFS. `SPAWN` and `SPAWN.NB` (R164, R165, R168 to R170, R188, R408): a record that enters its bin, one that makes a batch of its part, one that
waits for the pool, and the traps.
-/

namespace Sys2Proof.Proofs
open Sys2Proof Sys2Proof.Machine Sys2Proof.Laws Sys2Proof.Stmt

/-! ### A record enters its bin (R169, R170) -/

/-- A context that changes alone. -/
theorem newCtx_modCtx {s : State} {k : Nat} {c : Ctx} {f : Ctx → Ctx} (found : s.ctx? k = some c) (names : ∀ x, (f x).id = x.id) :
    NewCtx s (s.modCtx k f) k (f c) := by
  have own : ∀ x : Ctx, x.id = k → (f x).id = k := fun x h => (names x).trans h
  exact ⟨by rw [ctx_modCtx_self s k f own, found]; rfl, fun j other => ctx_modCtx_of_ne s k j f own other⟩

/-- Of a list whose entries of a part all go, the others are left. -/
theorem foldl_takeOldest_all (p : BinEntry → Bool) (k : Nat) (l : List BinEntry) (r : List BinEntry × Nat) (few : (l.filter p).length + r.2 ≤ k) :
    (l.foldl (takeOldest p k) r).1 = r.1 ++ l.filter (fun e => !p e) := by
  induction l generalizing r with
  | nil => simp
  | cons e l ih =>
    rw [List.foldl_cons]
    by_cases part : p e = true
    · rw [List.filter_cons_of_pos part, List.length_cons] at few
      have more : r.2 < k := by omega
      have step : takeOldest p k r e = (r.1, r.2 + 1) := by simp [takeOldest, part, more]
      rw [step, ih _ (by change _ + (r.2 + 1) ≤ k; omega), List.filter_cons_of_neg (by simp [part])]
    · rw [List.filter_cons_of_neg part] at few
      have step : takeOldest p k r e = (r.1 ++ [e], r.2) := by simp [takeOldest, part]
      rw [step, ih (r.1 ++ [e], r.2) few, List.filter_cons_of_pos (by simp [part]), List.append_assoc, List.singleton_append]

/-- The part that one more record has entered. -/
theorem binPart_enters (c : Ctx) (n part : Nat) (r : Record) (now : Nat) :
    (enters c n part r now).binPart n part = c.binPart n part ++ [⟨n, part, r, now⟩] := by
  simp [enters, Ctx.binPart]

/-- The record that makes the part's count forms a batch of all of the part, and empties it (R170). -/
theorem formBatch_enters {c : Ctx} {n part k : Nat} (r : Record) (now stamp : Nat) (full : (c.binPart n part).length + 1 = k) :
    (enters c n part r now).formBatch n part k stamp = batched c n part r stamp := by
  have all : ((enters c n part r now).binPart n part).take k = c.binPart n part ++ [⟨n, part, r, now⟩] := by
    rw [binPart_enters]
    exact List.take_of_length_le (by rw [List.length_append, List.length_singleton, full])
  have gone := foldl_takeOldest_all (fun e => e.node == n && e.part == part) k (enters c n part r now).bins ([], 0)
    (by rw [← full, ← binPart_enters_length c n part r now]; exact le_rfl)
  rw [ctx_formBatch stamp (by rw [all]; simp), all, gone]
  simp [enters, batched]

/-- A record that makes its part's count enters its bin, and the part forms a batch (R169, R170). -/
theorem enterBin_of_triggers {s : State} {ctx n part : Nat} {c : Ctx} {d : NodeDesc} {r : Record} (fill : r.pfid = none)
    (hc : s.ctx? ctx = some c) (hd : c.nodes[n]? = some d) (full : (c.binPart n part).length + 1 = d.c) :
    s.enterBin ctx n part r = (s.modCtx ctx (fun c => enters c n part r s.time)).fresh.modCtx ctx (fun c => c.formBatch n part d.c (s.lastId + 1)) := by
  have entered := (newCtx_modCtx (f := fun c => enters c n part r s.time) hc fun _ => rfl).1
  have reached : ((enters c n part r s.time).binPart n part).length ≥ d.c := by rw [binPart_enters_length, full]
  have someThere : ¬((enters c n part r s.time).binPart n part).isEmpty = true := by rw [binPart_enters]; simp
  have node : (enters c n part r s.time).nodes[n]? = some d := hd
  simp only [State.enterBin, fill]
  change State.trigger (s.modCtx ctx (fun c => enters c n part r s.time)) ctx n part = _
  simp only [State.trigger, entered, node, if_pos reached, State.formBatch, if_neg someThere]
  rfl

/-- A record that makes no batch, in a context whose nodes have timers: it enters its bin, and no other bin drains (R169, R170). -/
theorem enterBin_drainBins_of_noTrigger {s : State} {ctx n part : Nat} {c : Ctx} {d : NodeDesc} {r : Record} (fill : r.pfid = none)
    (hc : s.ctx? ctx = some c) (hd : c.nodes[n]? = some d) (quiet : NoTrigger c n part d) :
    ∃ cs, (s.enterBin ctx n part r).drainBins ctx = { s with ctxs := cs } ∧ NewCtx s { s with ctxs := cs } ctx (enters c n part r s.time) := by
  obtain ⟨same, entered⟩ := enterBin_of_noTrigger fill hc hd quiet
  have still : (s.enterBin ctx n part r).drainBins ctx = s.enterBin ctx n part r := drainBins_of_timers fun x hx => by
    rw [entered] at hx
    exact Option.some.inj hx ▸ quiet.1
  exact ⟨_, still.trans same, newCtx_modCtx hc fun _ => rfl⟩

/-- A record that makes its part's count, in a context whose nodes have timers: the part forms a batch, and no other bin drains (R169, R170). -/
theorem enterBin_drainBins_of_triggers {s : State} {ctx n part : Nat} {c : Ctx} {d : NodeDesc} {r : Record} (fill : r.pfid = none)
    (hc : s.ctx? ctx = some c) (hd : c.nodes[n]? = some d) (full : Triggers c n part d) :
    ∃ cs, (s.enterBin ctx n part r).drainBins ctx = { s with ctxs := cs, lastId := s.lastId + 1 } ∧
      NewCtx s { s with ctxs := cs, lastId := s.lastId + 1 } ctx (batched c n part r (s.lastId + 1)) := by
  have same := enterBin_of_triggers fill hc hd full.2
  obtain ⟨entered, others⟩ := newCtx_modCtx (f := fun c => enters c n part r s.time) hc fun _ => rfl
  have formed : NewCtx s (s.enterBin ctx n part r) ctx (batched c n part r (s.lastId + 1)) := by
    have last := newCtx_modCtx (s := (s.modCtx ctx (fun c => enters c n part r s.time)).fresh) (f := fun c => c.formBatch n part d.c (s.lastId + 1))
      entered fun x => formBatch_id x n part d.c (s.lastId + 1)
    rw [formBatch_enters r s.time (s.lastId + 1) full.2] at last
    rw [same]
    exact ⟨last.1, fun j other => (last.2 j other).trans (others j other)⟩
  have still : (s.enterBin ctx n part r).drainBins ctx = s.enterBin ctx n part r := drainBins_of_timers fun x hx => by
    rw [formed.1] at hx
    exact Option.some.inj hx ▸ full.1
  rw [still]
  rw [same] at formed ⊢
  exact ⟨_, rfl, formed⟩

/-! ### The checks of a spawn (R168, R188) -/

/-- The part of a node's bin that a record of the team enters (R188). -/
def spawnPart (tm : Team) (d : NodeDesc) : Nat := if d.fill then tm.fdepth + 1 else 0

section Checks
variable {s : State} {t : Thread} {a n : Nat} {tm : Team} {c : Ctx} {d : NodeDesc}

theorem spawnCheck_passes (ok : SpawnOk s t a n tm c d) : spawnCheck s t a n = .record (spawned t a tm d) (spawnPart tm d) := by
  obtain ⟨team, ctx, node, fits, nest⟩ := ok
  simp only [spawnCheck, team, State.node?, ctx, Option.bind_some, node]
  rw [if_neg (Nat.not_lt.2 fits), if_neg nest]
  rfl

theorem spawnCheck_noNode (team : s.team? t.id.team = some tm) (ctx : s.ctx? tm.ctx = some c) (beyond : c.nodes.length ≤ n) :
    spawnCheck s t a n = .trap .badHandle := by
  simp only [spawnCheck, team, State.node?, ctx, Option.bind_some, List.getElem?_eq_none beyond]

theorem spawnCheck_long (team : s.team? t.id.team = some tm) (ctx : s.ctx? tm.ctx = some c) (node : c.nodes[n]? = some d)
    (long : tm.regs < a + d.rsize) : spawnCheck s t a n = .trap .badHandle := by
  simp only [spawnCheck, team, State.node?, ctx, Option.bind_some, node]
  exact if_pos long

theorem spawnCheck_nested (team : s.team? t.id.team = some tm) (ctx : s.ctx? tm.ctx = some c) (node : c.nodes[n]? = some d)
    (fits : a + d.rsize ≤ tm.regs) (fill : d.fill = true) (deep : tm.fdepth = 2) : spawnCheck s t a n = .trap .genNest := by
  simp only [spawnCheck, team, State.node?, ctx, Option.bind_some, node]
  rw [if_neg (Nat.not_lt.2 fits), if_pos ⟨fill, deep⟩]

/-- The context of a spawn, and whether its pool allows the record. -/
theorem canAlloc_of_spawnOk (ok : SpawnOk s t a n tm c d) : s.ctxId t.id.team = tm.ctx ∧ s.canAlloc tm.ctx n = c.canAlloc n := by
  obtain ⟨team, ctx, -⟩ := ok
  exact ⟨by rw [State.ctxId, team]; rfl, by rw [State.canAlloc, ctx]; rfl⟩

end Checks

/-! ### Either form on one thread -/

/-- A `SPAWN` whose checks pass: with room its record enters the bin, and without it the record and its thread wait in the queue (R166, R168). -/
theorem spawnThread_passes {o : OpSpawn} {s : State} {t : Thread} {tm : Team} {c : Ctx} {d : NodeDesc}
    (ok : SpawnOk s t o.a.val (opb s t o.b).toNat tm c d) : spawnThread o s t =
      if c.canAlloc (opb s t o.b).toNat then
        ((s.enterBin tm.ctx (opb s t o.b).toNat (spawnPart tm d) (spawned t o.a.val tm d)).drainBins tm.ctx).modThread t.id (·.advance 4)
      else (s.modCtx tm.ctx (fun c => { c with allocs := c.allocs ++
        [⟨(opb s t o.b).toNat, spawnPart tm d, spawned t o.a.val tm d, .spawn t.id⟩] })).modThread t.id (fun x => { x with park := .dryPool }) := by
  obtain ⟨same, room⟩ := canAlloc_of_spawnOk ok
  simp only [spawnThread, spawnCheck_passes ok, same, room]
  split
  · rfl
  · rename_i full
    simp only [State.allocate, ok.2.1, if_neg full]

/-- A predicate that a thread writes as it continues; p7 takes no write (R308). -/
theorem setPred_advance_eq (pd : Fin 8) (b : Bool) (n : Nat) : (fun u : Thread => (u.setPred pd.val b).advance n) =
    fun u => { (if pd = 7 then u else { u with p := u.p.set pd.val b }) with pc := u.pc + BitVec.ofNat 32 n } := by
  simp only [Thread.advance, setPred_eq_ite, ite_setPred_pc]

/-- A `SPAWN.NB` whose checks pass: its predicate says whether the record has entered the bin (R168). -/
theorem spawnNbThread_passes {o : OpSpawnNb} {s : State} {t : Thread} {tm : Team} {c : Ctx} {d : NodeDesc}
    (ok : SpawnOk s t o.a.val (opb s t o.b).toNat tm c d) : spawnNbThread o s t =
      let goOn := fun (b : Bool) (u : Thread) =>
        { (if o.pd = 7 then u else { u with p := u.p.set o.pd.val b }) with pc := u.pc + BitVec.ofNat 32 4 }
      if c.canAlloc (opb s t o.b).toNat then
        ((s.enterBin tm.ctx (opb s t o.b).toNat (spawnPart tm d) (spawned t o.a.val tm d)).drainBins tm.ctx).modThread t.id (goOn true)
      else s.modThread t.id (goOn false) := by
  obtain ⟨same, room⟩ := canAlloc_of_spawnOk ok
  simp only [spawnNbThread, spawnCheck_passes ok, same, room, setPred_advance_eq]

/-- A record that makes no batch enters its bin, and a thread goes on. -/
theorem enters_and_continues {s : State} {ctx n part : Nat} {c : Ctx} {d : NodeDesc} {r : Record} (fill : r.pfid = none)
    (hc : s.ctx? ctx = some c) (hd : c.nodes[n]? = some d) (quiet : NoTrigger c n part d) (i : ThreadId) (f : Thread → Thread) :
    ∃ s', ((State.enterBin { s with cur := .idle } ctx n part r).drainBins ctx).modThread i f = s' ∧
      s' = { laneNext s [i] f with ctxs := s'.ctxs } ∧ NewCtx s s' ctx (enters c n part r s.time) := by
  obtain ⟨cs, entered, new⟩ := enterBin_drainBins_of_noTrigger (s := { s with cur := .idle }) fill hc hd quiet
  refine ⟨_, congrArg (State.modThread · i f) entered, ?_, new⟩
  rw [← modThread_eq_laneNext]
  rfl

/-- A record makes a batch of its part, and a thread goes on. -/
theorem batches_and_continues {s : State} {ctx n part : Nat} {c : Ctx} {d : NodeDesc} {r : Record} (fill : r.pfid = none)
    (hc : s.ctx? ctx = some c) (hd : c.nodes[n]? = some d) (full : Triggers c n part d) (i : ThreadId) (f : Thread → Thread) :
    ∃ s', ((State.enterBin { s with cur := .idle } ctx n part r).drainBins ctx).modThread i f = s' ∧
      s' = { laneNext s [i] f with ctxs := s'.ctxs, lastId := s.lastId + 1 } ∧ NewCtx s s' ctx (batched c n part r (s.lastId + 1)) := by
  obtain ⟨cs, entered, new⟩ := enterBin_drainBins_of_triggers (s := { s with cur := .idle }) fill hc hd full
  refine ⟨_, congrArg (State.modThread · i f) entered, ?_, new⟩
  rw [← modThread_eq_laneNext]
  rfl

section OneThreadSpawns
variable {s : State} {core : Nat} {t : Thread} {rdv : Bool}

theorem exec_spawn_oneThread {o : OpSpawn} (one : OneThread s core t rdv) (guard : t.guard o.g = true) :
    exec (.spawn o) s = .next (spawnThread o { s with cur := .idle } t) := congrArg Host.Outcome.next (laneEach_oneThread one guard)

theorem exec_spawnNb_oneThread {o : OpSpawnNb} (one : OneThread s core t rdv) (guard : t.guard o.g = true) :
    exec (.spawnNb o) s = .next (spawnNbThread o { s with cur := .idle } t) := congrArg Host.Outcome.next (laneEach_oneThread one guard)

/-- Either form, when its checks fail: the trap has the index in `%trapv` (R168, R188). -/
theorem exec_spawn_traps {i : Instr} {g : Guard} {a : Fin 64} {b : Src} {k : Cause} (form : spawnFields i = some (g, a, b))
    (one : OneThread s core t rdv) (guard : t.guard g = true) (check : spawnCheck s t a.val (opb s t b).toNat = .trap k) :
    exec i s = .next (State.threadTrap { s with cur := .idle } t k (BitVec.ofNat 32 (opb s t b).toNat) 0) := by
  have check' : spawnCheck { s with cur := .idle } t a.val (opb { s with cur := .idle } t b).toNat = .trap k := check
  cases i <;> simp only [spawnFields, reduceCtorEq, Option.some.injEq, Prod.mk.injEq] at form
  case spawn o =>
    obtain ⟨rfl, rfl, rfl⟩ := form
    rw [exec_spawn_oneThread one guard]
    simp only [spawnThread, check']
    rfl
  case spawnNb o =>
    obtain ⟨rfl, rfl, rfl⟩ := form
    rw [exec_spawnNb_oneThread one guard]
    simp only [spawnNbThread, check']
    rfl

end OneThreadSpawns

/-- Settles O19: for either form, a record that enters its bin without and with a batch, one that finds no room, and the three traps. -/
theorem spawnRecord : Obligations.SpawnRecord := by
  unfold Obligations.SpawnRecord
  refine ⟨?blocking, ?nonblocking, ?traps⟩
  case blocking =>
    intro o s core t rdv tm c d one guard n part ok
    have ok0 : SpawnOk { s with cur := .idle } t o.a.val (opb { s with cur := .idle } t o.b).toNat tm c d := ok
    rw [exec_spawn_oneThread one guard, spawnThread_passes ok0]
    obtain ⟨-, ctx, node, -⟩ := ok
    refine ⟨fun room quiet => ?_, fun room full => ?_, fun room => ?_⟩
    · obtain ⟨s', run, frame, new⟩ := enters_and_continues (r := spawned t o.a.val tm d) rfl ctx node quiet t.id (·.advance 4)
      exact ⟨s', congrArg Host.Outcome.next ((if_pos room).trans run), frame, new⟩
    · obtain ⟨s', run, frame, new⟩ := batches_and_continues (r := spawned t o.a.val tm d) rfl ctx node full t.id (·.advance 4)
      exact ⟨s', congrArg Host.Outcome.next ((if_pos room).trans run), frame, new⟩
    · refine ⟨_, congrArg Host.Outcome.next (if_neg (Bool.eq_false_iff.1 room)), ?_, newCtx_modCtx ctx fun _ => rfl⟩
      rw [← modThread_eq_laneNext]
      rfl
  case nonblocking =>
    intro o s core t rdv tm c d one guard n part pred ok
    have ok0 : SpawnOk { s with cur := .idle } t o.a.val (opb { s with cur := .idle } t o.b).toNat tm c d := ok
    rw [exec_spawnNb_oneThread one guard, spawnNbThread_passes ok0]
    obtain ⟨-, ctx, node, -⟩ := ok
    refine ⟨fun room quiet => ?_, fun room full => ?_, fun room => ?_⟩
    · obtain ⟨s', run, frame, new⟩ := enters_and_continues (r := spawned t o.a.val tm d) rfl ctx node quiet t.id _
      exact ⟨s', congrArg Host.Outcome.next ((if_pos room).trans run), frame, new⟩
    · obtain ⟨s', run, frame, new⟩ := batches_and_continues (r := spawned t o.a.val tm d) rfl ctx node full t.id _
      exact ⟨s', congrArg Host.Outcome.next ((if_pos room).trans run), frame, new⟩
    · exact congrArg Host.Outcome.next ((if_neg (Bool.eq_false_iff.1 room)).trans (modThread_eq_laneNext ..))
  case traps =>
    intro i g a b s core t rdv tm c form one guard team ctx n traps
    have trapped : ∀ k, spawnCheck s t a.val n = .trap k → traps k := fun k check =>
      ⟨exec_spawn_traps form one guard check, fun can => threadTrap_onlyThread (s := { s with cur := .idle }) one.2.1 can k _ 0⟩
    exact ⟨fun beyond => trapped _ (spawnCheck_noNode team ctx beyond), fun d node long => trapped _ (spawnCheck_long team ctx node long),
      fun d node fits fill deep => trapped _ (spawnCheck_nested team ctx node fits fill deep)⟩

end Sys2Proof.Proofs
end

section
/-!
PROOFS. TRAVERSAL_RESULT (R175, R253, R257, R258): a walk that ends writes the hit record, traps at a malformed block, or continues as a record.
-/

namespace Sys2Proof.Proofs
open Sys2Proof Sys2Proof.Machine Sys2Proof.Laws Sys2Proof.Stmt

section
variable {s s1 : State} {q : Query} {h : Option Hit} (on : s.power = .active) (found : s.query? q.id = some q) (free : q.wait = .none)
  (walk : queryWalk q s = (s1, .best h))
include on found free walk

/-- A blocking query whose walk ends writes its hit record (R257). -/
theorem exec_traversalResult_writes (blocking : q.cont = none) :
    exec (.traversalResult q.id) s = .next (queryWrite s1 q (hitRecord h)) := by
  change whenOn (queryResult q.id) s = _
  simp only [whenOn, if_pos on, queryResult, found, free, ne_eq, not_true_eq_false, if_false, walk, blocking]

/-- A query with a continuation whose walk ends makes its record (R175). -/
theorem exec_traversalResult_continues {n : Nat} (cont : q.cont = some n) :
    exec (.traversalResult q.id) s = .next (queryContinue s1 q n (hitRecord h)) := by
  change whenOn (queryResult q.id) s = _
  simp only [whenOn, if_pos on, queryResult, found, free, ne_eq, not_true_eq_false, if_false, walk, cont]

end

/-- The hit record of a thread on the device goes to four of its registers, and the thread goes on (R257). -/
theorem queryWrite_of_inside {s : State} {q : Query} (ws : List Word) (inside : s.outside q.thread.team = false) :
    queryWrite s q ws = { s with
      queries := s.queries.filter (fun x => x.id != q.id),
      threads := s.threads.map (fun t => if t.id = q.thread then { t.setRegs q.dst ws with pc := t.pc + 4, park := .none } else t) } := by
  have noWake : (dropQuery s q.id).noteWake [q.thread] = dropQuery s q.id :=
    noteWake_of_inside fun i hi => by rw [List.mem_singleton.1 hi]; exact inside
  simp only [queryWrite, noWake, State.modThread, updWhere_eq_map, beq_iff_eq, Thread.advance, thread_setRegs_pc]
  rfl

/-- A malformed block ends a query with a trap (R258). -/
theorem exec_traversalResult_malformed {s s1 : State} {q : Query} {off : Nat} {t : Thread} (on : s.power = .active)
    (found : s.query? q.id = some q) (free : q.wait = .none) (walk : queryWalk q s = (s1, .malformed off)) (thread : s1.thread? q.thread = some t) :
    exec (.traversalResult q.id) s = .next
      (State.threadTrap { s1 with queries := s1.queries.filter (fun x => x.id != q.id) } t .badHandle (BitVec.ofNat 32 off) 0) := by
  change whenOn (queryResult q.id) s = _
  simp only [whenOn, if_pos on, queryResult, found, free, ne_eq, not_true_eq_false, if_false, walk, thread]
  rfl

/-- The queries that end with a hit record, with a trap, and with an empty ray. -/
theorem queries : Sys2Proof.Stmt.Queries := by
  refine ⟨?writes, ?malformed, ?empty, rfl⟩
  case writes =>
    intro s s1 q h on found free noCont walk inside
    rw [exec_traversalResult_writes on found free walk noCont, queryWrite_of_inside _ inside]
  case malformed =>
    intro s s1 q off t on found free walk thread
    exact exec_traversalResult_malformed on found free walk thread
  case empty =>
    intro s q empty
    rw [queryWalk, empty]

/-! ### Continuations (R175) -/

/-- The record of a continuation: the registers that its node carries, then the hit record. -/
def contRecord (t : Thread) (tm : Team) (d : NodeDesc) (ws : List Word) : Record :=
  { words := (List.range (d.rsize - 4)).map (fun j => t.reg (d.creg + j)) ++ ws, pfid := none, gen := none, writer := some tm.grid }

/-- A trigger changes contexts and names only (R170). -/
theorem trigger_binsOnly (s : State) (ctx n part : Nat) : BinsOnly s (s.trigger ctx n part) := by
  unfold State.trigger
  split
  · exact .refl s
  · split
    · exact .refl s
    · split
      · exact formBatch_binsOnly ..
      · exact .refl s

/-- A record without a fill that enters its bin changes contexts and names only (R169). -/
theorem enterBin_binsOnly (s : State) (ctx n part : Nat) {r : Record} (fill : r.pfid = none) : BinsOnly s (s.enterBin ctx n part r) := by
  simp only [State.enterBin, fill]
  exact BinsOnly.trans (r := s.modCtx ctx (fun c => enters c n part r s.time)) ⟨_, _, rfl, le_rfl⟩ (trigger_binsOnly ..)

section
variable {s : State} {q : Query} {t : Thread} {tm : Team} {n : Nat} {d : NodeDesc}

/-- With room for its record, a continuation ends its thread (R175). -/
theorem queryContinue_of_room (ws : List Word) (thread : s.thread? q.thread = some t) (team : s.team? q.thread.team = some tm)
    (node : s.node? tm.ctx n = some d) (room : s.canAlloc tm.ctx n = true) (inside : s.outside t.id.team = false) :
    queryContinue s q n ws = State.exitThread ((dropQuery s q.id).enterBin tm.ctx n (d.partOf tm.fdepth) (contRecord t tm d ws)) t.id := by
  have room' : (dropQuery s q.id).canAlloc tm.ctx n = true := room
  obtain ⟨cs, k, entered, -⟩ := enterBin_binsOnly (dropQuery s q.id) tm.ctx n (d.partOf tm.fdepth) (r := contRecord t tm d ws) rfl
  have noWake : ((dropQuery s q.id).enterBin tm.ctx n (d.partOf tm.fdepth) (contRecord t tm d ws)).noteWake [t.id] =
      (dropQuery s q.id).enterBin tm.ctx n (d.partOf tm.fdepth) (contRecord t tm d ws) :=
    noteWake_of_inside fun i hi => by rw [List.mem_singleton.1 hi, entered]; exact inside
  simp only [queryContinue, thread, team, node, if_pos room']
  exact congrArg (State.exitThread · t.id) noWake

/-- Without room, the record waits in the allocation queue, and the thread waits with it (R166, R175). -/
theorem queryContinue_of_full (ws : List Word) (thread : s.thread? q.thread = some t) (team : s.team? q.thread.team = some tm)
    (node : s.node? tm.ctx n = some d) (full : s.canAlloc tm.ctx n = false) :
    queryContinue s q n ws = ((dropQuery s q.id).modCtx tm.ctx (fun c => { c with allocs := c.allocs ++
      [⟨n, d.partOf tm.fdepth, contRecord t tm d ws, .cont t.id⟩] })).modThread t.id (fun x => { x with park := .dryPool }) := by
  have full' : ¬(dropQuery s q.id).canAlloc tm.ctx n = true := Bool.eq_false_iff.1 full
  obtain ⟨c, ctx, -⟩ := Option.bind_eq_some_iff.1 node
  have full'' : ¬c.canAlloc n = true := by simpa [State.canAlloc, ctx] using full
  have ctx' : (dropQuery s q.id).ctx? tm.ctx = some c := ctx
  simp only [queryContinue, thread, team, node, if_neg full', State.allocate, ctx', if_neg full'']
  rfl

end

/-- Continuations: with room, and without. -/
theorem queryContinuations : Sys2Proof.Stmt.QueryContinuations := by
  intro s s1 q h t tm n d on found free cont walk thread team node _ part r s2
  rw [exec_traversalResult_continues on found free walk cont]
  have name := thread_name thread
  refine ⟨fun room inside => congrArg Host.Outcome.next (queryContinue_of_room _ thread team node room inside), fun full =>
    ⟨_, congrArg Host.Outcome.next (queryContinue_of_full _ thread team node full), rfl, ?_, ?_⟩⟩
  · rw [thread_modThread_self _ _ _ (by exact fun _ h => h)]
    change ((s1.thread? t.id).map _).map _ = _
    rw [name, thread]
    rfl
  · change ((State.modCtx (dropQuery s1 q.id) tm.ctx _).ctx? tm.ctx).map _ = _
    rw [ctx_modCtx_self _ _ _ (by exact fun _ h => h), Option.map_map]
    change (s1.ctx? tm.ctx).map _ = _
    congr 1
    funext c
    simp only [Function.comp_apply, List.map_append, List.map_cons, List.map_nil]
    rfl

end Sys2Proof.Proofs
end

section
/-!
PROOFS. Boxes and rays (R254): the bounds that the axes of a box put on t, and the t that satisfies them all.
-/

namespace Sys2Proof.Proofs
open Sys2Proof Sys2Proof.Machine Sys2Proof.Laws Sys2Proof.Stmt

/-- A fraction at or below another, where denominators are positive. -/
theorem frac_le_iff {a b : Frac} (ha : 0 < a.den) (hb : 0 < b.den) : a.le b = true ↔ ratio a ≤ ratio b := by
  have ha' : (0 : ℚ) < a.den := by exact_mod_cast ha
  have hb' : (0 : ℚ) < b.den := by exact_mod_cast hb
  rw [Frac.le, decide_eq_true_eq, ratio, ratio, div_le_div_iff₀ ha' hb']
  exact_mod_cast Iff.rfl

/-- A number lies between lower and higher bounds exactly when each lower bound is at or below each higher one. -/
theorem exists_between_lists (lows highs : List ℚ) : (∃ t, (∀ l ∈ lows, l ≤ t) ∧ ∀ h ∈ highs, t ≤ h) ↔ ∀ l ∈ lows, ∀ h ∈ highs, l ≤ h := by
  refine ⟨fun ⟨t, above, below⟩ l hl h hh => (above l hl).trans (below h hh), fun ordered => ?_⟩
  induction lows with
  | nil =>
    obtain ⟨t, below⟩ := highs.toFinset.bddBelow
    exact ⟨t, by simp, fun h hh => below (List.mem_toFinset.2 hh)⟩
  | cons l lows ih =>
    obtain ⟨t, above, below⟩ := ih fun k hk => ordered k (List.mem_cons_of_mem l hk)
    refine ⟨max l t, fun k hk => ?_, fun h hh => max_le (ordered l List.mem_cons_self h hh) (below h hh)⟩
    rcases List.mem_cons.1 hk with rfl | hk
    · exact le_max_left _ _
    · exact (above k hk).trans (le_max_right _ _)

/-- A fraction over a denominator of either sign. -/
theorem ratio_frac (n d : Int) : ratio (frac n d) = (n : ℚ) / d := by
  unfold frac ratio
  split
  · push_cast
    exact neg_div_neg_eq _ _
  · rfl

theorem frac_den_pos (n : Int) {d : Int} (h : d ≠ 0) : 0 < (frac n d).den := by
  unfold frac
  split <;> simp only <;> omega

/-- The bounds of an axis have positive denominators. -/
theorem axisBounds_den_pos (o d : Int) (lo hi : Bound) (f : Frac) (h : f ∈ (axisBounds o d lo hi).1 ∨ f ∈ (axisBounds o d lo hi).2.1) : 0 < f.den := by
  unfold axisBounds at h
  by_cases still : d = 0
  · simp [still] at h
  · rw [if_neg still] at h
    have made : ∃ n, f = frac n d := by
      split at h <;> simp only [Option.mem_toList, Option.map_eq_some_iff] at h <;> rcases h with ⟨x, -, rfl⟩ | ⟨x, -, rfl⟩ <;> exact ⟨_, rfl⟩
    obtain ⟨n, rfl⟩ := made
    exact frac_den_pos n still

/-- At `t` the point of the ray lies between the bounds of one axis. -/
def Within (o d : Int) (lo hi : Bound) (t : ℚ) : Prop :=
  (∀ x, lo = some x → (x : ℚ) ≤ o + t * d) ∧ ∀ x, hi = some x → o + t * d ≤ (x : ℚ)

/-- What an axis asks of t (R254): a ray that does not move along it lies between the bounds, and another lies between them for the t between two
quotients, which a ray towards lower values passes in the opposite order. -/
theorem axisBounds_iff (o d : Int) (lo hi : Bound) (t : ℚ) : Within o d lo hi t ↔ (axisBounds o d lo hi).2.2 = true ∧
    (∀ f ∈ (axisBounds o d lo hi).1, ratio f ≤ t) ∧ ∀ f ∈ (axisBounds o d lo hi).2.1, t ≤ ratio f := by
  rcases lt_trichotomy d 0 with down | rfl | up
  · have down' : (d : ℚ) < 0 := by exact_mod_cast down
    have low : ∀ x : Int, (x : ℚ) ≤ o + t * d ↔ t ≤ ratio (frac (x - o) d) := fun x => by
      rw [ratio_frac, le_div_iff_of_neg down', Int.cast_sub, sub_le_iff_le_add']
    have high : ∀ x : Int, o + t * d ≤ (x : ℚ) ↔ ratio (frac (x - o) d) ≤ t := fun x => by
      rw [ratio_frac, div_le_iff_of_neg down', Int.cast_sub, le_sub_iff_add_le']
    simp [Within, axisBounds, down.ne, down, low, high, and_comm]
  · cases lo <;> cases hi <;> simp [Within, axisBounds, boundLe]
  · have up' : (0 : ℚ) < d := by exact_mod_cast up
    have low : ∀ x : Int, (x : ℚ) ≤ o + t * d ↔ ratio (frac (x - o) d) ≤ t := fun x => by
      rw [ratio_frac, div_le_iff₀ up', Int.cast_sub, sub_le_iff_le_add']
    have high : ∀ x : Int, o + t * d ≤ (x : ℚ) ↔ t ≤ ratio (frac (x - o) d) := fun x => by
      rw [ratio_frac, le_div_iff₀ up', Int.cast_sub, le_sub_iff_add_le']
    simp [Within, axisBounds, up.ne', up.not_gt, low, high]

/-- What each axis of a box asks of a ray. -/
def boxAxis (b : Box) (r : Ray) (a : Nat) : List Frac × List Frac × Bool :=
  axisBounds (r.o.getD a 0) (r.d.getD a 0) (b.lo.getD a none) (b.hi.getD a none)

/-- The lower and the higher bounds of t. -/
def boxLows (b : Box) (r : Ray) : List Frac := r.tmin.toList ++ ((List.range 3).map (boxAxis b r)).flatMap (fun x => x.1)
def boxHighs (b : Box) (r : Ray) : List Frac := r.tmax.toList ++ ((List.range 3).map (boxAxis b r)).flatMap (fun x => x.2.1)

theorem meets_eq (b : Box) (r : Ray) : b.meets r =
    (((List.range 3).map (boxAxis b r)).all (fun x => x.2.2) && (boxLows b r).all (fun l => (boxHighs b r).all (fun h => l.le h))) := rfl

theorem mem_boxLows {b : Box} {r : Ray} {f : Frac} : f ∈ boxLows b r ↔ r.tmin = some f ∨ ∃ a < 3, f ∈ (boxAxis b r a).1 := by
  simp only [boxLows, List.mem_append, Option.mem_toList, List.mem_flatMap, List.mem_map, List.mem_range, exists_exists_and_eq_and]

theorem mem_boxHighs {b : Box} {r : Ray} {f : Frac} : f ∈ boxHighs b r ↔ r.tmax = some f ∨ ∃ a < 3, f ∈ (boxAxis b r a).2.1 := by
  simp only [boxHighs, List.mem_append, Option.mem_toList, List.mem_flatMap, List.mem_map, List.mem_range, exists_exists_and_eq_and]

/-- The t that the interval and the axes allow. -/
theorem inRange_within_iff {b : Box} {r : Ray} (t : ℚ) :
    (InRange r t ∧ ∀ a < 3, Within (r.o.getD a 0) (r.d.getD a 0) (b.lo.getD a none) (b.hi.getD a none) t) ↔
      (∀ a < 3, (boxAxis b r a).2.2 = true) ∧ (∀ f ∈ boxLows b r, ratio f ≤ t) ∧ ∀ f ∈ boxHighs b r, t ≤ ratio f := by
  simp only [axisBounds_iff, mem_boxLows, mem_boxHighs, InRange]
  constructor
  · rintro ⟨⟨least, most⟩, axes⟩
    refine ⟨fun a ha => (axes a ha).1, ?_, ?_⟩
    · rintro f (hf | ⟨a, ha, hf⟩)
      · exact least f hf
      · exact (axes a ha).2.1 f hf
    · rintro f (hf | ⟨a, ha, hf⟩)
      · exact most f hf
      · exact (axes a ha).2.2 f hf
  · rintro ⟨open', lows, highs⟩
    exact ⟨⟨fun m hm => lows m (.inl hm), fun m hm => highs m (.inl hm)⟩,
      fun a ha => ⟨open' a ha, fun f hf => lows f (.inr ⟨a, ha, hf⟩), fun f hf => highs f (.inr ⟨a, ha, hf⟩)⟩⟩

/-- A box meets a ray exactly when some t of the interval places the point in the closed box (R254). -/
theorem meets_iff (b : Box) {r : Ray} (ok : RayOk r) : b.meets r = true ↔
    ∃ t : ℚ, InRange r t ∧ ∀ a < 3, Within (r.o.getD a 0) (r.d.getD a 0) (b.lo.getD a none) (b.hi.getD a none) t := by
  have lowDen : ∀ f ∈ boxLows b r, 0 < f.den := fun f hf => by
    rcases mem_boxLows.1 hf with hf | ⟨a, -, hf⟩
    · exact ok.1 f hf
    · exact axisBounds_den_pos _ _ _ _ f (.inl hf)
  have highDen : ∀ f ∈ boxHighs b r, 0 < f.den := fun f hf => by
    rcases mem_boxHighs.1 hf with hf | ⟨a, -, hf⟩
    · exact ok.2 f hf
    · exact axisBounds_den_pos _ _ _ _ f (.inr hf)
  have ordered : (∀ l ∈ boxLows b r, ∀ h ∈ boxHighs b r, l.le h = true) ↔
      ∃ t, (∀ f ∈ boxLows b r, ratio f ≤ t) ∧ ∀ f ∈ boxHighs b r, t ≤ ratio f := by
    have between := exists_between_lists ((boxLows b r).map ratio) ((boxHighs b r).map ratio)
    simp only [List.forall_mem_map] at between
    rw [between]
    exact forall₂_congr fun l hl => forall₂_congr fun h hh => frac_le_iff (lowDen l hl) (highDen h hh)
  simp only [inRange_within_iff, exists_and_left, ← ordered, meets_eq, Bool.and_eq_true, List.all_eq_true, List.forall_mem_map, List.mem_range]

end Sys2Proof.Proofs
end

section
/-!
PROOFS. Triangles and rays (R255, R257): the three quotients of the test are the one t and the weights of the point that the ray passes through.
-/

namespace Sys2Proof.Proofs
open Sys2Proof Sys2Proof.Machine Sys2Proof.Laws Sys2Proof.Stmt

/-! ### Vectors of three components -/

theorem dot3_eq {a b : List Int} (ha : a.length = 3) (hb : b.length = 3) :
    dot3 a b = a.getD 0 0 * b.getD 0 0 + a.getD 1 0 * b.getD 1 0 + a.getD 2 0 * b.getD 2 0 := by
  obtain ⟨x, y, z, rfl⟩ := List.length_eq_three.1 ha
  obtain ⟨u, v, w, rfl⟩ := List.length_eq_three.1 hb
  simp [dot3]

theorem sub3_getD {a b : List Int} (ha : a.length = 3) (hb : b.length = 3) {i : Nat} (hi : i < 3) :
    (sub3 a b).getD i 0 = a.getD i 0 - b.getD i 0 := by
  obtain ⟨x, y, z, rfl⟩ := List.length_eq_three.1 ha
  obtain ⟨u, v, w, rfl⟩ := List.length_eq_three.1 hb
  interval_cases i <;> rfl

theorem sub3_length {a b : List Int} (ha : a.length = 3) (hb : b.length = 3) : (sub3 a b).length = 3 := by
  rw [sub3, List.length_zipWith, ha, hb, Nat.min_self]

/-- a · (b × c) of three vectors, by their components. -/
def triple {R : Type} [CommRing R] (a b c : Nat → R) : R :=
  a 0 * (b 1 * c 2 - b 2 * c 1) + a 1 * (b 2 * c 0 - b 0 * c 2) + a 2 * (b 0 * c 1 - b 1 * c 0)

theorem dot3_cross3 {a : List Int} (ha : a.length = 3) (b c : List Int) :
    dot3 a (cross3 b c) = triple (fun i => a.getD i 0) (fun i => b.getD i 0) (fun i => c.getD i 0) :=
  dot3_eq ha (by rfl)

/-- Cramer's rule: where det = e1 · (d × e2) is not 0, the three products over det solve s + t d = u e1 + v e2, and nothing else does. -/
theorem cramer_iff {s d e f : Nat → ℚ} {det t u v : ℚ} (hdet : det = triple e d f) (ne : det ≠ 0) :
    (∀ a < 3, s a + t * d a = u * e a + v * f a) ↔
      t = triple f s e / det ∧ u = triple s d f / det ∧ v = triple d s e / det := by
  simp only [eq_div_iff ne]
  subst hdet
  constructor
  · intro h
    have h0 := h 0 (by norm_num)
    have h1 := h 1 (by norm_num)
    have h2 := h 2 (by norm_num)
    unfold triple
    refine ⟨?_, ?_, ?_⟩
    · linear_combination (-(e 1 * f 2 - e 2 * f 1)) * h0 - (e 2 * f 0 - e 0 * f 2) * h1 - (e 0 * f 1 - e 1 * f 0) * h2
    · linear_combination (-(d 1 * f 2 - d 2 * f 1)) * h0 - (d 2 * f 0 - d 0 * f 2) * h1 - (d 0 * f 1 - d 1 * f 0) * h2
    · linear_combination (-(e 1 * d 2 - e 2 * d 1)) * h0 - (e 2 * d 0 - e 0 * d 2) * h1 - (e 0 * d 1 - e 1 * d 0) * h2
  · rintro ⟨ht, hu, hv⟩ a ha
    refine mul_left_cancel₀ ne ?_
    unfold triple at *
    interval_cases a
    · linear_combination d 0 * ht - e 0 * hu - f 0 * hv
    · linear_combination d 1 * ht - e 1 * hu - f 1 * hv
    · linear_combination d 2 * ht - e 2 * hu - f 2 * hv

/-! ### The test of a triangle (R255) -/

/-- The edges of a triangle from its first vertex, and the ray's origin seen from there. -/
def edge1 (x : Tri) : List Int := sub3 (x.v1.map fixed) (x.v0.map fixed)
def edge2 (x : Tri) : List Int := sub3 (x.v2.map fixed) (x.v0.map fixed)
def fromCorner (r : Ray) (x : Tri) : List Int := sub3 r.o (x.v0.map fixed)

/-- The determinant of the test, and the products over it that are t, u and v. -/
def triDet (r : Ray) (x : Tri) : Int := dot3 (edge1 x) (cross3 r.d (edge2 x))
def triT (r : Ray) (x : Tri) : Int := dot3 (edge2 x) (cross3 (fromCorner r x) (edge1 x))
def triU (r : Ray) (x : Tri) : Int := dot3 (fromCorner r x) (cross3 r.d (edge2 x))
def triV (r : Ray) (x : Tri) : Int := dot3 r.d (cross3 (fromCorner r x) (edge1 x))

/-- The sign that makes the determinant positive. -/
def triSign (r : Ray) (x : Tri) : Int := if triDet r x < 0 then -1 else 1

/-- The hit of a triangle, should the test find one. -/
def triHit (r : Ray) (prim leaf index : Nat) (x : Tri) : Hit :=
  ⟨⟨triSign r x * triT r x, triSign r x * triDet r x⟩, prim, leaf, index, triSign r x * triU r x, triSign r x * triV r x, triSign r x * triDet r x,
    decide (0 < dot3 r.d (cross3 (edge1 x) (edge2 x)))⟩

/-- The weights of a hit are those of a point of the triangle, and its t lies in the ray's interval. -/
def TriInside (r : Ray) (h : Hit) : Prop :=
  0 ≤ h.u ∧ 0 ≤ h.v ∧ h.u + h.v ≤ h.den ∧ (∀ m, r.tmin = some m → m.le h.t = true) ∧ ∀ m, r.tmax = some m → h.t.le m = true

/-- A bound that is there holds. -/
theorem getD_map_true_iff {α : Type} (o : Option α) (f : α → Bool) : (o.map f).getD true = true ↔ ∀ m, o = some m → f m = true := by
  cases o <;> simp

/-- The test, with the hit that it may find. -/
theorem hitTri_eq {r : Ray} {prim leaf index : Nat} {x : Tri} {h : Hit} (hit : triHit r prim leaf index x = h) : hitTri r prim leaf index x =
    if !(x.v0 ++ x.v1 ++ x.v2).all isFinite then none
    else if triDet r x = 0 ∨ h.u < 0 ∨ h.v < 0 ∨ h.den < h.u + h.v then none
    else if (r.tmin.map (fun m => m.le h.t)).getD true && (r.tmax.map (fun m => h.t.le m)).getD true then some h
    else none := by
  subst hit
  rfl

/-- When the test finds a hit. -/
theorem hitTri_eq_some_iff {r : Ray} {prim leaf index : Nat} {x : Tri} {h : Hit} : hitTri r prim leaf index x = some h ↔
    (∀ w ∈ x.v0 ++ x.v1 ++ x.v2, isFinite w = true) ∧ triDet r x ≠ 0 ∧ TriInside r (triHit r prim leaf index x) ∧
      triHit r prim leaf index x = h := by
  have finite : (!(x.v0 ++ x.v1 ++ x.v2).all isFinite) = true ↔ ¬∀ w ∈ x.v0 ++ x.v1 ++ x.v2, isFinite w = true := by
    rw [Bool.not_eq_true', ← Bool.not_eq_true, List.all_eq_true]
  rw [hitTri_eq rfl, Option.ite_none_left_eq_some, Option.ite_none_left_eq_some, Option.ite_none_right_eq_some, finite, not_not, Bool.and_eq_true,
    getD_map_true_iff, getD_map_true_iff]
  simp only [not_or, not_lt, Option.some.injEq, TriInside, and_assoc]

/-! ### The point of the triangle (R255) -/

section Geometry
variable {r : Ray} {x : Tri}

/-- The ray and the triangle have three components each. -/
structure Spatial (r : Ray) (x : Tri) : Prop where
  o : r.o.length = 3
  d : r.d.length = 3
  v0 : x.v0.length = 3
  v1 : x.v1.length = 3
  v2 : x.v2.length = 3

/-- A product of three vectors, as a fraction. -/
theorem cast_dot3_cross3 {a : List Int} (ha : a.length = 3) (b c : List Int) :
    ((dot3 a (cross3 b c) : Int) : ℚ) = triple (comp a) (comp b) (comp c) := by
  rw [dot3_cross3 ha]
  simp only [triple, comp]
  push_cast
  rfl

/-- The sign takes nothing away from a quotient. -/
theorem triSign_quotient (n : Int) : (((triSign r x * n : Int) : ℚ) / ((triSign r x * triDet r x : Int) : ℚ)) = n / triDet r x := by
  have ne : ((triSign r x : Int) : ℚ) ≠ 0 := by unfold triSign; split <;> norm_num
  rw [Int.cast_mul, Int.cast_mul, mul_div_mul_left _ _ ne]

theorem triSign_det_pos (ne : triDet r x ≠ 0) : 0 < triSign r x * triDet r x := by
  unfold triSign
  split <;> omega

variable (dim : Spatial r x)
include dim

theorem edge1_length : (edge1 x).length = 3 := sub3_length (by rw [List.length_map, dim.v1]) (by rw [List.length_map, dim.v0])
theorem edge2_length : (edge2 x).length = 3 := sub3_length (by rw [List.length_map, dim.v2]) (by rw [List.length_map, dim.v0])
theorem fromCorner_length : (fromCorner r x).length = 3 := sub3_length dim.o (by rw [List.length_map, dim.v0])

theorem comp_edge1 {a : Nat} (ha : a < 3) : comp (edge1 x) a = comp (x.v1.map fixed) a - comp (x.v0.map fixed) a := by
  rw [comp, edge1, sub3_getD (by rw [List.length_map, dim.v1]) (by rw [List.length_map, dim.v0]) ha, Int.cast_sub]
  rfl
theorem comp_edge2 {a : Nat} (ha : a < 3) : comp (edge2 x) a = comp (x.v2.map fixed) a - comp (x.v0.map fixed) a := by
  rw [comp, edge2, sub3_getD (by rw [List.length_map, dim.v2]) (by rw [List.length_map, dim.v0]) ha, Int.cast_sub]
  rfl
theorem comp_fromCorner {a : Nat} (ha : a < 3) : comp (fromCorner r x) a = comp r.o a - comp (x.v0.map fixed) a := by
  rw [comp, fromCorner, sub3_getD dim.o (by rw [List.length_map, dim.v0]) ha, Int.cast_sub]
  rfl

theorem cast_triDet : ((triDet r x : Int) : ℚ) = triple (comp (edge1 x)) (comp r.d) (comp (edge2 x)) := cast_dot3_cross3 (edge1_length dim) ..
theorem cast_triT : ((triT r x : Int) : ℚ) = triple (comp (edge2 x)) (comp (fromCorner r x)) (comp (edge1 x)) := cast_dot3_cross3 (edge2_length dim) ..
theorem cast_triU : ((triU r x : Int) : ℚ) = triple (comp (fromCorner r x)) (comp r.d) (comp (edge2 x)) := cast_dot3_cross3 (fromCorner_length dim) ..
theorem cast_triV : ((triV r x : Int) : ℚ) = triple (comp r.d) (comp (fromCorner r x)) (comp (edge1 x)) := cast_dot3_cross3 dim.d ..

/-- The facing of a triangle is the product of the ray's direction and the normal. -/
theorem facing_eq : facing r x = ((dot3 r.d (cross3 (edge1 x) (edge2 x)) : Int) : ℚ) := by
  rw [cast_dot3_cross3 dim.d]
  simp only [triple, facing, comp_edge1 dim (by norm_num : 0 < 3), comp_edge1 dim (by norm_num : 1 < 3), comp_edge1 dim (by norm_num : 2 < 3),
    comp_edge2 dim (by norm_num : 0 < 3), comp_edge2 dim (by norm_num : 1 < 3), comp_edge2 dim (by norm_num : 2 < 3)]

/-- The determinant is the facing with the other sign. -/
theorem facing_eq_neg_triDet : facing r x = -((triDet r x : Int) : ℚ) := by
  rw [facing_eq dim, cast_dot3_cross3 dim.d, cast_triDet dim]
  unfold triple
  ring

theorem facing_ne_zero_iff : facing r x ≠ 0 ↔ triDet r x ≠ 0 := by
  rw [facing_eq_neg_triDet dim, ne_eq, neg_eq_zero, Int.cast_eq_zero]

/-- The ray passes at t through the point with the weights u and v exactly when these are the quotients of the test. -/
theorem through_iff (ne : triDet r x ≠ 0) {t u v : ℚ} : Through r x t u v ↔ 0 ≤ u ∧ 0 ≤ v ∧ u + v ≤ 1 ∧
    t = triT r x / triDet r x ∧ u = triU r x / triDet r x ∧ v = triV r x / triDet r x := by
  have ne' : ((triDet r x : Int) : ℚ) ≠ 0 := Int.cast_ne_zero.2 ne
  rw [cast_triT dim, cast_triU dim, cast_triV dim, ← cramer_iff (cast_triDet dim) ne', Through]
  have moved : ∀ a < 3, (comp r.o a + t * comp r.d a =
      (1 - u - v) * comp (x.v0.map fixed) a + u * comp (x.v1.map fixed) a + v * comp (x.v2.map fixed) a ↔
      comp (fromCorner r x) a + t * comp r.d a = u * comp (edge1 x) a + v * comp (edge2 x) a) := fun a ha => by
    rw [comp_fromCorner dim ha, comp_edge1 dim ha, comp_edge2 dim ha]
    constructor <;> intro h <;> linear_combination h
  rw [forall₂_congr moved]

/-- A hit of the test is a point of the triangle at a t of the interval, and each such point is one (R255). -/
theorem triInside_iff (ok : RayOk r) (ne : triDet r x ≠ 0) (prim leaf index : Nat) : TriInside r (triHit r prim leaf index x) ↔
    Through r x (triT r x / triDet r x) (triU r x / triDet r x) (triV r x / triDet r x) ∧ InRange r (triT r x / triDet r x) := by
  have pos := triSign_det_pos ne
  have pos' : (0 : ℚ) < ((triSign r x * triDet r x : Int) : ℚ) := Int.cast_pos.2 pos
  have u := triSign_quotient (r := r) (x := x) (triU r x)
  have v := triSign_quotient (r := r) (x := x) (triV r x)
  have t : ratio (triHit r prim leaf index x).t = triT r x / triDet r x := triSign_quotient (triT r x)
  rw [through_iff dim ne]
  simp only [and_true, InRange, TriInside, ← t, and_assoc]
  rw [← u, ← v, ← add_div, le_div_iff₀ pos', le_div_iff₀ pos', zero_mul, div_le_one pos', ← Int.cast_add, Int.cast_le, Int.cast_nonneg_iff,
    Int.cast_nonneg_iff]
  refine and_congr_right fun _ => and_congr_right fun _ => and_congr_right fun _ => and_congr ?_ ?_
  · exact forall₂_congr fun m hm => frac_le_iff (ok.1 m hm) pos
  · exact forall₂_congr fun m hm => frac_le_iff pos (ok.2 m hm)

end Geometry

/-- The ray tests: boxes, what a hit of a triangle says, and that a point of the triangle is hit. -/
theorem rayTests : Sys2Proof.Stmt.RayTests := by
  refine ⟨fun b r ok => meets_iff b ok, fun r prim leaf index x ok o d v0 v1 v2 => ?_⟩
  have dim : Spatial r x := ⟨o, d, v0, v1, v2⟩
  refine ⟨fun h hit => ?_, fun finite ne ⟨t, u, v, through, range⟩ => ?_⟩
  · obtain ⟨finite, ne, inside, rfl⟩ := hitTri_eq_some_iff.1 hit
    have pos := triSign_det_pos ne
    obtain ⟨through, range⟩ := (triInside_iff dim ok ne prim leaf index).1 inside
    rw [← triSign_quotient, ← triSign_quotient, ← triSign_quotient] at through
    rw [← triSign_quotient] at range
    refine ⟨finite, (facing_ne_zero_iff dim).2 ne, pos, pos, through, range, ?_, rfl, rfl, rfl⟩
    rw [facing_eq dim, Int.cast_pos]
    exact decide_eq_true_iff
  · have det := (facing_ne_zero_iff dim).1 ne
    obtain ⟨-, -, -, rfl, rfl, rfl⟩ := (through_iff dim det).1 through
    have hit := hitTri_eq_some_iff.2 ⟨finite, det, (triInside_iff dim ok det prim leaf index).2 ⟨through, range⟩, rfl⟩
    rw [hit]
    exact Option.some_ne_none _

end Sys2Proof.Proofs
end

section
/-!
PROOFS. Which hit is the nearer (R256), and the hit of a leaf.
-/

namespace Sys2Proof.Proofs
open Sys2Proof Sys2Proof.Machine Sys2Proof.Laws Sys2Proof.Stmt

/-- The key of R256, in the order of its parts. -/
def hitKey (h : Hit) : ℚ ×ₗ ℕ ×ₗ ℕ ×ₗ ℕ := toLex (ratio h.t, toLex (h.prim, toLex (h.leaf, h.index)))

theorem keyLess_iff (a b : Hit) : KeyLess a b ↔ hitKey a < hitKey b := by
  simp only [KeyLess, hitKey, Prod.Lex.toLex_lt_toLex]

theorem frac_lt_iff {a b : Frac} (ha : 0 < a.den) (hb : 0 < b.den) : a.lt b = true ↔ ratio a < ratio b := by
  have ha' : (0 : ℚ) < a.den := by exact_mod_cast ha
  have hb' : (0 : ℚ) < b.den := by exact_mod_cast hb
  rw [Frac.lt, decide_eq_true_eq, ratio, ratio, div_lt_div_iff₀ ha' hb']
  exact_mod_cast Iff.rfl

/-- A hit comes before another by its key. -/
theorem before_iff {a b : Hit} (ha : 0 < a.t.den) (hb : 0 < b.t.den) : a.before b = true ↔ KeyLess a b := by
  have less := frac_lt_iff ha hb
  have more : b.t.lt a.t = false ↔ ratio a.t ≤ ratio b.t := by rw [← not_lt, ← frac_lt_iff hb ha, Bool.not_eq_true]
  simp only [Hit.before, KeyLess, Bool.or_eq_true, Bool.and_eq_true, Bool.not_eq_true', beq_iff_eq, decide_eq_true_eq, less, more]
  constructor
  · rintro (first | ⟨le, rest⟩)
    · exact .inl first
    · exact le.lt_or_eq.imp_right fun same => ⟨same, rest⟩
  · rintro (first | ⟨same, rest⟩)
    · exact .inl first
    · exact .inr ⟨same.le, rest⟩

theorem nearer_some (a b : Hit) : nearer (some a) (some b) = some (if b.before a then b else a) := (apply_ite some _ _ _).symm
theorem nearer_none_right (a : Option Hit) : nearer a none = a := by cases a <;> rfl

/-! ### The least of several hits -/

/-- `best` is the hit with the least key of a list: none where there is none, and otherwise one of them that no other comes before. -/
def IsNearest (hits : List (Option Hit)) (best : Option Hit) : Prop :=
  (best = none ↔ ∀ x ∈ hits, x = none) ∧ ∀ h, best = some h → some h ∈ hits ∧ ∀ k, some k ∈ hits → hitKey h ≤ hitKey k

/-- One hit more, the nearer of it and the best so far is the best. -/
theorem IsNearest.nearer {hits : List (Option Hit)} {best : Option Hit} (h : IsNearest hits best) (x : Option Hit)
    (dens : ∀ k, some k ∈ hits ++ [x] → 0 < k.t.den) : IsNearest (hits ++ [x]) (Machine.nearer best x) := by
  obtain ⟨empty, least⟩ := h
  cases x with
  | none =>
    rw [nearer_none_right]
    exact ⟨empty.trans (by simp [or_imp]), by simpa using least⟩
  | some k =>
    cases best with
    | none =>
      have none : ∀ x ∈ hits, x = none := empty.1 rfl
      refine ⟨by simp [Machine.nearer], ?_⟩
      rintro _ ⟨⟩
      refine ⟨by simp, fun m hm => ?_⟩
      rcases List.mem_append.1 hm with hm | hm
      · exact absurd (none _ hm) (by simp)
      · rw [Option.some.inj (List.mem_singleton.1 hm)]
    | some b =>
      obtain ⟨there, least⟩ := least b rfl
      have order := before_iff (dens k (by simp)) (dens b (by simp [there]))
      rw [keyLess_iff] at order
      rw [nearer_some]
      refine ⟨by simp, ?_⟩
      rintro _ ⟨⟩
      by_cases first : k.before b = true
      · rw [if_pos first]
        refine ⟨by simp, fun m hm => ?_⟩
        rcases List.mem_append.1 hm with hm | hm
        · exact (order.1 first).le.trans (least m hm)
        · rw [Option.some.inj (List.mem_singleton.1 hm)]
      · rw [if_neg first]
        refine ⟨by simp [there], fun m hm => ?_⟩
        rcases List.mem_append.1 hm with hm | hm
        · exact least m hm
        · rw [Option.some.inj (List.mem_singleton.1 hm)]
          exact not_lt.1 (order.not.1 first)

/-- The nearer of hit after hit is the nearest of them all (R256). -/
theorem foldl_nearer_isNearest (l : List (Option Hit)) (dens : ∀ k, some k ∈ l → 0 < k.t.den) : IsNearest l (l.foldl nearer none) := by
  induction l using List.reverseRecOn with
  | nil => exact ⟨by simp, by simp⟩
  | append_singleton l x ih =>
    rw [List.foldl_append]
    exact (ih fun k hk => dens k (List.mem_append_left _ hk)).nearer x dens

/-- The hits of a leaf, triangle by triangle. -/
theorem mem_leafHits {r : Ray} {leaf base : Nat} {l : List Tri} {o : Option Hit} :
    o ∈ l.zipIdx.map (fun x => hitTri r (base + x.2) leaf x.2 x.1) ↔ ∃ n x, l[n]? = some x ∧ hitTri r (base + n) leaf n x = o := by
  simp only [List.mem_map, List.mem_zipIdx_iff_getElem?, Prod.exists]
  exact exists_comm

/-- A leaf's result is the nearest of the hits of its triangles (R256). -/
theorem leafHit_isNearest (r : Ray) (leaf base : Nat) (l : List Tri) :
    IsNearest (l.zipIdx.map (fun x => hitTri r (base + x.2) leaf x.2 x.1)) (leafHit r leaf base l) := by
  refine foldl_nearer_isNearest _ fun k hk => ?_
  obtain ⟨n, x, -, hit⟩ := mem_leafHits.1 hk
  obtain ⟨-, ne, -, rfl⟩ := hitTri_eq_some_iff.1 hit
  exact triSign_det_pos ne

theorem leafHit_eq_none_iff (r : Ray) (leaf base : Nat) (l : List Tri) :
    leafHit r leaf base l = none ↔ ∀ n x, l[n]? = some x → hitTri r (base + n) leaf n x = none := by
  rw [(leafHit_isNearest r leaf base l).1]
  exact ⟨fun none n x hx => none _ (mem_leafHits.2 ⟨n, x, hx, rfl⟩), fun none o ho => by
    obtain ⟨n, x, hx, rfl⟩ := mem_leafHits.1 ho
    exact none n x hx⟩

theorem leafHit_eq_some {r : Ray} {leaf base : Nat} {l : List Tri} {h : Hit} (best : leafHit r leaf base l = some h) :
    (∃ n x, l[n]? = some x ∧ hitTri r (base + n) leaf n x = some h) ∧
      ∀ n x k, l[n]? = some x → hitTri r (base + n) leaf n x = some k → ¬KeyLess k h := by
  obtain ⟨there, least⟩ := (leafHit_isNearest r leaf base l).2 h best
  exact ⟨mem_leafHits.1 there, fun n x k hx hit => (keyLess_iff k h).not.2 (least k (mem_leafHits.2 ⟨n, x, hx, hit⟩)).not_gt⟩

end Sys2Proof.Proofs
end

section
/-!
PROOFS. Hit records (R257): weights rounded to 1/65,535, and a t that is an FP32 value exactly (R206, R211).
-/

namespace Sys2Proof.Proofs
open Sys2Proof Sys2Proof.Machine Sys2Proof.Laws Sys2Proof.Stmt

/-! ### Weights -/

/-- A quotient rounded to the nearest integer, ties to even: the quotient below it or the one above. -/
theorem rneDiv_near (n d : Nat) (hd : 0 < d) :
    |2 * ((rneDiv n d : Int) * d - n)| ≤ d ∧ (|2 * ((rneDiv n d : Int) * d - n)| = d → (rneDiv n d : Int) % 2 = 0) := by
  have whole : ((n / d : Nat) : Int) * d + (n % d : Nat) = n := by exact_mod_cast Nat.div_add_mod' n d
  have rest : ((n % d : Nat) : Int) < d := by exact_mod_cast Nat.mod_lt n hd
  unfold rneDiv
  simp only
  generalize n / d = q at *
  generalize n % d = r at *
  split_ifs with up
  · have distance : 2 * (((q + 1 : Nat) : Int) * d - n) = 2 * (d - r) := by push_cast; linear_combination 2 * whole
    rw [distance, abs_of_nonneg (by omega)]
    omega
  · have distance : 2 * ((q : Int) * d - n) = -(2 * r) := by linear_combination 2 * whole
    rw [distance, abs_neg, abs_of_nonneg (by omega)]
    omega

/-- A quotient of at most `k` rounds to at most `k`. -/
theorem rneDiv_le {n d k : Nat} (hd : 0 < d) (h : n ≤ k * d) : rneDiv n d ≤ k := by
  have below : n / d ≤ k := Nat.div_le_of_le_mul (Nat.mul_comm k d ▸ h)
  unfold rneDiv
  simp only
  split_ifs with up
  · rcases below.lt_or_eq with less | same
    · exact less
    · have whole := Nat.div_add_mod' n d
      rw [same] at whole
      omega
  · exact below

/-- A weight of a hit, in 1/65,535. -/
def unitWeight (w den : Int) : Nat := rneDiv (w.toNat * 65535) den.toNat

theorem unitWeight_near {w den : Int} (hw : 0 ≤ w) (hden : 0 < den) : Unit16 (unitWeight w den) w den := by
  have near := rneDiv_near (w.toNat * 65535) den.toNat (by omega)
  simp only [Nat.cast_mul, Int.toNat_of_nonneg hw, Int.toNat_of_nonneg hden.le] at near
  rw [mul_comm w] at near
  exact near

theorem unitWeight_lt {w den : Int} (hden : 0 < den) (h : w ≤ den) : unitWeight w den < 0x10000 :=
  Nat.lt_succ_of_le (rneDiv_le (by omega) (by rw [Nat.mul_comm]; exact Nat.mul_le_mul_left _ (by omega)))

/-! ### FP32 values (R206, R211) -/

/-- A finite FP32 word: its exponent field is not the last, and its value follows from its fields. -/
theorem f32_of_isFinite {w : Word} (h : isFinite w = true) : w.toNat / 2 ^ 23 % 2 ^ 8 ≠ 255 ∧ f32 w = Fmt.f32.finite w.toNat := by
  unfold isFinite f32 Fmt.decode at h
  by_cases last : w.toNat / 2 ^ Fmt.f32.mb % 2 ^ Fmt.f32.eb = 2 ^ Fmt.f32.eb - 1
  · rw [if_pos last] at h
    split at h <;> simp at h
    rename_i e
    split at e <;> cases e
  · exact ⟨last, if_neg last⟩

/-- The magnitude of a finite FP32 word in units of 2^-149. -/
def magnitude (e m : Nat) : Nat := if e = 0 then m else (2 ^ 23 + m) * 2 ^ (e - 1)

/-- The magnitude that the fields of an FP32 word give. -/
def wordMagnitude (w : Word) : Nat := magnitude (w.toNat / 2 ^ 23 % 2 ^ 8) (w.toNat % 2 ^ 23)

theorem magnitude_eq_zero {e m : Nat} (h : magnitude e m = 0) : e = 0 ∧ m = 0 := by
  unfold magnitude at h
  split at h
  · exact ⟨‹e = 0›, h⟩
  · exact absurd h (by positivity)

theorem qmin_f32 : Fmt.f32.qmin = -149 := by decide

/-- The value that the fields of an FP32 word give (R206). -/
theorem finite_f32 (x : Nat) : Fmt.f32.finite x = if x / 2 ^ 23 % 2 ^ 8 = 0 then .fin (bitAt x 31) (x % 2 ^ 23) (-149)
    else .fin (bitAt x 31) (2 ^ 23 + x % 2 ^ 23) (-149 + (x / 2 ^ 23 % 2 ^ 8 - 1 : Nat)) := by
  unfold Fmt.finite
  rw [qmin_f32]
  rfl

/-- The value of a finite FP32 word in units of 2^-149. -/
theorem fixed_eq {w : Word} (h : isFinite w = true) :
    fixed w = (if bitAt w.toNat 31 then -1 else 1) * (wordMagnitude w : Int) := by
  unfold fixed wordMagnitude magnitude
  rw [(f32_of_isFinite h).2, finite_f32]
  by_cases zero : w.toNat / 2 ^ 23 % 2 ^ 8 = 0
  · rw [if_pos zero, if_pos zero]
    simp
  · rw [if_neg zero, if_neg zero]
    simp

/-- The highest bit of a shifted number. -/
theorem log2_mul_two_pow {x k : Nat} (low : 2 ^ k ≤ x) (high : x < 2 ^ (k + 1)) (j : Nat) : Nat.log2 (x * 2 ^ j) = k + j := by
  have pos := Nat.two_pow_pos j
  have ne : x * 2 ^ j ≠ 0 := Nat.mul_ne_zero ((Nat.two_pow_pos k).trans_le low).ne' pos.ne'
  rw [Nat.log2_eq_iff ne, Nat.add_right_comm, pow_add, pow_add]
  exact ⟨Nat.mul_le_mul_right _ low, Nat.mul_lt_mul_of_pos_right high pos⟩

/-- Rounding a significand that stands on the grid of its magnitude keeps it. -/
theorem magCode_shifted {sig d : Nat} (low : 12 ≤ d) (grid : max ((Nat.log2 (sig * 2 ^ d) : Int) + -161 - 23) (-149) = d - 161) (neg : Bool) :
    Fmt.f32.magCode .rn neg (sig * 2 ^ d) (-161) = (d - 12) * 2 ^ 23 + sig := by
  have grid' : max ((Nat.log2 (sig * 2 ^ d) : Int) + -161 - (Fmt.f32.mb : Nat)) Fmt.f32.qmin = d - 161 := by rw [qmin_f32]; exact grid
  have above : ¬((d : Int) - 161 ≤ -161) := by omega
  have places : ((d : Int) - 161 - -161).toNat = d := by omega
  have step : ((d : Int) - 161 - -149).toNat = d - 12 := by omega
  have exact' : roundsUp .rn neg sig 0 d = false := by simp [roundsUp, (Nat.two_pow_pos d).ne]
  unfold Fmt.magCode
  simp only [grid']
  simp only [if_neg above, places, Nat.mul_div_cancel _ (Nat.two_pow_pos d), Nat.mul_mod_left, exact', Bool.false_eq_true, if_false, qmin_f32, step]
  rfl

/-- Rounding a magnitude that FP32 has, given with 12 places more, finds its code. -/
theorem magCode_magnitude {e m : Nat} (hm : m < 2 ^ 23) (ne : magnitude e m ≠ 0) (neg : Bool) :
    Fmt.f32.magCode .rn neg (2 * (magnitude e m * 2 ^ 11)) (-161) = e * 2 ^ 23 + m := by
  unfold magnitude at *
  by_cases zero : e = 0
  · rw [if_pos zero] at ne ⊢
    have scaled : 2 * (m * 2 ^ 11) = m * 2 ^ 12 := by ring
    have short : Nat.log2 (m * 2 ^ 12) < 35 := (Nat.log2_lt (by positivity)).2 (by omega)
    rw [scaled, magCode_shifted le_rfl (by omega), zero]
  · rw [if_neg zero]
    have scaled : 2 * ((2 ^ 23 + m) * 2 ^ (e - 1) * 2 ^ 11) = (2 ^ 23 + m) * 2 ^ (e + 11) := by
      obtain ⟨j, rfl⟩ := Nat.exists_eq_succ_of_ne_zero zero
      rw [Nat.succ_sub_one, Nat.succ_eq_add_one]
      ring
    have long : Nat.log2 ((2 ^ 23 + m) * 2 ^ (e + 11)) = 23 + (e + 11) := log2_mul_two_pow (by omega) (by omega) (e + 11)
    rw [scaled, magCode_shifted (by omega) (by rw [long]; push_cast; omega)]
    omega

/-- The fields of an FP32 word. -/
theorem word_fields (w : Word) :
    w.toNat = (if bitAt w.toNat 31 then 2 ^ 31 else 0) + (w.toNat / 2 ^ 23 % 2 ^ 8 * 2 ^ 23 + w.toNat % 2 ^ 23) := by
  have bound := w.isLt
  simp only [bitAt, beq_iff_eq]
  split <;> omega

/-- Rounding the value of a finite FP32 word finds the word, but for −0 (R211). -/
theorem round_wordMagnitude {w : Word} (finite : isFinite w = true) (notMinusZero : w ≠ 0x80000000) :
    Fmt.f32.round .rn (.fin (decide (fixed w < 0)) (2 * (wordMagnitude w * 2 ^ 11)) (-161)) = w.toNat := by
  have value := fixed_eq finite
  have fields := word_fields w
  have exponent := (f32_of_isFinite finite).1
  have fraction : w.toNat % 2 ^ 23 < 2 ^ 23 := Nat.mod_lt _ (by norm_num)
  by_cases zero : wordMagnitude w = 0
  · have plusZero : w.toNat = 0 := by
      have notHigh : w.toNat ≠ 2 ^ 31 := fun high => notMinusZero (BitVec.eq_of_toNat_eq high)
      obtain ⟨noExponent, noFraction⟩ := magnitude_eq_zero zero
      rw [noExponent, noFraction] at fields
      split at fields <;> omega
    rw [value, zero, plusZero]
    rfl
  · have sign : decide (fixed w < 0) = bitAt w.toNat 31 := by
      rw [value]
      cases bitAt w.toNat 31 with
      | false => simp
      | true => simpa using Nat.pos_of_ne_zero zero
    have positive : ¬2 * (wordMagnitude w * 2 ^ 11) = 0 := by omega
    have code : Fmt.f32.magCode .rn (bitAt w.toNat 31) (2 * (wordMagnitude w * 2 ^ 11)) (-161) = _ := magCode_magnitude fraction zero _
    have below : w.toNat / 2 ^ 23 % 2 ^ 8 * 2 ^ 23 + w.toNat % 2 ^ 23 < (2 ^ 8 - 1) * 2 ^ 23 := by omega
    unfold Fmt.round
    simp only [sign, if_neg positive, code]
    exact (if_pos below).trans fields.symm

/-- What rounding makes of a fraction that is an FP32 value. -/
theorem rneFrac_of_value {w : Word} (finite : isFinite w = true) (notMinusZero : w ≠ 0x80000000) {k : Nat} (hk : 0 < k) :
    rneFrac ⟨fixed w * k, fixedOne * k⟩ = w := by
  have num : (fixed w * k).natAbs * 2 ^ 160 = wordMagnitude w * 2 ^ 11 * (2 ^ 149 * k) := by
    have abs : (fixed w).natAbs = wordMagnitude w := by
      rw [fixed_eq finite, Int.natAbs_mul, Int.natAbs_natCast]
      split <;> exact Nat.one_mul _
    rw [Int.natAbs_mul, abs, Int.natAbs_natCast]
    ring
  have den : (fixedOne * k).natAbs = 2 ^ 149 * k := by rw [Int.natAbs_mul, Int.natAbs_natCast]; rfl
  have pos : 0 < 2 ^ 149 * k := Nat.mul_pos (Nat.two_pow_pos 149) hk
  have sign : decide (fixed w * k < 0) = decide (fixed w < 0) := by
    have hk' : (0 : Int) < k := by exact_mod_cast hk
    exact decide_eq_decide.2 ⟨fun h => neg_of_mul_neg_left h hk'.le, fun h => mul_neg_of_neg_of_pos h hk'⟩
  unfold rneFrac
  simp only [num, den, Nat.mul_div_cancel _ pos, Nat.mul_mod_left, if_true, Nat.add_zero, sign, round_wordMagnitude finite notMinusZero]
  exact BitVec.ofNat_toNat ..

/-! ### The record of a hit -/

theorem toNat_ofNat_word {n : Nat} (h : n < 2 ^ 32) : (BitVec.ofNat 32 n).toNat = n := by
  rw [BitVec.toNat_ofNat, Nat.mod_eq_of_lt h]

theorem hitRecord_some (h : Hit) : hitRecord (some h) = [rneFrac h.t, BitVec.ofNat 32 h.prim,
    BitVec.ofNat 32 (unitWeight h.u h.den + 0x10000 * unitWeight h.v h.den), BitVec.ofNat 32 (1 + 2 * h.back.toNat + 4 * h.index)] := rfl

/-- Which hit is the nearer, the hit of a leaf, and the record of a hit. -/
theorem hitOrder : Sys2Proof.Stmt.HitOrder := by
  refine ⟨fun a b ha hb => ⟨before_iff ha hb, nearer_some a b, rfl, rfl⟩,
    fun r leaf base l => ⟨leafHit_eq_none_iff r leaf base l, fun h best => leafHit_eq_some best⟩, ?record⟩
  case record =>
    intro h den u v sum index prim
    have lowU := unitWeight_lt den (show h.u ≤ h.den by omega)
    have lowV := unitWeight_lt den (show h.v ≤ h.den by omega)
    have weights : (BitVec.ofNat 32 (unitWeight h.u h.den + 0x10000 * unitWeight h.v h.den)).toNat =
        unitWeight h.u h.den + 0x10000 * unitWeight h.v h.den := toNat_ofNat_word (by omega)
    refine ⟨_, _, _, _, hitRecord_some h, toNat_ofNat_word prim, ?_, ?_, ?_, ?_⟩
    · have first : (unitWeight h.u h.den + 0x10000 * unitWeight h.v h.den) % 0x10000 = unitWeight h.u h.den := by omega
      rw [weights, first]
      exact unitWeight_near u den
    · have second : (unitWeight h.u h.den + 0x10000 * unitWeight h.v h.den) / 0x10000 = unitWeight h.v h.den := by omega
      rw [weights, second]
      exact unitWeight_near v den
    · have facing := Bool.toNat_le h.back
      exact toNat_ofNat_word (by omega)
    · intro w k finite notMinusZero hk value
      rw [value]
      exact rneFrac_of_value finite notMinusZero hk

end Sys2Proof.Proofs
end

section
/-!
PROOFS. The order of the pairs of `PAIRS` (R263, R264): each part of a walk that passes over pairs emits a sequence of them, and sequences append.
-/

namespace Sys2Proof.Proofs
open Sys2Proof Sys2Proof.Machine Sys2Proof.Laws Sys2Proof.Stmt

/-! ### What a walk finds of appended sequences -/

theorem emitted_append_of_lt {l : List (Nat × Nat × Bool)} {n : Nat} (h : n < l.length) (k : List (Nat × Nat × Bool)) :
    emitted (l ++ k) n = .found l[n].1 l[n].2.1 l[n].2.2 := by
  simp only [emitted, List.getElem?_append_left h, List.getElem?_eq_getElem h]

theorem emitted_of_lt {l : List (Nat × Nat × Bool)} {n : Nat} (h : n < l.length) : emitted l n = .found l[n].1 l[n].2.1 l[n].2.2 := by
  simp only [emitted, List.getElem?_eq_getElem h]

theorem emitted_of_le {l : List (Nat × Nat × Bool)} {n : Nat} (h : l.length ≤ n) : emitted l n = .skip (n - l.length) := by
  simp only [emitted, List.getElem?_eq_none h]

theorem emitted_append_of_le {l : List (Nat × Nat × Bool)} {n : Nat} (h : l.length ≤ n) (k : List (Nat × Nat × Bool)) :
    emitted (l ++ k) n = emitted k (n - l.length) := by
  simp only [emitted, List.getElem?_append_right h, List.length_append, Nat.sub_add_eq]

/-! ### Walks that emit a sequence -/

/-- In the states `S`, a part of a walk emits a sequence of pairs: from an ordinal on it finds the pair, or leaves the rest of the ordinals, and the
state is again one of `S`. -/
def Emits (S : State → Prop) (walk : State → Nat → State × PairsWalk) (l : List (Nat × Nat × Bool)) : Prop :=
  ∀ s n, S s → ∃ s', S s' ∧ walk s n = (s', emitted l n)

variable {S : State → Prop}

theorem Emits.nothing : Emits S (fun s n => (s, .skip n)) [] := fun s _ hs => ⟨s, hs, rfl⟩

theorem Emits.pair (a b : Nat) (same : Bool) : Emits S (fun s n => pairAt a b same n s) [(a, b, same)] := fun s n hs => by
  cases n with
  | zero => exact ⟨s, hs, rfl⟩
  | succ n => exact ⟨s, hs, rfl⟩

/-- A child that overlaps is walked, and another emits nothing (R263). -/
theorem Emits.ite {p : Prop} [Decidable p] {walk : State → Nat → State × PairsWalk} {l : List (Nat × Nat × Bool)} (h : Emits S walk l) :
    Emits S (fun s n => if p then walk s n else (s, .skip n)) (if p then l else []) := by
  by_cases hp : p
  · simpa only [if_pos hp] using h
  · simpa only [if_neg hp] using Emits.nothing

/-- A block that can be read is walked as it is (R248). -/
theorem Emits.follow {c : EngCmd} {side : Side} {ref depth : Nat} {leaf : Bool} {box : List Kid → Box} {x : HNode}
    {walk : HNode → Nat → State → State × PairsWalk} {l : List (Nat × Nat × Bool)} (found : Finds c S side ref leaf box depth x)
    (h : Emits S (fun s n => walk x n s) l) : Emits S (fun s n => Machine.follow c side ref leaf box depth s (fun s y => walk y n s)) l := by
  intro s n hs
  obtain ⟨s1, hs1, read⟩ := found s hs
  obtain ⟨s2, hs2, walked⟩ := h s1 n hs1
  exact ⟨s2, hs2, (read _).trans walked⟩

/-- A walk that goes on after another emits the second's sequence after the first's. -/
theorem Emits.goOn {first walk : State → Nat → State × PairsWalk} {l k : List (Nat × Nat × Bool)} (h : Emits S first l) (h' : Emits S walk k) :
    Emits S (fun s n => Machine.goOn (first s n) walk) (l ++ k) := by
  intro s n hs
  obtain ⟨s1, hs1, walked⟩ := h s n hs
  rcases Nat.lt_or_ge n l.length with here | beyond
  · refine ⟨s1, hs1, ?_⟩
    change Machine.goOn (first s n) walk = _
    rw [walked, emitted_append_of_lt here, emitted_of_lt here]
    rfl
  · obtain ⟨s2, hs2, rest⟩ := h' s1 (n - l.length) hs1
    refine ⟨s2, hs2, ?_⟩
    change Machine.goOn (first s n) walk = _
    rw [walked, emitted_append_of_le beyond, emitted_of_le beyond]
    exact rest

/-- A walk that goes on through a list emits what its turns emit, one after another. -/
theorem Emits.foldl {α : Type} {f : α → State → Nat → State × PairsWalk} {pairs : α → List (Nat × Nat × Bool)} (l : List α)
    (turn : ∀ x ∈ l, Emits S (f x) (pairs x)) {first : State → Nat → State × PairsWalk} {k : List (Nat × Nat × Bool)} (h : Emits S first k) :
    Emits S (fun s n => l.foldl (fun r x => Machine.goOn r (f x)) (first s n)) (k ++ l.flatMap pairs) := by
  induction l generalizing first k with
  | nil => simpa using h
  | cons x l ih =>
    have next := ih (fun y hy => turn y (List.mem_cons_of_mem x hy)) (h.goOn (turn x List.mem_cons_self))
    rwa [List.append_assoc, ← List.flatMap_cons] at next

/-! ### The walks of R263 -/

/-- What a block says of a child. -/
def kidOf (x : HNode) : Kid := { ref := x.ref, leaf := x.leaf, box := x.box }

section Walks
variable {c : EngCmd} {P : HNode → Prop} {kids : HNode → List HNode} {height : HNode → Nat}

/-- cross(a, b) emits its pairs; each step goes down on one side. -/
theorem crossWalk_emits (readable : Readable c S P kids height) (n : Nat) {a b : HNode} (ha : P a) (hb : P b) (low : height a + height b < n) :
    Emits S (fun s k => crossWalk c n a b k s) (crossPairs kids n a b) := by
  induction n generalizing a b with
  | zero => omega
  | succ n ih =>
    by_cases leafA : a.leaf = false
    · obtain ⟨same, below⟩ := (readable a ha).2 leafA
      have turns := Emits.foldl (f := fun x s k => if x.box.overlaps b.box then
        Machine.follow c a.side x.ref x.leaf (fun _ => x.box) (a.depth + 1) s (fun s y => crossWalk c n y b k s) else (s, .skip k)) (kids a)
        (fun x hx => by
          obtain ⟨hP, down, found⟩ := below x hx
          exact Emits.ite (Emits.follow found (ih hP hb (by omega)))) Emits.nothing
      simpa only [crossWalk, crossPairs, leafA, same, List.foldl_map, Bool.not_false, if_true, List.nil_append] using turns
    · by_cases leafB : b.leaf = false
      · obtain ⟨same, below⟩ := (readable b hb).2 leafB
        have turns := Emits.foldl (f := fun x s k => if a.box.overlaps x.box then
          Machine.follow c b.side x.ref x.leaf (fun _ => x.box) (b.depth + 1) s (fun s y => crossWalk c n a y k s) else (s, .skip k)) (kids b)
          (fun x hx => by
            obtain ⟨hP, down, found⟩ := below x hx
            exact Emits.ite (Emits.follow found (ih ha hP (by omega)))) Emits.nothing
        simpa [crossWalk, crossPairs, leafA, leafB, same, List.foldl_map] using turns
      · simpa [crossWalk, crossPairs, leafA, leafB] using Emits.pair a.ref b.ref false

/-- self(a) emits its pairs: each child alone, and then with its later siblings. -/
theorem selfWalk_emits (readable : Readable c S P kids height) (n : Nat) {a : HNode} (ha : P a) (leafA : a.leaf = false) (low : height a < n) :
    Emits S (fun s k => selfWalk c n a k s) (selfPairs kids n a) := by
  induction n generalizing a with
  | zero => omega
  | succ n ih =>
    obtain ⟨top, inside⟩ := readable a ha
    obtain ⟨same, below⟩ := inside leafA
    have alone : ∀ x ∈ kids a, Emits S (fun s k => if x.leaf then pairAt x.ref x.ref true k s else selfWalk c n x k s)
        (if x.leaf then [(x.ref, x.ref, true)] else selfPairs kids n x) := fun x hx => by
      by_cases leafX : x.leaf = true
      · simpa only [leafX, if_true] using Emits.pair x.ref x.ref true
      · obtain ⟨hP, down, -⟩ := below x hx
        have leafX' : x.leaf = false := Bool.eq_false_iff.2 leafX
        simpa only [leafX', Bool.false_eq_true, if_false] using ih hP leafX' (by omega)
    have crossed : ∀ x ∈ kids a, ∀ y ∈ kids a, Emits S (fun s k => if x.box.overlaps y.box then
        Machine.follow c a.side y.ref y.leaf (fun _ => y.box) (a.depth + 1) s (fun s z => crossWalk c 130 x z k s) else (s, .skip k))
        (if x.box.overlaps y.box then crossPairs kids 130 x y else []) := fun x hx y hy => by
      obtain ⟨hX, downX, -⟩ := below x hx
      obtain ⟨hY, downY, found⟩ := below y hy
      exact Emits.ite (Emits.follow found (crossWalk_emits readable 130 hX hY (by omega)))
    have turns := Emits.foldl (f := fun (i : HNode × Nat) s k =>
      Machine.follow c a.side i.1.ref i.1.leaf (fun _ => i.1.box) (a.depth + 1) s (fun s z =>
        ((kids a).drop (i.2 + 1)).foldl (fun r y => Machine.goOn r (fun s k => if i.1.box.overlaps y.box then
          Machine.follow c a.side y.ref y.leaf (fun _ => y.box) (a.depth + 1) s (fun s u => crossWalk c 130 z u k s) else (s, .skip k)))
          (if z.leaf then pairAt z.ref z.ref true k s else selfWalk c n z k s))) (kids a).zipIdx
      (fun i hi => by
        have hx := List.fst_mem_of_mem_zipIdx hi
        exact Emits.follow (below i.1 hx).2.2
          (Emits.foldl _ (fun y hy => crossed i.1 hx y (List.mem_of_mem_drop hy)) (alone i.1 hx))) Emits.nothing
    simpa only [selfWalk, selfPairs, same, List.zipIdx_map, List.foldl_map, Prod.map_fst, Prod.map_snd, id_eq, ← List.map_drop, List.nil_append]
      using turns

/-- The pair of an ordinal of a command (R263); in self mode the lower offset comes first (R264). -/
theorem pairsWalk_emits (readable : Readable c S P kids height) {ra rb : HNode} (ha : P ra) (hb : P rb) (rootA : ra.leaf = false)
    (foundA : Finds c S .a 0 false rootBox 1 ra) (foundB : c.pairs.self = false → Finds c S .b 0 false rootBox 1 rb) :
    Emits S (fun s k => pairsWalk c k s) (if c.pairs.self then (selfPairs kids 65 ra).map (fun p => (min p.1 p.2.1, max p.1 p.2.1, p.2.2))
      else crossPairs kids 130 ra rb) := by
  have tallA := (readable ra ha).1
  have tallB := (readable rb hb).1
  refine Emits.follow foundA ?_
  by_cases self : c.pairs.self = true
  · simp only [self, if_true]
    intro s k hs
    obtain ⟨s1, hs1, walked⟩ := selfWalk_emits readable 65 ha rootA (by omega) s k hs
    refine ⟨s1, hs1, ?_⟩
    simp only at walked ⊢
    rw [walked]
    rcases Nat.lt_or_ge k (selfPairs kids 65 ra).length with here | beyond
    · simp only [emitted, List.getElem?_map, List.getElem?_eq_getElem here, Option.map_some]
    · simp only [emitted, List.getElem?_map, List.getElem?_eq_none beyond, Option.map_none, List.length_map]
  · have cross : c.pairs.self = false := Bool.eq_false_iff.2 self
    simp only [cross, Bool.false_eq_true, if_false]
    exact Emits.follow (foundB cross) (crossWalk_emits readable 130 ha hb (by omega))

end Walks

/-- The pair order of `PAIRS`. -/
theorem pairOrder : Sys2Proof.Stmt.PairOrder := by
  intro c S P kids height readable
  refine ⟨fun s n a b k hs ha hb low => crossWalk_emits readable n ha hb low s k hs,
    fun s n a k hs ha leafA low => selfWalk_emits readable n ha leafA low s k hs, fun s ra rb k hs ha hb rootA _ foundA foundB => ?_⟩
  obtain ⟨s1, hs1, walked⟩ := pairsWalk_emits readable ha hb rootA foundA foundB s k hs
  exact ⟨s1, hs1, by rw [← apply_ite (fun l => emitted l k)]; exact walked⟩

end Sys2Proof.Proofs
end

section
/-!
PROOFS. The events of `PAIRS` (R264, R265): the emission of a pair, and the end of a command with its COUNT, TOKEN and STATUS.
-/

namespace Sys2Proof.Proofs
open Sys2Proof Sys2Proof.Machine Sys2Proof.Laws Sys2Proof.Stmt

/-! ### A pair enters its bin (R264) -/

/-- The record of a command's next pair. -/
def nextPair (c : EngCmd) (d : NodeDesc) (a b : Nat) (same : Bool) : Record := pairRecord c d.rsize a b same (c.start + c.progress)

/-- A command counts a pair more. -/
def countPair (y : EngCmd) : EngCmd := { y with progress := y.progress + 1 }

/-- A record that makes no batch enters its bin, and a command changes: no bin drains (R170). -/
theorem enterBin_modCmd_drainBins {s : State} {ctx n part : Nat} {c : Ctx} {d : NodeDesc} {r : Record} (fill : r.pfid = none)
    (hc : s.ctx? ctx = some c) (hd : c.nodes[n]? = some d) (quiet : NoTrigger c n part d) (id : Nat) (f : EngCmd → EngCmd) :
    ((s.enterBin ctx n part r).modCmd id f).drainBins ctx = (s.modCtx ctx (fun c => enters c n part r s.time)).modCmd id f := by
  obtain ⟨same, after⟩ := enterBin_of_noTrigger fill hc hd quiet
  rw [same] at after ⊢
  exact drainBins_of_timers fun y hy => Option.some.inj (after.symm.trans hy) ▸ quiet.1

/-- A pair that is found enters its bin, where the pool allows it and no batch forms (R169, R264). -/
theorem exec_pairsEmission_emits {s s1 : State} {id a b : Nat} {same : Bool} {c : EngCmd} {x : Ctx} {d : NodeDesc} (on : s.power = .active)
    (turn : pairsTurn s id = some c) (running : c.result = none) (more : c.progress < c.pairs.limit)
    (walk : pairsWalk c (c.start + c.progress) s = (s1, .found a b same)) (ctx : s1.ctx? (s.ctxId c.team) = some x)
    (node : x.nodes[c.pairs.node]? = some d) (room : x.canAlloc c.pairs.node = true) (quiet : NoTrigger x c.pairs.node 0 d) :
    ∃ locks, exec (.pairsEmission id) s = .next ((State.modCtx { s1 with locks := locks } (s.ctxId c.team)
      (fun y => enters y c.pairs.node 0 (nextPair c d a b same) s1.time)).modCmd id countPair) := by
  have unended : (c.result.isSome || decide (c.pairs.limit ≤ c.progress)) = false := by simp [running, more]
  obtain ⟨locks, left⟩ : ∃ locks, (if c.progress + 1 < c.pairs.limit then s1 else { s1 with locks := s1.locks.filter (fun l => l.cmd != id) }) =
      { s1 with locks := locks } := by
    split
    · exact ⟨s1.locks, rfl⟩
    · exact ⟨_, rfl⟩
  have ctx' : ({ s1 with locks := locks } : State).ctx? (s.ctxId c.team) = some x := ctx
  have size : (({ s1 with locks := locks } : State).node? (s.ctxId c.team) c.pairs.node) = some d := by
    rw [State.node?, ctx', Option.bind_some, node]
  have room' : ({ s1 with locks := locks } : State).canAlloc (s.ctxId c.team) c.pairs.node = true := by
    rw [State.canAlloc, ctx', Option.map_some, Option.getD_some, room]
  refine ⟨locks, ?_⟩
  change execPairsEmission id s = _
  simp only [execPairsEmission, whenOn, if_pos on, turn, unended, Bool.false_eq_true, if_false, walk, left, size, Option.map_some, Option.getD_some,
    if_pos room']
  exact congrArg Host.Outcome.next (enterBin_modCmd_drainBins (r := nextPair c d a b same) rfl ctx' node quiet id countPair)

/-! ### Presence bits that are set (R78) -/

/-- Only presence bits are set and waits for them end, and places of teams change: the scratchpads stay, and no line becomes absent. -/
structure LinesSet (s r : State) : Prop where
  same : ∃ ts th, r = { s with teams := ts, threads := th }
  spad : ∀ n, (r.team? n).map Team.spad = (s.team? n).map Team.spad
  present : ∀ n l, lineAbsent s n l = false → lineAbsent r n l = false

theorem LinesSet.refl (s : State) : LinesSet s s := ⟨⟨_, _, rfl⟩, fun _ => rfl, fun _ _ h => h⟩

theorem LinesSet.trans {s r q : State} (h : LinesSet s r) (h' : LinesSet r q) : LinesSet s q := by
  obtain ⟨ts, th, rfl⟩ := h.same
  obtain ⟨ts', th', rfl⟩ := h'.same
  exact ⟨⟨ts', th', rfl⟩, fun n => (h'.spad n).trans (h.spad n), fun n l e => h'.present n l (h.present n l e)⟩

/-- A change of a team that keeps its scratchpad and clears no presence bit. -/
theorem LinesSet.modTeam (s : State) (i : Nat) {f : Team → Team} (names : ∀ t, (f t).id = t.id) (spad : ∀ t, (f t).spad = t.spad)
    (absent : ∀ t, ∀ l ∈ (f t).absent, l ∈ t.absent) : LinesSet s (s.modTeam i f) := by
  have self := team_modTeam_self s i f fun x h => (names x).trans h
  refine ⟨⟨_, _, rfl⟩, fun n => ?_, fun n l here => ?_⟩
  · by_cases own : n = i
    · rw [own, self, Option.map_map]
      exact congrArg (Option.map · _) (funext spad)
    · rw [team_modTeam_of_ne s i n f (fun x h => (names x).trans h) own]
  · by_cases own : n = i
    · rw [own] at here ⊢
      unfold lineAbsent at here ⊢
      rw [self]
      cases found : s.team? i with
      | none => rfl
      | some t =>
        simp only [found, Option.map_some, Option.getD_some, List.contains_eq_mem, decide_eq_false_iff_not] at here ⊢
        exact fun l' => here (absent t l l')
    · rwa [lineAbsent, team_modTeam_of_ne s i n f (fun x h => (names x).trans h) own]

theorem setPresent_linesSet (s : State) (n : Nat) (ls : List Nat) : LinesSet s (s.setPresent n ls) :=
  have set := LinesSet.modTeam s n (f := fun t => { t with absent := t.absent.filter (fun l => !ls.contains l) }) (fun _ => rfl) (fun _ => rfl)
    fun _ _ h => List.mem_of_mem_filter h
  ⟨⟨_, _, rfl⟩, set.spad, set.present⟩

/-- A line whose presence bit is set is present (R78). -/
theorem lineAbsent_setPresent_self (s : State) (n l : Nat) : lineAbsent (s.setPresent n [l]) n l = false := by
  change (((s.modTeam n (fun t => { t with absent := t.absent.filter (fun k => !([l].contains k)) })).team? n).map _).getD false = false
  rw [team_modTeam_self _ _ _ (by exact fun _ h => h)]
  cases s.team? n <;> simp

/-- Lines whose presence bits are set one after another are present. -/
theorem foldl_setPresent (ps : List (Nat × Nat)) (s : State) : LinesSet s (ps.foldl (fun s p => s.setPresent p.1 [p.2]) s) ∧
    ∀ p ∈ ps, lineAbsent (ps.foldl (fun s p => s.setPresent p.1 [p.2]) s) p.1 p.2 = false := by
  induction ps generalizing s with
  | nil => exact ⟨.refl s, by simp⟩
  | cons p ps ih =>
    obtain ⟨set, present⟩ := ih (s.setPresent p.1 [p.2])
    refine ⟨(setPresent_linesSet s p.1 [p.2]).trans set, fun q hq => ?_⟩
    rcases List.mem_cons.1 hq with rfl | hq
    · exact set.present _ _ (lineAbsent_setPresent_self ..)
    · exact present q hq

theorem settleRetained_linesSet (s : State) : LinesSet s s.settleRetained := by
  unfold State.settleRetained
  refine List.foldlRecOn (motive := fun r => LinesSet s r) _ _ (.refl s) fun r h t _ => ?_
  split
  · split
    · exact h.trans (.modTeam r t.id (fun _ => rfl) (fun _ => rfl) fun _ _ l => l)
    · exact h
  · exact h

/-- The end of a command (R78, R97): its place and its locks are free, its lines are present, and no scratchpad changes. -/
theorem endCmd_over (s : State) (c : EngCmd) : CmdOver s (s.endCmd c) c ∧ ∀ n, ((s.endCmd c).team? n).map Team.spad = (s.team? n).map Team.spad := by
  let s0 : State := { s with cmds := s.cmds.filter (fun x => x.id != c.id), locks := s.locks.filter (fun l => l.cmd != c.id) }
  obtain ⟨set, present⟩ := foldl_setPresent (c.pending.filter (fun p => p.1 != 0)) s0
  have settled := settleRetained_linesSet ((c.pending.filter (fun p => p.1 != 0)).foldl (fun s p => s.setPresent p.1 [p.2]) s0)
  have all : LinesSet s0 (s.endCmd c) := set.trans settled
  refine ⟨?_, all.spad⟩
  have lines : ∀ p ∈ c.pending, p.1 ≠ 0 → lineAbsent (s.endCmd c) p.1 p.2 = false := fun p hp ne =>
    settled.present _ _ (present p (List.mem_filter.2 ⟨hp, by simpa using ne⟩))
  obtain ⟨ts, th, same⟩ := all.same
  exact ⟨by rw [same], by rw [same], lines, by rw [same]⟩

/-! ### Numbers in a scratchpad -/

/-- Bytes that a memory has in common with another are read the same. -/
theorem readBytes_congr {m k : Memory} {a n : Nat} (h : ∀ x, a ≤ x → x < a + n → m.read x = k.read x) : m.readBytes a n = k.readBytes a n := by
  induction n generalizing a with
  | zero => rfl
  | succ n ih =>
    rw [Memory.readBytes, Memory.readBytes, h a le_rfl (by omega), ih fun x low high => h x (by omega) (by omega)]

/-- A number stays where bytes are written elsewhere. -/
theorem readNat_writeBytes_of_apart {m : Memory} {a b n : Nat} {bs : List Byte} (h : a + n ≤ b ∨ b + bs.length ≤ a) :
    (m.writeBytes b bs).readNat a n = m.readNat a n := by
  refine congrArg leNat (readBytes_congr fun x low high => ?_)
  rw [read_writeBytes, if_neg (by omega)]

/-- A number of a team's scratchpad, after bytes were written elsewhere. -/
theorem spadWord_spadWrite_of_apart {s : State} {i a b n : Nat} {bs : List Byte} (h : a + n ≤ b ∨ b + bs.length ≤ a) :
    spadWord (s.spadWrite i b bs) i a n = spadWord s i a n := by
  unfold spadWord State.spadNat State.spadWrite
  rw [team_modTeam_self _ _ _ (by exact fun _ h => h)]
  cases s.team? i with
  | none => rfl
  | some t => exact readNat_writeBytes_of_apart h

/-- A number that was written to the scratchpad of a team. -/
theorem spadWord_spadWrite_self {s : State} {i : Nat} (there : (s.team? i).isSome) (a n x : Nat) :
    spadWord (s.spadWrite i a (leBytes n x)) i a n = x % 2 ^ (8 * n) := by
  obtain ⟨t, found⟩ := Option.isSome_iff_exists.1 there
  unfold spadWord State.spadNat State.spadWrite
  rw [team_modTeam_self _ _ _ (by exact fun _ h => h), found]
  exact readNat_writeBytes ..

theorem team_spadWrite_isSome (s : State) (i a : Nat) (bs : List Byte) (n : Nat) : ((s.spadWrite i a bs).team? n).isSome = (s.team? n).isSome := by
  unfold State.spadWrite
  by_cases own : n = i
  · rw [own, team_modTeam_self _ _ _ (by exact fun _ h => h), Option.isSome_map]
  · rw [team_modTeam_of_ne _ _ _ _ (by exact fun _ h => h) own]

/-- A scratchpad that is the same holds the same numbers. -/
theorem spadWord_congr {s r : State} {i : Nat} (h : (r.team? i).map Team.spad = (s.team? i).map Team.spad) (a n : Nat) :
    spadWord r i a n = spadWord s i a n := by
  have spads : ∀ q : State, spadWord q i a n = (((q.team? i).map Team.spad).map (fun m => m.readNat a n)).getD 0 := fun q => by
    rw [Option.map_map]
    rfl
  rw [spads, spads, h]

/-! ### The end of a command (R265) -/

/-- COUNT, TOKEN and STATUS stand apart, and the command is over. -/
theorem finishPairs_over {s : State} {c : EngCmd} {tm : Team} (team : s.team? c.team = some tm) (status : Nat) :
    CmdOver s (finishPairs s c status) c ∧ spadWord (finishPairs s c status) c.team (c.addr + 0x30) 4 = c.progress % 2 ^ 32 ∧
      spadWord (finishPairs s c status) c.team (c.addr + 0x28) 8 = (c.start + c.progress) % 2 ^ 64 ∧
      spadWord (finishPairs s c status) c.team (c.addr + 0x3C) 4 = status % 2 ^ 32 := by
  have there : (s.team? c.team).isSome := by rw [team]; rfl
  obtain ⟨ended, spads⟩ := endCmd_over (((s.spadWrite c.team (c.addr + 0x30) (leBytes 4 c.progress)).spadWrite c.team (c.addr + 0x28)
    (leBytes 8 (c.start + c.progress))).spadWrite c.team (c.addr + 0x3C) (leBytes 4 status)) c
  have kept := fun a n => spadWord_congr (spads c.team) a n
  refine ⟨ended, (kept _ _).trans ?count, (kept _ _).trans ?token, (kept _ _).trans ?status⟩
  case count =>
    rw [spadWord_spadWrite_of_apart (by omega), spadWord_spadWrite_of_apart (by rw [leBytes_length]; omega), spadWord_spadWrite_self there]
  case token =>
    rw [spadWord_spadWrite_of_apart (by omega), spadWord_spadWrite_self (by rw [team_spadWrite_isSome]; exact there)]
  case status =>
    rw [spadWord_spadWrite_self (by rw [team_spadWrite_isSome, team_spadWrite_isSome]; exact there)]

/-- A command that has emitted as many pairs as LIMIT allows ends with STATUS 1 (R265). -/
theorem exec_pairsCompletion_limit {s : State} {id : Nat} {c : EngCmd} (on : s.power = .active) (turn : pairsTurn s id = some c)
    (running : c.result = none) (reached : c.pairs.limit ≤ c.progress) : exec (.pairsCompletion id) s = .next (finishPairs s c 1) := by
  change execPairsCompletion id s = _
  simp only [execPairsCompletion, whenOn, if_pos on, turn, running, if_pos reached]

/-- A command whose walk leaves ordinals over finds no further pair, and ends with STATUS 0 (R265). -/
theorem exec_pairsCompletion_exhausted {s s1 : State} {id k : Nat} {c : EngCmd} (on : s.power = .active) (turn : pairsTurn s id = some c)
    (running : c.result = none) (more : c.progress < c.pairs.limit) (walk : pairsWalk c (c.start + c.progress) s = (s1, .skip k)) :
    exec (.pairsCompletion id) s = .next (finishPairs s1 c 0) := by
  change execPairsCompletion id s = _
  simp only [execPairsCompletion, whenOn, if_pos on, turn, running, if_neg (Nat.not_le.2 more), walk]

/-- A command whose walk fails ends with ENG_FAULT and its detail (R265). -/
theorem exec_pairsCompletion_fails {s s1 : State} {id d : Nat} {c : EngCmd} (on : s.power = .active) (turn : pairsTurn s id = some c)
    (running : c.result = none) (more : c.progress < c.pairs.limit) (walk : pairsWalk c (c.start + c.progress) s = (s1, .fail d)) :
    exec (.pairsCompletion id) s = .next (finishPairs s1 c (0x0F + 0x100 * d)) := by
  change execPairsCompletion id s = _
  simp only [execPairsCompletion, whenOn, if_pos on, turn, running, if_neg (Nat.not_le.2 more), walk]

/-- The events of `PAIRS`. -/
theorem pairsCommands : Sys2Proof.Stmt.PairsCommands := by
  refine ⟨?emits, ?ends⟩
  case emits =>
    intro s s1 id a b same c x d on turn running more walk k ctx node room quiet n r
    obtain ⟨locks, run⟩ := exec_pairsEmission_emits on turn running more walk ctx node room quiet
    refine ⟨_, run, ?_, ?_⟩
    · exact (newCtx_modCtx (s := { s1 with locks := locks }) (f := fun y => enters y c.pairs.node 0 (nextPair c d a b same) s1.time) ctx fun _ => rfl).1
    · simp only [State.modCmd, State.modCtx, updWhere_eq_map, beq_iff_eq]
      rfl
  case ends =>
    intro s s1 id k c tm on turn running _ done
    refine ⟨fun reached team => ⟨_, exec_pairsCompletion_limit on turn running reached, finishPairs_over team 1⟩,
      fun more walk team => ⟨_, exec_pairsCompletion_exhausted on turn running more walk, finishPairs_over team 0⟩,
      fun d more walk team => ⟨_, exec_pairsCompletion_fails on turn running more walk, finishPairs_over team _⟩⟩

end Sys2Proof.Proofs
end

section
/-!
PROOFS. Ray queries and `PAIRS` together (R175, R253 to R258, R263 to R265).
-/

namespace Sys2Proof.Proofs
open Sys2Proof

/-- Settles O56: queries and their continuations, what a ray hits, which hit wins, the events of `PAIRS` and the order of its pairs, each of its own. -/
theorem traversalCommands : Obligations.TraversalCommands := ⟨queries, queryContinuations, rayTests, hitOrder, pairsCommands, pairOrder⟩

end Sys2Proof.Proofs
end

section
/-!
PROOFS. The data of a `FILLDONE` enters the cache (R83, R185, R191, R196, R203): what each line of its spans holds afterwards, where every new line
finds a way.
-/

namespace Sys2Proof.Proofs
open Sys2Proof Sys2Proof.Machine Sys2Proof.Laws Sys2Proof.Stmt

/-! ### One line -/

/-- Context and name, by which the cache lists a line (R181). -/
def lineKey (l : EnvLine) : Nat × Nat := (l.ctx, l.name)

/-- What the cache holds of a line that is filled with the words of `w` (R185, R196). -/
def filledLine (w : EnvLine) : Option EnvLine → EnvLine
  | none => w
  | some l => if l.held then l else fillWords l w.words

/-- The lines of the cache once one is filled with the words of `w`. -/
def withLine (ls : List EnvLine) (w : EnvLine) : List EnvLine :=
  match ls.find? (fun l => lineKey l == lineKey w) with
  | none => ls ++ [w]
  | some l => if l.held then ls else updWhere (fun l => lineKey l == lineKey w) (fun l => fillWords l w.words) ls

/-- The device once lines are filled, one after another. -/
def installed (s : State) (ws : List EnvLine) : State := { s with envLines := ws.foldl withLine s.envLines }

theorem envLine?_of_aligned {s : State} {c n : Nat} (aligned : n % 128 = 0) :
    s.envLine? c n = s.envLines.find? (fun l => lineKey l == (c, n)) := by
  unfold State.envLine?
  rw [aligned, Nat.sub_zero]
  rfl

theorem find?_withLine_self (ls : List EnvLine) (w : EnvLine) :
    (withLine ls w).find? (fun l => lineKey l == lineKey w) = some (filledLine w (ls.find? (fun l => lineKey l == lineKey w))) := by
  unfold withLine
  split
  next absent => simp [absent, filledLine]
  next l there =>
    split
    next held => simp [there, filledLine, held]
    next present =>
      rw [find?_updWhere_self lineKey _ _ _ (by exact fun _ h => h), there]
      simp [filledLine, present]

theorem find?_withLine_of_ne (ls : List EnvLine) {w : EnvLine} {k : Nat × Nat} (other : k ≠ lineKey w) :
    (withLine ls w).find? (fun l => lineKey l == k) = ls.find? (fun l => lineKey l == k) := by
  unfold withLine
  split
  · have differs : (lineKey w == k) = false := by simpa using other.symm
    simp [List.find?_append, differs]
  · split
    · rfl
    · exact find?_updWhere_of_ne lineKey _ _ _ _ (by exact fun _ h => h) other

/-- Two lines go to the same set of the cache (R83). -/
def sameSet (x y : Nat × Nat) : Bool :=
  homeSlice y.2 == homeSlice x.2 && Config.llcSet y.1 (y.2 / 128) % Config.llcSets == Config.llcSet x.1 (x.2 / 128) % Config.llcSets

/-- A filled line takes at most one way, and only in its own set (R203). -/
theorem setOf_installed_length_le (s : State) (w : EnvLine) (k : Nat × Nat) :
    ((installed s [w]).setOf k.1 k.2).length ≤ (s.setOf k.1 k.2).length + if sameSet k (lineKey w) then 1 else 0 := by
  have ways : ∀ r : State, (r.setOf k.1 k.2).length = r.envLines.countP (fun l => !l.held && sameSet k (lineKey l)) := fun r => by
    rw [List.countP_eq_length_filter]
    simp only [State.setOf, sameSet, lineKey, Bool.and_assoc]
  rw [ways, ways]
  change (withLine s.envLines w).countP _ ≤ _
  unfold withLine
  split
  · rw [List.countP_append, List.countP_singleton]
    refine Nat.add_le_add_left ?_ _
    cases w.held <;> simp
  · split
    · exact Nat.le_add_right _ _
    · refine Nat.le_add_right_of_le (Nat.le_of_eq ?_)
      rw [updWhere, List.countP_map]
      refine congrArg (List.countP · _) (funext fun l => ?_)
      simp only [Function.comp_apply]
      split <;> rfl

/-- The remaining lines find their ways after one that is not among them is filled. -/
theorem WaysFree.installed_one {s : State} {w : EnvLine} {ks : List (Nat × Nat)} (ways : WaysFree s (lineKey w :: ks)) (new : lineKey w ∉ ks)
    (aligned : ∀ k ∈ ks, k.2 % 128 = 0) : WaysFree (installed s [w]) ks := by
  intro k hk absent
  have other : k ≠ lineKey w := fun e => new (e ▸ hk)
  rw [envLine?_of_aligned (aligned k hk)] at absent
  have before : s.envLine? k.1 k.2 = none := by
    rw [envLine?_of_aligned (aligned k hk), ← absent]
    exact (find?_withLine_of_ne s.envLines other).symm
  have room := ways k (List.mem_cons_of_mem _ hk) before
  have grows := setOf_installed_length_le s w k
  rw [List.countP_cons] at room
  change _ + (_ + if sameSet k (lineKey w) then 1 else 0) ≤ 16 at room
  change _ + _ ≤ 16
  omega

/-- A line whose set has a way needs nothing to give way (R203). -/
theorem makeRoom_of_way {s : State} {c n : Nat} (aligned : n % 128 = 0) (way : (s.setOf c n).length < 16) : s.makeRoom c n = (s, true) := by
  have free : s.wayFree c n = true := by
    rw [State.wayFree, Bool.or_eq_true]
    exact .inr (decide_eq_true way)
  simp only [State.makeRoom, aligned, Nat.sub_zero, free, Bool.or_true, if_true]

/-- The line that a fill makes of 32 words (R181, R196). -/
def newLine (f : Fill) (i : Nat) (data : List Word) : EnvLine := ⟨f.ctx, f.name + 128 * i, false, f.gen, false, List.replicate 32 true, data⟩

/-- A line that finds a way takes its words (R185, R196). -/
theorem installLine_eq {s : State} {f : Fill} {i : Nat} {ks : List (Nat × Nat)} {bs : List Byte} (aligned : f.name % 128 = 0)
    (ways : WaysFree s ((f.ctx, f.name + 128 * i) :: ks)) :
    s.installLine f.ctx (f.name + 128 * i) f.gen bs = (installed s [newLine f i (State.wordsOf bs 32)], true) := by
  have lined : (f.name + 128 * i) % 128 = 0 := by omega
  have looked := envLine?_of_aligned (s := s) (c := f.ctx) lined
  unfold State.installLine
  split
  next l there =>
    rw [there] at looked
    have lines : ∀ w, lineKey w = (f.ctx, f.name + 128 * i) → withLine s.envLines w = if l.held then s.envLines else
        updWhere (fun l => lineKey l == lineKey w) (fun l => fillWords l w.words) s.envLines := fun w key => by
      rw [withLine, key, ← looked]
    rw [installed, List.foldl_cons, List.foldl_nil, lines _ rfl]
    split
    · rfl
    · simp only [State.modEnv, lined, Nat.sub_zero]
      rfl
  next absent =>
    have way : (s.setOf f.ctx (f.name + 128 * i)).length < 16 := by
      have := ways _ List.mem_cons_self absent
      rw [List.countP_cons_of_pos (by simp)] at this
      dsimp only at this
      omega
    rw [absent] at looked
    have lines : ∀ w, lineKey w = (f.ctx, f.name + 128 * i) → withLine s.envLines w = s.envLines ++ [w] := fun w key => by
      rw [withLine, key, ← looked]
    rw [makeRoom_of_way lined way, installed, List.foldl_cons, List.foldl_nil, lines _ rfl]
    rfl

/-! ### Several lines -/

theorem installed_append (s : State) (ws vs : List EnvLine) : installed (installed s ws) vs = installed s (ws ++ vs) := by
  simp only [installed, List.foldl_append]

/-- A line that is not filled stays. -/
theorem find?_installed_of_notMem {s : State} {ws : List EnvLine} {k : Nat × Nat} (other : k ∉ ws.map lineKey) :
    (installed s ws).envLines.find? (fun l => lineKey l == k) = s.envLines.find? (fun l => lineKey l == k) := by
  induction ws generalizing s with
  | nil => rfl
  | cons w ws ih =>
    rw [List.map_cons, List.mem_cons, not_or] at other
    exact (ih (s := installed s [w]) other.2).trans (find?_withLine_of_ne s.envLines other.1)

/-- Each filled line takes its words once (R196). -/
theorem find?_installed {s : State} {ws : List EnvLine} {w : EnvLine} (once : (ws.map lineKey).Nodup) (mem : w ∈ ws) :
    (installed s ws).envLines.find? (fun l => lineKey l == lineKey w) =
      some (filledLine w (s.envLines.find? (fun l => lineKey l == lineKey w))) := by
  induction ws generalizing s with
  | nil => exact absurd mem List.not_mem_nil
  | cons v ws ih =>
    rw [List.map_cons, List.nodup_cons] at once
    rcases List.mem_cons.1 mem with rfl | mem
    · exact (find?_installed_of_notMem (s := installed s [w]) once.1).trans (find?_withLine_self s.envLines w)
    · have other : lineKey w ≠ lineKey v := fun e => once.1 (e ▸ List.mem_map_of_mem mem)
      refine (ih (s := installed s [v]) once.2 mem).trans ?_
      exact congrArg (fun x => some (filledLine w x)) (find?_withLine_of_ne s.envLines other)

/-! ### The span of a fill -/

/-- The lines that a fill makes of a team's scratchpad from an offset on (R196). -/
def spanLine (s : State) (team soff : Nat) (f : Fill) (i : Nat) : EnvLine :=
  newLine f i (State.wordsOf (s.spadBytes team (soff + 128 * i) 128) 32)

/-- One line of `installFill`. -/
def installStep (team soff : Nat) (f : Fill) (r : State × Bool) (i : Nat) : State × Bool :=
  if !r.2 then r
  else
    let q := r.1.installLine f.ctx (f.name + 128 * i) f.gen (r.1.spadBytes team (soff + 128 * i) 128)
    (q.1.wakeMonitors (fun l => l.line == .env f.ctx (f.name + 128 * i)), q.2)

theorem installStep_eq {s : State} {team soff : Nat} {f : Fill} {i : Nat} {ks : List (Nat × Nat)} (aligned : f.name % 128 = 0)
    (quiet : s.monitors = []) (ways : WaysFree s ((f.ctx, f.name + 128 * i) :: ks)) :
    installStep team soff f (s, true) i = (installed s [spanLine s team soff f i], true) := by
  have none_ : (installed s [spanLine s team soff f i]).monitors = [] := quiet
  simp only [installStep, installLine_eq aligned ways, Bool.not_true, Bool.false_eq_true, if_false]
  exact congrArg (·, true) (wakeMonitors_of_nil none_ _)

/-- All lines of a span are filled where they find ways, and leave the ways of the lines `ks` after them (R196, R203). -/
theorem foldl_installStep {team soff : Nat} {f : Fill} {ks : List (Nat × Nat)} (aligned : f.name % 128 = 0) (lined : ∀ k ∈ ks, k.2 % 128 = 0) :
    ∀ (is : List Nat) (s : State), s.monitors = [] → (is.map (fun i => (f.ctx, f.name + 128 * i)) ++ ks).Nodup →
      WaysFree s (is.map (fun i => (f.ctx, f.name + 128 * i)) ++ ks) →
      is.foldl (installStep team soff f) (s, true) = (installed s (is.map (spanLine s team soff f)), true) ∧
        WaysFree (installed s (is.map (spanLine s team soff f))) ks
  | [], _, _, _, ways => ⟨rfl, ways⟩
  | i :: is, s, quiet, once, ways => by
    rw [List.map_cons, List.cons_append, List.nodup_cons] at once
    have all : ∀ k ∈ is.map (fun i => (f.ctx, f.name + 128 * i)) ++ ks, k.2 % 128 = 0 := by
      intro k hk
      rcases List.mem_append.1 hk with hk | hk
      · obtain ⟨i, -, rfl⟩ := List.mem_map.1 hk
        dsimp only
        omega
      · exact lined k hk
    have rest : WaysFree (installed s [spanLine s team soff f i]) (is.map (fun i => (f.ctx, f.name + 128 * i)) ++ ks) :=
      WaysFree.installed_one ways once.1 all
    rw [List.foldl_cons, installStep_eq aligned quiet ways]
    exact foldl_installStep aligned lined is (installed s [spanLine s team soff f i]) quiet once.2 rest

/-- The lines of the span, from the first (R196). -/
def spanLines (s : State) (team soff : Nat) (f : Fill) : List EnvLine := (List.range (2 ^ f.log2span)).map (spanLine s team soff f)

/-- The pins of a fill's waiters (R198). -/
def fillPins (f : Fill) : List Pin := f.waiters.map (fun j => ⟨f.ctx, f.name, 2 ^ f.log2span, j.who.replayed⟩)

theorem fillLines_cons (f : Fill) (fs : List Fill) :
    fillLines (f :: fs) = (List.range (2 ^ f.log2span)).map (fun i => (f.ctx, f.name + 128 * i)) ++ fillLines fs := rfl

theorem aligned_of_mem_fillLines {fs : List Fill} (aligned : ∀ f ∈ fs, f.name % 128 = 0) : ∀ k ∈ fillLines fs, k.2 % 128 = 0 := by
  intro k hk
  obtain ⟨f, hf, hk⟩ := List.mem_flatMap.1 hk
  obtain ⟨i, -, rfl⟩ := List.mem_map.1 hk
  have := aligned f hf
  dsimp only
  omega

/-- A span whose lines find ways is installed, with the pins of its waiters (R196, R198). -/
theorem installFill_eq {s : State} {team soff : Nat} {f : Fill} {fs : List Fill} (quiet : s.monitors = [])
    (aligned : ∀ x ∈ f :: fs, x.name % 128 = 0) (once : (fillLines (f :: fs)).Nodup) (ways : WaysFree s (fillLines (f :: fs))) :
    s.installFill f team soff = ({ installed s (spanLines s team soff f) with pins := s.pins ++ fillPins f }, true) ∧
      WaysFree (installed s (spanLines s team soff f)) (fillLines fs) := by
  have rest := aligned_of_mem_fillLines fun x hx => aligned x (List.mem_cons_of_mem _ hx)
  have own := aligned f List.mem_cons_self
  rw [fillLines_cons] at once ways
  exact ⟨(foldl_installStep own rest _ { s with pins := s.pins ++ fillPins f } quiet once ways).1,
    (foldl_installStep own rest _ s quiet once ways).2⟩

/-! ### The entries of a block -/

/-- One entry of `installAll`. -/
def installEntry (team : Nat) (r : State × Bool) (e : FillEntry) : State × Bool :=
  match (if r.2 then r.1.fill? e.pfid else none) with
  | none => r
  | some f => r.1.installFill f team e.soff

/-- The lines that the entries fill, in their order. -/
def entryLines (s : State) (team : Nat) (es : List FillEntry) : List EnvLine :=
  es.flatMap (fun e => (s.fill? e.pfid).toList.flatMap (spanLines s team e.soff))

theorem entryLines_cons {s : State} {team : Nat} {e : FillEntry} {f : Fill} (there : s.fill? e.pfid = some f) (es : List FillEntry) :
    entryLines s team (e :: es) = spanLines s team e.soff f ++ entryLines s team es := by
  simp [entryLines, there]

/-- The fills that the entries name. -/
def entryFills (s : State) (es : List FillEntry) : List Fill := es.filterMap (fun e => s.fill? e.pfid)

theorem entryFills_cons {s : State} {e : FillEntry} {f : Fill} (there : s.fill? e.pfid = some f) (es : List FillEntry) :
    entryFills s (e :: es) = f :: entryFills s es := List.filterMap_cons_some there

theorem lineKey_entryLines (s : State) (team : Nat) (es : List FillEntry) : (entryLines s team es).map lineKey = fillLines (entryFills s es) := by
  induction es with
  | nil => rfl
  | cons e es ih =>
    cases there : s.fill? e.pfid with
    | none => simpa [entryLines, entryFills, there] using ih
    | some f =>
      rw [entryLines_cons there, entryFills_cons there, fillLines_cons, List.map_append, ih, spanLines, List.map_map]
      rfl

/-- All spans of a block are installed where their lines find ways (R196). -/
theorem foldl_installEntry {team : Nat} : ∀ (es : List FillEntry) (s : State), s.monitors = [] → (∀ e ∈ es, (s.fill? e.pfid).isSome) →
    (∀ f ∈ entryFills s es, f.name % 128 = 0) → (fillLines (entryFills s es)).Nodup → WaysFree s (fillLines (entryFills s es)) →
    es.foldl (installEntry team) (s, true) =
      ({ installed s (entryLines s team es) with pins := s.pins ++ (entryFills s es).flatMap fillPins }, true)
  | [], s, _, _, _, _, _ => by
    simp only [entryFills, List.filterMap_nil, List.flatMap_nil, List.append_nil]
    rfl
  | e :: es, s, quiet, named, aligned, once, ways => by
    obtain ⟨f, there⟩ := Option.isSome_iff_exists.1 (named e List.mem_cons_self)
    rw [entryFills_cons there] at aligned once ways ⊢
    obtain ⟨installs, rest⟩ := installFill_eq (team := team) (soff := e.soff) quiet aligned once ways
    have first : installEntry team (s, true) e = s.installFill f team e.soff := by simp only [installEntry, if_true, there]
    rw [List.foldl_cons, first, installs, entryLines_cons there, ← installed_append, List.flatMap_cons, ← List.append_assoc]
    rw [fillLines_cons] at once
    exact foldl_installEntry es { installed s (spanLines s team e.soff f) with pins := s.pins ++ fillPins f } quiet
      (fun e he => named e (List.mem_cons_of_mem _ he)) (fun x hx => aligned x (List.mem_cons_of_mem _ hx)) once.of_append_right rest

theorem installAll_eq {s : State} {team : Nat} {es : List FillEntry} (quiet : s.monitors = []) (named : ∀ e ∈ es, (s.fill? e.pfid).isSome)
    (aligned : ∀ f ∈ entryFills s es, f.name % 128 = 0) (once : (fillLines (entryFills s es)).Nodup)
    (ways : WaysFree s (fillLines (entryFills s es))) :
    s.installAll team es = ({ installed s (entryLines s team es) with pins := s.pins ++ (entryFills s es).flatMap fillPins }, true) := by
  have run : es.foldl (installEntry team) (s, true) = _ := foldl_installEntry es s quiet named aligned once ways
  have unfolded : s.installAll team es = if (es.foldl (installEntry team) (s, true)).2 then es.foldl (installEntry team) (s, true) else
    ({ s with ctxs := (es.foldl (installEntry team) (s, true)).1.ctxs, irqs := (es.foldl (installEntry team) (s, true)).1.irqs }, false) := rfl
  rw [unfolded, run, if_pos rfl]

end Sys2Proof.Proofs
end

section
/-!
PROOFS. The end of a fill (R186, R196, R197): its number is free and its waiters replay, or its one waiter takes GEN_FAIL.
-/

namespace Sys2Proof.Proofs
open Sys2Proof Sys2Proof.Machine Sys2Proof.Laws Sys2Proof.Stmt

/-! ### The fill is over -/

theorem freeFill_eq_filled (s : State) (n : Nat) : s.freeFill n = filled s n := by
  simp only [State.freeFill, filled, updWhere, beq_iff_eq]

theorem fill_filled_of_ne {s : State} {n i : Nat} (other : i ≠ n) : (filled s n).fill? i = s.fill? i := by
  rw [State.fill?, State.fill?, filled, List.find?_filter]
  refine congrArg (List.find? · s.fills) (funext fun f => ?_)
  by_cases own : f.pfid = i
  · simp [own, other]
  · simp [own]

/-- A thread after the end of a fill: the record that carried it names it no more (R186). -/
def afterFill (n : Nat) (t : Thread) : Thread :=
  if t.record.bind Record.pfid = some n then { t with record := t.record.map (fun r => { r with pfid := none }) } else t

@[simp] theorem afterFill_id (n : Nat) (t : Thread) : (afterFill n t).id = t.id := by
  unfold afterFill
  split <;> rfl

@[simp] theorem afterFill_run (n : Nat) (t : Thread) : (afterFill n t).run = t.run := by
  unfold afterFill
  split <;> rfl

/-- A change of the threads that keeps their names is found with the thread. -/
theorem find?_map_thread {f : Thread → Thread} (names : ∀ t, (f t).id = t.id) {s : State} {i : ThreadId} {t : Thread}
    (found : s.thread? i = some t) : (s.threads.map f).find? (fun u => u.id == i) = some (f t) := by
  have same : ((fun u : Thread => u.id == i) ∘ f) = fun u => u.id == i := funext fun u => by rw [Function.comp_apply, names]
  rw [List.find?_map, same, show s.threads.find? (fun u => u.id == i) = some t from found, Option.map_some]

/-- The fills that the entries name are over. -/
def allFilled (s : State) (es : List FillEntry) : State := es.foldl (fun x e => filled x e.pfid) s

/-- The end of the fills commutes with a change that the end of one fill commutes with. -/
theorem allFilled_comm {f : State → State} (comm : ∀ s n, filled (f s) n = f (filled s n)) (s : State) (es : List FillEntry) :
    allFilled (f s) es = f (allFilled s es) := List.foldl_hom f fun x e => comm x e.pfid

@[simp] theorem allFilled_replays (s : State) (es : List FillEntry) : (allFilled s es).replays = s.replays := by
  unfold allFilled
  induction es generalizing s with
  | nil => rfl
  | cons e es ih => exact ih (filled s e.pfid)

@[simp] theorem allFilled_pins (s : State) (es : List FillEntry) : (allFilled s es).pins = s.pins := by
  unfold allFilled
  induction es generalizing s with
  | nil => rfl
  | cons e es ih => exact ih (filled s e.pfid)

/-! ### The waiters replay -/

/-- A thread that is among the waiters waits no more. -/
def awake (ws : List Joined) (t : Thread) : Thread :=
  if ws.any (fun j => j.who == .thread t.id) then { t with park := .none, stall := .none } else t

/-- Threads that waited replay next, in the order given (R196). -/
def replaying (s : State) (ws : List Joined) : State := { s with threads := s.threads.map (awake ws), replays := s.replays ++ ws }

@[simp] theorem awake_id (ws : List Joined) (t : Thread) : (awake ws t).id = t.id := by
  unfold awake
  split <;> rfl

@[simp] theorem awake_run (ws : List Joined) (t : Thread) : (awake ws t).run = t.run := by
  unfold awake
  split <;> rfl

theorem awake_nil (t : Thread) : awake [] t = t := rfl

theorem awake_awake (ws vs : List Joined) (t : Thread) : awake vs (awake ws t) = awake (ws ++ vs) t := by
  have names : (awake ws t).id = t.id := awake_id ws t
  unfold awake at names ⊢
  rw [names, List.any_append]
  cases ws.any (fun j => j.who == .thread t.id) <;> cases vs.any (fun j => j.who == .thread t.id) <;> rfl

theorem replaying_nil (s : State) : replaying s [] = s := by
  have same : s.threads.map (awake []) = s.threads := List.map_id'' awake_nil _
  rw [replaying, same, List.append_nil]

theorem replaying_append (s : State) (ws vs : List Joined) : replaying (replaying s ws) vs = replaying s (ws ++ vs) := by
  simp only [replaying, List.map_map, List.append_assoc]
  congr 2
  exact funext (awake_awake ws vs)

theorem afterFill_awake (n : Nat) (ws : List Joined) (t : Thread) : afterFill n (awake ws t) = awake ws (afterFill n t) := by
  unfold awake
  rw [afterFill_id]
  split
  · unfold afterFill
    split <;> rfl
  · rfl

theorem filled_replaying (s : State) (ws : List Joined) (n : Nat) : filled (replaying s ws) n = replaying (filled s n) ws := by
  have threads : (s.threads.map (awake ws)).map (afterFill n) = (s.threads.map (afterFill n)).map (awake ws) := by
    rw [List.map_map, List.map_map]
    exact List.map_congr_left fun t _ => afterFill_awake n ws t
  exact congrArg (fun th => { s with
    fills := s.fills.filter (fun x => x.pfid != n), threads := th, replays := s.replays ++ ws }) threads

/-- The waiters `ws` of a fill that is over and those of the fills `fs` are threads on the device that wait for nothing else, each once (R196). -/
structure Waiting (s : State) (ws : List Joined) (fs : List Fill) : Prop where
  once : ((ws ++ fs.flatMap Fill.waiters).map Joined.who).Nodup
  threads : ∀ j ∈ ws ++ fs.flatMap Fill.waiters, ∃ t, j.who = .thread t.id ∧ s.thread? t.id = some t ∧ t.run = none ∧ s.outside t.id.team = false
  replays : ∀ j ∈ ws ++ fs.flatMap Fill.waiters, ∀ r ∈ s.replays, r.who ≠ j.who
  misses : ∀ j ∈ ws ++ fs.flatMap Fill.waiters, ∀ m ∈ s.misses, m.waiter ≠ j.who
  fills : ∀ j ∈ ws ++ fs.flatMap Fill.waiters, ∀ f ∈ s.fills, f ∈ fs ∨ ∀ k ∈ f.waiters, k.who ≠ j.who
  overflow : s.overflow = []

theorem Waiting.of_threadsWait {s : State} {fs : List Fill} (waits : ThreadsWait s fs) (overflow : s.overflow = []) : Waiting s [] fs := by
  obtain ⟨once, threads, alone⟩ := waits
  exact ⟨once, threads, fun j hj => (alone j hj).1, fun j hj => (alone j hj).2.1, fun j hj => (alone j hj).2.2, overflow⟩

/-- Once a fill is over, its waiters wait for nothing. -/
theorem Waiting.filled {s : State} {f : Fill} {fs : List Fill} (waits : Waiting s [] (f :: fs)) : Waiting (filled s f.pfid) f.waiters fs := by
  refine ⟨waits.once, fun j hj => ?_, waits.replays, waits.misses, fun j hj g hg => ?_, waits.overflow⟩
  · obtain ⟨t, who, found, run, inside⟩ := waits.threads j hj
    refine ⟨afterFill f.pfid t, by rw [afterFill_id, who], ?_, by rw [afterFill_run, run], by rw [afterFill_id]; exact inside⟩
    rw [afterFill_id]
    exact find?_map_thread (afterFill_id f.pfid) found
  · obtain ⟨stands, other⟩ := List.mem_filter.1 hg
    refine (waits.fills j hj g stands).imp_left fun mem => (List.mem_cons.1 mem).resolve_left ?_
    rintro rfl
    simp at other

/-- A waiter that replays leaves the others waiting. -/
theorem Waiting.replaying {s : State} {j : Joined} {ws : List Joined} {fs : List Fill} (waits : Waiting s (j :: ws) fs) :
    Waiting (replaying s [j]) ws fs := by
  obtain ⟨once, threads, replays, misses, fills, overflow⟩ := waits
  rw [List.cons_append, List.map_cons, List.nodup_cons] at once
  refine ⟨once.2, fun k hk => ?_, fun k hk r hr => ?_, fun k hk => misses k (List.mem_cons_of_mem _ hk),
    fun k hk => fills k (List.mem_cons_of_mem _ hk), overflow⟩
  · obtain ⟨t, who, found, run, inside⟩ := threads k (List.mem_cons_of_mem _ hk)
    refine ⟨awake [j] t, by rw [awake_id, who], ?_, by rw [awake_run, run], by rw [awake_id]; exact inside⟩
    rw [awake_id]
    exact find?_map_thread (awake_id [j]) found
  · rcases List.mem_append.1 hr with hr | hr
    · exact replays k (List.mem_cons_of_mem _ hk) r hr
    · rw [List.mem_singleton.1 hr]
      exact fun e => once.1 (e ▸ List.mem_map_of_mem hk)

/-- The first waiter replays (R196). -/
theorem Waiting.queueReplay {s : State} {j : Joined} {ws : List Joined} {fs : List Fill} (waits : Waiting s (j :: ws) fs) :
    s.queueReplay j = Proofs.replaying s [j] := by
  obtain ⟨once, threads, replays, misses, fills, overflow⟩ := waits
  have mem : j ∈ j :: ws ++ fs.flatMap Fill.waiters := List.mem_cons_self
  obtain ⟨t, who, found, run, inside⟩ := threads j mem
  rw [List.cons_append, List.map_cons, List.nodup_cons] at once
  have lists : ∀ m ∈ s.misses ++ s.overflow, m.waiter ≠ .thread t.id := by
    rw [overflow, List.append_nil, ← who]
    exact misses j mem
  have waiters : ∀ f ∈ s.fills, ∀ k ∈ f.waiters, k.who ≠ .thread t.id := by
    rw [← who]
    intro f hf
    rcases fills j mem f hf with own | other
    · exact fun k hk e => once.1 (e ▸ List.mem_map_of_mem (List.mem_append_right _ (List.mem_flatMap.2 ⟨f, own, hk⟩)))
    · exact other
  have alone : s.runOf t.id = [t.id] := by simp only [State.runOf, found, Option.bind_some, run]
  obtain ⟨who', va, kind⟩ := j
  obtain rfl : who' = .thread t.id := who
  simp only [State.queueReplay, alone]
  rw [replayThreads_one inside lists waiters (replays _ mem)]
  simp only [Proofs.replaying]
  congr 2
  funext u
  by_cases own : u.id = t.id
  · simp [awake, own]
  · have differs : ¬ t.id = u.id := fun e => own e.symm
    simp [awake, own, differs]

/-- All waiters of a fill that is over replay, in their order (R196). -/
theorem Waiting.foldl_queueReplay {s : State} {ws : List Joined} {fs : List Fill} (waits : Waiting s ws fs) :
    ws.foldl State.queueReplay s = Proofs.replaying s ws ∧ Waiting (Proofs.replaying s ws) [] fs := by
  induction ws generalizing s with
  | nil => rw [replaying_nil]; exact ⟨rfl, waits⟩
  | cons j ws ih =>
    have next := ih waits.replaying
    rw [replaying_append] at next
    rw [List.foldl_cons, waits.queueReplay]
    exact next

/-- A fill ends, and its waiters replay (R196). -/
theorem Waiting.completeFill {s : State} {f : Fill} {fs : List Fill} {n : Nat} (waits : Waiting s [] (f :: fs)) (there : s.fill? n = some f) :
    s.completeFill n = Proofs.replaying (Stmt.filled s n) f.waiters ∧ Waiting (Proofs.replaying (Stmt.filled s n) f.waiters) [] fs := by
  have free := waits.filled
  rw [fill_name there] at free
  obtain ⟨replay, rest⟩ := free.foldl_queueReplay
  refine ⟨?_, rest⟩
  simp only [State.completeFill, there, freeFill_eq_filled, replay]
  rw [rest.overflow]
  rfl

/-- The fills of all entries end, and their waiters replay in the order of the entries and of their waiting (R196). -/
theorem foldl_completeFill : ∀ (es : List FillEntry) (s : State), (es.map FillEntry.pfid).Nodup → (∀ e ∈ es, (s.fill? e.pfid).isSome) →
    Waiting s [] (entryFills s es) →
    es.foldl (fun x e => x.completeFill e.pfid) s = replaying (allFilled s es) ((entryFills s es).flatMap Fill.waiters)
  | [], s, _, _, _ => (replaying_nil s).symm
  | e :: es, s, once, named, waits => by
    rw [List.map_cons, List.nodup_cons] at once
    obtain ⟨f, there⟩ := Option.isSome_iff_exists.1 (named e List.mem_cons_self)
    have others : ∀ x ∈ es, (replaying (filled s e.pfid) f.waiters).fill? x.pfid = s.fill? x.pfid := fun x hx =>
      fill_filled_of_ne (s := s) fun eq => once.1 (eq ▸ List.mem_map_of_mem hx)
    have same : entryFills (replaying (filled s e.pfid) f.waiters) es = entryFills s es := List.filterMap_congr others
    rw [entryFills_cons there] at waits ⊢
    obtain ⟨run, rest⟩ := waits.completeFill there
    have next := foldl_completeFill es _ once.2 (fun x hx => by rw [others x hx]; exact named x (List.mem_cons_of_mem _ hx))
      (by rw [same]; exact rest)
    rw [List.foldl_cons, run, next, same, allFilled_comm (f := (replaying · f.waiters)) (fun r n => filled_replaying r _ n), replaying_append]
    rfl

/-! ### The fill fails -/

theorem failFill_eq {s : State} {n code : Nat} {f : Fill} (there : s.fill? n = some f) (noWaiters : f.waiters = []) (overflow : s.overflow = []) :
    s.failFill n code = filled s n := by
  simp only [State.failFill, there, freeFill_eq_filled, noWaiters, List.foldl_nil]
  rw [show (filled s n).overflow = [] from overflow]
  rfl

/-- Fills without waiters that fail are only over (R197). -/
theorem foldl_failFill : ∀ (es : List FillEntry) (s : State), (es.map FillEntry.pfid).Nodup → (∀ e ∈ es, (s.fill? e.pfid).isSome) →
    (∀ f ∈ entryFills s es, f.waiters = []) → s.overflow = [] → es.foldl (fun x e => x.failFill e.pfid e.code) s = allFilled s es
  | [], _, _, _, _, _ => rfl
  | e :: es, s, once, named, noWaiters, overflow => by
    rw [List.map_cons, List.nodup_cons] at once
    obtain ⟨f, there⟩ := Option.isSome_iff_exists.1 (named e List.mem_cons_self)
    have others : ∀ x ∈ es, (filled s e.pfid).fill? x.pfid = s.fill? x.pfid := fun x hx =>
      fill_filled_of_ne fun eq => once.1 (eq ▸ List.mem_map_of_mem hx)
    have same : entryFills (filled s e.pfid) es = entryFills s es := List.filterMap_congr others
    rw [entryFills_cons there] at noWaiters
    rw [List.foldl_cons, failFill_eq there (noWaiters f List.mem_cons_self) overflow]
    exact foldl_failFill es (filled s e.pfid) once.2 (fun x hx => by rw [others x hx]; exact named x (List.mem_cons_of_mem _ hx))
      (by rw [same]; exact fun x hx => noWaiters x (List.mem_cons_of_mem _ hx)) overflow

/-- A trap takes no thread's miss from another: where none waits for a number, none does after it (R187, R268). -/
theorem threadTrap_overflow {s : State} (overflow : s.overflow = []) (t : Thread) (c : Cause) (trapv : Word) (aux : Nat) :
    (s.threadTrap t c trapv aux).overflow = [] := by
  have escalates : ∀ (r : TrapRegs) (reason first : Nat), (s.escalate t r.cause r.trapv t.pc reason first).overflow = [] := fun r reason first => by
    obtain ⟨m, d, cs, is, gs, e, -⟩ := escalate_eq s t r.cause r.trapv t.pc reason first
    rw [e]
    exact overflow
  rw [State.threadTrap, takeTrap_eq, if_pos rfl]
  split
  · exact escalates _ _ _
  · split
    · exact escalates _ _ _
    · obtain ⟨ts, us, gs, e⟩ := withdrawArrival_eq s t
      rw [State.enterHandler, e]
      change s.overflow.filter _ = []
      rw [overflow, List.filter_nil]

/-- The one waiter of a fill that fails takes GEN_FAIL with its address and the code (R196, R197). -/
theorem failFill_thread {s : State} {n code va : Nat} {f : Fill} {t : Thread} (there : s.fill? n = some f)
    (waiter : f.waiters = [⟨.thread t.id, va, .read⟩]) (overflow : s.overflow = []) (live : (filled s n).thread? t.id = some t)
    (inside : s.outside t.id.team = false) :
    s.failFill n code = (filled s n).threadTrap t .genFail (BitVec.ofNat 32 (va % 2 ^ 32 / 0x100 * 0x100 + code)) (va / 2 ^ 32) := by
  have inside' : (filled s n).outside t.id.team = false := inside
  have trap : (filled s n).failWaiter f.ctx ⟨.thread t.id, va, .read⟩ (.failed code) =
      (filled s n).threadTrap t .genFail (BitVec.ofNat 32 (va % 2 ^ 32 / 0x100 * 0x100 + code)) (va / 2 ^ 32) := by
    simp only [State.failWaiter, live, State.lateTrap, inside', Bool.false_eq_true, if_false]
    rfl
  simp only [State.failFill, there, freeFill_eq_filled, waiter, List.foldl_cons, List.foldl_nil, trap]
  rw [threadTrap_overflow (s := filled s n) overflow]
  rfl

end Sys2Proof.Proofs
end

section
/-!
PROOFS. `FILLDONE` and `FILLFAIL` (R185, R191, R195 to R198, R356, R357): the checks of a block that is in order, and what the two do.
-/

namespace Sys2Proof.Proofs
open Sys2Proof Sys2Proof.Machine Sys2Proof.Laws Sys2Proof.Stmt

/-! ### The checks -/

/-- A block whose entries keep every rule of R196 has no bad field. -/
theorem fillBad_eq_none {s : State} {c : CrewId} {spad : Nat} {done : Bool} {es : List FillEntry} (once : (es.map FillEntry.pfid).Nodup)
    (held : ∀ e ∈ es, s.holdsFill c e.pfid = true ∧ e.rsvd = 0) (codes : ∀ e ∈ es, if done then e.code = 0 else e.code ≤ 0xEF)
    (places : ∀ e ∈ es, if done then e.soff % 128 = 0 ∧ e.soff + s.spanBytes e.pfid ≤ spad else e.soff = 0) :
    s.fillBad c spad done es = none := by
  simp only [State.fillBad, Option.map_eq_none_iff, List.find?_eq_none, List.mem_flatMap]
  rintro check ⟨⟨e, i⟩, at_, listed⟩
  obtain ⟨hi, is⟩ := List.mem_zipIdx' at_
  have mem : e ∈ es := is ▸ List.getElem_mem hi
  obtain ⟨holds, zero⟩ := held _ mem
  have code := codes _ mem
  have place := places _ mem
  have new : ∀ y ∈ es.take i, y.pfid ≠ e.pfid := fun y hy => by
    rw [is]
    obtain ⟨j, hj, rfl⟩ := List.mem_take_iff_getElem.1 hy
    exact List.pairwise_iff_getElem.1 (List.pairwise_map.1 once) j i (by omega) hi (by omega)
  simp only [List.mem_cons, List.not_mem_nil, or_false] at listed
  rcases listed with rfl | rfl | rfl | rfl
  · simpa [holds] using new
  · cases done <;> simpa using code
  · simp [zero]
  · cases done <;> simpa using place

/-- A block that lies in order in the scratchpad and whose entries have no bad field. -/
structure FillBlock (s : State) (c : Crew) (tm : Team) (addr n : Nat) (done : Bool) (es : List FillEntry) : Prop where
  team : s.team? c.id.team = some tm
  aligned : addr % 64 = 0
  inside : addr + 64 ≤ tm.spadSize
  present : s.spadPresent tm.id addr (8 * n) = true
  reds : NoSpadReds s c.id
  entries : fillEntries (blockAt s tm addr 64) n = es
  well : s.fillBad c.id tm.spadSize done es = none

theorem FillBlock.fillfail {s : State} {c : Crew} {tm : Team} {addr n : Nat} {es : List FillEntry} (b : FillBlock s c tm addr n false es) :
    State.fillCrew c addr n false s = (es.foldl (fun s e => s.failFill e.pfid e.code) s).finishUniform c.id 4 := by
  obtain ⟨team, aligned, inside, present, reds, entries, well⟩ := b
  have read : fillEntries (State.wordsOf (s.spadBytes tm.id addr 64) 16) n = es := entries
  simp only [State.fillCrew, team, aligned, ne_eq, not_true_eq_false, if_false, if_neg (Nat.not_lt.2 inside), absentLine?_of_spadPresent present,
    withReds_of_noSpadReds reds, read, well, Bool.not_false, if_true]

theorem FillBlock.filldone {s : State} {c : Crew} {tm : Team} {addr n : Nat} {es : List FillEntry} (b : FillBlock s c tm addr n true es)
    (spans : ∀ e ∈ es, s.spadPresent tm.id e.soff (s.spanBytes e.pfid) = true) (room : (s.installAll tm.id es).2 = true) :
    State.fillCrew c addr n true s = (es.foldl (fun s e => s.completeFill e.pfid) (s.installAll tm.id es).1).finishUniform c.id 4 := by
  obtain ⟨team, aligned, inside, present, reds, entries, well⟩ := b
  have read : fillEntries (State.wordsOf (s.spadBytes tm.id addr 64) 16) n = es := entries
  have data : es.findSome? (fun e => s.absentLine? tm.id e.soff (s.spanBytes e.pfid)) = none :=
    List.findSome?_eq_none_iff.2 fun e he => absentLine?_of_spadPresent (spans e he)
  simp only [State.fillCrew, team, aligned, ne_eq, not_true_eq_false, if_false, if_neg (Nat.not_lt.2 inside), absentLine?_of_spadPresent present,
    withReds_of_noSpadReds reds, read, well, Bool.not_true, Bool.false_eq_true, data, room, if_true]

/-! ### The obligation -/

/-- A fill that a thread of the crew holds is pending. -/
theorem fill_isSome_of_holdsFill {s : State} {c : CrewId} {n : Nat} (h : s.holdsFill c n = true) : (s.fill? n).isSome := by
  obtain ⟨f, mem, is⟩ := List.any_eq_true.1 (Bool.and_eq_true_iff.1 h).1
  exact List.find?_isSome.2 ⟨f, mem, (Bool.and_eq_true_iff.1 is).1⟩

theorem spanBytes_of_fill {s : State} {n : Nat} {f : Fill} (there : s.fill? n = some f) : s.spanBytes n = 128 * 2 ^ f.log2span := by
  rw [State.spanBytes, there, Option.map_some, Option.getD_some]

theorem exec_filldone {o : OpFill} {s : State} {c : Crew} (one : OneCrew s c) (guard : c.guard o.g = true) :
    exec (.filldone o) s = .next (State.fillCrew c (c.reg o.kp.val).toNat (o.n.val + 1) true { s with cur := .idle }) := by
  change Host.Outcome.next (uniformRun 4 o.g _ s) = _
  rw [uniformRun_crew 4 o.g _ s c one.1 one.2, if_pos guard]

theorem exec_fillfail {o : OpFill} {s : State} {c : Crew} (one : OneCrew s c) (guard : c.guard o.g = true) :
    exec (.fillfail o) s = .next (State.fillCrew c (c.reg o.kp.val).toNat (o.n.val + 1) false { s with cur := .idle }) := by
  change Host.Outcome.next (uniformRun 4 o.g _ s) = _
  rw [uniformRun_crew 4 o.g _ s c one.1 one.2, if_pos guard]

/-- The device after a `FILLDONE` whose lines find ways: the lines are filled and pinned, the fills are over, and their waiters replay (R196, R198). -/
def afterFilldone (s : State) (team : Nat) (es : List FillEntry) : State :=
  replaying { allFilled s es with
    cur := .idle
    envLines := (installed s (entryLines s team es)).envLines
    pins := s.pins ++ (entryFills s es).flatMap fillPins } ((entryFills s es).flatMap Fill.waiters)

theorem foldl_completeFill_installAll {s : State} {team : Nat} {es : List FillEntry} (quiet : s.monitors = []) (overflow : s.overflow = [])
    (once : (es.map FillEntry.pfid).Nodup) (named : ∀ e ∈ es, (s.fill? e.pfid).isSome) (aligned : ∀ f ∈ entryFills s es, f.name % 128 = 0)
    (lines : (fillLines (entryFills s es)).Nodup) (ways : WaysFree s (fillLines (entryFills s es))) (waits : ThreadsWait s (entryFills s es)) :
    let r := State.installAll { s with cur := .idle } team es
    r.2 = true ∧ es.foldl (fun x e => x.completeFill e.pfid) r.1 = afterFilldone s team es := by
  intro r
  have installs : r = _ := installAll_eq (s := { s with cur := .idle }) quiet named aligned lines ways
  have waiting : Waiting r.1 [] (entryFills s es) := by
    rw [installs]
    exact Waiting.of_threadsWait waits overflow
  have same : entryFills r.1 es = entryFills s es := by rw [installs]; rfl
  refine ⟨by rw [installs], ?_⟩
  rw [foldl_completeFill es r.1 once (by rw [installs]; exact named) (by rw [same]; exact waiting), same, afterFilldone, installs]
  refine congrArg (replaying · _) ?_
  exact allFilled_comm (f := fun x => { x with
    cur := .idle
    envLines := (installed s (entryLines s team es)).envLines
    pins := s.pins ++ (entryFills s es).flatMap fillPins }) (fun _ _ => rfl) s es

/-- Waiters that are threads are pinned as they wait (R198). -/
theorem fillPins_of_threads {f : Fill} (threads : ∀ j ∈ f.waiters, ∃ t, j.who = .thread t) :
    fillPins f = f.waiters.map (fun j => ⟨f.ctx, f.name, 2 ^ f.log2span, j.who⟩) := by
  refine List.map_congr_left fun j hj => ?_
  obtain ⟨t, who⟩ := threads j hj
  rw [who]
  rfl

/-- A line of the span of a fill that an entry names has its words (R185, R191, R196). -/
theorem envLine_afterFilldone {s : State} {team : Nat} {es : List FillEntry} {e : FillEntry} {f : Fill} {i : Nat}
    (lines : (fillLines (entryFills s es)).Nodup) (named : e ∈ es) (there : s.fill? e.pfid = some f) (aligned : f.name % 128 = 0)
    (hi : i < 2 ^ f.log2span) :
    (afterFilldone s team es).envLine? f.ctx (f.name + 128 * i) =
      some (filledLine (spanLine s team e.soff f i) (s.envLine? f.ctx (f.name + 128 * i))) := by
  have lined : (f.name + 128 * i) % 128 = 0 := by omega
  have mem : spanLine s team e.soff f i ∈ entryLines s team es :=
    List.mem_flatMap.2 ⟨e, named, by rw [there]; exact List.mem_append_left _ (List.mem_map_of_mem (List.mem_range.2 hi))⟩
  rw [envLine?_of_aligned lined, envLine?_of_aligned lined]
  exact find?_installed (by rw [lineKey_entryLines]; exact lines) mem

/-- Settles O28: the block passes its checks, so `FILLDONE` installs its spans one line after another, each finding its way, and then ends the fills
entry by entry; `FILLFAIL` only ends them. -/
theorem fillEnds : Obligations.FillEnds := by
  intro o s c tm es one guard team addr aligned inside present reds quiet overflow entries once held fs done
  have named : ∀ e ∈ es, (s.fill? e.pfid).isSome := fun e he => fill_isSome_of_holdsFill (held e he).1
  have block : ∀ {kind : Bool}, s.fillBad c.id tm.spadSize kind es = none →
      FillBlock { s with cur := .idle } c tm addr (o.n.val + 1) kind es := fun well => ⟨team, aligned, inside, present, reds, entries, well⟩
  have fails : (∀ e ∈ es, e.code ≤ 0xEF ∧ e.soff = 0) → exec (.fillfail o) s =
      .next ((es.foldl (fun x e => State.failFill x e.pfid e.code) { s with cur := .idle }).finishUniform c.id 4) := fun rules => by
    have well := fillBad_eq_none (done := false) (spad := tm.spadSize) once held (fun e he => (rules e he).1) (fun e he => (rules e he).2)
    rw [exec_fillfail one guard]
    exact congrArg _ (block well).fillfail
  refine ⟨fun rules lines ways waits => ?installs, fun rules noWaiters => ?ends, fun e f t va single code soff there waiter live onDevice => ?traps⟩
  case installs =>
    have spans : ∀ e ∈ es, ∃ f, s.fill? e.pfid = some f ∧ f.name % 128 = 0 ∧ e.soff + s.spanBytes e.pfid ≤ tm.spadSize ∧
        s.spadPresent tm.id e.soff (s.spanBytes e.pfid) = true := fun e he => by
      obtain ⟨f, there⟩ := Option.isSome_iff_exists.1 (named e he)
      rw [spanBytes_of_fill there]
      exact ⟨f, there, (rules e he).2.2 f there⟩
    have names : ∀ f ∈ entryFills s es, f.name % 128 = 0 := fun f hf => by
      obtain ⟨e, he, there⟩ := List.mem_filterMap.1 hf
      exact ((rules e he).2.2 f there).1
    have well := fillBad_eq_none (done := true) (spad := tm.spadSize) once held (fun e he => (rules e he).1)
      (fun e he => ⟨(rules e he).2.1, (spans e he).elim fun _ h => h.2.2.1⟩)
    obtain ⟨room, completes⟩ := foldl_completeFill_installAll (team := tm.id) quiet overflow once named names lines ways waits
    have run : exec (.filldone o) s = .next ((afterFilldone s tm.id es).finishUniform c.id 4) := by
      rw [exec_filldone one guard, ← completes]
      exact congrArg _ ((block well).filldone (fun e he => (spans e he).elim fun _ h => h.2.2.2) room)
    have pins : fs.flatMap fillPins = fs.flatMap (fun f => f.waiters.map (fun j => ⟨f.ctx, f.name, 2 ^ f.log2span, j.who⟩)) :=
      List.flatMap_congr fun f hf => fillPins_of_threads fun j hj => by
        obtain ⟨t, who, -⟩ := waits.2.1 j (List.mem_flatMap.2 ⟨f, hf, hj⟩)
        exact ⟨t.id, who⟩
    refine ⟨_, run, ?_, fun e he f there i hi => ?_⟩
    · rw [finishUniform_eq_uniNext _ _ _ rfl, ← pins, ← allFilled_replays s es]
      rfl
    · refine (envLine_afterFilldone lines he there ((rules e he).2.2 f there).1 hi).trans ?_
      cases s.envLine? f.ctx (f.name + 128 * i) <;> rfl
  case ends =>
    have idle : allFilled { s with cur := .idle } es = { allFilled s es with cur := .idle } :=
      allFilled_comm (f := fun x => { x with cur := .idle }) (fun _ _ => rfl) s es
    rw [fails rules, foldl_failFill es { s with cur := .idle } once named noWaiters overflow, idle, finishUniform_eq_uniNext _ _ _ rfl]
    rfl
  case traps =>
    subst single
    rw [fails fun x hx => by rw [List.mem_singleton.1 hx]; exact ⟨code, soff⟩]
    exact congrArg (fun x : State => Host.Outcome.next (x.finishUniform c.id 4))
      (failFill_thread (s := { s with cur := .idle }) there waiter overflow live onDevice)

end Sys2Proof.Proofs
end

section
/-!
PROOFS. Rounding (R206, R211): a quotient rounded by a mode, the magnitude codes of a format by binade and significand, and the code that the
mode picks of the two neighbours of a value.
-/

namespace Sys2Proof.Proofs
open Sys2Proof Sys2Proof.Machine Sys2Proof.Laws Sys2Proof.Stmt

/-! ### Quotients -/

/-- A mode takes the greater neighbour of `v / q` in magnitude. -/
def roundsAway (mode : RMode) (neg : Bool) (v q : Nat) : Bool :=
  match mode with
  | .rn => decide (q < 2 * (v % q)) || (2 * (v % q) == q && v / q % 2 == 1)
  | .rz => false
  | .rm => neg && v % q != 0
  | .rp => !neg && v % q != 0

/-- `v / q` rounded to an integer by a mode, as the magnitude of a number of that sign (R211). -/
def roundedDiv (mode : RMode) (neg : Bool) (v q : Nat) : Nat := v / q + (roundsAway mode neg v q).toNat

/-- The model's rounding of a magnitude by `d` places. -/
theorem roundsUp_eq_roundsAway (mode : RMode) (neg : Bool) (v d : Nat) :
    roundsUp mode neg (v / 2 ^ d) (v % 2 ^ d) d = roundsAway mode neg v (2 ^ d) := by
  cases mode <;> rfl

theorem roundedDiv_two_pow (mode : RMode) (neg : Bool) (v d : Nat) :
    (if roundsUp mode neg (v / 2 ^ d) (v % 2 ^ d) d then v / 2 ^ d + 1 else v / 2 ^ d) = roundedDiv mode neg v (2 ^ d) := by
  rw [roundsUp_eq_roundsAway, roundedDiv]
  cases roundsAway mode neg v (2 ^ d) <;> rfl

/-- A whole quotient stays (R211). -/
theorem roundedDiv_mul_self (mode : RMode) (neg : Bool) (k : Nat) {q : Nat} (hq : 0 < q) : roundedDiv mode neg (k * q) q = k := by
  have stays : roundsAway mode neg (k * q) q = false := by cases mode <;> simp [roundsAway, hq.ne]
  rw [roundedDiv, stays, Nat.mul_div_cancel _ hq]
  rfl

/-- Only the ratio counts. -/
theorem roundedDiv_scaled (mode : RMode) (neg : Bool) (v q : Nat) {c : Nat} (hc : 0 < c) :
    roundedDiv mode neg (v * c) (q * c) = roundedDiv mode neg v q := by
  have twice : 2 * (v % q * c) = 2 * (v % q) * c := by ring
  have same : roundsAway mode neg (v * c) (q * c) = roundsAway mode neg v q := by
    simp only [roundsAway, Nat.mul_mod_mul_right, Nat.mul_div_mul_right _ _ hc, twice, Nat.mul_lt_mul_right hc]
    cases mode <;> simp [Bool.beq_eq_decide_eq, bne, hc.ne']
  rw [roundedDiv, roundedDiv, same, Nat.mul_div_mul_right _ _ hc]

/-- Which of the neighbours `s` and `s + 1` of the quotient the mode takes. -/
theorem roundedDiv_eq {mode : RMode} {neg : Bool} {v q s : Nat} (low : s * q ≤ v) (high : v < (s + 1) * q) :
    roundedDiv mode neg v q = match mode with
      | .rz => s
      | .rm => if neg ∧ s * q ≠ v then s + 1 else s
      | .rp => if ¬neg ∧ s * q ≠ v then s + 1 else s
      | .rn => if 2 * v < s * q + (s + 1) * q then s else if s * q + (s + 1) * q < 2 * v then s + 1 else if s % 2 = 0 then s else s + 1 := by
  obtain ⟨r, rfl⟩ := Nat.exists_eq_add_of_le low
  have small : r < q := by rw [Nat.add_mul, Nat.one_mul] at high; omega
  have quotient : (s * q + r) / q = s := by
    rw [Nat.add_comm, Nat.add_mul_div_right _ _ (by omega), Nat.div_eq_of_lt small, Nat.zero_add]
  have rest : (s * q + r) % q = r := by rw [Nat.add_comm, Nat.add_mul_mod_self_right, Nat.mod_eq_of_lt small]
  have exact' : (s * q = s * q + r) = (r = 0) := propext (by omega)
  have mid : s * q + (s + 1) * q = 2 * (s * q) + q := by ring
  simp only [roundedDiv, quotient, mid]
  simp only [roundsAway.eq_def, quotient, rest]
  cases mode with
  | rz => rfl
  | rm => cases neg <;> by_cases zero : r = 0 <;> simp [zero]
  | rp => cases neg <;> by_cases zero : r = 0 <;> simp [zero]
  | rn =>
    simp only
    rcases Nat.lt_trichotomy (2 * r) q with less | same | more
    · rw [if_pos (by omega)]
      simp [less.not_gt, less.ne]
    · rw [if_neg (by omega), if_neg (by omega)]
      rcases Nat.mod_two_eq_zero_or_one s with even | odd
      · simp [same, even]
      · simp [same, odd]
    · rw [if_neg (by omega), if_pos (by omega)]
      simp [more]

/-! ### Codes of magnitudes -/

/-- Every code is `p` binades above the subnormal ones, with a significand of at most one bit more than the mantissa has. -/
theorem exists_binade (f : Fmt) (k : Nat) : ∃ p s, k = p * 2 ^ f.mb + s ∧ s < 2 ^ (f.mb + 1) ∧ (p = 0 ∨ 2 ^ f.mb ≤ s) := by
  have pos := Nat.two_pow_pos f.mb
  have whole := Nat.div_add_mod' k (2 ^ f.mb)
  have low := Nat.mod_lt k pos
  rw [pow_succ]
  rcases Nat.eq_zero_or_pos (k / 2 ^ f.mb) with none | some
  · rw [none] at whole
    exact ⟨0, k, by omega, by omega, .inl rfl⟩
  · obtain ⟨p, hp⟩ := Nat.exists_eq_succ_of_ne_zero some.ne'
    rw [hp, Nat.succ_eq_add_one, Nat.add_mul] at whole
    exact ⟨p, 2 ^ f.mb + k % 2 ^ f.mb, by omega, by omega, .inr (by omega)⟩

/-- The magnitude of a code: its significand, once doubled for each binade (R206). -/
theorem magOf_binade {f : Fmt} {p s : Nat} (high : s ≤ 2 ^ (f.mb + 1)) (normal : p = 0 ∨ 2 ^ f.mb ≤ s)
    (code : p * 2 ^ f.mb + s < 2 ^ (f.eb + f.mb)) : magOf f (p * 2 ^ f.mb + s) = s * 2 ^ p := by
  have pos := Nat.two_pow_pos f.mb
  have exponent : (p * 2 ^ f.mb + s) / 2 ^ f.mb = p + s / 2 ^ f.mb := by
    rw [Nat.add_comm, Nat.add_mul_div_right _ _ pos, Nat.add_comm]
  have within : (p * 2 ^ f.mb + s) / 2 ^ f.mb % 2 ^ f.eb = p + s / 2 ^ f.mb := by
    rw [Nat.mod_eq_of_lt (Nat.div_lt_of_lt_mul (by rwa [← pow_add, Nat.add_comm f.mb])), exponent]
  have mantissa : (p * 2 ^ f.mb + s) % 2 ^ f.mb = s % 2 ^ f.mb := by rw [Nat.add_comm, Nat.add_mul_mod_self_right]
  unfold magOf
  simp only [within, mantissa]
  rw [pow_succ] at high
  rcases Nat.lt_or_ge s (2 ^ f.mb) with sub | norm
  · obtain rfl : p = 0 := normal.resolve_right (by omega)
    simp [Nat.div_eq_of_lt sub, Nat.mod_eq_of_lt sub]
  · obtain ⟨t, rfl⟩ := Nat.exists_eq_add_of_le norm
    have next : (2 ^ f.mb + t) / 2 ^ f.mb = 1 + t / 2 ^ f.mb := by rw [Nat.add_div_left _ pos, Nat.add_comm]
    rw [next, Nat.add_mod_left]
    rcases Nat.lt_or_ge t (2 ^ f.mb) with here | top
    · simp [Nat.div_eq_of_lt here, Nat.mod_eq_of_lt here]
    · obtain rfl : t = 2 ^ f.mb := by omega
      rw [Nat.div_self pos, Nat.mod_self, if_neg (by omega), show p + (1 + 1) - 1 = p + 1 by omega, pow_succ]
      ring

/-- Neighbouring codes: their magnitudes lie one step of the binade apart. -/
theorem magOf_neighbours {f : Fmt} {p s : Nat} (high : s < 2 ^ (f.mb + 1)) (normal : p = 0 ∨ 2 ^ f.mb ≤ s)
    (code : p * 2 ^ f.mb + s + 1 < 2 ^ (f.eb + f.mb)) :
    magOf f (p * 2 ^ f.mb + s) = s * 2 ^ p ∧ magOf f (p * 2 ^ f.mb + s + 1) = (s + 1) * 2 ^ p :=
  ⟨magOf_binade high.le normal (by omega), magOf_binade (s := s + 1) high (normal.imp_right (by omega)) code⟩

theorem magOf_lt_succ {f : Fmt} {k : Nat} (code : k + 1 < 2 ^ (f.eb + f.mb)) : magOf f k < magOf f (k + 1) := by
  obtain ⟨p, s, rfl, high, normal⟩ := exists_binade f k
  obtain ⟨here, next⟩ := magOf_neighbours high normal code
  rw [here, next]
  exact Nat.mul_lt_mul_of_pos_right s.lt_succ_self (Nat.two_pow_pos p)

/-- Greater codes have greater magnitudes (R206). -/
theorem magOf_lt {f : Fmt} {j k : Nat} (less : j < k) (code : k < 2 ^ (f.eb + f.mb)) : magOf f j < magOf f k := by
  induction k with
  | zero => omega
  | succ k ih =>
    rcases Nat.lt_succ_iff_lt_or_eq.1 less with below | rfl
    · exact (ih below (by omega)).trans (magOf_lt_succ code)
    · exact magOf_lt_succ code

/-! ### The grid of a value -/

/-- The value m·2^e and the steps of a format, in their common unit. -/
theorem exists_commonUnit (f : Fmt) (e : Int) :
    ∃ a b : Nat, e - f.qmin = a - b ∧ (∀ m, valueIn f m e = m * 2 ^ a) ∧ ∀ k, stepsIn f k e = k * 2 ^ b :=
  ⟨(e - min e f.qmin).toNat, (f.qmin - min e f.qmin).toNat, by omega, fun _ => rfl, fun _ => rfl⟩

/-- The code of a magnitude whose grid is that of binade `p`. -/
theorem magCode_of_grid {f : Fmt} {m a b p : Nat} {e : Int} (unit : e - f.qmin = a - b) (grid : max ((Nat.log2 m : Int) + e - f.mb) f.qmin = f.qmin + p)
    (mode : RMode) (neg : Bool) : f.magCode mode neg m e = p * 2 ^ f.mb + roundedDiv mode neg (m * 2 ^ a) (2 ^ (p + b)) := by
  unfold Fmt.magCode
  simp only [grid, add_sub_cancel_left, Int.toNat_natCast]
  congr 1
  split_ifs with coarse
  · have shift : a = (e - (f.qmin + p)).toNat + (p + b) := by omega
    rw [shift, pow_add, ← Nat.mul_assoc, roundedDiv_mul_self _ _ _ (by positivity)]
  all_goals
    have shift : p + b = (f.qmin + p - e).toNat + a := by omega
    rw [shift, pow_add, roundedDiv_scaled _ _ _ _ (Nat.two_pow_pos a), ← roundedDiv_two_pow]
    simp only [*, if_true, if_false, Bool.false_eq_true]

/-- The grid of a value between two neighbouring codes is that of their binade. -/
theorem grid_of_between {f : Fmt} {m a b p s : Nat} {e : Int} (unit : e - f.qmin = a - b) (pos : 0 < m) (high : s < 2 ^ (f.mb + 1))
    (normal : p = 0 ∨ 2 ^ f.mb ≤ s) (above : s * 2 ^ (p + b) ≤ m * 2 ^ a) (below : m * 2 ^ a < (s + 1) * 2 ^ (p + b)) :
    max ((Nat.log2 m : Int) + e - f.mb) f.qmin = f.qmin + p := by
  have shifted : Nat.log2 (m * 2 ^ a) = Nat.log2 m + a := log2_mul_two_pow (Nat.log2_self_le pos.ne') Nat.lt_log2_self a
  have ne : m * 2 ^ a ≠ 0 := by positivity
  have less : Nat.log2 m + a < f.mb + 1 + (p + b) := by
    rw [← shifted, Nat.log2_lt ne, pow_add]
    exact below.trans_le (Nat.mul_le_mul_right _ high)
  rcases normal with rfl | norm
  · omega
  · have least : f.mb + (p + b) ≤ Nat.log2 m + a := by
      rw [← shifted, Nat.le_log2 ne, pow_add]
      exact (Nat.mul_le_mul_right _ norm).trans above
    omega

/-- The code of a value is the neighbour that the mode picks (R211). -/
theorem magCode_of_picks {f : Fmt} (mantissa : 0 < f.mb) {mode : RMode} {neg : Bool} {m lo k : Nat} {e : Int} (pos : 0 < m)
    (code : lo + 1 < 2 ^ (f.eb + f.mb)) (picks : Picks f mode neg m e lo k) : f.magCode mode neg m e = k := by
  obtain ⟨p, s, rfl, high, normal⟩ := exists_binade f lo
  obtain ⟨here, next⟩ := magOf_neighbours high normal code
  obtain ⟨a, b, unit, value, steps⟩ := exists_commonUnit f e
  obtain ⟨above, below, pick⟩ := picks
  simp only [here, next, value, steps, Nat.mul_assoc, ← pow_add] at above below pick
  rw [Nat.add_mul (s * 2 ^ p), Nat.mul_assoc, Nat.mul_assoc, ← pow_add] at pick
  have even : (p * 2 ^ f.mb + s) % 2 = s % 2 := by
    obtain ⟨n, hn⟩ := Nat.exists_eq_succ_of_ne_zero mantissa.ne'
    rw [hn, pow_succ, ← Nat.mul_assoc, Nat.add_comm, Nat.add_mul_mod_self_right]
  rw [magCode_of_grid unit (grid_of_between unit pos high normal above below), roundedDiv_eq above below, pick, even]
  cases mode <;> simp only <;> split_ifs <;> rfl

/-- The magnitude code from which on values lie beyond every finite number: that of the infinities. -/
def infCode (f : Fmt) : Nat := (2 ^ f.eb - 1) * 2 ^ f.mb

theorem infCode_lt (f : Fmt) : infCode f < 2 ^ (f.eb + f.mb) := by
  rw [infCode, pow_add]
  exact Nat.mul_lt_mul_of_pos_right (Nat.sub_lt (Nat.two_pow_pos _) Nat.one_pos) (Nat.two_pow_pos _)

theorem magOf_infCode {f : Fmt} (exponent : 0 < f.eb) : magOf f (infCode f) = 2 ^ (f.mb + (2 ^ f.eb - 2)) := by
  have two : 2 ≤ 2 ^ f.eb := by
    calc 2 = 2 ^ 1 := rfl
      _ ≤ 2 ^ f.eb := Nat.pow_le_pow_right (by omega) exponent
  have code : infCode f = (2 ^ f.eb - 2) * 2 ^ f.mb + 2 ^ f.mb := by
    rw [infCode, show 2 ^ f.eb - 1 = 2 ^ f.eb - 2 + 1 by omega, Nat.add_mul, Nat.one_mul]
  rw [code, magOf_binade (by rw [pow_succ]; omega) (.inr le_rfl) (code ▸ infCode_lt f), pow_add]

/-- A value at or beyond the magnitude of the infinities has no finite code (R211). -/
theorem infCode_le_magCode {f : Fmt} (exponent : 0 < f.eb) {m : Nat} {e : Int} (pos : 0 < m)
    (beyond : stepsIn f (magOf f (infCode f)) e ≤ valueIn f m e) (mode : RMode) (neg : Bool) : infCode f ≤ f.magCode mode neg m e := by
  obtain ⟨a, b, unit, value, steps⟩ := exists_commonUnit f e
  rw [magOf_infCode exponent, value, steps, ← pow_add] at beyond
  have shifted : Nat.log2 (m * 2 ^ a) = Nat.log2 m + a := log2_mul_two_pow (Nat.log2_self_le pos.ne') Nat.lt_log2_self a
  have top : f.mb + (2 ^ f.eb - 2) + b ≤ Nat.log2 m + a := by rw [← shifted, Nat.le_log2 (by positivity)]; exact beyond
  obtain ⟨p, hp⟩ : ∃ p : Nat, max ((Nat.log2 m : Int) + e - f.mb) f.qmin = f.qmin + p :=
    ⟨(max ((Nat.log2 m : Int) + e - f.mb) f.qmin - f.qmin).toNat, by omega⟩
  rw [magCode_of_grid unit hp]
  have whole : 2 ^ f.mb ≤ roundedDiv mode neg (m * 2 ^ a) (2 ^ (p + b)) := by
    refine le_add_right ((Nat.le_div_iff_mul_le (by positivity)).2 ?_)
    rw [← pow_add, ← Nat.le_log2 (by positivity), shifted]
    omega
  have binades : 2 ^ f.eb - 1 ≤ p + 1 := by omega
  calc infCode f ≤ (p + 1) * 2 ^ f.mb := Nat.mul_le_mul_right _ binades
    _ = p * 2 ^ f.mb + 2 ^ f.mb := by ring
    _ ≤ _ := Nat.add_le_add_left whole _

end Sys2Proof.Proofs
end

section
/-!
PROOFS. The codes of a format with infinities and NaNs (R206, R207): what a code stands for, and rounding into the format (R211).
-/

namespace Sys2Proof.Proofs
open Sys2Proof Sys2Proof.Machine Sys2Proof.Laws Sys2Proof.Stmt

/-- A format with a mantissa and at least two exponent bits, as every format of R206 is. -/
structure Proper (f : Fmt) : Prop where
  mantissa : 0 < f.mb
  exponent : 2 ≤ f.eb

theorem proper_f32 : Proper .f32 := ⟨by decide, by decide⟩
theorem proper_f16 : Proper .f16 := ⟨by decide, by decide⟩
theorem proper_bf16 : Proper .bf16 := ⟨by decide, by decide⟩
theorem proper_of_format {f : Fmt} (format : f = .f32 ∨ f = .f16 ∨ f = .bf16) : Proper f := by
  rcases format with rfl | rfl | rfl
  · exact proper_f32
  · exact proper_f16
  · exact proper_bf16

theorem proper_e4m3 : Proper .e4m3 := ⟨by decide, by decide⟩
theorem proper_e5m2 : Proper .e5m2 := ⟨by decide, by decide⟩

/-! ### What codes stand for -/

/-- The least exponent of a format is not above 0. -/
theorem Proper.qmin_le {f : Fmt} (h : Proper f) : f.qmin ≤ 0 := by
  obtain ⟨n, hn⟩ := Nat.exists_eq_add_of_le' h.exponent
  have two : 2 ≤ 2 ^ (f.eb - 1) := by
    rw [hn, Nat.add_sub_assoc (by omega), pow_succ]
    exact Nat.le_mul_of_pos_left _ (Nat.two_pow_pos n)
  unfold Fmt.qmin
  omega

theorem Proper.four_le {f : Fmt} (h : Proper f) : 4 ≤ 2 ^ f.eb :=
  (by decide : 4 = 2 ^ 2).le.trans (Nat.pow_le_pow_right (by omega) h.exponent)

/-- The fields of a code's magnitude are those of the code. -/
theorem mod_fields (f : Fmt) (c : Nat) :
    c % 2 ^ (f.eb + f.mb) / 2 ^ f.mb = c / 2 ^ f.mb % 2 ^ f.eb ∧ c % 2 ^ (f.eb + f.mb) % 2 ^ f.mb = c % 2 ^ f.mb := by
  rw [Nat.add_comm, pow_add]
  exact ⟨Nat.mod_mul_right_div_self .., Nat.mod_mul_right_mod ..⟩

theorem magOf_mod (f : Fmt) (c : Nat) : magOf f (c % 2 ^ (f.eb + f.mb)) = magOf f c := by
  obtain ⟨exponent, mantissa⟩ := mod_fields f c
  simp only [magOf, exponent, mantissa, Nat.mod_mod]

/-- A sign and a magnitude code. -/
def signed (f : Fmt) (neg : Bool) (k : Nat) : Nat := (if neg then 2 ^ (f.eb + f.mb) else 0) + k

theorem signed_lt {f : Fmt} (neg : Bool) {k : Nat} (h : k < 2 ^ (f.eb + f.mb)) : signed f neg k < 2 ^ (1 + f.eb + f.mb) := by
  rw [signed, Nat.add_assoc, Nat.add_comm 1, pow_succ]
  split <;> omega

theorem signed_mod {f : Fmt} (neg : Bool) {k : Nat} (h : k < 2 ^ (f.eb + f.mb)) : signed f neg k % 2 ^ (f.eb + f.mb) = k := by
  cases neg <;> simp [signed, Nat.mod_eq_of_lt h]

theorem negCode_signed {f : Fmt} (neg : Bool) {k : Nat} (h : k < 2 ^ (f.eb + f.mb)) : negCode f (signed f neg k) = neg := by
  have pos := Nat.two_pow_pos (f.eb + f.mb)
  cases neg
  · simp [negCode, signed, Nat.div_eq_of_lt h]
  · simp [negCode, signed, Nat.add_div_left _ pos, Nat.div_eq_of_lt h]

/-- A code is its sign and its magnitude code. -/
theorem signed_negCode {f : Fmt} {c : Nat} (h : c < 2 ^ (1 + f.eb + f.mb)) : signed f (negCode f c) (c % 2 ^ (f.eb + f.mb)) = c := by
  have whole := Nat.div_add_mod' c (2 ^ (f.eb + f.mb))
  have small : c / 2 ^ (f.eb + f.mb) < 2 := Nat.div_lt_of_lt_mul (by rwa [← pow_succ, Nat.add_comm _ 1, ← Nat.add_assoc])
  unfold signed negCode
  generalize c / 2 ^ (f.eb + f.mb) = q at *
  interval_cases q <;> simpa using whole

/-- A code is a NaN, an infinity, or the finite value that its magnitude says, in steps of the format (R206). -/
inductive CodeStands (f : Fmt) (c : Nat) : Fp → Prop where
  | nan (not : nanOf f c = true) : CodeStands f c .nan
  | inf (number : nanOf f c = false) (code : c % 2 ^ (f.eb + f.mb) = infCode f) : CodeStands f c (.inf (negCode f c))
  | fin {m a : Nat} (number : nanOf f c = false) (code : c % 2 ^ (f.eb + f.mb) < infCode f) (value : m * 2 ^ a = magOf f c)
      (high : m < 2 ^ (f.mb + 1)) (normal : a = 0 ∨ 2 ^ f.mb ≤ m) : CodeStands f c (.fin (negCode f c) m (f.qmin + a))

theorem codeStands_decode (f : Fmt) (c : Nat) : CodeStands f c (f.decode c) := by
  obtain ⟨exponent, mantissa⟩ := mod_fields f c
  have pos := Nat.two_pow_pos f.mb
  have two := Nat.two_pow_pos f.eb
  have inExponent := Nat.mod_lt (c / 2 ^ f.mb) two
  have inMantissa := Nat.mod_lt c pos
  have whole := Nat.div_add_mod' (c % 2 ^ (f.eb + f.mb)) (2 ^ f.mb)
  rw [exponent, mantissa] at whole
  unfold Fmt.decode
  by_cases last : c / 2 ^ f.mb % 2 ^ f.eb = 2 ^ f.eb - 1
  · rw [if_pos last]
    by_cases zero : c % 2 ^ f.mb = 0
    · rw [if_pos zero]
      exact .inf (by simp [nanOf, zero]) (by rw [← whole, zero, last]; rfl)
    · rw [if_neg zero]
      exact .nan (by simp [nanOf, last, zero])
  · rw [if_neg last]
    have number : nanOf f c = false := by simp [nanOf, last]
    have code : c % 2 ^ (f.eb + f.mb) < infCode f := by
      have below : (c / 2 ^ f.mb % 2 ^ f.eb + 1) * 2 ^ f.mb ≤ infCode f := Nat.mul_le_mul_right _ (by omega)
      rw [Nat.add_mul] at below
      omega
    unfold Fmt.finite
    by_cases sub : c / 2 ^ f.mb % 2 ^ f.eb = 0
    · simp only [if_pos sub]
      rw [show f.qmin = f.qmin + ((0 : Nat) : Int) by simp]
      exact .fin number code (by simp [magOf, sub]) (by rw [pow_succ]; omega) (.inl rfl)
    · simp only [if_neg sub]
      exact .fin number code (by simp [magOf, sub]) (by rw [pow_succ]; omega) (.inr (Nat.le_add_right ..))

theorem isNan_decode (f : Fmt) (c : Nat) : (f.decode c).isNan = nanOf f c := by
  have stands := codeStands_decode f c
  generalize f.decode c = x at *
  cases stands with
  | nan not => rw [not]; rfl
  | inf number => rw [number]; rfl
  | fin number => rw [number]; rfl

theorem nanOf_signed {f : Fmt} (neg : Bool) {k : Nat} (h : k ≤ infCode f) : nanOf f (signed f neg k) = false := by
  have stands := codeStands_decode f (signed f neg k)
  obtain ⟨exponent, mantissa⟩ := mod_fields f (signed f neg k)
  rw [signed_mod neg (h.trans_lt (infCode_lt f))] at exponent mantissa
  unfold nanOf
  rw [← exponent, ← mantissa, Bool.and_eq_false_iff]
  rcases h.lt_or_eq with below | rfl
  · refine .inl (beq_false_of_ne (Nat.ne_of_lt (Nat.div_lt_of_lt_mul ?_)))
    rwa [Nat.mul_comm]
  · exact .inr (by simp [infCode])

/-! ### Rounding into a format -/

/-- What a mode gives beyond the greatest number (R211). -/
def overflowCode (f : Fmt) (mode : RMode) (neg : Bool) : Nat :=
  match mode with
  | .rn => infCode f
  | .rz => infCode f - 1
  | .rm => if neg then infCode f else infCode f - 1
  | .rp => if neg then infCode f - 1 else infCode f

theorem round_inf (f : Fmt) (mode : RMode) (neg : Bool) : f.round mode (.inf neg) = signed f neg (infCode f) := rfl

theorem round_zero (f : Fmt) (mode : RMode) (neg : Bool) (e : Int) : f.round mode (.fin neg 0 e) = signed f neg 0 := rfl

theorem round_fin (f : Fmt) (mode : RMode) (neg : Bool) {m : Nat} (pos : 0 < m) (e : Int) : f.round mode (.fin neg m e) =
    signed f neg (if f.magCode mode neg m e < infCode f then f.magCode mode neg m e else overflowCode f mode neg) := by
  unfold Fmt.round
  simp only [if_neg pos.ne']
  change (if f.magCode mode neg m e < infCode f then _ else _) = _
  by_cases below : f.magCode mode neg m e < infCode f
  · rw [if_pos below, if_pos below]
    rfl
  · rw [if_neg below, if_neg below]
    cases mode <;> cases neg <;> simp [signed, overflowCode, infCode]

theorem overflowCode_le (f : Fmt) (mode : RMode) (neg : Bool) : overflowCode f mode neg ≤ infCode f := by
  cases mode <;> cases neg <;> simp [overflowCode]

/-- Rounding gives the canonical NaN, or a sign and the code of a number or an infinity (R207). -/
theorem round_cases (f : Fmt) (mode : RMode) (x : Fp) : f.round mode x = f.nanCode ∨ ∃ neg k, k ≤ infCode f ∧ f.round mode x = signed f neg k := by
  cases x with
  | nan => exact .inl rfl
  | inf neg => exact .inr ⟨neg, _, le_rfl, rfl⟩
  | fin neg m e =>
    rcases Nat.eq_zero_or_pos m with rfl | pos
    · exact .inr ⟨neg, 0, Nat.zero_le _, rfl⟩
    · refine .inr ⟨neg, _, ?_, round_fin f mode neg pos e⟩
      split
      · exact Nat.le_of_lt ‹_›
      · exact overflowCode_le f mode neg

theorem nanCode_lt {f : Fmt} (h : Proper f) : f.nanCode < 2 ^ (f.eb + f.mb) := by
  have less : 2 ^ (f.mb - 1) < 2 ^ f.mb := Nat.pow_lt_pow_right (by omega) (Nat.sub_lt h.mantissa Nat.one_pos)
  have whole : (2 ^ f.eb - 1) * 2 ^ f.mb + 2 ^ f.mb = 2 ^ (f.eb + f.mb) := by
    rw [pow_add, Nat.sub_mul, Nat.one_mul, Nat.sub_add_cancel (Nat.le_mul_of_pos_left _ (Nat.two_pow_pos _))]
  unfold Fmt.nanCode
  omega

/-- A rounded value is a code of the format. -/
theorem round_lt {f : Fmt} (h : Proper f) (mode : RMode) (x : Fp) : f.round mode x < 2 ^ (1 + f.eb + f.mb) := by
  rcases round_cases f mode x with nan | ⟨neg, k, le, eq⟩
  · rw [nan]
    exact (nanCode_lt h).trans_le (Nat.pow_le_pow_right (by omega) (by omega))
  · rw [eq]
    exact signed_lt neg (le.trans_lt (infCode_lt f))

/-- A value between two neighbours of finite magnitude goes to the one that the mode picks (R211). -/
theorem round_of_picks {f : Fmt} (h : Proper f) {mode : RMode} {neg : Bool} {m lo k : Nat} {e : Int} (pos : 0 < m) (finite : lo + 1 ≤ infCode f)
    (picks : Picks f mode neg m e lo k) : f.round mode (.fin neg m e) = signed f neg k := by
  rw [round_fin f mode neg pos, magCode_of_picks h.mantissa pos (finite.trans_lt (infCode_lt f)) picks]
  split
  · rfl
  · next beyond =>
    obtain ⟨-, -, pick⟩ := picks
    congr 1
    have up : k = lo + 1 → overflowCode f mode neg = infCode f → overflowCode f mode neg = k := by omega
    cases mode with
    | rz => simp only at pick; omega
    | rn =>
      simp only at pick
      exact up (by split_ifs at pick <;> omega) rfl
    | rm =>
      cases neg <;> simp only [Bool.false_eq_true, false_and, true_and, if_false] at pick
      · omega
      · exact up (by split_ifs at pick <;> omega) rfl
    | rp =>
      cases neg <;> simp only [Bool.false_eq_true, not_true, not_false_eq_true, false_and, true_and, if_false] at pick
      · exact up (by split_ifs at pick <;> omega) rfl
      · omega

/-- A value at or beyond the magnitude of the infinities (R211). -/
theorem round_of_beyond {f : Fmt} (h : Proper f) (mode : RMode) (neg : Bool) {m : Nat} {e : Int} (pos : 0 < m)
    (beyond : stepsIn f (magOf f (infCode f)) e ≤ valueIn f m e) : f.round mode (.fin neg m e) = signed f neg (overflowCode f mode neg) := by
  rw [round_fin f mode neg pos, if_neg (infCode_le_magCode (by have := h.exponent; omega) pos beyond mode neg).not_gt]

/-- A value on the grid lies between its code and the next, and every mode picks its code. -/
theorem picks_self {f : Fmt} {m k : Nat} {e : Int} (code : k + 1 < 2 ^ (f.eb + f.mb)) (value : stepsIn f (magOf f k) e = valueIn f m e)
    (mode : RMode) (neg : Bool) : Picks f mode neg m e k k := by
  have less : stepsIn f (magOf f k) e < stepsIn f (magOf f (k + 1)) e :=
    Nat.mul_lt_mul_of_pos_right (magOf_lt_succ code) (Nat.two_pow_pos _)
  have mid : 2 * valueIn f m e < stepsIn f (magOf f k + magOf f (k + 1)) e := by
    have split : stepsIn f (magOf f k + magOf f (k + 1)) e = stepsIn f (magOf f k) e + stepsIn f (magOf f (k + 1)) e := Nat.add_mul ..
    omega
  refine ⟨value.le, value ▸ less, ?_⟩
  cases mode <;> simp [value, mid]

theorem magOf_zero (f : Fmt) : magOf f 0 = 0 := by simp [magOf]

/-- A value that a finite code has is rounded to that code, with its sign (R211). -/
theorem round_of_value {f : Fmt} (h : Proper f) (mode : RMode) (neg : Bool) {m k : Nat} {e : Int} (finite : k < infCode f)
    (value : stepsIn f (magOf f k) e = valueIn f m e) : f.round mode (.fin neg m e) = signed f neg k := by
  rcases Nat.eq_zero_or_pos m with rfl | pos
  · have zero : magOf f k = 0 := by
      have product : magOf f k * 2 ^ (f.qmin - min e f.qmin).toNat = 0 := value.trans (Nat.zero_mul _)
      simpa using product
    have least : k = 0 := by
      by_contra some
      have := magOf_lt (Nat.pos_of_ne_zero some) (finite.trans (infCode_lt f))
      omega
    rw [least, round_zero]
  · exact round_of_picks h pos finite (picks_self (by have := infCode_lt f; omega) value mode neg)

/-- Steps of a format, at an exponent that is not below its least. -/
theorem value_of_ge {f : Fmt} (m a : Nat) : valueIn f m (f.qmin + a) = m * 2 ^ a := by
  simp [valueIn]

theorem steps_of_ge {f : Fmt} (k a : Nat) : stepsIn f k (f.qmin + a) = k := by
  simp [stepsIn]

/-- The value of a code that is not a NaN gives the code back. -/
theorem round_decode {f : Fmt} (h : Proper f) (mode : RMode) {c : Nat} (code : c < 2 ^ (1 + f.eb + f.mb)) (number : nanOf f c = false) :
    f.round mode (f.decode c) = c := by
  have stands := codeStands_decode f c
  generalize f.decode c = x at *
  cases stands with
  | nan not => rw [not] at number; cases number
  | inf _ inf => rw [round_inf, ← inf, signed_negCode code]
  | fin _ finite value =>
    rw [round_of_value h mode _ finite (by rw [steps_of_ge, value_of_ge, magOf_mod, value]), signed_negCode code]

/-- Settles O10: a value between two codes goes to the one that the mode picks, since the grid of its binade is that of the lower one. -/
theorem roundingOfCodes : Obligations.RoundingOfCodes := by
  intro f format
  have h := proper_of_format format
  refine ⟨fun mode x nan => ?canonical, fun mode c code number => round_decode h mode code (isNan_decode f c ▸ number), fun c _ => isNan_decode f c,
    fun mode neg m e lo k pos finite picks => round_of_picks h pos finite picks,
    fun mode neg m e beyond pos => round_of_beyond h mode neg pos beyond, fun mode neg e => round_zero f mode neg e⟩
  case canonical =>
    rcases round_cases f mode x with canonical | ⟨neg, k, le, eq⟩
    · exact canonical
    · rw [isNan_decode, eq, nanOf_signed neg le] at nan
      cases nan

end Sys2Proof.Proofs
end

section
/-!
PROOFS. Floating-point sums, products, minima and maxima (R212, R325, R351, R352, R358): lane instructions that write a register, packed registers,
and the order of the numbers that codes stand for.
-/

namespace Sys2Proof.Proofs
open Sys2Proof Sys2Proof.Machine Sys2Proof.Laws Sys2Proof.Stmt

/-! ### Lane instructions that write a register -/

theorem writesReg_of_laneReg {i : Instr} {n : Nat} {g : Guard} {d : Fin 64} {val : State → Thread → Word}
    (run : ∀ s, exec i s = .next (laneReg n g (fun s t => t.setReg d.val (val s t)) s)) : WritesReg i n g d val := by
  intro s core ids rdv focus
  rw [run, laneReg_eq_laneNext n g _ s core ids rdv focus fun _ => rfl]
  simp only [Thread.setReg, setAt_eq_set]

/-- Two halves side by side (R212). -/
theorem ofNat_halves {lo hi : Nat} (hl : lo < 2 ^ 16) (hh : hi < 2 ^ 16) :
    BitVec.ofNat 32 (lo + 0x10000 * hi) = BitVec.ofNat 16 hi ++ BitVec.ofNat 16 lo := by
  apply BitVec.eq_of_toNat_eq
  rw [BitVec.toNat_append, BitVec.toNat_ofNat, BitVec.toNat_ofNat, BitVec.toNat_ofNat, Nat.mod_eq_of_lt hl, Nat.mod_eq_of_lt hh,
    ← Nat.shiftLeft_add_eq_or_of_lt hl, Nat.shiftLeft_eq]
  omega

/-- An operation whose results are halves acts on each half of a register by itself (R212). -/
theorem packed_eq_halfwise {op : Nat → Nat → Nat → Nat} (small : ∀ x y z, x < 2 ^ 16 → y < 2 ^ 16 → op x y z < 2 ^ 16) :
    packed op = halfwise op := by
  funext a b c
  have low : ∀ w : Word, w.toNat % 0x10000 < 2 ^ 16 := fun w => Nat.mod_lt _ (by omega)
  have high : ∀ w : Word, w.toNat / 0x10000 < 2 ^ 16 := fun w => by omega
  exact ofNat_halves (small _ _ _ (low a) (low b)) (small _ _ _ (high a) (high b))

/-- A packed instruction applies its operation to both halves. -/
theorem floatWrites_packed {i : OpReg3 → Instr} {op : Nat → Nat → Nat → Nat}
    (run : ∀ o s, exec (i o) s = .next (laneReg 4 o.g (fun s t => t.setReg o.d.val (packed op (t.reg o.a.val) (opb s t o.b) (t.reg o.d.val))) s))
    (small : ∀ x y z, x < 2 ^ 16 → y < 2 ^ 16 → op x y z < 2 ^ 16) : FloatWrites i (halfwise op) := fun o =>
  packed_eq_halfwise small ▸ writesReg_of_laneReg (run o)

/-- A rounded result in a format of 16 bits is a half. -/
theorem rounded_lt {f : Fmt} (h : Proper f) (bits : 1 + f.eb + f.mb = 16) (op : Fp → Fp → Fp → Fp) (x y z : Nat) :
    rounded f op x y z < 2 ^ 16 := bits ▸ round_lt h .rn _

theorem floatSums : Sys2Proof.Stmt.FloatSums := by
  have f16 := fun op x y z (_ : x < 2 ^ 16) (_ : y < 2 ^ 16) => rounded_lt proper_f16 rfl op x y z
  have bf16 := fun op x y z (_ : x < 2 ^ 16) (_ : y < 2 ^ 16) => rounded_lt proper_bf16 rfl op x y z
  exact ⟨fun o => writesReg_of_laneReg fun _ => rfl, fun o => writesReg_of_laneReg fun _ => rfl, fun o => writesReg_of_laneReg fun _ => rfl,
    fun o => writesReg_of_laneReg fun _ => rfl, floatWrites_packed (fun _ _ => rfl) (f16 exactSum), floatWrites_packed (fun _ _ => rfl) (f16 exactDiff),
    floatWrites_packed (fun _ _ => rfl) (f16 exactProduct), floatWrites_packed (fun _ _ => rfl) (f16 exactFma),
    floatWrites_packed (fun _ _ => rfl) (bf16 exactSum), floatWrites_packed (fun _ _ => rfl) (bf16 exactDiff),
    floatWrites_packed (fun _ _ => rfl) (bf16 exactProduct), floatWrites_packed (fun _ _ => rfl) (bf16 exactFma)⟩

/-! ### The order of numbers -/

/-- Both sides in smaller units compare as before. -/
theorem compare_mul_right (x y : Int) {c : Int} (hc : 0 < c) : compare (x * c) (y * c) = compare x y := by
  rw [← cmp_eq_compare, ← cmp_eq_compare]
  exact (strictMono_mul_right_of_pos hc).cmp_map_eq x y

/-- A finite value in units of the format's least step. -/
theorem numOf_eq_scaled {f : Fmt} {c m a : Nat} {lo : Int} (value : m * 2 ^ a = magOf f c) (least : f.qmin ≤ lo) (low : lo ≤ f.qmin + a) :
    numOf f c = Fp.scaled lo (.fin (negCode f c) m (f.qmin + a)) * ((2 ^ (lo - f.qmin).toNat : Nat) : Int) := by
  have split : a = (f.qmin + a - lo).toNat + (lo - f.qmin).toNat := by omega
  have whole : magOf f c = m * 2 ^ (f.qmin + a - lo).toNat * 2 ^ (lo - f.qmin).toNat := by
    rw [← value, Nat.mul_assoc, ← pow_add, ← split]
  unfold numOf Fp.scaled
  rw [whole, Nat.cast_mul]
  cases negCode f c <;> simp

/-- The magnitude of the infinities is above every number. -/
theorem abs_numOf_lt {f : Fmt} {c : Nat} (finite : c % 2 ^ (f.eb + f.mb) < infCode f) : |numOf f c| < magOf f (infCode f) := by
  have less := magOf_lt finite (infCode_lt f)
  rw [magOf_mod] at less
  unfold numOf
  split <;> simpa using less

theorem numOf_of_infCode {f : Fmt} {c : Nat} (code : c % 2 ^ (f.eb + f.mb) = infCode f) :
    numOf f c = if negCode f c then -(magOf f (infCode f) : Int) else magOf f (infCode f) := by
  rw [numOf, ← magOf_mod f c, code]

theorem magOf_infCode_pos {f : Fmt} (h : Proper f) : 0 < magOf f (infCode f) := by
  rw [magOf_infCode (by have := h.exponent; omega)]
  positivity

/-- The exact comparison of the values of two codes is that of their numbers: −0 and +0 are equal, and the infinities are beyond all numbers. -/
theorem cmp_decode {f : Fmt} (h : Proper f) {a b : Nat} (ha : nanOf f a = false) (hb : nanOf f b = false) :
    Fp.cmp (f.decode a) (f.decode b) = compare (numOf f a) (numOf f b) := by
  have top := magOf_infCode_pos h
  have standsA := codeStands_decode f a
  have standsB := codeStands_decode f b
  generalize f.decode a = x at *
  generalize f.decode b = y at *
  cases standsA with
  | nan not => rw [not] at ha; cases ha
  | inf _ codeA =>
    have numA := numOf_of_infCode codeA
    cases standsB with
    | nan not => rw [not] at hb; cases hb
    | inf _ codeB =>
      rw [numA, numOf_of_infCode codeB]
      cases negCode f a <;> cases negCode f b
      · exact (compare_eq_iff_eq.2 rfl).symm
      · exact (compare_gt_iff_gt.2 (by simpa using top)).symm
      · exact (compare_lt_iff_lt.2 (by simpa using top)).symm
      · exact (compare_eq_iff_eq.2 rfl).symm
    | fin _ finite =>
      have bound := abs_lt.1 (abs_numOf_lt finite)
      rw [numA]
      cases negCode f a
      · exact (compare_gt_iff_gt.2 (by simpa using bound.2)).symm
      · exact (compare_lt_iff_lt.2 (by simpa using bound.1)).symm
  | @fin m i _ finiteA valueA =>
    have boundA := abs_lt.1 (abs_numOf_lt finiteA)
    cases standsB with
    | nan not => rw [not] at hb; cases hb
    | inf _ codeB =>
      rw [numOf_of_infCode codeB]
      cases negCode f b
      · exact (compare_lt_iff_lt.2 (by simpa using boundA.2)).symm
      · exact (compare_gt_iff_gt.2 (by simpa using boundA.1)).symm
    | @fin n j _ finiteB valueB =>
      have zero := h.qmin_le
      have lo : Fp.lowExp [.fin (negCode f a) m (f.qmin + i), .fin (negCode f b) n (f.qmin + j)] = min (min 0 (f.qmin + i)) (f.qmin + j) := rfl
      rw [numOf_eq_scaled valueA (lo := min (min 0 (f.qmin + i)) (f.qmin + j)) (by omega) (by omega),
        numOf_eq_scaled valueB (lo := min (min 0 (f.qmin + i)) (f.qmin + j)) (by omega) (by omega), compare_mul_right _ _ (by positivity), ← lo]
      rfl

theorem signBit_decode {f : Fmt} {c : Nat} (h : nanOf f c = false) : (f.decode c).signBit = negCode f c := by
  have stands := codeStands_decode f c
  generalize f.decode c = x at *
  cases stands with
  | nan not => rw [not] at h; cases h
  | inf => rfl
  | fin => rfl

/-- Numbers that are equal and have one sign have one code. -/
theorem code_eq_of_numOf {f : Fmt} {a b : Nat} (ha : a < 2 ^ (1 + f.eb + f.mb)) (hb : b < 2 ^ (1 + f.eb + f.mb)) (sign : negCode f a = negCode f b)
    (num : numOf f a = numOf f b) : a = b := by
  have mag : magOf f a = magOf f b := by
    unfold numOf at num
    rw [sign] at num
    split at num <;> omega
  have code : a % 2 ^ (f.eb + f.mb) = b % 2 ^ (f.eb + f.mb) := by
    have pos := Nat.two_pow_pos (f.eb + f.mb)
    rw [← magOf_mod f a, ← magOf_mod f b] at mag
    rcases Nat.lt_trichotomy (a % 2 ^ (f.eb + f.mb)) (b % 2 ^ (f.eb + f.mb)) with less | same | more
    · exact absurd mag (magOf_lt less (Nat.mod_lt _ pos)).ne
    · exact same
    · exact absurd mag (magOf_lt more (Nat.mod_lt _ pos)).ne'
  rw [← signed_negCode ha, ← signed_negCode hb, sign, code]

/-- Which of two numbers is the larger, with −0 below +0 (R325). -/
theorem above_decode {f : Fmt} (h : Proper f) {a b : Nat} (ha : nanOf f a = false) (hb : nanOf f b = false) :
    (f.decode a).above (f.decode b) =
      if numOf f a < numOf f b then false else if numOf f b < numOf f a then true else !negCode f a || negCode f b := by
  unfold Fp.above
  rw [cmp_decode h ha hb, signBit_decode ha, signBit_decode hb]
  rcases lt_trichotomy (numOf f a) (numOf f b) with less | same | more
  · rw [compare_lt_iff_lt.2 less, if_pos less]
  · rw [compare_eq_iff_eq.2 same, if_neg same.not_lt, if_neg same.not_gt]
  · rw [compare_gt_iff_gt.2 more, if_neg more.not_gt, if_pos more]

theorem minNum_of_numbers {f : Fmt} {a b : Nat} (ha : nanOf f a = false) (hb : nanOf f b = false) :
    f.minNum a b = (if (f.decode a).above (f.decode b) then b else a) ∧ f.maxNum a b = if (f.decode a).above (f.decode b) then a else b := by
  simp [Fmt.minNum, Fmt.maxNum, isNan_decode, ha, hb]

/-- The smaller and the larger of two numbers (R325, R358). -/
theorem minNum_maxNum_eq {f : Fmt} (h : Proper f) {a b : Nat} (codeA : a < 2 ^ (1 + f.eb + f.mb)) (codeB : b < 2 ^ (1 + f.eb + f.mb))
    (ha : nanOf f a = false) (hb : nanOf f b = false) :
    f.minNum a b = (if numOf f a < numOf f b then a else if numOf f b < numOf f a then b else if negCode f a then a else b) ∧
      f.maxNum a b = (if numOf f a < numOf f b then b else if numOf f b < numOf f a then a else if negCode f a then b else a) := by
  obtain ⟨least, greatest⟩ := minNum_of_numbers ha hb
  rw [least, greatest, above_decode h ha hb]
  rcases lt_trichotomy (numOf f a) (numOf f b) with less | same | more
  · simp [less]
  · have twins := code_eq_of_numOf codeA codeB
    rw [if_neg same.not_lt, if_neg same.not_gt, if_neg same.not_lt, if_neg same.not_gt, if_neg same.not_lt, if_neg same.not_gt]
    cases signA : negCode f a <;> cases signB : negCode f b
    · simp
    · simp
    · simp
    · simp [twins (signA.trans signB.symm) same]
  · simp [more, more.not_gt]

/-- The smaller or the larger of two halves is a half. -/
theorem minNum_maxNum_lt {f : Fmt} (h : Proper f) (bits : 1 + f.eb + f.mb = 16) {a b : Nat} (ha : a < 2 ^ 16) (hb : b < 2 ^ 16) :
    f.minNum a b < 2 ^ 16 ∧ f.maxNum a b < 2 ^ 16 := by
  have canonical : f.nanCode < 2 ^ 16 := by
    have := nanCode_lt h
    rw [show f.eb + f.mb = 15 by omega] at this
    omega
  unfold Fmt.minNum Fmt.maxNum
  constructor <;> (simp only; split_ifs <;> assumption)

theorem floatMinMax : Sys2Proof.Stmt.FloatMinMax := by
  have f16 := fun x y (_ : Nat) (hx : x < 2 ^ 16) (hy : y < 2 ^ 16) => minNum_maxNum_lt proper_f16 rfl hx hy
  have bf16 := fun x y (_ : Nat) (hx : x < 2 ^ 16) (hy : y < 2 ^ 16) => minNum_maxNum_lt proper_bf16 rfl hx hy
  refine ⟨fun o => writesReg_of_laneReg fun _ => rfl, fun o => writesReg_of_laneReg fun _ => rfl,
    floatWrites_packed (fun _ _ => rfl) fun x y z hx hy => (f16 x y z hx hy).1, floatWrites_packed (fun _ _ => rfl) fun x y z hx hy => (f16 x y z hx hy).2,
    floatWrites_packed (fun _ _ => rfl) fun x y z hx hy => (bf16 x y z hx hy).1, floatWrites_packed (fun _ _ => rfl) fun x y z hx hy => (bf16 x y z hx hy).2,
    fun f a b format codeA codeB => ?_, rfl, rfl, rfl⟩
  have h := proper_of_format format
  refine ⟨fun ha hb => ?_, fun ha hb => ?_, fun ha hb => ?_, minNum_maxNum_eq h codeA codeB⟩
  all_goals simp [Fmt.minNum, Fmt.maxNum, isNan_decode, ha, hb]

/-- Settles O37: each instruction writes its element function's result, rounded once, to the register or to both halves; and the order of the codes'
values is that of their numbers. -/
theorem floatArithmetic : Obligations.FloatArithmetic := ⟨floatSums, floatMinMax⟩

end Sys2Proof.Proofs
end

section
/-!
PROOFS. CVT and QSCL (R208, R211, R213, R214, R216 to R218, R347, R398): rounding to integers, the narrow formats and saturation.
-/

namespace Sys2Proof.Proofs
open Sys2Proof Sys2Proof.Machine Sys2Proof.Laws Sys2Proof.Stmt

/-! ### Rounding to integers (R211, R217) -/

/-- The magnitude of the rounded integer is a rounded quotient. -/
theorem roundInt_eq (mode : RMode) (s : Bool) (m : Nat) (e : Int) : roundInt mode s m e =
    if s then -(roundedDiv mode s (m * 2 ^ e.toNat) (2 ^ (-e).toNat) : Int) else roundedDiv mode s (m * 2 ^ e.toNat) (2 ^ (-e).toNat) := by
  unfold roundInt
  by_cases whole : 0 ≤ e
  · rw [if_pos whole, Int.toNat_eq_zero.2 (show -e ≤ 0 by omega), pow_zero]
    have stays := roundedDiv_mul_self mode s (m * 2 ^ e.toNat) Nat.one_pos
    rw [Nat.mul_one] at stays
    rw [stays]
  · rw [if_neg whole, roundedDiv_two_pow, Int.toNat_eq_zero.2 (show e ≤ 0 by omega), pow_zero, Nat.mul_one]

/-- The integer that a mode picks of `lo` and `lo + 1`, for a number of sign `s` that lies `frac / den` above `lo` (R211). -/
def pickInt (mode : RMode) (s : Bool) (lo frac den : Int) : Int :=
  match mode with
  | .rz => if s ∧ frac ≠ 0 then lo + 1 else lo
  | .rm => lo
  | .rp => if frac = 0 then lo else lo + 1
  | .rn => if 2 * frac < den then lo else if den < 2 * frac then lo + 1 else if lo % 2 = 0 then lo else lo + 1

theorem roundedDiv_of_nonneg (mode : RMode) {v q : Nat} {lo : Int} (low : 0 ≤ (v : Int) - lo * q) (high : (v : Int) - lo * q < q) :
    (roundedDiv mode false v q : Int) = pickInt mode false lo (v - lo * q) q := by
  have nonneg : 0 ≤ lo := by
    by_contra below
    have := mul_le_mul_of_nonneg_right (show lo ≤ -1 by omega) (Int.natCast_nonneg q)
    omega
  obtain ⟨k, rfl⟩ := Int.eq_ofNat_of_zero_le nonneg
  have above : k * q ≤ v := by exact_mod_cast (show (k : Int) * q ≤ v by omega)
  have below : v < (k + 1) * q := by exact_mod_cast (show (v : Int) < (k + 1) * q by rw [Int.add_mul]; omega)
  have product : ((k * q : Nat) : Int) = k * q := Nat.cast_mul ..
  have next : (k + 1) * q = k * q + q := by ring
  rw [roundedDiv_eq above below, next]
  generalize k * q = p at *
  rw [← product]
  unfold pickInt
  cases mode <;> simp only [Bool.false_eq_true, false_and, not_false_eq_true, true_and, if_false] <;> split_ifs <;> omega

theorem roundedDiv_of_neg (mode : RMode) {v q : Nat} {lo : Int} (low : 0 ≤ -(v : Int) - lo * q) (high : -(v : Int) - lo * q < q) :
    -(roundedDiv mode true v q : Int) = pickInt mode true lo (-v - lo * q) q := by
  have nonpos : lo ≤ 0 := by
    by_contra above
    have := mul_le_mul_of_nonneg_right (show 1 ≤ lo by omega) (Int.natCast_nonneg q)
    omega
  obtain ⟨k, hk⟩ := Int.eq_ofNat_of_zero_le (show 0 ≤ -lo by omega)
  obtain rfl : lo = -k := by omega
  have product : ((k * q : Nat) : Int) = k * q := Nat.cast_mul ..
  rw [Int.neg_mul, ← product] at low high ⊢
  rcases Nat.eq_zero_or_pos (k * q - v) with whole | rest
  · have exact' : v = k * q := by omega
    rw [exact', roundedDiv_mul_self _ _ _ (by omega)]
    unfold pickInt
    cases mode <;> simp
    omega
  · obtain ⟨j, rfl⟩ : ∃ j, k = j + 1 := Nat.exists_eq_succ_of_ne_zero (by rintro rfl; simp at rest)
    have next : (j + 1) * q = j * q + q := by ring
    rw [next] at low high rest ⊢
    rw [roundedDiv_eq (s := j) (by omega) (by omega), next]
    generalize j * q = p at *
    unfold pickInt
    cases mode <;> simp only [true_and, not_true, false_and, if_false] <;> split_ifs <;> omega

/-- Of the two integers around a value, rounding takes the one that the mode picks (R211). -/
theorem roundInt_eq_pickInt (mode : RMode) (s : Bool) (m : Nat) (e lo : Int) :
    let num : Int := (if s then -1 else 1) * (m * 2 ^ e.toNat : Nat)
    let den : Int := (2 ^ (-e).toNat : Nat)
    0 ≤ num - lo * den → num - lo * den < den → roundInt mode s m e = pickInt mode s lo (num - lo * den) den := by
  intro num den low high
  rw [roundInt_eq]
  cases s with
  | false =>
    have same : num = (m * 2 ^ e.toNat : Nat) := by simp [num]
    rw [same] at low high ⊢
    exact roundedDiv_of_nonneg mode low high
  | true =>
    have same : num = -((m * 2 ^ e.toNat : Nat) : Int) := by simp [num]
    rw [same] at low high ⊢
    exact roundedDiv_of_neg mode low high

/-- A magnitude of 2^40 or more stays one. -/
theorem le_roundedDiv_of_large {m : Nat} {e : Int} (ne : m ≠ 0) (large : 40 ≤ (Nat.log2 m : Int) + e) (mode : RMode) (s : Bool) :
    2 ^ 40 ≤ roundedDiv mode s (m * 2 ^ e.toNat) (2 ^ (-e).toNat) := by
  refine le_add_right ((Nat.le_div_iff_mul_le (Nat.two_pow_pos _)).2 ?_)
  calc 2 ^ 40 * 2 ^ (-e).toNat = 2 ^ (40 + (-e).toNat) := (pow_add ..).symm
    _ ≤ 2 ^ (Nat.log2 m + e.toNat) := Nat.pow_le_pow_right (by omega) (by omega)
    _ = 2 ^ Nat.log2 m * 2 ^ e.toNat := pow_add ..
    _ ≤ m * 2 ^ e.toNat := Nat.mul_le_mul_right _ (Nat.log2_self_le ne)

/-- A conversion of a finite value to an integer between `lo` and `hi`: the rounded integer, or the nearer bound with a mark (R217). -/
theorem cvtInt_fin (mode : RMode) {lo hi : Int} (least : -(2 ^ 40) < lo) (range : lo ≤ hi) (greatest : hi < 2 ^ 40) (s : Bool) (m : Nat) (e : Int) :
    cvtInt mode lo hi (.fin s m e) =
      (BitVec.ofInt 32 (clamp lo hi (roundInt mode s m e)), decide (roundInt mode s m e < lo ∨ hi < roundInt mode s m e)) := by
  have clamped : ∀ y : Int, (if y < lo then (BitVec.ofInt 32 lo, true) else if y > hi then (BitVec.ofInt 32 hi, true) else (BitVec.ofInt 32 y, false)) =
      (BitVec.ofInt 32 (clamp lo hi y), decide (y < lo ∨ hi < y)) := fun y => by
    unfold clamp
    split_ifs with below above
    · simp [below]
    · simp [show hi < y from above]
    · simp [below, show ¬hi < y from above]
  rw [← clamped]
  unfold cvtInt
  by_cases large : m ≠ 0 ∧ (Nat.log2 m : Int) + e ≥ 40
  · have size : (2 : Int) ^ 40 ≤ (roundedDiv mode s (m * 2 ^ e.toNat) (2 ^ (-e).toNat) : Nat) := by
      exact_mod_cast le_roundedDiv_of_large large.1 large.2 mode s
    simp only [if_pos large, roundInt_eq]
    cases s
    · simp only [Bool.false_eq_true, if_false]
      rw [if_neg (by omega), if_pos (by omega), if_neg (by omega), if_pos (by omega)]
    · simp only [if_true]
      rw [if_pos (by omega), if_pos (by omega)]
  · simp only [if_neg large]

theorem convertToInteger : Sys2Proof.Stmt.ConvertToInteger := by
  intro mode a b
  refine ⟨fun nan => ?_, fun inf => ?_, fun inf => ?_, ?_⟩
  · cases value : f32 a with
    | nan => simp [cvtValue, cvtInt, value]
    | inf | fin => rw [value] at nan; cases nan
  · simp only [cvtValue, cvtInt, inf]
    exact ⟨rfl, rfl⟩
  · simp only [cvtValue, cvtInt, inf]
    exact ⟨rfl, rfl⟩
  · intro s m e lo fin num den frac low high y
    have picked := roundInt_eq_pickInt mode s m e lo low high
    have same : roundInt mode s m e = y := by rw [picked]; cases mode <;> rfl
    simp only [cvtValue, fin, cvtInt_fin mode (lo := -(2 ^ 31)) (hi := 2 ^ 31 - 1) (by omega) (by omega) (by omega),
      cvtInt_fin mode (lo := 0) (hi := 2 ^ 32 - 1) (by omega) (by omega) (by omega), same, and_self]

end Sys2Proof.Proofs
end

section
/-!
PROOFS. Conversions between formats, and CVT and QSCL (R206, R208, R213, R214, R216 to R218, R347, R398): narrow codes, widened values, saturation,
and what the two instructions write.
-/

namespace Sys2Proof.Proofs
open Sys2Proof Sys2Proof.Machine Sys2Proof.Laws Sys2Proof.Stmt

/-! ### Conversions between formats (R208, R216, R217) -/

theorem halves_eq_append {x y : Nat} (hx : x < 2 ^ 16) (hy : y < 2 ^ 16) : halves x y = BitVec.ofNat 16 y ++ BitVec.ofNat 16 x :=
  ofNat_halves hx hy

/-- A half alone in its register. -/
theorem ofNat_half {x : Nat} (hx : x < 2 ^ 16) : BitVec.ofNat 32 x = BitVec.ofNat 16 0 ++ BitVec.ofNat 16 x :=
  ofNat_halves (hi := 0) hx (by omega)

theorem magOf_f32 (x : Nat) : magOf .f32 x =
    if x / 2 ^ 23 % 2 ^ 8 = 0 then x % 2 ^ 23 else (2 ^ 23 + x % 2 ^ 23) * 2 ^ (x / 2 ^ 23 % 2 ^ 8 - 1) := rfl

theorem magOf_bf16 (x : Nat) : magOf .bf16 x =
    if x / 2 ^ 7 % 2 ^ 8 = 0 then x % 2 ^ 7 else (2 ^ 7 + x % 2 ^ 7) * 2 ^ (x / 2 ^ 7 % 2 ^ 8 - 1) := rfl

/-- BF16 is the upper half of FP32 (R206): a code's magnitude there is that of its own, in smaller steps. -/
theorem magOf_f32_of_bf16 (x : Nat) : magOf .f32 (x % 2 ^ 15 * 2 ^ 16) = magOf .bf16 x * 2 ^ 16 := by
  have exponent : x % 2 ^ 15 * 2 ^ 16 / 2 ^ 23 % 2 ^ 8 = x / 2 ^ 7 % 2 ^ 8 := by omega
  have mantissa : x % 2 ^ 15 * 2 ^ 16 % 2 ^ 23 = x % 2 ^ 7 * 2 ^ 16 := by omega
  rw [magOf_f32, magOf_bf16, exponent, mantissa]
  by_cases sub : x / 2 ^ 7 % 2 ^ 8 = 0
  · rw [if_pos sub, if_pos sub]
  · rw [if_neg sub, if_neg sub]
    ring

/-- Widening BF16 to FP32 is exact (R217). -/
theorem rneF32_decode_bf16 {x : Nat} (hx : x < 2 ^ 16) :
    rneF32 (Fmt.bf16.decode x) = if nanOf .bf16 x then 0x7FC00000 else BitVec.ofNat 32 (x * 2 ^ 16) := by
  have stands := codeStands_decode .bf16 x
  have whole : signed .f32 (negCode .bf16 x) (x % 2 ^ 15 * 2 ^ 16) = x * 2 ^ 16 := by
    have parts : signed .bf16 (negCode .bf16 x) (x % 2 ^ 15) = x := signed_negCode hx
    generalize negCode .bf16 x = neg at *
    simp only [signed, Fmt.bf16, Fmt.f32] at parts ⊢
    cases neg <;> simp only [Bool.false_eq_true, if_true, if_false] at parts ⊢ <;> omega
  generalize Fmt.bf16.decode x = v at *
  cases stands with
  | nan not => rw [not]; rfl
  | inf number code =>
    rw [number, ← whole, show x % 2 ^ 15 = infCode .bf16 from code]
    rfl
  | @fin m a number finite value =>
    have finite' : x % 2 ^ 15 * 2 ^ 16 < infCode .f32 := by
      have below : x % 2 ^ 15 < infCode .bf16 := finite
      simp only [infCode, Fmt.bf16, Fmt.f32] at below ⊢
      omega
    have unit : Fmt.bf16.qmin + (a : Int) = Fmt.f32.qmin + ((a + 16 : Nat) : Int) := by
      rw [show Fmt.bf16.qmin = -133 by decide, qmin_f32]
      push_cast
      omega
    rw [number, rneF32, unit, round_of_value proper_f32 .rn _ finite', whole]
    · rfl
    · rw [steps_of_ge, value_of_ge, magOf_f32_of_bf16, ← value, pow_add, Nat.mul_assoc]

/-- A byte as a signed number (R210). -/
theorem sintOf_eight (x : Nat) : sintOf 8 x = (BitVec.ofNat 8 x).toInt := by
  simp only [sintOf, BitVec.toInt_eq_toNat_cond, BitVec.toNat_ofNat]
  split <;> split <;> omega

theorem convertFormats : Sys2Proof.Stmt.ConvertFormats := by
  intro mode a b half bf hf qf sf
  have f16 := fun (mode : RMode) (x : Fp) => (round_lt proper_f16 mode x : _ < 2 ^ 16)
  have bf16 := fun (mode : RMode) (x : Fp) => (round_lt proper_bf16 mode x : _ < 2 ^ 16)
  have signedByte : ∀ i, f16OfS8 (byteOf a i) = sf i := fun i => by rw [f16OfS8, sintOf_eight]; rfl
  refine ⟨?_, rfl, ?_, ?_, ?_, ?_, ?_, ?_, ?_, ?_, ?_, ?_⟩
  · simp only [cvtValue, intFp, sint_eq_toInt]
  · exact congrArg (fun w => ([w], false)) (ofNat_half (f16 mode _))
  · exact congrArg (fun w => ([w], false)) (ofNat_half (bf16 mode _))
  · simp only [cvtValue, field, pow_zero, Nat.div_one]
    rfl
  · have low : field a 0 16 < 2 ^ 16 := Nat.mod_lt _ (by omega)
    have same : a.toNat % 0x10000 = field a 0 16 := by simp [field]
    rw [← rneF32_decode_bf16 low, ← same]
    rfl
  · exact congrArg (fun w => ([w], false)) (halves_eq_append (f16 mode _) (f16 mode _))
  · exact congrArg (fun w => ([w], false)) (halves_eq_append (bf16 mode _) (bf16 mode _))
  · exact congrArg₂ (fun v w => ([v, w], false)) (halves_eq_append (bf16 .rn _) (bf16 .rn _)) (halves_eq_append (bf16 .rn _) (bf16 .rn _))
  · exact congrArg₂ (fun v w => ([v, w], false)) (halves_eq_append (f16 .rn _) (f16 .rn _)) (halves_eq_append (f16 .rn _) (f16 .rn _))
  · have pair := fun i j => halves_eq_append (f16 .rn (decodeE2m1 (field a (4 * i) 4))) (f16 .rn (decodeE2m1 (field a (4 * j) 4)))
    exact congrArg₂ (fun l r => (l ++ r, false)) (congrArg₂ (fun v w => [v, w]) (pair 0 1) (pair 2 3))
      (congrArg₂ (fun v w => [v, w]) (pair 4 5) (pair 6 7))
  · simp only [cvtValue, signedByte]
    exact congrArg₂ (fun v w => ([v, w], false)) (halves_eq_append (f16 .rn _) (f16 .rn _)) (halves_eq_append (f16 .rn _) (f16 .rn _))

/-! ### The narrow formats (R206, R208) -/

/-- The value that the fields of an 8-bit or 4-bit code give. -/
theorem finite_narrow (x : Nat) :
    Fmt.e4m3.finite x = (if x / 8 % 16 = 0 then .fin (bitAt x 7) (x % 8) (-9) else .fin (bitAt x 7) (8 + x % 8) (-9 + (x / 8 % 16 - 1 : Nat))) ∧
    Fmt.e5m2.finite x = (if x / 4 % 32 = 0 then .fin (bitAt x 7) (x % 4) (-16) else .fin (bitAt x 7) (4 + x % 4) (-16 + (x / 4 % 32 - 1 : Nat))) ∧
    Fmt.e2m1.finite x = (if x / 2 % 4 = 0 then .fin (bitAt x 3) (x % 2) (-1) else .fin (bitAt x 3) (2 + x % 2) (-1 + (x / 2 % 4 - 1 : Nat))) := by
  unfold Fmt.finite
  rw [show Fmt.e4m3.qmin = -9 by decide, show Fmt.e5m2.qmin = -16 by decide, show Fmt.e2m1.qmin = -1 by decide]
  exact ⟨rfl, rfl, rfl⟩

theorem bitAt_top {x n : Nat} (h : x < 2 * 2 ^ n) : bitAt x n = decide (2 ^ n ≤ x) := by
  have pos := Nat.two_pow_pos n
  unfold bitAt
  by_cases high : 2 ^ n ≤ x
  · rw [Nat.div_eq_of_lt_le (k := 1) (by omega) (by omega)]
    simp [high]
  · rw [Nat.div_eq_of_lt (by omega)]
    simp [high]

theorem narrowCodes : Sys2Proof.Stmt.NarrowCodes := by
  refine ⟨fun x hx => ?_, fun x hx => ?_, fun x hx => ?_⟩
  · have sign := bitAt_top (n := 7) hx
    unfold decodeE4m3
    refine if_congr Iff.rfl rfl ?_
    rw [(finite_narrow x).1, sign]
    by_cases sub : x % 128 < 8
    · rw [if_pos sub, if_pos (by omega)]
      rfl
    · rw [if_neg sub, if_neg (by omega)]
      exact congrArg (Fp.fin _ _) (by omega)
  · have sign := bitAt_top (n := 7) hx
    have fields : Fmt.e5m2.decode x =
      if x / 4 % 32 = 31 then (if x % 4 = 0 then .inf (bitAt x 7) else .nan) else Fmt.e5m2.finite x := rfl
    rw [fields, (finite_narrow x).2.1, sign]
    by_cases last : x / 4 % 32 = 31
    · rw [if_pos last]
      by_cases zero : x % 4 = 0
      · rw [if_pos zero, if_neg (by omega), if_pos (by omega)]
        rfl
      · rw [if_neg zero, if_pos (by omega)]
    · rw [if_neg last, if_neg (show ¬124 < x % 128 by omega), if_neg (show ¬x % 128 = 124 by omega)]
      by_cases sub : x % 128 < 4
      · rw [if_pos sub, if_pos (by omega)]
        rfl
      · rw [if_neg sub, if_neg (by omega)]
        exact congrArg (Fp.fin _ _) (by omega)
  · have sign := bitAt_top (n := 3) hx
    rw [decodeE2m1, (finite_narrow x).2.2, sign]
    by_cases sub : x % 8 < 2
    · rw [if_pos sub, if_pos (by omega)]
      rfl
    · rw [if_neg sub, if_neg (by omega)]
      exact congrArg (Fp.fin _ _) (by omega)

/-! ### Saturation (R213) -/

/-- A finite value rounded to the nearest even code of a format, or saturated beyond its code `top`, of value `most`. -/
def satFin (f : Fmt) (top most : Nat) (neg : Bool) (m : Nat) (e : Int) : Nat × Bool :=
  let sign := if neg then 0x80 else 0
  if Fp.cmp (.fin false m e) (.fin false most 0) == .gt then (sign + top, true)
  else if m = 0 then (sign, false)
  else (sign + f.magCode .rn neg m e, false)

theorem satF8_fin (neg : Bool) (m : Nat) (e : Int) : satF8 false (.fin neg m e) = satFin .e4m3 0x7E 448 neg m e ∧
    satF8 true (.fin neg m e) = satFin .e5m2 0x7B 57344 neg m e := ⟨rfl, rfl⟩

/-- A value compares with an integer as their numbers of common units do. -/
theorem cmp_integer {f : Fmt} (h : Proper f) {top most : Nat} (value : magOf f top = most * 2 ^ (-f.qmin).toNat) (m : Nat) (e : Int) :
    Fp.cmp (.fin false m e) (.fin false most 0) = compare (valueIn f m e) (stepsIn f (magOf f top) e) := by
  have zero := h.qmin_le
  have shift : (e - min e f.qmin).toNat = (e - min (min 0 e) 0).toNat + (min (min 0 e) 0 - min e f.qmin).toNat := by omega
  have shift' : (-f.qmin).toNat + (f.qmin - min e f.qmin).toNat = (0 - min (min 0 e) 0).toNat + (min (min 0 e) 0 - min e f.qmin).toNat := by omega
  have left : (valueIn f m e : Int) = Fp.scaled (min (min 0 e) 0) (.fin false m e) * (2 ^ (min (min 0 e) 0 - min e f.qmin).toNat : Nat) := by
    unfold valueIn Fp.scaled
    rw [shift, pow_add, ← Nat.mul_assoc]
    simp
  have right : (stepsIn f (magOf f top) e : Int) = Fp.scaled (min (min 0 e) 0) (.fin false most 0) * (2 ^ (min (min 0 e) 0 - min e f.qmin).toNat : Nat) := by
    unfold stepsIn Fp.scaled
    rw [value, Nat.mul_assoc, ← pow_add, shift', pow_add, ← Nat.mul_assoc]
    simp
  have cast : compare (valueIn f m e) (stepsIn f (magOf f top) e) = compare (valueIn f m e : Int) (stepsIn f (magOf f top) e : Int) := by
    rw [← cmp_eq_compare, ← cmp_eq_compare]
    exact (Nat.strictMono_cast.cmp_map_eq _ _).symm
  rw [cast, left, right, compare_mul_right _ _ (by positivity)]
  rfl

/-- Saturation, and rounding below it: the nearest code of the grid. -/
theorem satFin_eq {f : Fmt} (h : Proper f) {top most : Nat} (value : magOf f top = most * 2 ^ (-f.qmin).toNat) (some : 0 < most)
    (code : top + 1 < 2 ^ (f.eb + f.mb)) (neg : Bool) (m : Nat) (e : Int) :
    (stepsIn f (magOf f top) e < valueIn f m e → satFin f top most neg m e = ((if neg then 0x80 else 0) + top, true)) ∧
    (m = 0 → satFin f top most neg m e = ((if neg then 0x80 else 0), false)) ∧
    (∀ lo k, 0 < m → lo + 1 ≤ top → Picks f .rn neg m e lo k → satFin f top most neg m e = ((if neg then 0x80 else 0) + k, false)) ∧
    (stepsIn f (magOf f top) e = valueIn f m e → satFin f top most neg m e = ((if neg then 0x80 else 0) + top, false)) := by
  unfold satFin
  simp only [cmp_integer h value, beq_iff_eq, compare_gt_iff_gt]
  refine ⟨fun above => if_pos above, fun zero => ?_, fun lo k pos le picks => ?_, fun same => ?_⟩
  · subst zero
    have nothing : valueIn f 0 e = 0 := Nat.zero_mul _
    rw [if_neg (by omega), if_pos rfl]
  · have below : valueIn f m e < stepsIn f (magOf f top) e := by
      refine picks.2.1.trans_le (Nat.mul_le_mul_right _ ?_)
      rcases le.lt_or_eq with less | rfl
      · exact (magOf_lt less (by omega)).le
      · rfl
    rw [if_neg below.not_gt, if_neg pos.ne', magCode_of_picks h.mantissa pos (by omega) picks]
  · have ne : m ≠ 0 := by
      rintro rfl
      have nothing : valueIn f 0 e = 0 := Nat.zero_mul _
      have pos : 0 < stepsIn f (magOf f top) e := by
        rw [value]
        exact Nat.mul_pos (Nat.mul_pos some (Nat.two_pow_pos _)) (Nat.two_pow_pos _)
      omega
    rw [if_neg same.not_lt, if_neg ne, magCode_of_picks h.mantissa (Nat.pos_of_ne_zero ne) code (picks_self code same .rn neg)]

theorem saturateF8 : Sys2Proof.Stmt.SaturateF8 := by
  refine ⟨rfl, rfl, fun neg => by cases neg <;> exact ⟨rfl, rfl⟩, fun e5m2 neg m e => ?_, by decide, by decide⟩
  cases e5m2
  · exact (satF8_fin neg m e).1 ▸ satFin_eq proper_e4m3 (by decide) (by decide) (by decide) neg m e
  · exact (satF8_fin neg m e).2 ▸ satFin_eq proper_e5m2 (by decide) (by decide) (by decide) neg m e

/-! ### The instructions (R214, R217, R218, R398) -/

/-- Bits of `%sat` are set where an instruction of one thread marks them. -/
theorem marked_runsOn (marks : Bool) (s : State) (t : Thread) (f : Thread → Thread) (mask : Word) :
    (if marks then (runsOn s t.id 4 f).setSat t.id.crewId mask else runsOn s t.id 4 f) = { runsOn s t.id 4 f with
      crews := if marks then s.crews.map (fun c => if c.id = t.id.crewId then { c with sat := c.sat ||| mask } else c) else s.crews } := by
  cases marks
  · rfl
  · simp only [if_true, State.setSat, State.modCrew, updWhere_eq_map, beq_iff_eq]
    rfl

/-- A thread that writes one register and continues. -/
theorem modThread_setReg_eq_runsOn (s : State) (i : ThreadId) (d n : Nat) (w : Word) :
    ({ s with cur := .idle } : State).modThread i (fun x => (x.setReg d w).advance n) = runsOn s i n (fun u => { u with v := u.v.set d w }) := by
  simp only [← setAt_eq_set]
  exact modThread_setRegs_eq_runsOn s i d n [w]

theorem convertAndQuantize : Sys2Proof.Stmt.ConvertAndQuantize := by
  constructor
  · intro o s core t rdv one guard r
    rw [← marked_runsOn, ← modThread_setRegs_eq_runsOn]
    exact congrArg Host.Outcome.next (laneEach_oneThread one guard)
  · intro o s core t rdv one guard q
    have marks : (qsclValue o.e5m2 (opb s t o.b) ((List.range 4).map (fun i => t.reg (o.a.val + i)))).2 = ((q 0).2 || (q 1).2 || (q 2).2 || (q 3).2) := by
      simp [qsclValue, List.range_succ, q, Bool.or_assoc]
    have bytes : (qsclValue o.e5m2 (opb s t o.b) ((List.range 4).map (fun i => t.reg (o.a.val + i)))).1 = BitVec.ofNat 32
        ((q 0).1 % 256 + 256 * ((q 1).1 % 256) + 65536 * ((q 2).1 % 256) + 16777216 * ((q 3).1 % 256)) := by
      refine congrArg (BitVec.ofNat 32) ?_
      simp [List.range_succ, leNat, q]
      omega
    rw [← marks, ← marked_runsOn, ← bytes, ← modThread_setReg_eq_runsOn]
    exact congrArg Host.Outcome.next (laneEach_oneThread one guard)

/-- Settles O38: a rounded integer is the neighbour that the mode picks, widening keeps a value's code, saturation lies at the format's greatest code,
and the two instructions write their results and mark `%sat`. -/
theorem conversions : Obligations.Conversions := ⟨convertToInteger, convertFormats, narrowCodes, saturateF8, convertAndQuantize⟩

end Sys2Proof.Proofs
end

section
/-!
PROOFS. FCMP (R312, R353), and the special operands of FSFN (R219, R359): powers of two, whole and half turns, and operands that a function keeps.
-/

namespace Sys2Proof.Proofs
open Sys2Proof Sys2Proof.Machine Sys2Proof.Laws Sys2Proof.Stmt

/-! ### FCMP -/

theorem combApply_eq_combine (c : Comb) (old r : Bool) : c.apply old r = combine c old r := by
  cases c <;> rfl

/-- A comparison with a NaN is unordered (R312). -/
theorem fcond_of_nan {a b : Word} (nan : nanOf .f32 a.toNat = true ∨ nanOf .f32 b.toNat = true) (c : FCond) :
    c.holds a b = match c with
      | .ne | .nan => true
      | _ => false := by
  have unordered : ((f32 a).isNan || (f32 b).isNan) = true := by simpa [f32, isNan_decode] using nan
  cases c <;> simp [FCond.holds, unordered]

/-- A comparison of two numbers goes by their order (R312, R353). -/
theorem fcond_of_numbers {a b : Word} (ha : nanOf .f32 a.toNat = false) (hb : nanOf .f32 b.toNat = false) (c : FCond) :
    c.holds a b = match c with
      | .eq => decide (numOf .f32 a.toNat = numOf .f32 b.toNat)
      | .ne => decide (numOf .f32 a.toNat ≠ numOf .f32 b.toNat)
      | .lt => decide (numOf .f32 a.toNat < numOf .f32 b.toNat)
      | .le => decide (numOf .f32 a.toNat ≤ numOf .f32 b.toNat)
      | .gt => decide (numOf .f32 b.toNat < numOf .f32 a.toNat)
      | .ge => decide (numOf .f32 b.toNat ≤ numOf .f32 a.toNat)
      | .num => true
      | .nan => false := by
  have order : Fp.cmp (f32 a) (f32 b) = compare (numOf .f32 a.toNat) (numOf .f32 b.toNat) := cmp_decode proper_f32 ha hb
  have ordered : ((f32 a).isNan || (f32 b).isNan) = false := by simp [f32, isNan_decode, ha, hb]
  unfold FCond.holds
  simp only [ordered, order]
  rcases lt_trichotomy (numOf .f32 a.toNat) (numOf .f32 b.toNat) with less | same | more
  · rw [compare_lt_iff_lt.2 less]
    cases c <;> simp [less, less.ne, less.le, less.not_ge, less.not_gt]
  · rw [compare_eq_iff_eq.2 same]
    cases c <;> simp [same]
  · rw [compare_gt_iff_gt.2 more]
    cases c <;> simp [more, more.ne', more.le, more.not_ge, more.not_gt]

theorem floatCompare : Sys2Proof.Stmt.FloatCompare := by
  refine ⟨fun o s core ids rdv focus => ?_, fun a b nan => ?_, fun a b ha hb => ?_⟩
  · change Host.Outcome.next (laneReg 4 o.g _ s) = _
    rw [laneReg_eq_laneNext 4 o.g _ s core ids rdv focus fun _ => thread_setPred_pc ..]
    simp only [setPred_eq_ite, combApply_eq_combine]
  · simp [fcond_of_nan nan]
  · simp [fcond_of_numbers ha hb]

/-! ### Rounded values of FP32 -/

/-- A power of two on FP32's grid (R206, R211). -/
theorem rneF32_two_pow (z : Int) : (-149 ≤ z → z < -126 → rneF32 (.fin false 1 z) = BitVec.ofNat 32 (2 ^ (z + 149).toNat)) ∧
    (-126 ≤ z → z < 128 → rneF32 (.fin false 1 z) = BitVec.ofNat 32 ((z + 127).toNat * 2 ^ 23)) ∧
    (128 ≤ z → rneF32 (.fin false 1 z) = 0x7F800000) := by
  have steps : ∀ {a : Nat}, z = -149 + a → ∀ k, stepsIn .f32 k z = k := fun h k => by rw [h, ← qmin_f32, steps_of_ge]
  have value : ∀ {a : Nat}, z = -149 + a → valueIn .f32 1 z = 2 ^ a := fun h => by rw [h, ← qmin_f32, value_of_ge, Nat.one_mul]
  refine ⟨fun low high => ?_, fun low high => ?_, fun low => ?_⟩
  · obtain ⟨a, ha⟩ : ∃ a : Nat, z = -149 + a := ⟨(z + 149).toNat, by omega⟩
    have small : 2 ^ a < 2 ^ 23 := Nat.pow_lt_pow_right (by omega) (by omega)
    have code : magOf .f32 (2 ^ a) = 2 ^ a := by
      have := magOf_binade (f := .f32) (p := 0) (s := 2 ^ a) (by simp [Fmt.f32]; omega) (.inl rfl) (by simp [Fmt.f32]; omega)
      simpa using this
    rw [show (z + 149).toNat = a by omega, rneF32, round_of_value proper_f32 .rn false (k := 2 ^ a) (by simp [infCode, Fmt.f32]; omega)
      (by rw [steps ha, value ha, code])]
    exact congrArg _ (Nat.zero_add _)
  · obtain ⟨p, hp⟩ : ∃ p : Nat, z = -126 + p := ⟨(z + 126).toNat, by omega⟩
    have ha : z = -149 + ((p + 23 : Nat) : Int) := by omega
    have product : (z + 127).toNat * 2 ^ 23 = p * 2 ^ 23 + 2 ^ 23 := by rw [show (z + 127).toNat = p + 1 by omega]; ring
    have code : magOf .f32 (p * 2 ^ 23 + 2 ^ 23) = 2 ^ 23 * 2 ^ p :=
      magOf_binade (f := .f32) (by simp [Fmt.f32]) (.inr le_rfl) (by simp [Fmt.f32]; omega)
    rw [product, rneF32, round_of_value proper_f32 .rn false (k := p * 2 ^ 23 + 2 ^ 23) (by simp [infCode, Fmt.f32]; omega)
      (by rw [steps ha, value ha, code, pow_add, Nat.mul_comm])]
    exact congrArg _ (Nat.zero_add _)
  · obtain ⟨a, ha⟩ : ∃ a : Nat, z = -149 + a := ⟨(z + 149).toNat, by omega⟩
    rw [rneF32, round_of_beyond proper_f32 .rn false Nat.one_pos]
    · rfl
    · rw [steps ha, value ha, magOf_infCode (by decide)]
      exact Nat.pow_le_pow_right (by omega) (by simp [Fmt.f32]; omega)

/-- The value of a word that is no NaN gives the word back. -/
theorem rneF32_f32 {a : Word} (number : nanOf .f32 a.toNat = false) : rneF32 (f32 a) = a := by
  rw [rneF32, f32, round_decode proper_f32 .rn a.isLt number, BitVec.ofNat_toNat, BitVec.setWidth_eq]

theorem rneF32_zero (neg : Bool) (e : Int) : rneF32 (.fin neg 0 e) = if neg then 0x80000000 else 0 := by
  rw [rneF32, round_zero]
  cases neg <;> rfl

/-- A zero with the sign of a word is that word's sign bit. -/
theorem rneF32_zero_negCode (a : Word) (e : Int) : rneF32 (.fin (negCode .f32 a.toNat) 0 e) = a &&& 0x80000000 := by
  have sign : a.getLsbD 31 = negCode .f32 a.toNat := by
    rw [BitVec.getLsbD, Nat.testBit_eq_decide_div_mod_eq, negCode, Bool.beq_eq_decide_eq]
    rfl
  rw [rneF32_zero, ← sign]
  exact (BitVec.and_twoPow a 31).symm

/-- An FP32 word is a NaN, an infinity, or finite: its value in steps of 2^-149. -/
theorem codeStands_f32 (a : Word) : CodeStands .f32 a.toNat (f32 a) := codeStands_decode ..

theorem magOf_infCode_f32 : magOf .f32 (infCode .f32) = 2 ^ (23 + 254) :=
  (magOf_infCode (by decide)).trans (congrArg (2 ^ ·) (by decide))

/-- A magnitude below that of the infinities is that of a finite word. -/
theorem finite_of_magOf_lt {a : Word} (h : magOf .f32 a.toNat < 2 ^ 277) : ∃ m i : Nat, f32 a = .fin (negCode .f32 a.toNat) m (-149 + i) ∧
    m * 2 ^ i = magOf .f32 a.toNat ∧ nanOf .f32 a.toNat = false := by
  have stands := codeStands_f32 a
  rw [← qmin_f32]
  generalize f32 a = x at *
  cases stands with
  | nan not =>
    have last : a.toNat / 2 ^ 23 % 2 ^ 8 = 255 := by
      unfold nanOf at not
      exact beq_iff_eq.1 (Bool.and_eq_true_iff.1 not).1
    rw [magOf_f32, last, if_neg (by omega)] at h
    have whole : 2 ^ (23 + 254) ≤ (2 ^ 23 + a.toNat % 2 ^ 23) * 2 ^ (255 - 1) := by
      rw [pow_add]
      exact Nat.mul_le_mul_right _ (Nat.le_add_right ..)
    exact absurd h ((congrArg (2 ^ ·) (show 277 = 23 + 254 from rfl)).le.trans whole).not_gt
  | inf _ code =>
    rw [← magOf_mod, code, magOf_infCode_f32] at h
    exact absurd h (congrArg (2 ^ ·) (show 277 = 23 + 254 from rfl)).le.not_gt
  | fin number _ value => exact ⟨_, _, rfl, value, number⟩

/-! ### Special operands (R219, R359) -/

theorem value_of_special {fn : SfnCode} {a : Word} {v : Fp} (h : Sfn.special fn (f32 a) = some v) : Sfn.value fn a = rneF32 v := by
  simp only [Sfn.value, h]

theorem value_of_nan (fn : SfnCode) {a : Word} (nan : nanOf .f32 a.toNat = true) : Sfn.value fn a = 0x7FC00000 := by
  have value : f32 a = .nan := by
    have stands := codeStands_f32 a
    generalize f32 a = x at *
    cases stands with
    | nan => rfl
    | inf number | fin number => rw [nan] at number; cases number
  refine value_of_special (v := .nan) ?_
  rw [value]
  cases fn <;> rfl

/-- Below zero there is no square root, reciprocal square root or logarithm (R219). -/
theorem value_of_negative {a : Word} (h : numOf .f32 a.toNat < 0) :
    Sfn.value .rsq a = 0x7FC00000 ∧ Sfn.value .sqrt a = 0x7FC00000 ∧ Sfn.value .log2 a = 0x7FC00000 := by
  have special : ∀ fn, Sfn.special fn (f32 a) = some .nan → Sfn.value fn a = 0x7FC00000 := fun fn h => value_of_special h
  have negative : negCode .f32 a.toNat = true ∧ 0 < magOf .f32 a.toNat := by
    unfold numOf at h
    split at h
    · exact ⟨‹_›, by omega⟩
    · omega
  have stands := codeStands_f32 a
  generalize f32 a = x at *
  cases stands with
  | nan not => exact ⟨special .rsq rfl, special .sqrt rfl, special .log2 rfl⟩
  | inf =>
    rw [negative.1] at special
    exact ⟨special .rsq rfl, special .sqrt rfl, special .log2 rfl⟩
  | @fin m i _ _ value =>
    rw [negative.1] at special
    cases m with
    | zero => omega
    | succ m => exact ⟨special .rsq rfl, special .sqrt rfl, special .log2 rfl⟩

/-- `EXP2` of a whole number, which is held below 2^12 binades. -/
theorem special_exp2_of_whole {s : Bool} {m n : Nat} {e : Int} (pos : m ≠ 0) (whole : 0 ≤ e ∨ m % 2 ^ (-e).toNat = 0)
    (int : (if 0 ≤ e then m * 2 ^ (min e 12).toNat else m / 2 ^ (-e).toNat) = n) : Sfn.special .exp2 (.fin s m e) =
      if n > 149 ∧ s then none else some (.fin false 1 (if s then -(n : Int) else (min n 1000 : Nat))) := by
  obtain ⟨m, rfl⟩ := Nat.exists_eq_succ_of_ne_zero pos
  simp only [Sfn.special]
  rw [if_pos whole, int]

/-- An integer of magnitude `k`, as `EXP2` takes it: its power of two where that is FP32's or beyond it (R359). -/
theorem special_exp2 (s : Bool) {m i k : Nat} (pos : m ≠ 0) (value : m * 2 ^ i = k * 2 ^ 149) (normal : i = 0 ∨ 2 ^ 23 ≤ m) :
    Sfn.special .exp2 (.fin s m (-149 + i)) =
      if k > 149 ∧ s then none else some (.fin false 1 (if s then -(k : Int) else (min k 1000 : Nat))) := by
  rcases Nat.lt_or_ge i 149 with fraction | whole
  · obtain ⟨d, hd⟩ : ∃ d, 149 = i + d := Nat.exists_eq_add_of_le fraction.le
    have same : m = k * 2 ^ d := by
      rw [hd, pow_add, Nat.mul_left_comm, Nat.mul_comm] at value
      exact Nat.eq_of_mul_eq_mul_left (Nat.two_pow_pos i) value
    have places : (-(-149 + (i : Int))).toNat = d := by omega
    refine special_exp2_of_whole pos (.inr (by rw [places, same, Nat.mul_mod_left])) ?_
    rw [if_neg (by omega), places, same, Nat.mul_div_cancel _ (Nat.two_pow_pos d)]
  · obtain ⟨j, rfl⟩ := Nat.exists_eq_add_of_le' whole
    have same : m * 2 ^ j = k := by
      rw [pow_add, ← Nat.mul_assoc] at value
      exact Nat.eq_of_mul_eq_mul_right (Nat.two_pow_pos 149) value
    have places : (min (-149 + ((j + 149 : Nat) : Int)) 12).toNat = min j 12 := by omega
    rw [special_exp2_of_whole pos (.inl (by omega)) (if_pos (by omega)), places]
    rcases Nat.le_total j 12 with short | long
    · rw [Nat.min_eq_left short, same]
    · have large : 1000 ≤ m * 2 ^ 12 := by omega
      have large' : 1000 ≤ k := by
        rw [← same]
        exact large.trans (Nat.mul_le_mul_left _ (Nat.pow_le_pow_right (by omega) long))
      rw [Nat.min_eq_right long]
      cases s
      · rw [Nat.min_eq_right large, Nat.min_eq_right large']
        simp
      · rw [if_pos ⟨by omega, rfl⟩, if_pos ⟨by omega, rfl⟩]

/-- `EXP2` of an integer (R219, R359). -/
theorem exp2_of_integer {a : Word} {n : Int} (number : nanOf .f32 a.toNat = false) (integer : numOf .f32 a.toNat = n * 2 ^ 149) :
    (-149 ≤ n → n < 128 → Sfn.value .exp2 a = rneF32 (.fin false 1 n)) ∧ (128 ≤ n → Sfn.value .exp2 a = 0x7F800000) := by
  have magnitude : magOf .f32 a.toNat = n.natAbs * 2 ^ 149 := by
    have abs : (numOf .f32 a.toNat).natAbs = magOf .f32 a.toNat := by unfold numOf; split <;> simp
    rw [← abs, integer, Int.natAbs_mul]
    rfl
  have sign : n ≠ 0 → negCode .f32 a.toNat = decide (n < 0) := fun ne => by
    unfold numOf at integer
    split at integer <;> rename_i neg
    · rw [neg]
      exact (decide_eq_true (by omega)).symm
    · rw [Bool.not_eq_true] at neg
      rw [neg]
      exact (decide_eq_false (by omega)).symm
  have stands := codeStands_f32 a
  cases value : f32 a with
  | nan =>
    rw [value] at stands
    cases stands with
    | nan not => rw [number] at not; cases not
  | inf s =>
    rw [value] at stands
    cases stands with
    | inf _ code =>
      have size : n.natAbs = 2 ^ 128 := by
        rw [← magOf_mod, code, magOf_infCode_f32, show 23 + 254 = 128 + 149 from rfl, pow_add] at magnitude
        exact (Nat.eq_of_mul_eq_mul_right (Nat.two_pow_pos 149) magnitude).symm
      refine ⟨by omega, fun above => ?_⟩
      have plus : negCode .f32 a.toNat = false := by rw [sign (by omega)]; exact decide_eq_false (by omega)
      exact value_of_special (v := .inf false) (by rw [value, plus]; rfl)
  | fin s m e =>
    rw [value] at stands
    cases stands with
    | @fin _ i _ _ product _ normal =>
      rw [magnitude] at product
      rw [qmin_f32] at value
      rcases Nat.eq_zero_or_pos m with rfl | pos
      · obtain rfl : n = 0 := by omega
        exact ⟨fun _ _ => value_of_special (by rw [value]; rfl), by omega⟩
      · have ne : n ≠ 0 := by
          rintro rfl
          have some : 0 < m * 2 ^ i := Nat.mul_pos pos (Nat.two_pow_pos i)
          omega
        have special := special_exp2 (negCode .f32 a.toNat) pos.ne' product normal
        rw [← value, sign ne] at special
        refine ⟨fun low high => ?_, fun above => ?_⟩
        · rw [if_neg (by simp only [decide_eq_true_eq]; omega)] at special
          rw [value_of_special special]
          congr 2
          by_cases neg : n < 0
          · rw [if_pos (decide_eq_true neg)]
            omega
          · rw [if_neg (by simpa using neg)]
            omega
        · rw [if_neg (by simp only [decide_eq_true_eq]; omega)] at special
          rw [value_of_special special]
          refine (rneF32_two_pow _).2.2 ?_
          rw [if_neg (by simpa using show 0 ≤ n by omega)]
          omega

/-- The sine of whole turns and half turns is 0 (R359). -/
theorem sinTurn_eq_zero (s : Bool) {m : Nat} {e : Int} (whole : 0 ≤ e ∨ m % 2 ^ (-e).toNat = 0) : Sfn.approx.sinTurn s m e = .fin s 0 0 := by
  unfold Sfn.approx.sinTurn
  by_cases integer : 0 ≤ e
  · rw [if_pos integer]
  · have divides : m % 2 ^ ((-e).toNat + 1) % 2 ^ (-e).toNat = 0 := by
      rw [Nat.mod_mod_of_dvd _ (Nat.pow_dvd_pow 2 (Nat.le_succ _))]
      exact whole.resolve_left integer
    rw [if_neg integer]
    simp [divides]

/-- The places of a value below 2^0 are zero where its number of steps of 2^-149 has as many. -/
theorem mod_of_steps {m i d : Nat} (hd : i + d = 149) {r : Nat} (rest : m * 2 ^ i % 2 ^ 149 = r * 2 ^ i) : m % 2 ^ d = r := by
  rw [← hd, Nat.add_comm, pow_add, Nat.mul_mod_mul_right] at rest
  exact Nat.eq_of_mul_eq_mul_right (Nat.two_pow_pos i) rest

/-- `SINPI` of an integer is 0 with the operand's sign (R219). -/
theorem sinpi_of_integer {a : Word} (finite : magOf .f32 a.toNat < 2 ^ 277) (integer : magOf .f32 a.toNat % 2 ^ 149 = 0) :
    Sfn.value .sinpi a = a &&& 0x80000000 := by
  obtain ⟨m, i, value, steps, -⟩ := finite_of_magOf_lt finite
  rw [← steps] at integer
  refine (value_of_special (v := .fin (negCode .f32 a.toNat) 0 0) ?_).trans (rneF32_zero_negCode a 0)
  have whole : 0 ≤ -149 + (i : Int) ∨ m % 2 ^ (-(-149 + (i : Int))).toNat = 0 := by
    rcases Nat.lt_or_ge i 149 with fraction | high
    · exact .inr (mod_of_steps (i := i) (by omega) (by rw [integer, Nat.zero_mul]))
    · exact .inl (by omega)
  have half : 0 ≤ -149 + (i : Int) + 1 ∨ m % 2 ^ (-(-149 + (i : Int) + 1)).toNat = 0 :=
    whole.imp (by omega) fun divides => Nat.mod_eq_zero_of_dvd ((Nat.pow_dvd_pow 2 (by omega)).trans (Nat.dvd_of_mod_eq_zero divides))
  rw [value]
  cases m with
  | zero => rfl
  | succ m =>
    simp only [Sfn.special]
    rw [if_pos half, Sfn.approx, sinTurn_eq_zero _ whole]

/-- `COSPI` of an odd multiple of one half is +0 (R219). -/
theorem cospi_of_half {a : Word} (finite : magOf .f32 a.toNat < 2 ^ 277) (half : magOf .f32 a.toNat % 2 ^ 149 = 2 ^ 148) :
    Sfn.value .cospi a = 0x00000000 := by
  obtain ⟨m, i, value, steps, -⟩ := finite_of_magOf_lt finite
  rw [← steps] at half
  refine value_of_special (v := .fin false 0 0) ?_
  have fraction : i < 149 := by
    by_contra high
    rw [Nat.mod_eq_zero_of_dvd (Dvd.dvd.mul_left (Nat.pow_dvd_pow 2 (Nat.not_lt.1 high)) m)] at half
    exact absurd half (by norm_num)
  obtain ⟨d, hd⟩ : ∃ d, i + (d + 1) = 149 := ⟨148 - i, by omega⟩
  have odd : m % 2 ^ (d + 1) = 2 ^ d := mod_of_steps hd (by rw [half, ← pow_add, show d + i = 148 by omega])
  have places : (-(-149 + (i : Int) + 1)).toNat = d := by omega
  have places' : (-(-149 + (i : Int))).toNat = d + 1 := by omega
  have divides : m % 2 ^ d = 0 := by
    rw [← Nat.mod_mod_of_dvd m (Nat.pow_dvd_pow 2 d.le_succ), odd, Nat.mod_self]
  have turn : (2 * m + 2 ^ (d + 1)) % 2 ^ (-(-149 + (i : Int) - 1)).toNat = 0 := by
    rw [show (-(-149 + (i : Int) - 1)).toNat = d + 1 + 1 by omega, ← Nat.div_add_mod m (2 ^ (d + 1)), odd, Nat.mul_add, pow_succ 2 (d + 1),
      show ∀ p q : Nat, 2 * (2 ^ (d + 1) * q) + 2 * p + 2 ^ (d + 1) = 2 ^ (d + 1) * 2 * q + (2 * p + 2 ^ (d + 1)) by intros; ring, Nat.mul_add_mod,
      show 2 * 2 ^ d + 2 ^ (d + 1) = 2 ^ (d + 1) * 2 by ring, Nat.mod_self]
  rw [value]
  cases m with
  | zero => exact absurd odd (by simp [(Nat.two_pow_pos d).ne])
  | succ m =>
    simp only [Sfn.special]
    rw [if_pos (.inr (places ▸ divides)), Sfn.approx]
    simp only [if_neg (show ¬0 ≤ -149 + (i : Int) by omega), places']
    rw [sinTurn_eq_zero _ (.inr turn)]

/-- `TANH` keeps an operand below 2^-12 (R359). -/
theorem tanh_of_small {a : Word} (small : magOf .f32 a.toNat < 2 ^ 137) : Sfn.value .tanh a = a := by
  obtain ⟨m, i, value, steps, number⟩ := finite_of_magOf_lt (small.trans (pow_lt_pow_right₀ (show 1 < 2 by decide) (show 137 < 277 by decide)))
  have kept : rneF32 (.fin (negCode .f32 a.toNat) m (-149 + i)) = a := value ▸ rneF32_f32 number
  cases m with
  | zero =>
    refine (value_of_special (v := .fin (negCode .f32 a.toNat) 0 0) (by rw [value]; rfl)).trans (Eq.trans ?_ kept)
    rw [rneF32_zero, rneF32_zero]
  | succ m =>
    have below : (Nat.log2 (m + 1) : Int) + (-149 + i) < -12 := by
      have shifted : Nat.log2 ((m + 1) * 2 ^ i) = Nat.log2 (m + 1) + i := log2_mul_two_pow (Nat.log2_self_le (by omega)) Nat.lt_log2_self i
      have less : Nat.log2 ((m + 1) * 2 ^ i) < 137 := (Nat.log2_lt (by positivity)).2 (steps ▸ small)
      omega
    refine (value_of_special ?_).trans kept
    rw [value]
    simp only [Sfn.special]
    rw [if_pos below]

theorem specialOperands : Sys2Proof.Stmt.SpecialOperands := by
  refine ⟨fun o => writesReg_of_laneReg fun _ => rfl, fun fn a nan => value_of_nan fn nan, ?_, ?_, ?_, ?_, ?_, ?_, ?_, ?_, ?_, ?_, ?_, ?_, ?_, ?_,
    fun a h => value_of_negative h, ?_, ?_, fun a n number integer => ?exp2, ?_, ?_, ?_, ?_, fun a => sinpi_of_integer, fun a => cospi_of_half, ?_, ?_, ?_, ?_,
    fun a => tanh_of_small⟩
  case exp2 =>
    obtain ⟨finite, above⟩ := exp2_of_integer number integer
    exact ⟨fun low high => (finite low (by omega)).trans ((rneF32_two_pow n).1 low high),
      fun low high => (finite (by omega) high).trans ((rneF32_two_pow n).2.1 low high), above⟩
  all_goals decide +kernel

end Sys2Proof.Proofs
end

section
/-!
PROOFS. The bound of FSFN's functions, the arithmetic of `RCP` and `RSQ`, and the correctly rounded `SQRT` (R219, R359).
-/

namespace Sys2Proof.Proofs
open Sys2Proof Sys2Proof.Machine Sys2Proof.Laws Sys2Proof.Stmt

/-! ### The bound -/

/-- A word is its sign and its magnitude code. -/
theorem word_eq_signed (y : Word) : y = BitVec.ofNat 32 (signed .f32 (negCode .f32 y.toNat) (y.toNat % 2 ^ 31)) := by
  rw [show signed .f32 (negCode .f32 y.toNat) (y.toNat % 2 ^ 31) = y.toNat from signed_negCode y.isLt, BitVec.ofNat_toNat, BitVec.setWidth_eq]

/-- What a candidate that lies within the bound of a finite result can be (R219). -/
theorem within_cases {fn : SfnCode} {x : Fp} {s : Bool} {m : Nat} {e : Int} {y : Word} (h : Sfn.within fn x (.fin s m e) y = true) :
    ((Nat.log2 m : Int) + e < -149 ∧ (y = (if s then 0x80000000 else 0x00000000) ∨ y = if s then 0x80000001 else 0x00000001)) ∨
    ∃ k g t, Fp.add (f32 y) (.fin (!s) m e) = .fin t k g ∧
      (Fp.cmp (.fin false k g) (.fin false (if fn = .rcp then 1 else 2) (max ((Nat.log2 m : Int) + e - 23) (-149))) ≠ .gt ∨
       (fn = .log2 ∧ Fp.cmp x (.fin false 1 (-1)) ≠ .lt ∧ Fp.cmp x (.fin false 2 0) ≠ .gt ∧
        Fp.cmp (.fin false k g) (.fin false 1 (-22)) ≠ .gt)) := by
  have stands := codeStands_f32 y
  unfold Sfn.within at h
  cases value : f32 y with
  | nan | inf => simp [value] at h
  | fin t n f =>
    rw [value] at stands h
    cases stands with
    | @fin _ i _ finite steps =>
      have units : Sfn.ulps fn = if fn = .rcp then 1 else 2 := by cases fn <;> rfl
      rw [← units]
      simp only at h
      generalize far : Fp.add _ (.fin (!s) m e) = w at h ⊢
      by_cases tiny : (Nat.log2 m : Int) + e < -149
      · rw [if_pos tiny, Bool.and_eq_true, beq_iff_eq] at h
        obtain ⟨sign, least⟩ := h
        have whole := word_eq_signed y
        rw [← sign] at whole
        refine .inl ⟨tiny, ?_⟩
        rcases Bool.or_eq_true_iff.1 least with zero | one
        · have code : y.toNat % 2 ^ 31 = 0 := by
            by_contra some
            have := magOf_lt (Nat.pos_of_ne_zero some) (Nat.mod_lt _ (Nat.two_pow_pos (Fmt.f32.eb + Fmt.f32.mb)))
            rw [show y.toNat % 2 ^ 31 = y.toNat % 2 ^ (Fmt.f32.eb + Fmt.f32.mb) from rfl, magOf_mod, ← steps, beq_iff_eq.1 zero] at this
            omega
          rw [code] at whole
          refine .inl (whole.trans ?_)
          cases s <;> rfl
        · rw [show y.toNat % 2 ^ 31 = 1 from beq_iff_eq.1 one] at whole
          refine .inr (whole.trans ?_)
          cases s <;> rfl
      · rw [if_neg tiny] at h
        cases w with
        | nan | inf => cases h
        | fin t k g =>
          refine .inr ⟨k, g, t, rfl, ?_⟩
          simp only at h
          split_ifs at h with wide
          · simp only [Bool.and_eq_true, beq_iff_eq, bne_iff_ne] at wide
            exact .inr ⟨wide.1.1, wide.1.2, wide.2, bne_iff_ne.1 h⟩
          · exact .inl (bne_iff_ne.1 h)

/-! ### Reciprocals and roots -/

/-- The integer square root (R219). -/
theorem isqrtBits_spec (x n r : Nat) (low : r * r ≤ x) (high : x < (r + 2 ^ n) * (r + 2 ^ n)) :
    Sfn.isqrtBits x n r * Sfn.isqrtBits x n r ≤ x ∧ x < (Sfn.isqrtBits x n r + 1) * (Sfn.isqrtBits x n r + 1) := by
  induction n generalizing r with
  | zero => exact ⟨low, high⟩
  | succ n ih =>
    rw [Sfn.isqrtBits]
    split_ifs with bit
    · exact ih _ bit (by rwa [Nat.add_assoc, ← Nat.two_mul, Nat.mul_comm 2, ← pow_succ])
    · exact ih _ low (Nat.not_le.1 bit)

/-- The root of a quotient: in the original's terms. -/
theorem isqrtBits_div {c b n : Nat} (hb : 0 < b) (high : c < 2 ^ n * 2 ^ n) :
    b * Sfn.isqrtBits (c / b) n 0 ^ 2 ≤ c ∧ c < b * (Sfn.isqrtBits (c / b) n 0 + 1) ^ 2 := by
  obtain ⟨below, above⟩ := isqrtBits_spec (c / b) n 0 (Nat.zero_le _) (by rw [Nat.zero_add]; exact (Nat.div_le_self c b).trans_lt high)
  rw [sq, sq]
  exact ⟨(Nat.mul_le_mul_left b below).trans (Nat.mul_div_le c b), (Nat.div_lt_iff_lt_mul hb).1 above |>.trans_eq (Nat.mul_comm _ _)⟩

theorem specialBound : Sys2Proof.Stmt.SpecialBound := by
  refine ⟨?bound, fun s m e pos _ => ?rcp, fun m e j odd pos _ parity => ?rsq⟩
  case bound =>
    intro fn a neg neg' m m' e e' value free result y top ulp far
    have writes : y = if Sfn.within fn (f32 a) (.fin neg' m' e') (Config.sfnCandidate fn.code a) then Config.sfnCandidate fn.code a
        else rneF32 (.fin neg' m' e') := by
      simp only [y, Sfn.value, free]
      rw [value]
      simp only [result]
    by_cases taken : Sfn.within fn (f32 a) (.fin neg' m' e') (Config.sfnCandidate fn.code a) = true
    · rw [if_pos taken] at writes
      rw [← writes] at taken
      exact .inr (within_cases taken)
    · rw [if_neg taken] at writes
      exact .inl writes
  case rcp => exact ⟨Sfn.one / m, 160, by omega, rfl, Nat.mul_div_le _ _, Nat.lt_mul_div_succ _ pos⟩
  case rsq =>
    have square : Sfn.one * Sfn.one = 2 ^ (2 * 160) := by rw [Nat.two_mul, pow_add]; rfl
    have small : Sfn.one * Sfn.one < 2 ^ 161 * 2 ^ 161 := by norm_num [Sfn.one, Sfn.prec]
    have approx : ∀ x, Sfn.isqrtBits (Sfn.one * Sfn.one / x) 161 0 = Sfn.isqrtBits (2 ^ (2 * 160) / x) 161 0 := fun x => by rw [square]
    cases odd
    · have even : e % 2 = 0 := by simp at parity; omega
      obtain ⟨below, above⟩ := isqrtBits_div pos small
      rw [square] at below above
      refine ⟨Sfn.isqrtBits (2 ^ (2 * 160) / m) 161 0, 160, by omega, ?_, by rwa [Bool.toNat_false, pow_zero, Nat.one_mul],
        by rwa [Bool.toNat_false, pow_zero, Nat.one_mul]⟩
      unfold Sfn.approx
      simp only [Bool.false_eq_true, if_false, if_pos even, approx]
      exact congrArg _ (by simp at parity; simp [Sfn.prec]; omega)
    · have even : ¬e % 2 = 0 := by simp at parity; omega
      obtain ⟨below, above⟩ := isqrtBits_div (b := 2 * m) (by omega) small
      rw [square] at below above
      refine ⟨Sfn.isqrtBits (2 ^ (2 * 160) / (2 * m)) 161 0, 160, by omega, ?_, by rwa [Bool.toNat_true, pow_one],
        by rwa [Bool.toNat_true, pow_one]⟩
      unfold Sfn.approx
      simp only [Bool.false_eq_true, if_false, if_neg even, approx]
      exact congrArg _ (by simp at parity; simp [Sfn.prec]; omega)

/-! ### Square roots -/

/-- Twice the root of `n` rounded down, and one more where the root is not exact, stands for twice the root: it compares with even numbers as that does. -/
theorem even_compare_root {n r : Nat} (below : r * r ≤ n) (above : n < (r + 1) * (r + 1)) (j : Nat) :
    (2 * j ≤ 2 * r + (if r * r = n then 0 else 1) ↔ j * j ≤ n) ∧ (2 * j < 2 * r + (if r * r = n then 0 else 1) ↔ j * j < n) := by
  rcases Nat.lt_trichotomy j r with less | rfl | more
  · have inside : j * j < r * r := Nat.mul_self_lt_mul_self less
    constructor <;> (constructor <;> intro <;> split_ifs at * <;> omega)
  · split_ifs with exact' <;> constructor <;> (constructor <;> intro <;> omega)
  · have outside : (r + 1) * (r + 1) ≤ j * j := Nat.mul_self_le_mul_self more
    split_ifs <;> constructor <;> (constructor <;> intro <;> omega)

/-- A value that starts at or below the first step and ends below the last lies between two neighbours. -/
theorem exists_between {g : Nat → Nat} {n v : Nat} (low : g 0 ≤ v) (high : v < g n) : ∃ k, k < n ∧ g k ≤ v ∧ v < g (k + 1) := by
  induction n with
  | zero => omega
  | succ n ih =>
    rcases Nat.lt_or_ge v (g n) with below | here
    · obtain ⟨k, less, between⟩ := ih below
      exact ⟨k, by omega, between⟩
    · exact ⟨n, n.lt_succ_self, here, high⟩

/-- The FP32 code between whose half-way points a root lies: `x` is the square of the root in half steps, as the statement on `SQRT` has it. -/
def NearestRoot (x k : Nat) : Prop :=
  0 < k ∧ k < 0x7F7FFFFF ∧ (magOf .f32 (k - 1) + magOf .f32 k) ^ 2 < x ∧ x < (magOf .f32 k + magOf .f32 (k + 1)) ^ 2

/-- No half-way point of FP32 is the root of a number of 25 bits times a power of four: its own significand has 25 bits (R219). -/
theorem square_ne_of_odd {b g d j : Nat} (pos : 0 < b) (short : b < 2 ^ 25) (long : 2 ^ 24 ≤ g) (odd : g % 2 = 1) :
    (g * 2 ^ d) * (g * 2 ^ d) ≠ b * 2 ^ j := by
  intro same
  have divides : g * g ∣ b * 2 ^ j := ⟨2 ^ d * 2 ^ d, by rw [← same]; ring⟩
  have coprime : Nat.Coprime (g * g) (2 ^ j) :=
    Nat.Coprime.pow_right j (Nat.Coprime.mul_left (Nat.coprime_two_right.2 (Nat.odd_iff.2 odd)) (Nat.coprime_two_right.2 (Nat.odd_iff.2 odd)))
  have le := Nat.le_of_dvd pos (coprime.dvd_of_dvd_mul_right divides)
  have large : 2 ^ 24 * 2 ^ 24 ≤ g * g := Nat.mul_le_mul long long
  omega

/-- Between two neighbours whose doubles and whose sum compare with the value `v` as the squares do with `x`, the nearer one is the nearest root. -/
theorem exists_nearestRoot {lo s u v x : Nat} (some : 0 < lo) (large : lo + 1 < 0x7F7FFFFF) (here : magOf .f32 lo = s * u)
    (next : magOf .f32 (lo + 1) = (s + 1) * u) (under : magOf .f32 lo ≤ v) (past : v < magOf .f32 (lo + 1))
    (le : ∀ g, g * u ≤ 2 * v ↔ (g * u) ^ 2 ≤ x) (lt : ∀ g, g * u < 2 * v ↔ (g * u) ^ 2 < x) (noTie : (2 * s + 1) * u ≠ 2 * v) :
    ∃ k, NearestRoot x k ∧ (2 * v < magOf .f32 lo + magOf .f32 (lo + 1) ∧ k = lo ∨ magOf .f32 lo + magOf .f32 (lo + 1) < 2 * v ∧ k = lo + 1) := by
  have mid : magOf .f32 lo + magOf .f32 (lo + 1) = (2 * s + 1) * u := by rw [here, next]; ring
  rcases Nat.lt_or_gt_of_ne noTie with up | down
  · have further : magOf .f32 (lo + 1) < magOf .f32 (lo + 1 + 1) :=
      magOf_lt_succ (lt_of_le_of_lt large (show 0x7F7FFFFF < 2 ^ (Fmt.f32.eb + Fmt.f32.mb) by decide))
    refine ⟨lo + 1, ⟨lo.succ_pos, large, ?_, ?_⟩, .inr ⟨mid ▸ up, rfl⟩⟩
    · rw [Nat.add_sub_cancel, mid]
      exact (lt _).1 up
    · have above : ¬2 * (s + 1) * u ≤ 2 * v := by rw [Nat.mul_assoc, ← next]; omega
      refine (Nat.not_le.1 fun below => above ((le _).2 below)).trans_le (Nat.pow_le_pow_left ?_ 2)
      rw [Nat.mul_assoc, ← next]
      omega
  · have nearer : magOf .f32 (lo - 1) < magOf .f32 lo := magOf_lt (by omega) (lt_trans (Nat.lt_of_succ_lt large) (by decide))
    refine ⟨lo, ⟨some, Nat.lt_of_succ_lt large, ?_, ?_⟩, .inl ⟨mid ▸ down, rfl⟩⟩
    · have least : 2 * s * u ≤ 2 * v := by rw [Nat.mul_assoc, ← here]; omega
      refine (Nat.pow_lt_pow_left ?_ (by decide)).trans_le ((le _).1 least)
      rw [Nat.mul_assoc, ← here]
      omega
    · rw [mid]
      exact Nat.not_le.1 fun below => absurd ((le _).2 below) (Nat.not_le.2 down)

/-- The model's root of `b`·4^(t−75), rounded to FP32, is the nearest one (R219). -/
theorem nearestRoot_of_isqrt {b t r : Nat} (pos : 0 < b) (short : b < 2 ^ 25) (low : t ≤ 127) (below : r * r ≤ b * 2 ^ 120)
    (above : b * 2 ^ 120 < (r + 1) * (r + 1)) : ∃ k, NearestRoot (b * 2 ^ 120 * (2 ^ (t + 15) * 2 ^ (t + 15))) k ∧
      Fmt.f32.round .rn (.fin false (2 * r + if r * r = b * 2 ^ 120 then 0 else 1) (-149 + (t + 13 : Nat))) = k := by
  have compare := even_compare_root below above
  generalize hw : (2 * r + if r * r = b * 2 ^ 120 then 0 else 1) = w at *
  have least : 2 ^ 60 ≤ r := by
    by_contra less
    have : (r + 1) * (r + 1) ≤ 2 ^ 60 * 2 ^ 60 := Nat.mul_self_le_mul_self (by omega)
    omega
  have most : r < 2 ^ 73 := by
    by_contra more
    have : 2 ^ 73 * 2 ^ 73 ≤ r * r := Nat.mul_self_le_mul_self (by omega)
    omega
  have range : 2 ^ 61 ≤ w ∧ w < 2 ^ 75 := by split_ifs at hw <;> omega
  -- the neighbours of the value
  have value : valueIn .f32 w (-149 + (t + 13 : Nat)) = w * 2 ^ (t + 13) := by rw [← qmin_f32, value_of_ge]
  have steps : ∀ k, stepsIn .f32 k (-149 + (t + 13 : Nat)) = k := fun k => by rw [← qmin_f32, steps_of_ge]
  have inside : w * 2 ^ (t + 13) < magOf .f32 (infCode .f32) := by
    rw [magOf_infCode_f32]
    calc w * 2 ^ (t + 13) < 2 ^ 75 * 2 ^ (t + 13) := Nat.mul_lt_mul_of_pos_right range.2 (Nat.two_pow_pos _)
      _ = 2 ^ (75 + (t + 13)) := (pow_add ..).symm
      _ ≤ 2 ^ (23 + 254) := pow_le_pow_right₀ (by decide) (by omega)
  obtain ⟨lo, finite, under, past⟩ := exists_between (g := magOf .f32) (by rw [magOf_zero]; exact Nat.zero_le _) inside
  obtain ⟨p, s, rfl, high, normal⟩ := exists_binade .f32 lo
  have code : p * 2 ^ Fmt.f32.mb + s + 1 < 2 ^ (Fmt.f32.eb + Fmt.f32.mb) := by have := infCode_lt .f32; omega
  obtain ⟨here, next⟩ := magOf_neighbours high normal code
  simp only [show Fmt.f32.mb = 23 from rfl] at *
  have binades : t + 50 < p ∧ p < 192 := by
    constructor
    · have : 2 ^ (61 + (t + 13)) < 2 ^ (24 + p) := by
        rw [pow_add, pow_add 2 24]
        calc 2 ^ 61 * 2 ^ (t + 13) ≤ w * 2 ^ (t + 13) := Nat.mul_le_mul_right _ range.1
          _ < (s + 1) * 2 ^ p := next ▸ past
          _ ≤ 2 ^ 24 * 2 ^ p := Nat.mul_le_mul_right _ high
      have := (Nat.pow_lt_pow_iff_right (by omega)).1 this
      omega
    · by_contra far
      have : 2 ^ (23 + p) < 2 ^ (75 + (t + 13)) := by
        rw [pow_add, pow_add 2 75]
        calc 2 ^ 23 * 2 ^ p ≤ s * 2 ^ p := Nat.mul_le_mul_right _ (normal.resolve_left (by omega))
          _ ≤ w * 2 ^ (t + 13) := here ▸ under
          _ < 2 ^ 75 * 2 ^ (t + 13) := Nat.mul_lt_mul_of_pos_right range.2 (Nat.two_pow_pos _)
      have := (Nat.pow_lt_pow_iff_right (by omega)).1 this
      omega
  have norm : 2 ^ 23 ≤ s := normal.resolve_left (by omega)
  -- half-way points and grid points compare with the value as their squares do with the operand
  obtain ⟨d, rfl⟩ : ∃ d, p = d + (t + 15) := Nat.exists_eq_add_of_le' (by omega)
  have half : ∀ g, g * 2 ^ (d + (t + 15)) = 2 * (g * 2 ^ d) * 2 ^ (t + 14) := fun g => by rw [pow_add, pow_succ 2 (t + 14)]; ring
  have twice : 2 * (w * 2 ^ (t + 13)) = w * 2 ^ (t + 14) := by rw [pow_succ 2 (t + 13)]; ring
  have square : ∀ g, (g * 2 ^ (d + (t + 15))) ^ 2 = g * 2 ^ d * (g * 2 ^ d) * (2 ^ (t + 15) * 2 ^ (t + 15)) := fun g => by rw [pow_add]; ring
  have scale : 0 < 2 ^ (t + 15) * 2 ^ (t + 15) := by positivity
  have le : ∀ g, g * 2 ^ (d + (t + 15)) ≤ 2 * (w * 2 ^ (t + 13)) ↔
      (g * 2 ^ (d + (t + 15))) ^ 2 ≤ b * 2 ^ 120 * (2 ^ (t + 15) * 2 ^ (t + 15)) := fun g => by
    rw [half, twice, Nat.mul_le_mul_right_iff (Nat.two_pow_pos _), ← half, square, Nat.mul_le_mul_right_iff scale, (compare _).1]
  have lt : ∀ g, g * 2 ^ (d + (t + 15)) < 2 * (w * 2 ^ (t + 13)) ↔
      (g * 2 ^ (d + (t + 15))) ^ 2 < b * 2 ^ 120 * (2 ^ (t + 15) * 2 ^ (t + 15)) := fun g => by
    rw [half, twice, Nat.mul_lt_mul_right (Nat.two_pow_pos _), ← half, square, Nat.mul_lt_mul_right scale, (compare _).2]
  have noTie : (2 * s + 1) * 2 ^ (d + (t + 15)) ≠ 2 * (w * 2 ^ (t + 13)) := fun tie => by
    have same := le_antisymm ((le _).1 tie.le) (Nat.not_lt.1 fun less => ((lt _).2 less).ne tie)
    rw [square] at same
    exact square_ne_of_odd pos short (by omega) (by omega) (Nat.eq_of_mul_eq_mul_right scale same)
  have some : 0 < (d + (t + 15)) * 2 ^ 23 + s := lt_of_lt_of_le (Nat.two_pow_pos _) (norm.trans (Nat.le_add_left ..))
  have large : (d + (t + 15)) * 2 ^ 23 + s + 1 < 0x7F7FFFFF := by
    have : (d + (t + 15)) * 2 ^ 23 ≤ 191 * 2 ^ 23 := Nat.mul_le_mul_right _ (by omega)
    exact lt_of_le_of_lt (Nat.add_le_add_right (Nat.add_le_add this (Nat.le_of_lt high)) 1) (by decide)
  obtain ⟨k, nearest, side⟩ := exists_nearestRoot some large here next under past le lt noTie
  refine ⟨k, nearest, (round_of_picks proper_f32 (by omega) finite ?_).trans (Nat.zero_add k)⟩
  unfold Picks
  simp only [value, steps]
  rcases side with ⟨down, rfl⟩ | ⟨up, rfl⟩
  · exact ⟨under, past, (if_pos down).symm⟩
  · exact ⟨under, past, by rw [if_neg (by omega), if_pos up]⟩

/-- The model's root of a finite number above zero, with the significand's exponent made even. -/
theorem approx_sqrt {m i : Nat} : ∃ b t, (b = m ∨ b = 2 * m) ∧ t ≤ i / 2 + 1 ∧ b * (2 ^ t * 2 ^ t) = 2 * (m * 2 ^ i) ∧
    Sfn.approx .sqrt false m (-149 + i) = .fin false (2 * Sfn.isqrtBits (b * 2 ^ 120) 90 0 +
      if Sfn.isqrtBits (b * 2 ^ 120) 90 0 * Sfn.isqrtBits (b * 2 ^ 120) 90 0 = b * 2 ^ 120 then 0 else 1) (-149 + (t + 13 : Nat)) := by
  rcases Nat.even_or_odd' i with ⟨h, rfl | rfl⟩
  · refine ⟨2 * m, h, .inr rfl, by omega, by rw [Nat.two_mul h, pow_add]; ring, ?_⟩
    have odd : ¬(-149 + ((2 * h : Nat) : Int)) % 2 = 0 := by omega
    simp only [Sfn.approx, Bool.false_eq_true, if_false, if_neg odd]
    exact congrArg _ (by omega)
  · refine ⟨m, h + 1, .inl rfl, by omega, by rw [Nat.two_mul h, pow_succ, pow_succ, pow_add]; ring, ?_⟩
    have even : (-149 + ((2 * h + 1 : Nat) : Int)) % 2 = 0 := by omega
    simp only [Sfn.approx, Bool.false_eq_true, if_false, if_pos even]
    exact congrArg _ (by omega)

/-- A word between zero and infinity is a finite number above zero. -/
theorem f32_of_positive {a : Word} (some : 0 < a.toNat) (finite : a.toNat < 0x7F800000) : ∃ m i : Nat, f32 a = .fin false m (-149 + i) ∧
    m * 2 ^ i = magOf .f32 a.toNat ∧ 0 < m ∧ m < 2 ^ 24 ∧ i ≤ 253 := by
  have above : magOf .f32 0 < magOf .f32 a.toNat := magOf_lt some (lt_trans finite (by decide))
  have small : magOf .f32 a.toNat < 2 ^ 277 := by
    rw [show 277 = 23 + 254 from rfl, ← magOf_infCode_f32]
    exact magOf_lt (lt_of_lt_of_eq finite (by decide)) (by decide)
  have sign : negCode .f32 a.toNat = false := by
    unfold negCode
    rw [beq_eq_false_iff_ne, Nat.div_eq_of_lt (lt_trans finite (by decide))]
    decide
  obtain ⟨m, i, value, -⟩ := finite_of_magOf_lt small
  have stands := codeStands_f32 a
  rw [← sign, ← qmin_f32]
  generalize f32 a = x at *
  cases stands with
  | nan | inf => cases value
  | @fin m i number _ mag high normal =>
    have pos : 0 < m := Nat.pos_of_ne_zero fun zero => by
      rw [zero, Nat.zero_mul] at mag
      rw [magOf_zero] at above
      omega
    refine ⟨m, i, rfl, mag, pos, high, ?_⟩
    by_contra far
    have long : 2 ^ 23 ≤ m := normal.resolve_left (by omega)
    have : 2 ^ 23 * 2 ^ 254 ≤ m * 2 ^ i := Nat.mul_le_mul long (Nat.pow_le_pow_right (by decide) (by omega))
    rw [mag, ← pow_add, show 23 + 254 = 277 from rfl] at this
    exact small.not_ge this

theorem squareRoot : Sys2Proof.Stmt.SquareRoot := by
  refine ⟨fun a some finite => ?_, by decide +kernel, by decide +kernel, by decide +kernel⟩
  obtain ⟨m, i, value, mag, pos, high, binade⟩ := f32_of_positive some finite
  obtain ⟨b, t, significand, scale, exact', approx⟩ := @approx_sqrt m i
  obtain ⟨below, above⟩ := isqrtBits_spec (b * 2 ^ 120) 90 0 (Nat.zero_le _) (by omega)
  obtain ⟨k, nearest, rounds⟩ := nearestRoot_of_isqrt (t := t) (by omega) (by omega) (by omega) below above
  have result : (Sfn.value .sqrt a).toNat = k := by
    have special : Sfn.special .sqrt (f32 a) = Option.some (Sfn.approx .sqrt false m (-149 + i)) := by
      obtain ⟨n, rfl⟩ : ∃ n, m = n + 1 := ⟨m - 1, by omega⟩
      rw [value]
      rfl
    rw [value_of_special special, approx, rneF32, rounds, BitVec.toNat_ofNat]
    obtain ⟨-, finite', -⟩ := nearest
    exact Nat.mod_eq_of_lt (lt_trans finite' (by decide))
  have square : b * 2 ^ 120 * (2 ^ (t + 15) * 2 ^ (t + 15)) = 4 * (magOf .f32 a.toNat * 2 ^ 149) := by
    rw [← mag]
    calc b * 2 ^ 120 * (2 ^ (t + 15) * 2 ^ (t + 15)) = b * (2 ^ t * 2 ^ t) * 2 ^ 150 := by rw [pow_add]; ring
      _ = 4 * (m * 2 ^ i * 2 ^ 149) := by rw [exact']; ring
  rw [square] at nearest
  simp only [result]
  exact nearest

/-- Settles O11: the special operands and comparisons case by case, the bound from the model's own test of a candidate, and `SQRT` from the integer root's two
bounds, which hold the rounded value strictly between its half-way points. -/
theorem floatCompareAndFunctions : Obligations.FloatCompareAndFunctions := ⟨floatCompare, specialOperands, specialBound, squareRoot⟩

end Sys2Proof.Proofs
end

section
/-!
PROOFS. The events of the queues and of the copy engine: heads that are dispatched or discarded, lines that land, and the end of a copy
(R78, R97, R229, R243, R244, R350).
-/

namespace Sys2Proof.Proofs
open Sys2Proof Sys2Proof.Machine Sys2Proof.Laws Sys2Proof.Stmt

/-! ### Commands -/

/-- A change of a command is a change of every command of its name. -/
theorem modCmd_eq (s : State) (id : Nat) (f : EngCmd → EngCmd) :
    s.modCmd id f = { s with cmds := s.cmds.map (fun x => if x.id = id then f x else x) } := by
  unfold State.modCmd
  rw [updWhere_eq_map]
  simp only [beq_iff_eq]

/-- The end of a command changes no more than commands, locks, teams and threads. -/
theorem endCmd_same (s : State) (c : EngCmd) : ∃ ts th, s.endCmd c = { s with
    cmds := s.cmds.filter (fun x => x.id != c.id), locks := s.locks.filter (fun l => l.cmd != c.id), teams := ts, threads := th } :=
  ((foldl_setPresent _ _).1.trans (settleRetained_linesSet _)).same

/-- A command that writes its status as it ends. -/
theorem endCmd_status {s : State} {c : EngCmd} (there : (s.team? c.team).isSome) (a v : Nat) :
    CmdOver s ((s.spadWrite c.team a (leBytes 4 v)).endCmd c) c ∧
      spadWord ((s.spadWrite c.team a (leBytes 4 v)).endCmd c) c.team a 4 = v % 2 ^ 32 := by
  obtain ⟨ended, spads⟩ := endCmd_over (s.spadWrite c.team a (leBytes 4 v)) c
  exact ⟨ended, (spadWord_congr (spads c.team) a 4).trans (spadWord_spadWrite_self there a 4 v)⟩

/-! ### Queue heads (R229, R350) -/

theorem exec_engineDispatch {s : State} {team : Nat} {q : Queue} {c : EngCmd} (on : s.power = .active) (head : queueHead? s team q = some c)
    (sent : dispatches s c = true) (inside : s.outside team = false) :
    exec (.engineDispatch team q) s = .next (s.fresh.modCmd c.id (fun x => { x with started := some (s.lastId + 1) })) := by
  change execEngineDispatch team q s = _
  simp only [execEngineDispatch, whenOn, if_pos on, head, sent, inside, Bool.not_false, Bool.and_self, if_true]

theorem exec_discarded_quiet {s : State} {team : Nat} {q : Queue} {c : EngCmd} (on : s.power = .active) (head : queueHead? s team q = some c)
    (gone : isDiscarded s c = true) (inside : s.outside team = false) (quiet : discardStatus c = none) :
    exec (.discarded team q) s = .next (s.endCmd c) := by
  change execDiscarded team q s = _
  simp only [execDiscarded, whenOn, if_pos on, head, gone, inside, quiet, Bool.not_false, Bool.and_self, if_true]

theorem exec_discarded_status {s : State} {team : Nat} {q : Queue} {c : EngCmd} {a v : Nat} (on : s.power = .active)
    (head : queueHead? s team q = some c) (gone : isDiscarded s c = true) (inside : s.outside team = false) (status : discardStatus c = some (a, v)) :
    exec (.discarded team q) s = .next ((s.spadWrite team a (leBytes 4 v)).endCmd c) := by
  change execDiscarded team q s = _
  simp only [execDiscarded, whenOn, if_pos on, head, gone, inside, status, Bool.not_false, Bool.and_self, if_true]

theorem outside_of_team {s : State} {tm : Team} (team : s.team? tm.id = some tm) : s.outside tm.id = tm.out := by
  rw [State.outside, team]
  rfl

theorem guardState_of_team {s : State} {tm : Team} (team : s.team? tm.id = some tm) (g : Option Nat) :
    guardState s tm.id g = (g.map (fun n => tm.gslots.getD n .unresolved)).getD .true := by
  cases g with
  | none => rfl
  | some n => rw [guardState, team]; rfl

theorem queueHeads : Sys2Proof.Stmt.QueueHeads := by
  intro s tm q c on team inside head slot
  have own : c.team = tm.id := by
    have := List.find?_some head
    simp only [Bool.and_eq_true, beq_iff_eq] at this
    exact this.1.1
  have inside' := (outside_of_team team).trans inside
  have guard : guardState s c.team c.guard = slot := by rw [own, guardState_of_team team]
  refine ⟨fun set => ?dispatched, fun unset => ?discarded⟩
  case dispatched =>
    rw [exec_engineDispatch on head (by rw [dispatches, guard, set]; rfl) inside', modCmd_eq]
    rfl
  case discarded =>
    have gone : isDiscarded s c = true := by
      rw [isDiscarded, guard]
      rcases unset with no | ⟨open', none⟩
      · rw [no]
      · rw [open', own, none]
        rfl
    have there : (s.team? c.team).isSome := by rw [own, team]; rfl
    cases status : discardStatus c with
    | none =>
      refine ⟨_, exec_discarded_quiet on head gone inside' status, (endCmd_over s c).1, ?_⟩
      refine ⟨fun kind => ?_, fun kind => ?_, fun kind => ?_⟩ <;> rw [discardStatus, kind] at status <;> cases status
    | some av =>
      obtain ⟨a, v⟩ := av
      obtain ⟨ended, written⟩ := endCmd_status there a v
      rw [own] at ended written
      refine ⟨_, exec_discarded_status on head gone inside' status, ended, ?_⟩
      refine ⟨fun kind => ?_, fun kind => ?_, fun kind => ?_⟩ <;> rw [discardStatus, kind] at status <;> cases status <;> exact written

/-! ### Lines that land (R78, R243) -/

/-- What is left of the locks of a command, after those whose operands it accesses no more are free (R97). -/
theorem freeLocks_left (s : State) (id : Nat) : LocksLeft s (s.freeLocks id) id := by
  intro x there l
  have same : (s.freeLocks id).cmd? id = s.cmd? id ∧ (s.freeLocks id).landingLeft id = s.landingLeft id := by
    unfold State.freeLocks
    split <;> exact ⟨rfl, rfl⟩
  rw [same.1] at there
  rw [same.2]
  unfold State.freeLocks
  simp only [there, List.mem_filter, and_congr_right_iff]
  intro _
  have ended : (x.pending.isEmpty || x.result.map Prod.fst == some 0x0F) = decide (x.pending = [] ∨ failed x = true) := by
    unfold failed
    rw [Bool.decide_or, Bool.decide_eq_true]
    cases x.pending <;> rfl
  rw [ended]
  by_cases own : l.cmd = id
  · by_cases w : l.write = true
    · simp [own, w, or_iff_not_imp_left]
    · simp [own, w, and_assoc]
  · simp [own]

theorem freeLocks_same (s : State) (id : Nat) : ∃ ls, s.freeLocks id = { s with locks := ls } := by
  unfold State.freeLocks
  split <;> exact ⟨_, rfl⟩

theorem exec_copyLineLanding {s : State} {id target line : Nat} {c : EngCmd} (on : s.power = .active) (runs : copyRuns s id = some c)
    (good : failed c = false) (left : (target, line) ∈ c.pending) (more : target ≠ 0 → 2 ≤ c.pending.length) :
    exec (.copyLineLanding id target line) s = .next
      (if (copyLine c target line s).2 = .done then lineDone (copyLine c target line s).1 id target line else stepEnds id (copyLine c target line s)) := by
  have here : (failed c || !c.pending.contains (target, line) || (target != 0 && decide (c.pending.length ≤ 1))) = false := by
    have known : c.pending.contains (target, line) = true := List.contains_iff_mem.2 left
    by_cases zero : target = 0
    · rw [good, known, zero]
      rfl
    · have := more zero
      rw [good, known, decide_eq_false (by omega), Bool.and_false]
      rfl
  change execCopyLineLanding id target line s = _
  simp only [execCopyLineLanding, whenOn, if_pos on, runs, here, Bool.false_eq_true, if_false]

/-- Where only presence bits are set, the scratchpads keep their bytes. -/
theorem LinesSet.spadByte {s r : State} (set : LinesSet s r) (team off : Nat) : Stmt.spadByte r team off = Stmt.spadByte s team off := by
  have spads : ∀ q : State, Stmt.spadByte q team off = (((q.team? team).map Team.spad).map (fun m => m.read off)).getD 0 := fun q => by
    rw [Option.map_map]
    rfl
  rw [spads, spads, set.spad]

/-- A line that has landed (R78, R97, R243). -/
theorem lineDone_spec (s : State) (id target line : Nat) :
    (lineDone s id target line).mem = s.mem ∧ (lineDone s id target line).landings = s.landings ∧
      (target ≠ 0 → lineAbsent (lineDone s id target line) target line = false) ∧
      (lineDone s id target line).cmds =
        s.cmds.map (fun x => if x.id = id then { x with pending := x.pending.filter (fun p => p != (target, line)) } else x) ∧
      (∀ team off, spadByte (lineDone s id target line) team off = spadByte s team off) ∧ LocksLeft s (lineDone s id target line) id := by
  obtain ⟨q, done, set, lands⟩ : ∃ q, lineDone s id target line = q.freeLocks id ∧
      LinesSet (s.modCmd id (fun x => { x with pending := x.pending.filter (fun p => p != (target, line)) })) q ∧
      (target ≠ 0 → lineAbsent q target line = false) := by
    by_cases zero : target = 0
    · exact ⟨_, by rw [lineDone, if_pos zero], .refl _, fun h => absurd zero h⟩
    · exact ⟨_, by rw [lineDone, if_neg zero], setPresent_linesSet .., fun _ => lineAbsent_setPresent_self ..⟩
  rw [modCmd_eq] at set
  have spads := set.spadByte
  have locks := freeLocks_left q id
  obtain ⟨ls, freed⟩ := freeLocks_same q id
  obtain ⟨ts, th, rfl⟩ := set.same
  rw [done]
  rw [freed] at locks ⊢
  exact ⟨rfl, rfl, lands, rfl, spads, locks⟩

/-! ### The end of a copy (R244) -/

theorem finishCopy_spec {s : State} {id : Nat} {c : EngCmd} (there : s.cmd? id = some c) (team : (s.team? c.team).isSome) :
    CmdOver s (finishCopy s id) c ∧ spadWord (finishCopy s id) c.team (c.addr + 0x7C) 4 =
      (match c.result with
       | none => 0
       | some r => (r.1 + 0x100 * r.2) % 2 ^ 32) := by
  unfold finishCopy
  simp only [there]
  obtain ⟨ended, status⟩ := endCmd_status team (c.addr + 0x7C) ((c.result.getD (0, 0)).1 + 0x100 * (c.result.getD (0, 0)).2)
  refine ⟨ended, status.trans ?_⟩
  cases c.result <;> rfl

theorem exec_copyCompletion_ends {s : State} {id : Nat} {c : EngCmd} (on : s.power = .active) (runs : copyRuns s id = some c)
    (landed : s.landingLeft id = false) (finished : c.pending = [] ∨ failed c = true) : exec (.copyCompletion id) s = .next (finishCopy s id) := by
  change execCopyCompletion id s = _
  simp only [execCopyCompletion, whenOn, if_pos on, runs, landed, Bool.false_eq_true, if_false]
  by_cases bad : failed c = true
  · rw [if_pos bad]
  · rw [if_neg bad, finished.resolve_right bad]

theorem exec_copyCompletion_done {s s1 : State} {id : Nat} {c : EngCmd} {p : Nat × Nat} (on : s.power = .active) (runs : copyRuns s id = some c)
    (landed : s.landingLeft id = false) (last : c.pending = [p]) (spad : p.1 ≠ 0) (good : failed c = false)
    (step : copyLine c p.1 p.2 s = (s1, .done)) : exec (.copyCompletion id) s = .next (finishCopy s1 id) := by
  change execCopyCompletion id s = _
  simp only [execCopyCompletion, whenOn, if_pos on, runs, landed, good, last, step, Bool.false_eq_true, if_false, if_neg spad]

theorem exec_copyCompletion_fails {s s1 : State} {id d : Nat} {c : EngCmd} {p : Nat × Nat} (on : s.power = .active) (runs : copyRuns s id = some c)
    (landed : s.landingLeft id = false) (last : c.pending = [p]) (spad : p.1 ≠ 0) (good : failed c = false)
    (step : copyLine c p.1 p.2 s = (s1, .fail d)) : exec (.copyCompletion id) s = .next (finishCopy (stepEnds id (s1, .fail d)) id) := by
  change execCopyCompletion id s = _
  simp only [execCopyCompletion, whenOn, if_pos on, runs, landed, good, last, step, Bool.false_eq_true, if_false, if_neg spad]

theorem copyRuns_cmd {s : State} {id : Nat} {c : EngCmd} (runs : copyRuns s id = some c) : s.cmd? id = some c := by
  obtain ⟨x, there, some⟩ := Option.bind_eq_some_iff.1 runs
  split_ifs at some
  · rw [there, ← some]

/-- A copy has read its source once it has read the bytes of every element (R97, R241). -/
theorem readAll_plain {c : EngCmd} (copy : c.kind = .cpy) (plain : c.copy.xop = 0) (running : c.out = none) :
    c.readAll false = true ↔
      ∀ i ∈ indices c.copy.dims, ∀ k, k < c.copy.size → (c.byte? (((c.src : Int) + dotStride i c.sstr).toNat + k)).isSome = true := by
  have elems : c.copy.elems c.operands =
      (indices c.copy.dims).map (fun i => ⟨(c.dst : Int) + dotStride i c.dstr, c.copy.size, .mem ((c.src : Int) + dotStride i c.sstr)⟩) := by
    simp only [CopyBlock.elems, plain]
    rfl
  simp only [EngCmd.readAll, copy, running, plain, elems, EngCmd.hasRead, List.all_map, List.all_eq_true, Function.comp_apply, List.mem_range,
    beq_self_eq_true, Bool.true_and, Option.isSome_none, Bool.false_or, Bool.false_eq_true, if_false]

/-- Commands of other names stay where the command of one name changes. -/
theorem filter_map_other {f : EngCmd → EngCmd} (names : ∀ x, (f x).id = x.id) (id : Nat) (l : List EngCmd) :
    (l.map (fun x => if x.id = id then f x else x)).filter (fun x => x.id != id) = l.filter (fun x => x.id != id) := by
  induction l with
  | nil => rfl
  | cons x xs ih =>
    by_cases own : x.id = id
    · simp [own, names, ih]
    · simp [own, ih]

/-- A command that fails has its result, and no other command and no team changes (R244). -/
theorem stepEnds_fail {s : State} {id : Nat} {c : EngCmd} (d : Nat) (there : s.cmd? id = some c) :
    (stepEnds id (s, .fail d)).cmd? id = some { c with result := some (0x0F, d) } ∧
      (stepEnds id (s, .fail d)).cmds.filter (fun x => x.id != id) = s.cmds.filter (fun x => x.id != id) ∧
      (stepEnds id (s, .fail d)).teams = s.teams := by
  have self := cmd_modCmd_self s id (fun x => { x with result := some (0x0F, d) }) (fun _ h => h)
  obtain ⟨ls, freed⟩ := freeLocks_same (s.modCmd id (fun x => { x with result := some (0x0F, d) })) id
  have same : stepEnds id (s, .fail d) = { s.modCmd id (fun x => { x with result := some (0x0F, d) }) with locks := ls } := freed
  rw [there] at self
  rw [same]
  refine ⟨self, ?_, rfl⟩
  rw [modCmd_eq]
  exact filter_map_other (f := fun x => { x with result := some (0x0F, d) }) (fun _ => rfl) id s.cmds

theorem copies : Sys2Proof.Stmt.Copies := by
  refine ⟨?lands, ?waits, fun c => readAll_plain, ?ends, ?last⟩
  case lands =>
    intro s s1 id target line c on runs good left more step
    refine ⟨_, exec_copyLineLanding on runs good left more, ?_⟩
    rw [step, if_pos rfl]
    obtain ⟨mem, landings, lands, cmds, spads, locks⟩ := lineDone_spec s1 id target line
    exact ⟨mem, landings, fun _ spad _ => lands spad, cmds, spads, locks⟩
  case waits =>
    intro s s1 id target line c w on runs good left more step
    refine ⟨_, exec_copyLineLanding on runs good left more, ?_⟩
    rw [step, if_neg (by exact CopyStep.noConfusion)]
    unfold stepEnds
    simp only [modCmd_eq]
    have locks := freeLocks_left { s1 with cmds := s1.cmds.map (fun x => if x.id = id then { x with wait := w } else x) } id
    obtain ⟨ls, freed⟩ := freeLocks_same { s1 with cmds := s1.cmds.map (fun x => if x.id = id then { x with wait := w } else x) } id
    rw [freed] at locks ⊢
    exact ⟨locks, rfl⟩
  case ends =>
    intro s id c tm on runs landed team finished
    exact ⟨_, exec_copyCompletion_ends on runs landed finished, finishCopy_spec (copyRuns_cmd runs) (by rw [team]; rfl)⟩
  case last =>
    intro s s1 id c c1 p tm on runs landed last spad good there same team
    have team1 : (s1.team? c1.team).isSome := by rw [same, team]; rfl
    refine ⟨fun step running => ⟨_, exec_copyCompletion_done on runs landed last spad good step, ?done⟩,
      fun d step => ⟨_, exec_copyCompletion_fails on runs landed last spad good step, ?fails⟩⟩
    case done =>
      obtain ⟨ended, status⟩ := finishCopy_spec there team1
      rw [running, same] at status
      exact ⟨ended, status⟩
    case fails =>
      obtain ⟨failing, others, teams⟩ := stepEnds_fail d there
      obtain ⟨⟨cmds, -⟩, status⟩ := finishCopy_spec failing (by rw [State.team?, teams]; exact team1)
      rw [show ({ c1 with result := some (0x0F, d) } : EngCmd).team = c.team from same] at status
      exact ⟨cmds.trans ((congrArg (fun n => List.filter (fun x : EngCmd => x.id != n) _) (cmd_name there)).trans others), status⟩

end Sys2Proof.Proofs
end

section
/-!
PROOFS. What an `MMA` reads and what it makes of a bank (R220, R221, R222, R232, R234).
-/

namespace Sys2Proof.Proofs
open Sys2Proof Sys2Proof.Machine Sys2Proof.Laws Sys2Proof.Stmt

/-! ### Operands (R232) -/

theorem leNat_lt (bs : List Byte) : leNat bs < 2 ^ (8 * bs.length) := by
  induction bs with
  | nil => exact Nat.one_pos
  | cons b bs ih =>
    have split : 2 ^ (8 * (bs.length + 1)) = 0x100 * 2 ^ (8 * bs.length) := by rw [Nat.mul_add, pow_add, Nat.mul_comm]; rfl
    have := b.isLt
    rw [leNat, List.length_cons, split]
    omega

theorem readBytes_length (m : Memory) (a n : Nat) : (m.readBytes a n).length = n := by
  induction n generalizing a with
  | zero => rfl
  | succ n ih => rw [Memory.readBytes, List.length_cons, ih]

theorem toNat_readNat_four (m : Memory) (a : Nat) : (BitVec.ofNat 32 (m.readNat a 4)).toNat = m.readNat a 4 := by
  have := leNat_lt (m.readBytes a 4)
  rw [readBytes_length] at this
  exact Nat.mod_eq_of_lt this

theorem bitAt_toNat (x : Byte) (n : Nat) : bitAt x.toNat n = x.getLsbD n := by
  rw [BitVec.getLsbD, Nat.testBit_eq_decide_div_mod_eq]
  rfl

theorem mmaOperands_spec (b : MmaBlock) (m : Memory) (x j k : Nat) :
    let o := mmaOperands b m
    let z := if b.type = 4 ∨ b.type = 5 then 2 else 1
    let d := if b.type = 4 ∨ b.type = 5 then 64 else 128
    o.a x k = m.readNat (b.aoff + z * (k / d * d * b.m + d * x + k % d)) z ∧
    o.b j k = m.readNat (b.boff + z * (k / d * d * b.n + d * j + k % d)) z ∧
    (o.hi j k = (m.read (b.boff + k / 128 * 16 * b.n + 16 * j + k % 128 / 8)).getLsbD (k % 8)) ∧
    (o.lo j k = (m.read (b.boff + b.plane + k / 128 * 16 * b.n + 16 * j + k % 128 / 8)).getLsbD (k % 8)) ∧
    (o.sa x k).toNat = m.readNat (b.saoff + 4 * (k / 128 * b.m + x)) 4 ∧ (o.sb k).toNat = m.readNat (b.sboff + 4 * (k / 128)) 4 :=
  ⟨rfl, rfl, bitAt_toNat _ _, bitAt_toNat _ _, toNat_readNat_four _ _, toNat_readNat_four _ _⟩

/-! ### Sums (R220, R221) -/

/-- The sums of a floating-point type up to a depth. -/
theorem mmaAcc_zero {b : MmaBlock} (float : b.type ≤ 5) (o : MmaOperands) (i j : Nat) (acc : Word) : mmaAcc { b with k := 0 } o i j acc = acc := by
  unfold mmaAcc
  by_cases scaled : b.type ≤ 3
  · simp [scaled]
  · simp [scaled, float]

theorem mmaAcc_scaled {b : MmaBlock} (scaled : b.type ≤ 3) (o : MmaOperands) (i j : Nat) (acc : Word) (n : Nat) :
    mmaAcc { b with k := 128 * (n + 1) } o i j acc = addF32 (mmaAcc { b with k := 128 * n } o i j acc)
      (mulF32 (addF32 (addF32 (addF32 (groupSum b o i j (128 * n)) (groupSum b o i j (128 * n + 32))) (groupSum b o i j (128 * n + 64)))
        (groupSum b o i j (128 * n + 96))) (mulF32 (o.sa i (128 * n)) (o.sb (128 * n)))) := by
  unfold mmaAcc
  simp only [if_pos scaled, Nat.mul_div_cancel_left _ (show 0 < 128 by omega), List.range_succ, List.foldl_append, List.foldl_cons, List.foldl_nil,
    List.range_zero, List.nil_append]
  rfl

theorem mmaAcc_half {b : MmaBlock} (half : b.type = 4 ∨ b.type = 5) (o : MmaOperands) (i j : Nat) (acc : Word) (n : Nat) :
    mmaAcc { b with k := 32 * (n + 1) } o i j acc = addF32 (mmaAcc { b with k := 32 * n } o i j acc) (groupSum b o i j (32 * n)) := by
  have unscaled : ¬b.type ≤ 3 := by omega
  have float : b.type ≤ 5 := by omega
  unfold mmaAcc
  simp only [if_neg unscaled, if_pos float, Nat.mul_div_cancel_left _ (show 0 < 32 by omega), List.range_succ, List.foldl_append, List.foldl_cons,
    List.foldl_nil]
  rfl

/-- The elements of A and B in the formats of a floating-point type. -/
theorem mmaElem_float {type : Nat} (float : type ≤ 5) (x : Nat) :
    mmaElem type true x = (if type = 5 then Fmt.f16.decode x else if type = 4 then Fmt.bf16.decode x
      else if type = 2 ∨ type = 3 then Fmt.e5m2.decode x else decodeE4m3 x) ∧
    mmaElem type false x = (if type = 5 then Fmt.f16.decode x else if type = 4 then Fmt.bf16.decode x
      else if type = 1 ∨ type = 3 then Fmt.e5m2.decode x else decodeE4m3 x) := by
  interval_cases type <;> exact ⟨rfl, rfl⟩

/-! ### Integer sums (R221, R222) -/

theorem foldl_add_int {α : Type} (f : α → Int) (l : List α) (t : Int) : l.foldl (fun t k => t + f k) t = t + (l.map f).sum := by
  induction l generalizing t with
  | nil => simp
  | cons k l ih => rw [List.foldl_cons, ih, List.map_cons, List.sum_cons, Int.add_assoc]

theorem ofInt_toNat_add (acc : Word) (t : Int) : BitVec.ofInt 32 (acc.toNat + t) = acc + BitVec.ofInt 32 t := by
  rw [BitVec.ofInt_add]
  simp

/-- A sum by groups of four. -/
theorem sum_range_four (f : Nat → Int) (q : Nat) :
    ((List.range (4 * q)).map f).sum = ((List.range q).map (fun m => ((List.range 4).map (fun u => f (4 * m + u))).sum)).sum := by
  induction q with
  | zero => rfl
  | succ q ih =>
    rw [Nat.mul_succ, List.range_add, List.map_append, List.sum_append, ih, List.map_map, show List.range (q + 1) = List.range q ++ [q] from List.range_succ,
      List.map_append, List.sum_append, List.map_singleton, List.sum_singleton]
    rfl

/-- Bit `u` of a table index is the weight bit of its activation. -/
theorem testBit_index (p : Nat → Bool) : ∀ u < 4, (((List.range 4).map (fun u => if p u then 2 ^ u else 0)).sum).testBit u = p u := by
  intro u hu
  simp only [List.range_succ, List.range_zero, List.nil_append, List.map_append, List.map_cons, List.map_nil]
  interval_cases u <;> cases p 0 <;> cases p 1 <;> cases p 2 <;> cases p 3 <;> rfl

theorem mmaAcc_int {b : MmaBlock} (int : 5 < b.type) (o : MmaOperands) (i j : Nat) (acc : Word) :
    mmaAcc b o i j acc = acc + BitVec.ofInt 32 (((List.range b.k).map (fun k => sintOf 8 (o.a i k) * (
      if b.type = 6 then sintOf 8 (o.b j k)
      else if b.type = 7 then wbit (o.hi j k)
      else 2 * wbit (o.hi j k) + wbit (o.lo j k)))).sum) := by
  unfold mmaAcc
  simp only [if_neg (show ¬b.type ≤ 3 by omega), if_neg (show ¬b.type ≤ 5 by omega), foldl_add_int]
  exact ofInt_toNat_add _ _

/-- An entry of the table of four activations that the weight bits choose is the sum of the activations by weights ±1 (R222). -/
theorem sum_table (a : Nat → Int) (p : Nat → Bool) :
    ((List.range 4).map (fun u => if (((List.range 4).map (fun u => if p u then 2 ^ u else 0)).sum).testBit u then a u else -a u)).sum =
      ((List.range 4).map (fun u => a u * wbit (p u))).sum := by
  refine congrArg List.sum (List.map_congr_left fun u hu => ?_)
  rw [testBit_index p u (List.mem_range.1 hu), wbit]
  split_ifs <;> ring

theorem mmaAcc_lut {b : MmaBlock} (whole : b.k % 4 = 0) (o : MmaOperands) (i j : Nat) (acc : Word) :
    let s8 := fun (n : Nat) => (BitVec.ofNat 8 n).toInt
    let tab := fun (m idx : Nat) => ((List.range 4).map (fun u => if idx.testBit u then s8 (o.a i (4 * m + u)) else -s8 (o.a i (4 * m + u)))).sum
    let index := fun (plane : Nat → Nat → Bool) (m : Nat) => ((List.range 4).map (fun u => if plane j (4 * m + u) then 2 ^ u else 0)).sum
    (b.type = 7 → mmaAcc b o i j acc = acc + BitVec.ofInt 32 (((List.range (b.k / 4)).map (fun m => tab m (index o.hi m))).sum)) ∧
    (b.type = 8 → mmaAcc b o i j acc = acc + BitVec.ofInt 32 (((List.range (b.k / 4)).map (fun m =>
      2 * tab m (index o.hi m) + tab m (index o.lo m))).sum)) := by
  intro s8 tab index
  have depth : b.k = 4 * (b.k / 4) := by omega
  have entry : ∀ (plane : Nat → Nat → Bool) (m : Nat), tab m (index plane m) =
      ((List.range 4).map (fun u => sintOf 8 (o.a i (4 * m + u)) * wbit (plane j (4 * m + u)))).sum := fun plane m => by
    simp only [sintOf_eight]
    exact sum_table (fun u => s8 (o.a i (4 * m + u))) (fun u => plane j (4 * m + u))
  constructor <;> intro type <;> rw [mmaAcc_int (by omega), depth, sum_range_four, ← depth]
  · simp only [type, if_true, entry, show ¬7 = 6 by omega, if_false]
  · simp only [type, entry, show ¬8 = 6 by omega, show ¬8 = 7 by omega, if_false]
    refine congrArg (fun l => acc + BitVec.ofInt 32 (List.sum l)) (List.map_congr_left fun m _ => ?_)
    simp only [List.range_succ, List.range_zero, List.nil_append, List.map_append, List.map_cons, List.map_nil, List.sum_append, List.sum_cons, List.sum_nil]
    ring

/-- A group sum in the formats of its operands (R220, R221). -/
theorem groupSum_float (b : MmaBlock) (mem : Memory) (i j : Nat) :
    let o := mmaOperands b mem
    let ea := fun (x : Nat) => if b.type = 5 then Fmt.f16.decode x else if b.type = 4 then Fmt.bf16.decode x
      else if b.type = 2 ∨ b.type = 3 then Fmt.e5m2.decode x else decodeE4m3 x
    let eb := fun (x : Nat) => if b.type = 5 then Fmt.f16.decode x else if b.type = 4 then Fmt.bf16.decode x
      else if b.type = 1 ∨ b.type = 3 then Fmt.e5m2.decode x else decodeE4m3 x
    b.type ≤ 5 → ∀ k, groupSum b o i j k = rneF32 (Fp.sum ((List.range 32).map (fun u => Fp.mul (ea (o.a i (k + u))) (eb (o.b j (k + u)))))) := by
  intro o ea eb float k
  unfold groupSum
  simp only [(mmaElem_float float _).1, (mmaElem_float float _).2]
  rfl

/-! ### Banks (R234) -/

theorem assocD_append {α : Type} (l r : List (Nat × α)) (k : Nat) (d : α) : assocD (l ++ r) k d = assocD l k (assocD r k d) := by
  unfold assocD
  rw [List.find?_append]
  cases l.find? (fun x => x.1 == k) <;> rfl

theorem assocD_cons {α : Type} (x : Nat × α) (l : List (Nat × α)) (k : Nat) (d : α) :
    assocD (x :: l) k d = if x.1 = k then x.2 else assocD l k d := by
  unfold assocD
  by_cases h : x.1 = k <;> simp [h]

/-- A key that no entry has. -/
theorem assocD_of_absent {α : Type} {l : List (Nat × α)} {k : Nat} (h : ∀ x ∈ l, x.1 ≠ k) (d : α) : assocD l k d = d := by
  unfold assocD
  rw [List.find?_eq_none.2 (by simpa using h)]
  rfl

/-- A key all of whose entries have one value. -/
theorem assocD_of_mem {α : Type} {l : List (Nat × α)} {k : Nat} {v : α} (mem : (k, v) ∈ l) (h : ∀ x ∈ l, x.1 = k → x.2 = v) (d : α) :
    assocD l k d = v := by
  unfold assocD
  obtain ⟨x, found⟩ := Option.isSome_iff_exists.1 (List.find?_isSome.2 ⟨(k, v), mem, beq_self_eq_true k⟩ :
    (l.find? (fun x => x.1 == k)).isSome)
  have key := List.find?_some found
  rw [found]
  exact h x (List.mem_of_find?_eq_some found) (beq_iff_eq.1 key)

/-- A key whose entries a test of the key keeps. -/
theorem assocD_filter_kept {α : Type} {p : Nat → Bool} {k : Nat} (kept : p k = true) (l : List (Nat × α)) (d : α) :
    assocD (l.filter (fun w => p w.1)) k d = assocD l k d := by
  induction l with
  | nil => rfl
  | cons x xs ih =>
    rw [List.filter_cons]
    split_ifs with h
    · rw [assocD_cons, assocD_cons, ih]
    · rw [assocD_cons, ih, if_neg fun same : x.1 = k => h (same ▸ kept)]

/-- Zeros need no entry. -/
theorem assocD_filter_ne_zero {l : List (Nat × Word)} {k : Nat} {v : Word} (mem : (k, v) ∈ l) (h : ∀ x ∈ l, x.1 = k → x.2 = v) :
    assocD (l.filter (fun w => w.2 != 0)) k 0 = v := by
  by_cases zero : v = 0
  · rw [zero]
    refine assocD_of_absent (fun x hx same => ?_) 0
    obtain ⟨inside, some⟩ := List.mem_filter.1 hx
    rw [h x inside same, zero] at some
    cases some
  · exact assocD_of_mem (List.mem_filter.2 ⟨mem, (bne_iff_ne (a := v)).2 zero⟩) (fun x hx => h x (List.mem_of_mem_filter hx)) 0

/-- The entries of the new sums of a bank. -/
theorem mem_tile {f : Nat → Nat → Word} {m n : Nat} {x : Nat × Word} :
    x ∈ (List.range m).flatMap (fun i => (List.range n).map (fun j => (128 * i + j, f i j))) ↔ ∃ i j, i < m ∧ j < n ∧ x = (128 * i + j, f i j) := by
  simp only [List.mem_flatMap, List.mem_range, List.mem_map]
  constructor
  · rintro ⟨i, hi, j, hj, rfl⟩
    exact ⟨i, j, hi, hj, rfl⟩
  · rintro ⟨i, j, hi, hj, rfl⟩
    exact ⟨i, hi, j, hj, rfl⟩

theorem words_mma {x : Bank} {b : MmaBlock} {o : MmaOperands} (narrow : b.n ≤ 128) {i j : Nat} (column : j < 128) :
    assocD (x.mma b o).words (128 * i + j) 0 =
      if i < b.m ∧ j < b.n then mmaAcc b o i j (assocD x.words (128 * i + j) 0) else assocD x.words (128 * i + j) 0 := by
  have row : (128 * i + j) / 128 = i := by omega
  have place : (128 * i + j) % 128 = j := by omega
  unfold Bank.mma
  rw [assocD_append]
  split_ifs with inside
  · have gone : ∀ w ∈ x.words.filter (fun w => !(decide (w.1 / 128 < b.m) && decide (w.1 % 128 < b.n))), w.1 ≠ 128 * i + j := by
      intro w hw same
      have out := (List.mem_filter.1 hw).2
      rw [same, row, place, decide_eq_true inside.1, decide_eq_true inside.2] at out
      cases out
    rw [assocD_of_absent gone]
    refine assocD_filter_ne_zero (mem_tile.2 ⟨i, j, inside.1, inside.2, rfl⟩) fun w hw same => ?_
    obtain ⟨i', j', -, hj', rfl⟩ := mem_tile.1 hw
    have : i' = i ∧ j' = j := by simp only at same; omega
    rw [this.1, this.2]
  · have kept : (!(decide ((128 * i + j) / 128 < b.m) && decide ((128 * i + j) % 128 < b.n))) = true := by
      rw [row, place, ← Bool.decide_and, decide_eq_false inside]
      rfl
    rw [assocD_filter_kept (p := fun k => !(decide (k / 128 < b.m) && decide (k % 128 < b.n))) kept]
    refine congrArg (assocD x.words _) (assocD_of_absent (fun w hw same => inside ?_) 0)
    obtain ⟨i', j', hi', hj', rfl⟩ := mem_tile.1 (List.mem_of_mem_filter hw)
    simp only at same
    omega

/-- The sticky bits of a bank (R234). -/
theorem sticky_mma (x : Bank) (b : MmaBlock) (o : MmaOperands) :
    ((x.mma b o).nanIn = true ↔ x.nanIn = true ∨ (b.type ≤ 5 ∧ ∃ k, k < b.k ∧
      ((∃ i, i < b.m ∧ (mmaElem b.type true (o.a i k)).isNan = true) ∨ ∃ j, j < b.n ∧ (mmaElem b.type false (o.b j k)).isNan = true))) ∧
    ((x.mma b o).scaleNan = true ↔ x.scaleNan = true ∨ (b.type ≤ 3 ∧ ∃ n, n < b.k / 128 ∧
      ((f32 (o.sb (128 * n))).isNan = true ∨ ∃ i, i < b.m ∧ (f32 (o.sa i (128 * n))).isNan = true))) := by
  refine ⟨?_, ?_⟩
  · change (x.nanIn || mmaNan b o) = true ↔ _
    simp only [mmaNan, Bool.or_eq_true, Bool.and_eq_true, decide_eq_true_eq, List.any_eq_true, List.mem_range]
    refine or_congr_right (and_congr_right fun _ => ?_)
    constructor
    · rintro (⟨i, hi, k, hk, nan⟩ | ⟨j, hj, k, hk, nan⟩)
      · exact ⟨k, hk, .inl ⟨i, hi, nan⟩⟩
      · exact ⟨k, hk, .inr ⟨j, hj, nan⟩⟩
    · rintro ⟨k, hk, ⟨i, hi, nan⟩ | ⟨j, hj, nan⟩⟩
      · exact .inl ⟨i, hi, k, hk, nan⟩
      · exact .inr ⟨j, hj, k, hk, nan⟩
  · change (x.scaleNan || mmaScaleNan b o) = true ↔ _
    simp only [mmaScaleNan, MmaBlock.scaled, Bool.or_eq_true, Bool.and_eq_true, decide_eq_true_eq, List.any_eq_true, List.mem_range]

theorem matrixSums : Sys2Proof.Stmt.MatrixSums := by
  refine ⟨mmaOperands_spec, ?sums, ?banks⟩
  case sums =>
    intro b mem i j acc o ea eb group upTo s8
    have groups : b.type ≤ 5 → ∀ k, groupSum b o i j k = group k := groupSum_float b mem i j
    refine ⟨fun float => mmaAcc_zero float o i j acc, fun scaled n => ?_, fun half n => ?_, fun int => ?_, fun whole => mmaAcc_lut whole o i j acc⟩
    · rw [← groups (by omega), ← groups (by omega), ← groups (by omega), ← groups (by omega)]
      exact mmaAcc_scaled scaled o i j acc n
    · rw [← groups (by omega)]
      exact mmaAcc_half half o i j acc n
    · rw [mmaAcc_int (by omega)]
      simp only [int, if_true, sintOf_eight]
      rfl
  case banks =>
    intro x b o narrow
    obtain ⟨nanIn, scaleNan⟩ := sticky_mma x b o
    refine ⟨fun i j hi hj => ?_, fun i j column out => ?_, rfl, rfl, rfl, nanIn, scaleNan⟩
    · rw [words_mma narrow (by omega), if_pos ⟨hi, hj⟩]
    · rw [words_mma narrow column, if_neg (by omega)]

end Sys2Proof.Proofs
end

section
/-!
PROOFS. The events of the matrix engines (R231, R234 to R238, R389).
-/

namespace Sys2Proof.Proofs
open Sys2Proof Sys2Proof.Machine Sys2Proof.Laws Sys2Proof.Stmt

/-- The end of a command, told of a state with the same commands, locks and memory. -/
theorem cmdOver_of_same {s r s' : State} {c : EngCmd} (h : CmdOver r s' c) (cmds : r.cmds = s.cmds) (locks : r.locks = s.locks) (mem : r.mem = s.mem) :
    CmdOver s s' c := by
  obtain ⟨hc, hl, lines, hm⟩ := h
  exact ⟨hc.trans (by rw [cmds]), hl.trans (by rw [locks]), lines, hm.trans mem⟩

/-- The end of a command leaves banks and crews as they are. -/
theorem endCmd_banks (s : State) (c : EngCmd) : (s.endCmd c).banks = s.banks ∧ (s.endCmd c).crews = s.crews := by
  obtain ⟨ts, th, same⟩ := endCmd_same s c
  rw [same]
  exact ⟨rfl, rfl⟩

/-! ### MMA (R234, R235) -/

/-- Teams on cores of their own each change the bank of their core, and no other bank changes. -/
theorem foldl_mma (b : MmaBlock) {ts : List Team} {s : State} (there : ∀ t ∈ ts, s.team? t.id = some t)
    (apart : (ts.map Team.coreD).Nodup) (bs : List Bank) :
    (ts.map Team.id).foldl (fun s p => match s.team? p with
      | none => s
      | some t => { s with banks := updWhere (fun x => x.core == t.coreD && x.bank == b.bank) (fun x => x.mma b (mmaOperands b t.spad)) s.banks })
        { s with banks := bs } =
      { s with banks := bs.map (fun x => match ts.find? (fun t => x.core == t.coreD && x.bank == b.bank) with
        | some t => x.mma b (mmaOperands b t.spad)
        | none => x) } := by
  induction ts generalizing bs with
  | nil => simp
  | cons t ts ih =>
    have here : State.team? { s with banks := bs } t.id = some t := there t List.mem_cons_self
    obtain ⟨other, apart⟩ := List.nodup_cons.1 apart
    rw [List.map_cons, List.foldl_cons, here]
    simp only
    rw [ih (fun t ht => there t (List.mem_cons_of_mem _ ht)) apart, updWhere_eq_map, List.map_map]
    refine congrArg (fun l => { s with banks := l }) (List.map_congr_left fun x _ => ?_)
    rw [List.find?_cons]
    by_cases own : (x.core == t.coreD && x.bank == b.bank) = true
    · have none' : ts.find? (fun u => x.core == u.coreD && x.bank == b.bank) = none := by
        refine List.find?_eq_none.2 fun u hu same => other (List.mem_map.2 ⟨u, hu, ?_⟩)
        simp only [Bool.and_eq_true, beq_iff_eq] at own same
        rw [← same.1, own.1]
      have moved : ts.find? (fun u => (x.mma b (mmaOperands b t.spad)).core == u.coreD && (x.mma b (mmaOperands b t.spad)).bank == b.bank) = none := none'
      simp only [Function.comp_apply, own, if_true, moved]
    · simp only [Function.comp_apply, own]
      rfl

theorem exec_mmaCompletion {s : State} {id : Nat} {c : EngCmd} {ts : List Team} (on : s.power = .active) (turn : matrixTurn s id = some c)
    (mma : c.kind = .mma) (parts : c.parts = ts.map Team.id) (inside : ∀ t ∈ ts, s.team? t.id = some t ∧ t.out = false)
    (apart : (ts.map Team.coreD).Nodup) (present : ∀ t ∈ ts, operandsPresent s id c.team t.id (MmaBlock.of c.block).operands = true) :
    exec (.mmaCompletion id) s = .next (State.endCmd { s with banks := s.banks.map (fun x =>
      match ts.find? (fun t => x.core == t.coreD && x.bank == (MmaBlock.of c.block).bank) with
      | some t => x.mma (MmaBlock.of c.block) (mmaOperands (MmaBlock.of c.block) t.spad)
      | none => x) } c) := by
  have go : (c.kind != .mma || c.parts.any (fun t => s.outside t) ||
      !c.parts.all (fun t => operandsPresent s id c.team t (MmaBlock.of c.block).operands)) = false := by
    have none : c.parts.any (fun t => s.outside t) = false := by
      rw [parts, List.any_map, List.any_eq_false]
      intro t ht
      rw [Function.comp_apply, outside_of_team (inside t ht).1, (inside t ht).2]
      exact Bool.false_ne_true
    have all : c.parts.all (fun t => operandsPresent s id c.team t (MmaBlock.of c.block).operands) = true := by
      rw [parts, List.all_map, List.all_eq_true]
      exact present
    rw [mma, none, all]
    rfl
  change execMmaCompletion id s = _
  simp only [execMmaCompletion, whenOn, if_pos on, turn, go, Bool.false_eq_true, if_false]
  rw [parts]
  exact congrArg (fun s => Host.Outcome.next (State.endCmd s c)) (foldl_mma _ (fun t ht => (inside t ht).1) apart s.banks)

/-! ### MMAST (R237, R238) -/

/-- Numbers that are written one after another, each of which stands apart from those of other places. -/
theorem spadWord_foldl_spadWrite {κ : Type} {team size : Nat} (addr value : κ → Nat) {k : κ} {l : List κ} {s : State} (there : (s.team? team).isSome)
    (apart : ∀ j ∈ l, j = k ∨ addr k + size ≤ addr j ∨ addr j + size ≤ addr k)
    (written : k ∈ l ∨ spadWord s team (addr k) size = value k % 2 ^ (8 * size)) :
    spadWord (l.foldl (fun s j => s.spadWrite team (addr j) (leBytes size (value j))) s) team (addr k) size = value k % 2 ^ (8 * size) := by
  induction l generalizing s with
  | nil => exact written.resolve_left List.not_mem_nil
  | cons j l ih =>
    refine ih (by rw [team_spadWrite_isSome]; exact there) (fun i hi => apart i (List.mem_cons_of_mem _ hi)) ?_
    by_cases same : j = k
    · rw [same]
      exact .inr (spadWord_spadWrite_self there ..)
    · have away := (apart j List.mem_cons_self).resolve_left same
      rw [spadWord_spadWrite_of_apart (by rwa [leBytes_length])]
      exact written.imp_left fun mem => (List.mem_cons.1 mem).resolve_left (Ne.symm same)

/-- Writes to a scratchpad keep all else. -/
theorem foldl_spadWrite_same {κ : Type} (team : Nat) (addr : κ → Nat) (bytes : κ → List Byte) (l : List κ) (s : State) :
    ∃ ts, l.foldl (fun s j => s.spadWrite team (addr j) (bytes j)) s = { s with teams := ts } := by
  induction l generalizing s with
  | nil => exact ⟨_, rfl⟩
  | cons j l ih =>
    obtain ⟨ts, same⟩ := ih (s.spadWrite team (addr j) (bytes j))
    exact ⟨ts, same⟩

theorem foldl_spadWrite_isSome {κ : Type} (team : Nat) (addr : κ → Nat) (bytes : κ → List Byte) (l : List κ) (s : State) (n : Nat) :
    ((l.foldl (fun s j => s.spadWrite team (addr j) (bytes j)) s).team? n).isSome = (s.team? n).isSome := by
  induction l generalizing s with
  | nil => rfl
  | cons j l ih => rw [List.foldl_cons, ih, team_spadWrite_isSome]

/-- What the limits of an `MMAST` block say of its result: rows do not meet, and the status word stands apart (R236, R386). -/
theorem MmastBlock.apart_of_valid {b : MmastBlock} {ws : List Word} (valid : b.badField ws true = none) :
    b.n * b.size ≤ b.dstride ∧ ∀ i < b.m, b.soff + 4 ≤ b.doff + i * b.dstride ∨ b.doff + i * b.dstride + b.n * b.size ≤ b.soff := by
  unfold MmastBlock.badField at valid
  have all := List.find?_eq_none.1 (Option.map_eq_none_iff.1 valid)
  have stride := all (0x0C, b.dstride % 16 == 0 && decide (b.n * b.size ≤ b.dstride)) (by simp)
  have status := all (0x14, b.soff % 4 == 0 && b.rows.all (fun r => decide (b.soff + 4 ≤ r.1) || decide (r.1 + r.2 ≤ b.soff))) (by simp)
  simp only [Bool.not_eq_true', Bool.not_eq_false, Bool.and_eq_true, decide_eq_true_eq, List.all_eq_true, Bool.or_eq_true] at stride status
  exact ⟨stride.2, fun i hi => status.2 _ (List.mem_map.2 ⟨i, List.mem_range.2 hi, rfl⟩)⟩

/-- Where an element of the result stands. -/
def cellAddr (b : MmastBlock) (k : Nat × Nat) : Nat := b.doff + k.1 * b.dstride + k.2 * b.size

/-- The places of a result. -/
def resultCells (b : MmastBlock) : List (Nat × Nat) := (List.range b.m).flatMap (fun i => (List.range b.n).map (fun j => (i, j)))

/-- What a bank stores at a place, and whether it saturates. -/
def resultElem (b : MmastBlock) (x : Bank) (k : Nat × Nat) : Nat × Bool := storeElem b.ofmt b.oscale (assocD x.words (128 * k.1 + k.2) 0)

theorem mem_resultCells {b : MmastBlock} {k : Nat × Nat} : k ∈ resultCells b ↔ k.1 < b.m ∧ k.2 < b.n := by
  obtain ⟨i, j⟩ := k
  simp [resultCells]

/-- The state of the scratchpads when a result and its tile's status word are stored. -/
def storesResult (b : MmastBlock) (x : Bank) (team status : Nat) (s : State) : State :=
  ((resultCells b).foldl (fun s k => s.spadWrite team (cellAddr b k) (leBytes b.size (resultElem b x k).1)) s).spadWrite team b.soff (leBytes 4 status)

theorem exec_mmastCompletion {s : State} {id : Nat} {c : EngCmd} {tm : Team} {b : MmastBlock} {x : Bank} {inf sat : Bool} (on : s.power = .active)
    (turn : matrixTurn s id = some c) (mmast : c.kind = .mmast) (block : MmastBlock.of c.block = b) (team : s.team? c.team = some tm)
    (bank : s.banks.find? (fun x => x.core == tm.coreD && x.bank == b.bank) = some x)
    (infinite : (b.ofmt != 5 && (resultCells b).any (fun k => (f32 (assocD x.words (128 * k.1 + k.2) 0)).isInf)) = inf)
    (saturates : (resultCells b).any (fun k => (resultElem b x k).2) = sat) :
    exec (.mmastCompletion id) s = .next ((if sat then (storesResult b x c.team (tileStatus x inf sat) s).setSat ⟨c.team, c.crew⟩ 4
      else storesResult b x c.team (tileStatus x inf sat) s).endCmd c) := by
  have core : s.coreOf c.team = tm.coreD := by rw [State.coreOf, team]; rfl
  subst infinite saturates block
  change execMmastCompletion id s = _
  simp only [execMmastCompletion, whenOn, if_pos on, turn, mmast, core, bank, bne_self_eq_false, Bool.false_eq_true, if_false, Option.getD_some]
  rfl

theorem storesResult_same (b : MmastBlock) (x : Bank) (team status : Nat) (s : State) : ∃ ts, storesResult b x team status s = { s with teams := ts } := by
  obtain ⟨ts, same⟩ := foldl_spadWrite_same team (cellAddr b) (fun k => leBytes b.size (resultElem b x k).1) (resultCells b) s
  unfold storesResult
  rw [same]
  exact ⟨_, rfl⟩

/-- Elements of the result at different places do not meet. -/
theorem cellAddr_apart {b : MmastBlock} (rows : b.n * b.size ≤ b.dstride) {k j : Nat × Nat} (hk : k.2 < b.n) (hj : j.2 < b.n) :
    j = k ∨ cellAddr b k + b.size ≤ cellAddr b j ∨ cellAddr b j + b.size ≤ cellAddr b k := by
  have inRow : ∀ x < b.n, x * b.size + b.size ≤ b.dstride := fun x hx => by
    rw [← Nat.succ_mul]
    exact (Nat.mul_le_mul_right _ hx).trans rows
  have step : ∀ {x y : Nat} (z : Nat), x < y → x * z + z ≤ y * z := fun z h => by
    rw [← Nat.succ_mul]
    exact Nat.mul_le_mul_right _ h
  have hk' := inRow _ hk
  have hj' := inRow _ hj
  obtain ⟨i, x⟩ := k
  obtain ⟨i', x'⟩ := j
  unfold cellAddr
  simp only [Prod.mk.injEq] at *
  rcases Nat.lt_trichotomy i i' with less | rfl | more
  · have := step b.dstride less
    omega
  · rcases Nat.lt_trichotomy x x' with less | rfl | more
    · have := step b.size less
      omega
    · exact .inl ⟨rfl, rfl⟩
    · have := step b.size more
      omega
  · have := step b.dstride more
    omega

/-- The scratchpad then holds every element, and the status word. -/
theorem storesResult_words {b : MmastBlock} {ws : List Word} (valid : b.badField ws true = none) (x : Bank) {team status : Nat} {s : State}
    (there : (s.team? team).isSome) :
    (∀ i j, i < b.m → j < b.n → spadWord (storesResult b x team status s) team (b.doff + i * b.dstride + j * b.size) b.size =
      (resultElem b x (i, j)).1 % 2 ^ (8 * b.size)) ∧
    spadWord (storesResult b x team status s) team b.soff 4 = status % 2 ^ 32 := by
  obtain ⟨rows, apart⟩ := MmastBlock.apart_of_valid valid
  constructor
  · intro i j hi hj
    have inRow : j * b.size + b.size ≤ b.n * b.size := by
      rw [← Nat.succ_mul]
      exact Nat.mul_le_mul_right _ hj
    have away := apart i hi
    unfold storesResult
    rw [spadWord_spadWrite_of_apart (by rw [leBytes_length]; omega)]
    exact spadWord_foldl_spadWrite (cellAddr b) (fun k => (resultElem b x k).1) (k := (i, j)) there
      (fun k hk => cellAddr_apart rows hj (mem_resultCells.1 hk).2) (.inl (mem_resultCells.2 ⟨hi, hj⟩))
  · refine spadWord_spadWrite_self ?_ ..
    rw [foldl_spadWrite_isSome]
    exact there

theorem any_resultCells (b : MmastBlock) (p : Nat × Nat → Bool) : (resultCells b).any p = true ↔ ∃ i j, i < b.m ∧ j < b.n ∧ p (i, j) = true := by
  rw [List.any_eq_true]
  constructor
  · rintro ⟨⟨i, j⟩, mem, h⟩
    exact ⟨i, j, (mem_resultCells.1 mem).1, (mem_resultCells.1 mem).2, h⟩
  · rintro ⟨i, j, hi, hj, h⟩
    exact ⟨(i, j), mem_resultCells.2 ⟨hi, hj⟩, h⟩

/-! ### MMAZ (R231, R389) -/

theorem exec_mmazCompletion {s : State} {id : Nat} {c : EngCmd} (on : s.power = .active) (turn : matrixTurn s id = some c) :
    let mine := fun (x : Bank) => x.core == s.coreOf c.team && x.bank == c.bank
    (c.kind = .mmaz → exec (.mmazCompletion id) s =
      .next (State.endCmd { s with banks := s.banks.map (fun x => if mine x then { x with words := [], nanIn := false, scaleNan := false } else x) } c)) ∧
    (c.kind = .mmazRel → exec (.mmazCompletion id) s =
      .next (State.endCmd { s with banks := s.banks.map (fun x => if mine x && x.team == some c.team then { x with team := none } else x) } c)) := by
  refine ⟨fun zero => ?_, fun release => ?_⟩
  · change execMmazCompletion id s = _
    simp only [execMmazCompletion, whenOn, if_pos on, turn, zero]
    rfl
  · change execMmazCompletion id s = _
    simp only [execMmazCompletion, whenOn, if_pos on, turn, release]
    rfl

theorem matrixCommands : Sys2Proof.Stmt.MatrixCommands := by
  refine ⟨?mma, ?mmast, ?mmaz⟩
  case mma =>
    intro s id c ts on turn mma parts inside apart b present
    refine ⟨_, exec_mmaCompletion on turn mma parts inside apart present, cmdOver_of_same (endCmd_over _ c).1 rfl rfl rfl, (endCmd_banks _ c).1⟩
  case mmast =>
    intro s id c tm x on turn mmast team b valid bank acc elem
    generalize hinf : (b.ofmt != 5 && (resultCells b).any (fun k => (f32 (assocD x.words (128 * k.1 + k.2) 0)).isInf)) = inf
    generalize hsat : (resultCells b).any (fun k => (resultElem b x k).2) = sat
    refine ⟨_, inf, sat, exec_mmastCompletion on turn mmast rfl team bank hinf hsat, ?_⟩
    have there : (s.team? c.team).isSome := by rw [team]; rfl
    obtain ⟨elems, status⟩ := storesResult_words valid x (status := tileStatus x inf sat) there
    obtain ⟨ts, same⟩ := storesResult_same b x c.team (tileStatus x inf sat) s
    generalize hr : storesResult b x c.team (tileStatus x inf sat) s = r at elems status same ⊢
    obtain ⟨q, hq, kept, cmds, locks, mem, banks, crews⟩ : ∃ q, (if sat then r.setSat ⟨c.team, c.crew⟩ 4 else r) = q ∧ q.teams = r.teams ∧
        q.cmds = s.cmds ∧ q.locks = s.locks ∧ q.mem = s.mem ∧ q.banks = s.banks ∧ q.crews =
          if sat then s.crews.map (fun y => if y.id = ⟨c.team, c.crew⟩ then { y with sat := y.sat ||| 4 } else y) else s.crews := by
      refine ⟨_, rfl, ?_⟩
      rw [same]
      cases sat
      · exact ⟨rfl, rfl, rfl, rfl, rfl, rfl⟩
      · refine ⟨rfl, rfl, rfl, rfl, rfl, ?_⟩
        rw [if_pos rfl, if_pos rfl]
        change updWhere _ _ s.crews = _
        rw [updWhere_eq_map]
        simp only [beq_iff_eq]
    rw [hq]
    have words : ∀ a n, spadWord (q.endCmd c) c.team a n = spadWord r c.team a n := fun a n => by
      rw [spadWord_congr ((endCmd_over q c).2 c.team), spadWord, spadWord, State.spadNat, State.team?, kept]
      rfl
    refine ⟨cmdOver_of_same (endCmd_over q c).1 cmds locks mem, (endCmd_banks q c).1.trans banks, fun i j hi hj => ?elems, ?inf, ?sat,
      (endCmd_banks q c).2.trans crews, (words _ _).trans status⟩
    case elems => exact (words _ _).trans (elems i j hi hj)
    case inf => rw [← hinf, Bool.and_eq_true, any_resultCells, bne_iff_ne]
    case sat => rw [← hsat, any_resultCells]; rfl
  case mmaz =>
    intro s id c on turn mine
    obtain ⟨zero, release⟩ := exec_mmazCompletion on turn
    exact ⟨fun kind => ⟨_, zero kind, cmdOver_of_same (endCmd_over _ c).1 rfl rfl rfl, (endCmd_banks _ c).1⟩,
      fun kind => ⟨_, release kind, cmdOver_of_same (endCmd_over _ c).1 rfl rfl rfl, (endCmd_banks _ c).1⟩⟩

end Sys2Proof.Proofs
end

section
/-!
PROOFS. Transform 4 of a copy: MXFP4 tiles to E4M3 (R223).
-/

namespace Sys2Proof.Proofs
open Sys2Proof Sys2Proof.Machine Sys2Proof.Laws Sys2Proof.Stmt

/-! ### Codes that do not saturate -/

/-- The values of E2M1 (R208). -/
theorem decodeE2m1_values : ∀ n, n < 8 → ∃ m e, decodeE2m1 n = .fin false m e ∧ decodeE2m1 (n + 8) = .fin true m e ∧ -4 ≤ e ∧
    m * 2 ^ (e + 4).toNat = [0, 1, 2, 3, 4, 6, 8, 12].getD n 0 * 2 ^ 3 := by
  intro n hn
  interval_cases n <;> exact ⟨_, _, rfl, rfl, by decide, by decide⟩

theorem decodeE2m1_small {n : Nat} (hn : n < 16) : ∃ s m e, decodeE2m1 n = .fin s m e ∧ m ≤ 3 ∧ e ≤ 1 := by
  interval_cases n <;> exact ⟨_, _, _, rfl, by decide, by decide⟩

/-- Between two neighbours every mode picks one of them (R207). -/
theorem exists_picks {f : Fmt} {m lo : Nat} {e : Int} (mode : RMode) (neg : Bool) (above : stepsIn f (magOf f lo) e ≤ valueIn f m e)
    (below : valueIn f m e < stepsIn f (magOf f (lo + 1)) e) : ∃ k, k ≤ lo + 1 ∧ Picks f mode neg m e lo k := by
  refine ⟨_, ?_, above, below, rfl⟩
  cases mode with
  | rz => exact lo.le_succ
  | rm | rp | rn =>
    dsimp only
    split_ifs <;> omega

/-- A number of at most 384 has an E4M3 code, and does not saturate (R213). -/
theorem satF8_small {m : Nat} {e : Int} (neg : Bool) (significand : m ≤ 3) (binade : e ≤ 7) :
    ∃ c, c < 256 ∧ satF8 false (.fin neg m e) = (c, false) := by
  obtain ⟨-, zero, grid, -⟩ := (satF8_fin neg m e).1 ▸ satFin_eq proper_e4m3 (top := 0x7E) (most := 448) (by decide) (by decide) (by decide) neg m e
  rcases Nat.eq_zero_or_pos m with none | pos
  · exact ⟨_, by split <;> decide, zero none⟩
  have below : valueIn .e4m3 m e < stepsIn .e4m3 (magOf .e4m3 0x7E) e := by
    have top : magOf .e4m3 0x7E = 448 * 2 ^ 9 := by decide
    have least : Fmt.e4m3.qmin = -9 := by decide
    unfold valueIn stepsIn
    rw [top, least]
    calc m * 2 ^ (e - min e (-9)).toNat ≤ 3 * 2 ^ 16 := Nat.mul_le_mul significand (Nat.pow_le_pow_right (by decide) (by omega))
      _ < 448 * 2 ^ 9 * 1 := by decide
      _ ≤ _ := Nat.mul_le_mul_left _ (Nat.one_le_two_pow)
  have low : stepsIn .e4m3 (magOf .e4m3 0) e ≤ valueIn .e4m3 m e := by
    rw [magOf_zero]
    exact (Nat.zero_mul _).le.trans (Nat.zero_le _)
  obtain ⟨lo, less, above, under⟩ := exists_between (g := fun k => stepsIn .e4m3 (magOf .e4m3 k) e) low below
  obtain ⟨k, near, picks⟩ := exists_picks .rn neg above under
  exact ⟨_, by split_ifs <;> omega, grid lo k pos (by omega) picks⟩

/-! ### Rows of a tile -/

/-- Rows of one length, one after another, are one run. -/
theorem flatMap_rows {α : Type} (f : Nat → Nat → α) {w : Nat} (some : 0 < w) (n : Nat) :
    (List.range n).flatMap (fun j => (List.range w).map (f j)) = (List.range (n * w)).map (fun i => f (i / w) (i % w)) := by
  induction n with
  | zero => simp
  | succ n ih =>
    rw [List.range_succ, List.flatMap_append, ih, Nat.succ_mul, List.range_add, List.map_append, List.map_map, List.flatMap_singleton]
    refine congrArg _ (List.map_congr_left fun i hi => ?_)
    have less := List.mem_range.1 hi
    rw [Function.comp_apply, Nat.add_comm (n * w), Nat.add_mul_div_right _ _ some, Nat.add_mul_mod_self_right, Nat.div_eq_of_lt less, Nat.mod_eq_of_lt less,
      Nat.zero_add]

theorem foldl_max_le_iff {l : List Nat} {a b : Nat} : l.foldl max a ≤ b ↔ a ≤ b ∧ ∀ x ∈ l, x ≤ b := by
  induction l generalizing a with
  | nil => simp
  | cons x xs ih => rw [List.foldl_cons, ih, Nat.max_le, List.forall_mem_cons, and_assoc]

/-- The greatest of some numbers. -/
theorem foldl_max_eq {l : List Nat} {top : Nat} (mem : top ∈ l) (most : ∀ x ∈ l, x ≤ top) : l.foldl max 0 = top :=
  le_antisymm (foldl_max_le_iff.2 ⟨Nat.zero_le _, most⟩) ((foldl_max_le_iff.1 le_rfl).2 top mem)

/-! ### The tile (R223) -/

/-- The block scales of a tile. -/
def tileScales (scales : List Byte) (cols : Nat) : List Nat := (scales.take (4 * cols)).map BitVec.toNat

/-- The block scales of a tile that are numbers. -/
def knownScales (scales : List Byte) (cols : Nat) : List Nat := (tileScales scales cols).filter (· != 255)

/-- The E4M3 code of an element of a tile, under its block's scale and the tile's. -/
def tileCode (packed scales : List Byte) (cols j k : Nat) : Nat :=
  let x := (tileScales scales cols).getD (4 * j + k / 32) 0
  if x = 255 then 0x7F
  else
    let b := (packed.getD (64 * j + k / 2) 0).toNat
    match decodeE2m1 (if k % 2 = 0 then b % 0x10 else b / 0x10) with
    | .fin s m e => (satF8 false (.fin s m (e + (x : Int) - ((knownScales scales cols).foldl max 0 : Nat) + 6))).1
    | _ => 0x7F

/-- The tile's scale. -/
def tileScale (scales : List Byte) (cols : Nat) : Word :=
  if (knownScales scales cols).isEmpty then 0x3F800000 else rneF32 (.fin false 1 (((knownScales scales cols).foldl max 0 : Nat) - 133))

theorem expandMx_eq (packed scales : List Byte) (cols : Nat) : expandMx packed scales cols =
    (List.range (cols * 128)).map (fun i => BitVec.ofNat 8 (tileCode packed scales cols (i / 128) (i % 128))) ++
      leBytes 4 (tileScale scales cols).toNat := by
  rw [← flatMap_rows (fun j k => BitVec.ofNat 8 (tileCode packed scales cols j k)) (by decide)]
  rfl

theorem expandMx_length (packed scales : List Byte) (cols : Nat) : (expandMx packed scales cols).length = 128 * cols + 4 := by
  rw [expandMx_eq, List.length_append, List.length_map, List.length_range, leBytes_length, Nat.mul_comm]

theorem expandMx_scale (packed scales : List Byte) (cols : Nat) :
    leNat (((expandMx packed scales cols).drop (128 * cols)).take 4) = (tileScale scales cols).toNat := by
  rw [expandMx_eq, List.drop_left' (by rw [List.length_map, List.length_range, Nat.mul_comm]), List.take_of_length_le (by rw [leBytes_length]), leNat_leBytes]
  exact Nat.mod_eq_of_lt (tileScale scales cols).isLt

theorem expandMx_code {packed scales : List Byte} {cols j k : Nat} (column : j < cols) (row : k < 128) :
    (expandMx packed scales cols).getD (128 * j + k) 0 = BitVec.ofNat 8 (tileCode packed scales cols j k) := by
  have place : 128 * j + k < cols * 128 := by omega
  rw [expandMx_eq, List.getD_append _ _ _ _ (by simpa using place), List.getD_eq_getElem _ _ (by simpa using place), List.getElem_map, List.getElem_range]
  rw [show (128 * j + k) / 128 = j by omega, show (128 * j + k) % 128 = k by omega]

theorem tileScales_getD {scales : List Byte} {cols n : Nat} (all : 4 * cols ≤ scales.length) (inside : n < 4 * cols) :
    (tileScales scales cols).getD n 0 = (scales.getD n 0).toNat := by
  unfold tileScales
  rw [List.getD_eq_getElem _ _ (by simp; omega), List.getD_eq_getElem _ _ (by omega), List.getElem_map, List.getElem_take]

theorem mem_knownScales {scales : List Byte} {cols x : Nat} (all : 4 * cols ≤ scales.length) :
    x ∈ knownScales scales cols ↔ x ≠ 255 ∧ ∃ n, n < 4 * cols ∧ (scales.getD n 0).toNat = x := by
  have len : (tileScales scales cols).length = 4 * cols := by simp [tileScales]; omega
  rw [knownScales, List.mem_filter, bne_iff_ne, and_comm, List.mem_iff_getElem]
  refine and_congr_right fun _ => ⟨fun ⟨n, hn, h⟩ => ⟨n, len ▸ hn, ?_⟩, fun ⟨n, hn, h⟩ => ⟨n, len.symm ▸ hn, ?_⟩⟩
  · rw [← tileScales_getD all (len ▸ hn), List.getD_eq_getElem _ _ hn, h]
  · rw [← List.getD_eq_getElem _ 0, tileScales_getD all hn, h]

theorem tileScale_unknown {scales : List Byte} {cols : Nat} (all : 4 * cols ≤ scales.length)
    (unknown : ∀ n, n < 4 * cols → (scales.getD n 0).toNat = 255) : (tileScale scales cols).toNat = 0x3F800000 := by
  have none : knownScales scales cols = [] := List.eq_nil_iff_forall_not_mem.2 fun x mem => by
    obtain ⟨known, n, hn, same⟩ := (mem_knownScales all).1 mem
    exact known (same ▸ unknown n hn)
  rw [tileScale, none]
  rfl

theorem foldl_knownScales {scales : List Byte} {cols top : Nat} (all : 4 * cols ≤ scales.length) (known : top < 255)
    (mem : ∃ n, n < 4 * cols ∧ (scales.getD n 0).toNat = top)
    (most : ∀ n, n < 4 * cols → (scales.getD n 0).toNat < 255 → (scales.getD n 0).toNat ≤ top) : (knownScales scales cols).foldl max 0 = top := by
  refine foldl_max_eq ((mem_knownScales all).2 ⟨known.ne, mem⟩) fun x hx => ?_
  obtain ⟨ne, n, hn, rfl⟩ := (mem_knownScales all).1 hx
  have := (scales.getD n 0).isLt
  exact most n hn (by omega)

theorem tileScale_known {scales : List Byte} {cols top : Nat} (all : 4 * cols ≤ scales.length) (known : top < 255)
    (mem : ∃ n, n < 4 * cols ∧ (scales.getD n 0).toNat = top)
    (most : ∀ n, n < 4 * cols → (scales.getD n 0).toNat < 255 → (scales.getD n 0).toNat ≤ top) :
    (tileScale scales cols).toNat = if 7 ≤ top then (top - 6) * 2 ^ 23 else 2 ^ (16 + top) := by
  have some : (knownScales scales cols).isEmpty = false := by
    rw [List.isEmpty_eq_false_iff]
    exact List.ne_nil_of_mem ((mem_knownScales all).2 ⟨known.ne, mem⟩)
  rw [tileScale, some, if_neg Bool.false_ne_true, foldl_knownScales all known mem most]
  obtain ⟨subnormal, normal, -⟩ := rneF32_two_pow ((top : Int) - 133)
  split_ifs with high
  · rw [normal (by omega) (by omega), show ((top : Int) - 133 + 127).toNat = top - 6 by omega, BitVec.toNat_ofNat]
    exact Nat.mod_eq_of_lt ((Nat.mul_le_mul_right _ (show top - 6 ≤ 248 by omega)).trans_lt (by decide))
  · rw [subnormal (by omega) (by omega), show ((top : Int) - 133 + 149).toNat = 16 + top by omega, BitVec.toNat_ofNat]
    exact Nat.mod_eq_of_lt (Nat.pow_lt_pow_right (by decide) (by omega))

theorem tileCode_spec {packed scales : List Byte} {cols top j k : Nat} (all : 4 * cols ≤ scales.length) (known : top < 255)
    (mem : ∃ n, n < 4 * cols ∧ (scales.getD n 0).toNat = top)
    (most : ∀ n, n < 4 * cols → (scales.getD n 0).toNat < 255 → (scales.getD n 0).toNat ≤ top) (column : j < cols) (row : k < 128) :
    let b := (packed.getD (64 * j + k / 2) 0).toNat
    let x := (scales.getD (4 * j + k / 32) 0).toNat
    (x = 255 → tileCode packed scales cols j k = 0x7F) ∧
    (x < 255 → ∀ sgn m e, decodeE2m1 (if k % 2 = 0 then b % 16 else b / 16) = .fin sgn m e → tileCode packed scales cols j k < 256 ∧
      satF8 false (.fin sgn m (e + x - top + 6)) = (tileCode packed scales cols j k, false)) := by
  intro b x
  have inside : 4 * j + k / 32 < 4 * cols := by omega
  unfold tileCode
  rw [tileScales_getD all inside, foldl_knownScales all known mem most]
  refine ⟨fun none => if_pos none, fun some sgn m e value => ?_⟩
  have byte : b < 256 := BitVec.isLt _
  obtain ⟨s', m', e', value', significand, binade⟩ := decodeE2m1_small (n := if k % 2 = 0 then b % 16 else b / 16) (by split_ifs <;> omega)
  rw [value] at value'
  cases value'
  have least := most _ inside some
  obtain ⟨c, hc, code⟩ := satF8_small (m := m) (e := e + x - top + 6) sgn significand (by omega)
  have ne : ¬(scales.getD (4 * j + k / 32) 0).toNat = 255 := some.ne
  simp only [if_neg ne]
  rw [value]
  simp only
  rw [code]
  exact ⟨hc, rfl⟩

theorem expandMx_spec : ∀ (packed scales : List Byte) (cols top : Nat), 4 * cols ≤ scales.length →
    let x := fun (n : Nat) => (scales.getD n 0).toNat
    let out := expandMx packed scales cols
    let scale := leNat ((out.drop (128 * cols)).take 4)
    out.length = 128 * cols + 4 ∧ ((∀ n, n < 4 * cols → x n = 255) → scale = 0x3F800000) ∧
    (top < 255 → (∃ n, n < 4 * cols ∧ x n = top) → (∀ n, n < 4 * cols → x n < 255 → x n ≤ top) →
      scale = (if 7 ≤ top then (top - 6) * 2 ^ 23 else 2 ^ (16 + top)) ∧
      ∀ j k, j < cols → k < 128 →
        let b := (packed.getD (64 * j + k / 2) 0).toNat
        let scaleOf := x (4 * j + k / 32)
        (scaleOf = 255 → (out.getD (128 * j + k) 0).toNat = 0x7F) ∧
        (scaleOf < 255 → ∀ sgn m e, decodeE2m1 (if k % 2 = 0 then b % 16 else b / 16) = .fin sgn m e →
          satF8 false (.fin sgn m (e + scaleOf - top + 6)) = ((out.getD (128 * j + k) 0).toNat, false))) := by
  intro packed scales cols top all x out scale
  have scale_eq : scale = (tileScale scales cols).toNat := expandMx_scale ..
  refine ⟨expandMx_length .., fun unknown => scale_eq.trans (tileScale_unknown all unknown), fun known mem most =>
    ⟨scale_eq.trans (tileScale_known all known mem most), fun j k column row => ?_⟩⟩
  obtain ⟨nan, number⟩ := tileCode_spec (packed := packed) all known mem most column row
  intro b scaleOf
  have code : out.getD (128 * j + k) 0 = _ := expandMx_code column row
  rw [code, BitVec.toNat_ofNat]
  refine ⟨fun none => by rw [nan none], fun some sgn m e value => ?_⟩
  obtain ⟨small, saturated⟩ := number some sgn m e value
  rw [Nat.mod_eq_of_lt small]
  exact saturated

end Sys2Proof.Proofs
end

section
/-!
PROOFS. Lines that a copy writes into a scratchpad: plain copies (R239, R241, R243), and what it reads of global memory (R126, R135, R142).
-/

namespace Sys2Proof.Proofs
open Sys2Proof Sys2Proof.Machine Sys2Proof.Laws Sys2Proof.Stmt

/-! ### Bytes that land in a line (R241) -/

/-- Where several elements write a byte of a line, it receives one of their values; every byte that is written receives one. -/
theorem pickBytes_spec (s : State) (l : List (Nat × Byte)) : ∃ os picked, pickBytes s l = ({ s with oracle := os }, picked) ∧
    (∀ p ∈ picked, p ∈ l ∧ p.1 < 128) ∧ ∀ p ∈ l, p.1 < 128 → ∃ q ∈ picked, q.1 = p.1 := by
  unfold pickBytes
  generalize 128 = n
  induction n with
  | zero => exact ⟨s.oracle, [], rfl, by simp, fun p _ h => absurd h (Nat.not_lt_zero _)⟩
  | succ n ih =>
    obtain ⟨os, picked, same, sound, complete⟩ := ih
    rw [List.range_succ, List.foldl_append, List.foldl_cons, List.foldl_nil, same]
    have here : ∀ v, v ∈ (l.filter (fun b => b.1 == n)).map Prod.snd ↔ (n, v) ∈ l := fun v => by
      simp only [List.mem_map, List.mem_filter, beq_iff_eq, Prod.exists, exists_eq_right]
    have extend : ∀ v os', (n, v) ∈ l → ∃ os picked', (({ s with oracle := os' } : State), picked ++ [(n, v)]) = ({ s with oracle := os }, picked') ∧
        (∀ p ∈ picked', p ∈ l ∧ p.1 < n + 1) ∧ ∀ p ∈ l, p.1 < n + 1 → ∃ q ∈ picked', q.1 = p.1 := fun v os' mem => by
      refine ⟨os', _, rfl, fun p hp => ?_, fun p hp less => ?_⟩
      · rcases List.mem_append.1 hp with old | new
        · exact ⟨(sound p old).1, (sound p old).2.trans n.lt_succ_self⟩
        · rw [List.mem_singleton.1 new]
          exact ⟨mem, n.lt_succ_self⟩
      · rcases Nat.lt_succ_iff_lt_or_eq.1 less with below | rfl
        · obtain ⟨q, hq, eq⟩ := complete p hp below
          exact ⟨q, List.mem_append_left _ hq, eq⟩
        · exact ⟨(p.1, v), List.mem_append_right _ (List.mem_singleton_self _), rfl⟩
    generalize (l.filter (fun b => b.1 == n)).map Prod.snd = vs at here
    match vs with
    | [] =>
      refine ⟨os, picked, rfl, fun p hp => ⟨(sound p hp).1, (sound p hp).2.trans n.lt_succ_self⟩, fun p hp less => ?_⟩
      rcases Nat.lt_succ_iff_lt_or_eq.1 less with below | rfl
      · exact complete p hp below
      · exact absurd ((here p.2).2 hp) List.not_mem_nil
    | [v] => exact extend v os ((here v).1 (List.mem_singleton_self v))
    | v :: w :: vs =>
      refine extend _ _ ((here _).1 ?_)
      rw [List.getD_eq_getElem _ _ (Nat.mod_lt _ (List.length_pos_of_ne_nil (List.cons_ne_nil _ _)))]
      exact List.getElem_mem _

/-- Bytes written one by one: a byte has the value of one of its writes, and stays where there is none. -/
theorem spadByte_foldl_spadWrite {team base : Nat} (l : List (Nat × Byte)) {s : State} (there : (s.team? team).isSome) (off : Nat) :
    (∃ x ∈ l, base + x.1 = off ∧ spadByte (l.foldl (fun s x => s.spadWrite team (base + x.1) [x.2]) s) team off = x.2) ∨
    ((∀ x ∈ l, base + x.1 ≠ off) ∧ spadByte (l.foldl (fun s x => s.spadWrite team (base + x.1) [x.2]) s) team off = spadByte s team off) := by
  induction l generalizing s with
  | nil => exact .inr ⟨by simp, rfl⟩
  | cons x l ih =>
    rw [List.foldl_cons]
    rcases ih (s := s.spadWrite team (base + x.1) [x.2]) (by rw [team_spadWrite_isSome]; exact there) with ⟨y, hy, place, value⟩ | ⟨apart, value⟩
    · exact .inl ⟨y, List.mem_cons_of_mem _ hy, place, value⟩
    · rw [value, spadByte_spadWrite]
      by_cases here : base + x.1 = off
      · refine .inl ⟨x, List.mem_cons_self, here, ?_⟩
        rw [if_pos ⟨rfl, here.le, by simp [here]⟩, if_pos there, here, Nat.sub_self]
        rfl
      · refine .inr ⟨List.forall_mem_cons.2 ⟨here, apart⟩, if_neg fun inside => ?_⟩
        have := inside.2
        simp only [List.length_singleton] at this
        omega

theorem spadByte_foldl_spadWrite_of_ne {team base n : Nat} (l : List (Nat × Byte)) (s : State) (other : n ≠ team) (off : Nat) :
    spadByte (l.foldl (fun s x => s.spadWrite team (base + x.1) [x.2]) s) n off = spadByte s n off := by
  induction l generalizing s with
  | nil => rfl
  | cons x l ih => rw [List.foldl_cons, ih, spadByte_spadWrite, if_neg fun h => other h.1]

/-- What a copy does in a destination line with the bytes of its `n` elements (R241, R243). -/
def lineLands (c : EngCmd) (target line n : Nat) (s : State) (bs : List (Nat × Byte)) : State × CopyStep :=
  if target = 0 then engLand c line (pickBytes s bs).2 ((pickBytes s bs).1.modCmd c.id (fun x => { x with progress := x.progress + n }))
  else ((pickBytes s bs).2.foldl (fun s x => s.spadWrite target (128 * line + x.1) [x.2])
    ((pickBytes s bs).1.modCmd c.id (fun x => { x with progress := x.progress + n })), .done)

/-- Bytes that land in a scratchpad line: each byte has the value of one element that writes it, and the others stay. -/
theorem lineLands_spec {c : EngCmd} {target line n : Nat} {s s1 : State} {bs : List (Nat × Byte)} (spad : target ≠ 0) (there : (s.team? target).isSome)
    (step : lineLands c target line n s bs = (s1, .done)) :
    (∀ off, (∃ x ∈ bs, x.1 < 128 ∧ 128 * line + x.1 = off ∧ spadByte s1 target off = x.2) ∨
      ((∀ x ∈ bs, x.1 < 128 → 128 * line + x.1 ≠ off) ∧ spadByte s1 target off = spadByte s target off)) ∧
    ∀ t off, t ≠ target → spadByte s1 t off = spadByte s t off := by
  obtain ⟨os, picked, same, sound, complete⟩ := pickBytes_spec s bs
  rw [lineLands, if_neg spad, same] at step
  obtain rfl := congrArg Prod.fst step
  refine ⟨fun off => ?_, fun t off other => spadByte_foldl_spadWrite_of_ne picked _ other off⟩
  rcases spadByte_foldl_spadWrite (team := target) (base := 128 * line) picked
    (s := State.modCmd { s with oracle := os } c.id (fun x => { x with progress := x.progress + n })) there off with
    ⟨x, hx, place, value⟩ | ⟨apart, value⟩
  · exact .inl ⟨x, (sound x hx).1, (sound x hx).2, place, value⟩
  · refine .inr ⟨fun x hx less => ?_, value⟩
    obtain ⟨q, hq, eq⟩ := complete x hx less
    exact eq ▸ apart q hq

/-- The bytes of elements in their line, in element order. -/
def lineEntries (val : Elem → List Byte) (es : List Elem) : List (Nat × Byte) :=
  es.flatMap (fun e => (val e).zipIdx.map (fun b => (e.dst.toNat % 128 + b.2, b.1)))

/-- A line whose elements are read without a change of state lands with their bytes. -/
theorem lineBytes_done {c : EngCmd} {line : Nat} {s s1 : State} {val : Elem → List Byte} {es : List Elem}
    {f : State → List (Nat × Byte) → State × CopyStep}
    (reads : ∀ e ∈ es, ∀ f, elemBytes c e s f = (s1, .done) → f s (val e) = (s1, .done)) {acc : List (Nat × Byte)}
    (step : lineBytes c line es acc f s = (s1, .done)) : f s (acc ++ lineEntries val es) = (s1, .done) := by
  induction es generalizing acc with
  | nil => simpa [lineEntries, lineBytes] using step
  | cons e es ih =>
    rw [lineBytes] at step
    split_ifs at step
    · cases step
    · have := ih (fun e he => reads e (List.mem_cons_of_mem _ he)) (reads e List.mem_cons_self _ step)
      rwa [List.append_assoc] at this

theorem mem_lineEntries {val : Elem → List Byte} {es : List Elem} {x : Nat × Byte} :
    x ∈ lineEntries val es ↔ ∃ e ∈ es, ∃ m, m < (val e).length ∧ x = (e.dst.toNat % 128 + m, (val e).getD m 0) := by
  unfold lineEntries
  simp only [List.mem_flatMap, List.mem_map]
  refine exists_congr fun e => and_congr_right fun _ => ⟨?_, ?_⟩
  · rintro ⟨b, hb, rfl⟩
    obtain ⟨m, hm, rfl⟩ := List.mem_iff_getElem.1 hb
    rw [List.length_zipIdx] at hm
    refine ⟨m, hm, ?_⟩
    rw [List.getElem_zipIdx, List.getD_eq_getElem _ _ hm]
    simp
  · rintro ⟨m, hm, rfl⟩
    refine ⟨((val e)[m], m), ?_, by rw [List.getD_eq_getElem _ _ hm]⟩
    rw [List.mem_iff_getElem]
    exact ⟨m, by rwa [List.length_zipIdx], by rw [List.getElem_zipIdx]; simp⟩

/-! ### Plain copies (R239, R241, R243) -/

theorem readBytes_eq_map (m : Memory) (a n : Nat) : m.readBytes a n = (List.range n).map (fun i => m.read (a + i)) := by
  induction n generalizing a with
  | zero => rfl
  | succ n ih =>
    rw [Memory.readBytes, ih, List.range_succ_eq_map, List.map_cons, List.map_map]
    refine congrArg _ (List.map_congr_left fun i _ => ?_)
    rw [Function.comp_apply, Nat.succ_eq_add_one, Nat.add_assoc, Nat.add_comm 1]

/-- Where an element of a plain copy goes. -/
def putAt (c : EngCmd) (i : List Nat) : Nat := ((c.dst : Int) + dotStride i c.dstr).toNat

/-- Where an element of a plain copy comes from. -/
def gotAt (c : EngCmd) (i : List Nat) : Nat := ((c.src : Int) + dotStride i c.sstr).toNat

/-- An element of a plain copy. -/
def plainElem (c : EngCmd) (i : List Nat) : Elem := ⟨(c.dst : Int) + dotStride i c.dstr, c.copy.size, .mem ((c.src : Int) + dotStride i c.sstr)⟩

theorem elems_plain {c : EngCmd} (plain : c.copy.xop = 0) : c.copy.elems c.operands = (indices c.copy.dims).map (plainElem c) := by
  simp only [CopyBlock.elems, plain]
  rfl

theorem copyLine_plain {c : EngCmd} (plain : c.copy.xop = 0) (target line : Nat) (s : State) : copyLine c target line s =
    lineBytes c line ((c.copy.elems c.operands).filter (fun e => e.dst.toNat / 128 == line)) []
      (lineLands c target line ((c.copy.elems c.operands).filter (fun e => e.dst.toNat / 128 == line)).length) s := by
  simp only [copyLine, plain]
  rfl

/-- The bytes of an element of a plain copy, given those of its source. -/
def plainBytes (byte : Nat → Byte) (e : Elem) : List Byte :=
  (List.range e.n).map (fun k => byte ((match e.src with | .mem a => a | _ => 0).toNat + k))

/-- A line of a plain copy whose source is read without a change of state. -/
theorem plainLine_spec {c : EngCmd} {target line : Nat} {s s1 : State} {byte : Nat → Byte} (plain : c.copy.xop = 0) (spad : target ≠ 0)
    (there : (s.team? target).isSome) (step : copyLine c target line s = (s1, .done))
    (reads : ∀ i ∈ indices c.copy.dims, ∀ f, elemBytes c (plainElem c i) s f = (s1, .done) → f s (plainBytes byte (plainElem c i)) = (s1, .done)) :
    (∀ off, (∃ j ∈ indices c.copy.dims, ∃ m, m < c.copy.size ∧ putAt c j + m = off ∧ spadByte s1 target off = byte (gotAt c j + m)) ∨
      ((∀ j ∈ indices c.copy.dims, ∀ m, m < c.copy.size → putAt c j / 128 = line → putAt c j % 128 + m < 128 → putAt c j + m ≠ off) ∧
        spadByte s1 target off = spadByte s target off)) ∧
    ∀ t off, t ≠ target → spadByte s1 t off = spadByte s t off := by
  rw [copyLine_plain plain, elems_plain plain] at step
  have inLine : ∀ e, e ∈ ((indices c.copy.dims).map (plainElem c)).filter (fun e => e.dst.toNat / 128 == line) ↔
      ∃ i ∈ indices c.copy.dims, putAt c i / 128 = line ∧ e = plainElem c i := fun e => by
    simp only [List.mem_filter, List.mem_map, beq_iff_eq]
    constructor
    · rintro ⟨⟨i, hi, rfl⟩, here⟩
      exact ⟨i, hi, here, rfl⟩
    · rintro ⟨i, hi, here, rfl⟩
      exact ⟨⟨i, hi, rfl⟩, here⟩
  have lands := lineBytes_done (val := plainBytes byte) (fun e he => by
    obtain ⟨i, hi, -, rfl⟩ := (inLine e).1 he
    exact reads i hi) step
  rw [List.nil_append] at lands
  obtain ⟨bytes, others⟩ := lineLands_spec spad there lands
  refine ⟨fun off => ?_, others⟩
  rcases bytes off with ⟨x, hx, less, place, value⟩ | ⟨apart, value⟩
  · obtain ⟨e, he, m, hm, rfl⟩ := mem_lineEntries.1 hx
    obtain ⟨j, hj, here, rfl⟩ := (inLine e).1 he
    have hm' : m < c.copy.size := by simpa [plainBytes, plainElem] using hm
    refine .inl ⟨j, hj, m, hm', ?_, ?_⟩
    · have : (plainElem c j).dst.toNat = putAt c j := rfl
      simp only at place
      omega
    · rw [value, List.getD_eq_getElem _ _ hm]
      simp [plainBytes, plainElem, gotAt]
  · refine .inr ⟨fun j hj m hm here less same => ?_, value⟩
    refine apart _ (mem_lineEntries.2 ⟨plainElem c j, (inLine _).2 ⟨j, hj, here, rfl⟩, m, by simpa [plainBytes, plainElem] using hm, rfl⟩) less ?_
    have : (plainElem c j).dst.toNat = putAt c j := rfl
    simp only
    omega

/-- A read of the issuing team's scratchpad that a step needs gives its bytes. -/
theorem withRead_spad {c : EngCmd} {s s1 : State} {src : Team} {a : Int} {n : Nat} {f : State → List Byte → State × CopyStep}
    (team : s.team? c.team = some src) (step : withRead s c 1 a n f = (s1, .done)) :
    f s ((List.range n).map (fun k => spadByte s c.team (a.toNat + k))) = (s1, .done) := by
  have bytes : src.spad.readBytes a.toNat n = (List.range n).map (fun k => spadByte s c.team (a.toNat + k)) := by
    rw [readBytes_eq_map]
    unfold spadByte
    rw [team]
    rfl
  unfold withRead State.engRead at step
  by_cases low : a < 0
  · rw [if_pos low] at step
    cases step
  · rw [if_neg low, if_pos rfl, State.engSpad, team] at step
    simp only at step
    by_cases far : a.toNat + n > src.spadSize
    · rw [if_pos far] at step
      cases step
    · rw [if_neg far] at step
      split_ifs at step with absent
      · cases step
      · rw [bytes] at step
        exact step

/-- What a command has read of global memory. -/
def hadByte (s : State) (id a : Nat) : Option Byte := (assocD (((s.cmd? id).map EngCmd.sectors).getD []) (a / 32) []).getD (a % 32) none

/-- Bytes of a sector that the command has read already. -/
theorem engSector_had {s : State} {cmd : EngCmd} {va n : Nat} {also : Nat → Bool} (inside : va % 32 + n ≤ 32)
    (had : ∀ i < n, (hadByte s cmd.id (va + i)).isSome) :
    s.engSector cmd va n (fun _ => true) also = (s, .ok ((List.range n).map (fun i => (hadByte s cmd.id (va + i)).getD 0))) := by
  have same : ∀ i < n, (assocD (((s.cmd? cmd.id).map EngCmd.sectors).getD []) (va / 32) []).getD (va % 32 + i) none = hadByte s cmd.id (va + i) :=
    fun i hi => by rw [hadByte, show (va + i) / 32 = va / 32 by omega, show (va + i) % 32 = va % 32 + i by omega]
  unfold State.engSector
  rw [if_pos]
  · refine congrArg (fun l => (s, EngRead.ok l)) (List.map_congr_left fun i hi => ?_)
    simp only [if_true, same i (List.mem_range.1 hi)]
  · rw [List.all_eq_true]
    intro i hi
    exact (congrArg Option.isSome (same i (List.mem_range.1 hi))).trans (had i (List.mem_range.1 hi))

/-- Global bytes that the command has read already. -/
theorem engGlobal_had {cmd : EngCmd} {also : Nat → Bool} {s : State} (fuel va n : Nat) (enough : n ≤ fuel)
    (had : ∀ i < n, (hadByte s cmd.id (va + i)).isSome) :
    State.engGlobal cmd (fun _ => true) also fuel va n s = (s, .ok ((List.range n).map (fun i => (hadByte s cmd.id (va + i)).getD 0))) := by
  induction fuel generalizing va n with
  | zero =>
    obtain rfl := Nat.le_zero.1 enough
    rfl
  | succ fuel ih =>
    rw [State.engGlobal]
    by_cases none : n = 0
    · rw [if_pos none, none]
      rfl
    · rw [if_neg none]
      obtain ⟨k, hk⟩ : ∃ k, min n (32 - va % 32) = k := ⟨_, rfl⟩
      have first := engSector_had (also := also) (n := k) (by omega) fun i hi => had i (by omega)
      have rest := ih (va + k) (n - k) (by omega) fun i hi => by rw [Nat.add_assoc]; exact had (k + i) (by omega)
      simp only [hk, first, rest]
      obtain ⟨d, rfl⟩ : ∃ d, n = k + d := ⟨n - k, by omega⟩
      rw [Nat.add_sub_cancel_left, List.range_add, List.map_append, List.map_map]
      simp only [Function.comp_def, Nat.add_assoc]

/-- A read of global bytes that the command has read already. -/
theorem withRead_had {c : EngCmd} {s s1 : State} {a : Int} {n : Nat} {f : State → List Byte → State × CopyStep}
    (had : ∀ i < n, (hadByte s c.id (a.toNat + i)).isSome) (step : withRead s c 0 a n f = (s1, .done)) :
    f s ((List.range n).map (fun k => (hadByte s c.id (a.toNat + k)).getD 0)) = (s1, .done) := by
  unfold withRead State.engRead at step
  by_cases low : a < 0
  · rw [if_pos low] at step
    cases step
  · rw [if_neg low, if_neg (by decide)] at step
    by_cases far : a.toNat + n > 2 ^ 52
    · rw [if_pos far] at step
      cases step
    · rw [if_neg far, engGlobal_had (n + 1) a.toNat n n.le_succ had] at step
      exact step

/-- An element of a plain copy is read where it stands. -/
theorem elemBytes_plain {c : EngCmd} {i : List Nat} {s s1 : State} {f : State → List Byte → State × CopyStep}
    (step : elemBytes c (plainElem c i) s f = (s1, .done)) :
    withRead s c c.copy.srck ((c.src : Int) + dotStride i c.sstr) c.copy.size f = (s1, .done) := by
  unfold elemBytes plainElem at step
  simp only at step
  split_ifs at step
  · cases step
  · exact step

theorem spadCopies (s s1 : State) (c : EngCmd) (target line : Nat) (tm src : Team) (plain : c.copy.xop = 0) (kind : c.copy.srck = 1) (spad : target ≠ 0)
    (there : s.team? target = some tm) (team : s.team? c.team = some src) (step : copyLine c target line s = (s1, .done)) :
    (∀ i ∈ indices c.copy.dims, ∀ k, k < c.copy.size → putAt c i / 128 = line → putAt c i % 128 + k < 128 →
      ∃ j ∈ indices c.copy.dims, ∃ m, m < c.copy.size ∧ putAt c j + m = putAt c i + k ∧
        spadByte s1 target (putAt c i + k) = spadByte s c.team (gotAt c j + m)) ∧
    (∀ off, (∀ i ∈ indices c.copy.dims, ∀ k, k < c.copy.size → putAt c i + k ≠ off) → spadByte s1 target off = spadByte s target off) ∧
    (∀ t off, t ≠ target → spadByte s1 t off = spadByte s t off) := by
  obtain ⟨bytes, others⟩ := plainLine_spec (byte := spadByte s c.team) plain spad (by rw [there]; rfl) step fun i _ f read =>
    withRead_spad team (kind ▸ elemBytes_plain read)
  refine ⟨fun i hi k hk here less => ?_, fun off apart => ?_, others⟩
  · rcases bytes (putAt c i + k) with ⟨j, hj, m, hm, place, value⟩ | ⟨apart, -⟩
    · exact ⟨j, hj, m, hm, place, value⟩
    · exact absurd rfl (apart i hi k hk here less)
  · rcases bytes off with ⟨j, hj, m, hm, place, -⟩ | ⟨-, value⟩
    · exact absurd place (apart j hj m hm)
    · exact value

theorem globalCopies (s s1 : State) (c : EngCmd) (target line : Nat) (tm : Team) (plain : c.copy.xop = 0) (kind : c.copy.srck = 0) (spad : target ≠ 0)
    (there : s.team? target = some tm) (step : copyLine c target line s = (s1, .done))
    (had : ∀ i ∈ indices c.copy.dims, ∀ k, k < c.copy.size → (hadByte s c.id (gotAt c i + k)).isSome = true) :
    ∀ i ∈ indices c.copy.dims, ∀ k, k < c.copy.size → putAt c i / 128 = line → putAt c i % 128 + k < 128 →
      ∃ j ∈ indices c.copy.dims, ∃ m, m < c.copy.size ∧ putAt c j + m = putAt c i + k ∧
        some (spadByte s1 target (putAt c i + k)) = hadByte s c.id (gotAt c j + m) := by
  obtain ⟨bytes, -⟩ := plainLine_spec (byte := fun a => (hadByte s c.id a).getD 0) plain spad (by rw [there]; rfl) step fun i hi f read =>
    withRead_had (had i hi) (kind ▸ elemBytes_plain read)
  intro i hi k hk here less
  rcases bytes (putAt c i + k) with ⟨j, hj, m, hm, place, value⟩ | ⟨apart, -⟩
  · refine ⟨j, hj, m, hm, place, ?_⟩
    obtain ⟨v, hv⟩ := Option.isSome_iff_exists.1 (had j hj m hm)
    rw [value, hv]
    rfl
  · exact absurd rfl (apart i hi k hk here less)

/-- A sector that a command has not read wholly is read whole, as it stands (R126, R135, R142). -/
theorem engSector_reads (s s1 : State) (c c1 : EngCmd) (va n : Nat) (tr : Translation) (loc : Loc) (also : Nat → Bool)
    (reach : s.reach (s.coreOf c.team) (s.ctxId c.team) va false .engRead (.cmd c.id) = (s1, .ok tr loc)) (there : s1.cmd? c.id = some c1)
    (prompt : s1.delayed loc = false) (inside : va % 32 + n ≤ 32) (unread : ∃ i, i < n ∧ hadByte s c.id (va + i) = none)
    (valid : ∀ i, i < 32 → (s1.devByte? (loc.sector.add i)).isSome = true) :
    ∃ s2, s.engSector c va n (fun _ => true) also =
        (s2, .ok ((List.range n).map (fun i => (s1.devByte? (loc.sector.add (va % 32 + i))).getD 0))) ∧
      (∀ i, i < 32 → hadByte s2 c.id (va / 32 * 32 + i) = s1.devByte? (loc.sector.add i)) ∧ s2.mem = s1.mem := by
  have sector : ∀ i, i < 32 → ((List.range 32).map (fun i => s1.devByte? (loc.sector.add i))).getD i none = s1.devByte? (loc.sector.add i) :=
    fun i hi => by rw [List.getD_eq_getElem _ _ (by simpa using hi)]; simp
  refine ⟨s1.modCmd c.id (fun x => { x with sectors := assocSet x.sectors (va / 32) ((List.range 32).map (fun i => s1.devByte? (loc.sector.add i))) }),
    ?_, fun i hi => ?_, rfl⟩
  · have more : ¬(List.range n).all (fun i => !true || ((assocD (((s.cmd? c.id).map EngCmd.sectors).getD []) (va / 32) []).getD (va % 32 + i) none).isSome)
        = true := fun all => by
      obtain ⟨i, hi, none⟩ := unread
      have some := List.all_eq_true.1 all i (List.mem_range.2 hi)
      rw [hadByte, show (va + i) / 32 = va / 32 by omega, show (va + i) % 32 = va % 32 + i by omega] at none
      rw [none] at some
      cases some
    unfold State.engSector
    rw [if_neg more, reach]
    simp only [prompt, Bool.false_eq_true, if_false, if_true]
    split
    · next i missing =>
      have inside := List.mem_range.1 (List.mem_of_find?_eq_some missing)
      have absent := List.find?_some missing
      rw [sector i inside] at absent
      obtain ⟨v, hv⟩ := Option.isSome_iff_exists.1 (valid i inside)
      rw [hv] at absent
      cases absent
    · refine congrArg (fun l => (_, EngRead.ok l)) (List.map_congr_left fun i hi => ?_)
      have := List.mem_range.1 hi
      rw [sector _ (by omega)]
  · unfold hadByte
    rw [cmd_modCmd_self _ _ _ (by exact fun _ h => h), there]
    simp only [Option.map_some, Option.getD_some]
    rw [show (va / 32 * 32 + i) / 32 = va / 32 by omega, show (va / 32 * 32 + i) % 32 = i by omega, assocD_assocSet_self, sector i hi]

theorem plainCopies : Sys2Proof.Stmt.PlainCopies :=
  ⟨spadCopies, globalCopies, engSector_reads⟩

end Sys2Proof.Proofs
end

section
/-!
PROOFS. The lines of an MXFP4 expansion, and the copy and matrix engines as a whole (R223, R241).
-/

namespace Sys2Proof.Proofs
open Sys2Proof Sys2Proof.Machine Sys2Proof.Laws Sys2Proof.Stmt

/-! ### The lines of a tile (R223, R241) -/

/-- A line of a tile lands after the tile has been computed. -/
theorem copyLine_tile {c : EngCmd} {target line : Nat} {s s1 : State} (tile : c.copy.xop = 4) (fresh : c.out = none)
    (step : copyLine c target line s = (s1, .done)) : ∃ s2 n, computeOut c s = (s2, .done) ∧
      lineBytes c line ((c.copy.elems c.operands).filter (fun e => e.dst.toNat / 128 == line)) [] (lineLands c target line n) s2 = (s1, .done) := by
  have first : (decide (4 ≤ c.copy.xop) && decide (c.copy.xop ≤ 6) && c.out.isNone) = true := by rw [tile, fresh]; rfl
  unfold copyLine at step
  simp only [if_pos first] at step
  generalize computeOut c s = p at step ⊢
  obtain ⟨s2, r⟩ := p
  simp only at step
  by_cases ended : r ≠ .done
  · rw [if_pos ended] at step
    exact absurd (congrArg Prod.snd step) ended
  · rw [if_neg ended] at step
    rw [not_not.1 ended]
    exact ⟨s2, _, rfl, step⟩

/-- The bytes of the source and of the scales of a tile in the scratchpad. -/
theorem computeOut_tile {c : EngCmd} {s s2 : State} {src : Team} (tile : c.copy.xop = 4) (kind : c.copy.srck = 1) (team : s.team? c.team = some src)
    (step : computeOut c s = (s2, .done)) : s2 = s.modCmd c.id (fun x => { x with out := some (expandMx
        ((List.range (64 * c.copy.extAt 1)).map (fun i => spadByte s c.team (c.src + i)))
        ((List.range (4 * c.copy.extAt 1)).map (fun i => spadByte s c.team (c.copy.xarg + i))) (c.copy.extAt 1)) }) := by
  unfold computeOut at step
  simp only [tile, kind] at step
  split_ifs at step
  · cases step
  · have scales := withRead_spad team step
    have done := withRead_spad team scales
    exact (congrArg Prod.fst done).symm

/-- The elements of a tile in the line of one of its columns: the column alone. -/
theorem mem_elems_column {c : EngCmd} {j : Nat} {e : Elem} (tile : c.copy.xop = 4) (aligned : c.dst % 128 = 0) (column : j < c.copy.extAt 1) :
    e ∈ (c.copy.elems c.operands).filter (fun e => e.dst.toNat / 128 == c.dst / 128 + j) ↔ e = ⟨(c.dst + 128 * j : Nat), 128, .out (128 * j)⟩ := by
  have elems : c.copy.elems c.operands = (List.range (c.copy.extAt 1)).map (fun j => (⟨(c.dst + 128 * j : Nat), 128, .out (128 * j)⟩ : Elem)) ++
      [⟨(c.dst + 128 * c.copy.extAt 1 : Nat), 4, .out (128 * c.copy.extAt 1)⟩] := by
    simp only [CopyBlock.elems, tile]
    rfl
  rw [elems, List.mem_filter, List.mem_append, List.mem_map, List.mem_singleton, beq_iff_eq]
  constructor
  · rintro ⟨⟨j', hj', rfl⟩ | rfl, here⟩
    · rw [Int.toNat_natCast] at here
      obtain rfl : j' = j := by omega
      rfl
    · rw [Int.toNat_natCast] at here
      omega
  · rintro rfl
    exact ⟨.inl ⟨j, List.mem_range.2 column, rfl⟩, by rw [Int.toNat_natCast]; omega⟩

theorem tileCopies (s s1 : State) (c : EngCmd) (target j : Nat) (tm src : Team) (tile : c.copy.xop = 4) (kind : c.copy.srck = 1) (fresh : c.out = none)
    (running : s.cmd? c.id = some c) (spad : target ≠ 0) (there : s.team? target = some tm) (team : s.team? c.team = some src) (aligned : c.dst % 128 = 0)
    (column : j < c.copy.extAt 1) (step : copyLine c target (c.dst / 128 + j) s = (s1, .done)) : ∀ k, k < 128 →
    spadByte s1 target (c.dst + 128 * j + k) =
      (expandMx ((List.range (64 * c.copy.extAt 1)).map (fun i => spadByte s c.team (c.src + i)))
        ((List.range (4 * c.copy.extAt 1)).map (fun i => spadByte s c.team (c.copy.xarg + i))) (c.copy.extAt 1)).getD (128 * j + k) 0 := by
  intro k row
  obtain ⟨s2, n, computed, lands⟩ := copyLine_tile tile fresh step
  have after := computeOut_tile tile kind team computed
  generalize hout : expandMx _ _ _ = out at after ⊢
  have len : out.length = 128 * c.copy.extAt 1 + 4 := by rw [← hout, expandMx_length]
  have held : (s2.cmd? c.id).bind EngCmd.out = some out := by
    rw [after, cmd_modCmd_self _ _ _ (by exact fun _ h => h), running]
    rfl
  have lands' := lineBytes_done (val := fun e => (out.drop (128 * j)).take e.n) (fun e he f read => by
    rw [(mem_elems_column tile aligned column).1 he] at read ⊢
    unfold elemBytes at read
    simp only [held] at read
    exact read) lands
  obtain ⟨bytes, -⟩ := lineLands_spec spad (by rw [after]; exact (congrArg Option.isSome there).trans rfl) lands'
  have value : ∀ m < 128, ((out.drop (128 * j)).take 128).getD m 0 = out.getD (128 * j + m) 0 := fun m hm => by
    rw [List.getD_eq_getElem _ _ (by simp; omega), List.getElem_take, List.getElem_drop, List.getD_eq_getElem]
  rcases bytes (c.dst + 128 * j + k) with ⟨x, hx, less, place, same⟩ | ⟨apart, -⟩
  · obtain ⟨e, he, m, hm, rfl⟩ := mem_lineEntries.1 hx
    rw [(mem_elems_column tile aligned column).1 he] at less place same
    simp only [Int.toNat_natCast] at less place same
    rw [same, value m (by omega)]
    congr 1
    omega
  · refine absurd ?_ (apart _ (mem_lineEntries.2 ⟨_, (mem_elems_column tile aligned column).2 rfl, k, by simp; omega, rfl⟩) ?_)
    · simp only [Int.toNat_natCast]
      omega
    · simp only [Int.toNat_natCast]
      omega

theorem mxfpCopies : Sys2Proof.Stmt.MxfpCopies := ⟨decodeE2m1_values, expandMx_spec, tileCopies⟩

/-- Settles O55: the events by the end that every command shares, copies by the bytes of the elements that lie in a line, and the sums of `MMA` group by
group. -/
theorem engineCommands : Obligations.EngineCommands := ⟨queueHeads, copies, plainCopies, mxfpCopies, matrixCommands, matrixSums⟩

end Sys2Proof.Proofs
end
